-- ==== Sys2Proof/Word.lean ====
section
/-! DEFINITION. The plain words of the machine, the fields of the five instruction formats (R36 to R41) and
the small list operations the state is built on. -/

namespace Sys2Proof

abbrev Byte := BitVec 8
abbrev W16 := BitVec 16
abbrev W32 := BitVec 32
abbrev W64 := BitVec 64

/-- Element types, coded as in R40. `px` is code 0xF: the type comes from the pending prefix. -/
inductive Ty where
  | i8 | i16 | i32 | i64 | u8 | u16 | u32 | u64
  | f16 | bf16 | f32 | e4m3 | e5m2 | e2m1 | e8m0 | px
  deriving DecidableEq, Repr

/-- Validity policies (R37). -/
inductive Vp where
  | propagate | ignore | allValid
  deriving DecidableEq, Repr

/-- Rounding-mode field (R37); `fm` is code 0b000, use FM. -/
inductive Rm where
  | fm | rne | rtz | rdn | rup | rna | sr
  deriving DecidableEq, Repr

/-- An operand field, by its mode (R41). The constructor `reg` keeps the ten bits DS, on which mode 0b111 puts
no constraint and which it does not read. -/
inductive Operand where
  | mem (n : BitVec 3) (ds : BitVec 10)
  | inc (n : BitVec 3) (ds : BitVec 10)
  | off (n : BitVec 3) (ds : BitVec 10)
  | incReg (n m : BitVec 3)
  | acc
  | queue (n : BitVec 3)
  | imm (v : BitVec 13)
  | reg (n : BitVec 3) (ds : BitVec 10)
  deriving DecidableEq, Repr

/-- The all-zero operand field: an unused field, or an absent operand where a definition allows one (R37, R218). -/
abbrev Operand.zero : Operand := .mem 0 0

/-- Fields of the M3 format (R36). -/
structure M3 where
  sp : Bool
  ty : Ty
  ln : BitVec 4
  vp : Vp
  rm : Rm
  fn : BitVec 10
  od : Operand
  oa : Operand
  ob : Operand
  oc : Operand
  deriving DecidableEq, Repr

/-- Fields of the MI format (R36). -/
structure MI where
  sp : Bool
  ty : Ty
  ln : BitVec 4
  vp : Vp
  rm : Rm
  fn : BitVec 10
  od : Operand
  oa : Operand
  imm : BitVec 32
  deriving DecidableEq, Repr

/-- Fields of the BR format (R36). SP is no field of it: a control transfer with SP = 1 is illegal (R49). -/
structure BR where
  cnd : BitVec 6
  sig : BitVec 16
  co : Operand
  ax : Operand
  off : BitVec 32
  deriving DecidableEq, Repr

/-- Fields of the EN format (R36). -/
structure EN where
  sp : Bool
  ty : Ty
  fn : BitVec 10
  cb : Operand
  cp : Operand
  opt : BitVec 16
  sel : BitVec 16
  deriving DecidableEq, Repr

/-- Fields of the SY format (R36). -/
structure SY where
  sp : Bool
  ty : Ty
  ln : BitVec 4
  vp : Vp
  rm : Rm
  fn : BitVec 10
  srn : BitVec 12
  oa : Operand
  ob : Operand
  oc : Operand
  deriving DecidableEq, Repr

/-! ### Association lists in rising key order -/

namespace KV
variable {α : Type}

/-- The value stored at `k`, if any. -/
def find : List (Nat × α) → Nat → Option α
  | [], _ => none
  | (j, v) :: t, k => if j = k then some v else find t k

/-- The value at `k`, or `d` where none is stored. -/
def get (d : α) (l : List (Nat × α)) (k : Nat) : α := (find l k).getD d

/-- `l` with `v` stored at `k`, keeping rising key order. -/
def put (k : Nat) (v : α) : List (Nat × α) → List (Nat × α)
  | [] => [(k, v)]
  | (j, w) :: t => if k < j then (k, v) :: (j, w) :: t else if k = j then (k, v) :: t else (j, w) :: put k v t

/-- `l` without the entry at `k`. -/
def del (k : Nat) : List (Nat × α) → List (Nat × α)
  | [] => []
  | (j, w) :: t => if k = j then t else (j, w) :: del k t

/-- `put`, but a value equal to the default `d` is not listed. -/
def putD [DecidableEq α] (d : α) (k : Nat) (v : α) (l : List (Nat × α)) : List (Nat × α) :=
  if v = d then del k l else put k v l

/-- The keys listed. -/
def keys (l : List (Nat × α)) : List Nat := l.map fun x => x.1

/-- Keys strictly rise. -/
def sorted : List (Nat × α) → Bool
  | [] => true
  | [_] => true
  | (j, _) :: (k, w) :: t => decide (j < k) && sorted ((k, w) :: t)

end KV

/-- `n` repeated applications of `f`. -/
def iter {α : Type} (f : α → α) : Nat → α → α
  | 0, x => x
  | n + 1, x => iter f n (f x)

/-- Replace the element at index `i` of a list. -/
def listSet {α : Type} : List α → Nat → α → List α
  | [], _, _ => []
  | _ :: t, 0, v => v :: t
  | h :: t, i + 1, v => h :: listSet t i v

/-- Remove the element at index `i` of a list. -/
def listDel {α : Type} : List α → Nat → List α
  | [], _ => []
  | _ :: t, 0 => t
  | h :: t, i + 1 => h :: listDel t i

/-! ### Packets -/

/-- Fields HX of a packet bound for another module (R242, R260, R508). -/
structure RemoteHx where
  dmod : W16
  rdch : BitVec 10
  rdep : BitVec 7
  addr : W64
  deriving DecidableEq, Repr

/-- A 32-bit word and its validity bit: a scratchpad word, a queue or payload lane (R181, R245). -/
structure Lane where
  w : W32
  v : Bool
  deriving DecidableEq, Repr

/-- What a copy engine's packet means inside the engine and the home it is for: the command's number, the stream position of
its first byte, and the bytes to store with the numbers of their places. R242 leaves these HX bytes internal (log 55). -/
structure EngPart where
  cmd : Nat
  pos : Nat
  put : List (Nat × Byte)
  deriving DecidableEq, Repr

/-- A packet of a data mesh: the header fields of R242 that are not computed from the rest, and the payload
words with their validity. `stored` holds the compressed payload when `cmp` is set; `cont` marks the continuation
of MIGR, for which R242 names no bit (DEDUCED, log 18); `srid` and `score` are the region and the core that sent a
message, which its sender keeps for R255, and `eng` what an engine's packet means; no header carries them. -/
structure Packet where
  dch : Nat
  sch : Nat
  dep : Nat
  sep : Nat
  cls : Nat
  cmp : Bool
  aged : Bool
  rly : Bool
  ms : Bool
  eom : Bool
  seq : W16
  plen : Nat
  rv : Bool
  rch : Nat
  ms2 : Bool
  asid : W16
  key : BitVec 48
  tgt : W64
  words : List Lane
  stored : List Byte
  stamp : Nat
  nk : Nat
  hx : Option RemoteHx
  cont : Bool
  srid : W16
  score : Nat
  eng : Option EngPart
  deriving DecidableEq, Repr

/-- One part of a GL packet (R262); `eng` as in `Packet`. -/
structure GlPart where
  plen : Nat
  key : BitVec 48
  tgt : W64
  addr : W64
  words : List Lane
  eng : Option EngPart
  deriving DecidableEq, Repr

/-- A GL packet (R261); its payload is that of its parts, one after another. `stored` holds the compressed
payload when `cmp` is set; `srid` and `score` as in `Packet`, on no wire. -/
structure GlPacket where
  lseq : W32
  kind : Nat
  cmp : Bool
  ord : Bool
  eom : Bool
  smod : W16
  dmod : W16
  sch : Nat
  dch : Nat
  sep : Nat
  dep : Nat
  cls : Nat
  fseq : W32
  asid : W16
  parts : List GlPart
  stored : List Byte
  srid : W16
  score : Nat
  deriving DecidableEq, Repr

end Sys2Proof
end

