-- ==== Sys2Proof/Config.lean ====
section
/-! DEFINITION. What is fixed for the module: its geometry (R10 to R15), the values the spec leaves free and
the algorithms of outside standards the spec names without defining them. -/

namespace Sys2Proof.Config

/-- Sites per side of the wafer (R10). -/
def gridSide : Nat := 24

/-- Column of a global chiplet number (R12). -/
def siteX (n : Nat) : Nat := n % 24

/-- Row of a global chiplet number (R12). -/
def siteY (n : Nat) : Nat := n / 24

/-- Global chiplet number of site (x, y) (R12). -/
def siteNo (x y : Nat) : Nat := 24 * y + x

/-- A compute chiplet (R11). -/
def isCompute (n : Nat) : Bool :=
  decide (n < 576) && decide (2 ≤ siteX n) && decide (siteX n ≤ 21) && decide (2 ≤ siteY n) && decide (siteY n ≤ 21)

/-- An edge chiplet (R11). -/
def isEdge (n : Nat) : Bool :=
  decide (n < 576) &&
    (((siteX n == 0 || siteX n == 23) && decide (10 ≤ siteY n) && decide (siteY n ≤ 13)) ||
     ((siteY n == 0 || siteY n == 23) && decide (10 ≤ siteX n) && decide (siteX n ≤ 13)))

/-- A memory chiplet: every other site (R11). -/
def isMemory (n : Nat) : Bool := decide (n < 576) && !isCompute n && !isEdge n

/-- Global chiplet number of the compute chiplet with ascending index `c` (R387). -/
def computeOfIndex (c : Nat) : Nat := siteNo (2 + c % 20) (2 + c / 20)

/-- Global chiplet number of the memory chiplet with ascending index `m` (R387). -/
def memoryOfIndex (m : Nat) : Nat := ((List.range 576).filter isMemory).getD m 0

/-- Chiplet of host port `p` (R13). -/
def hostPortChip (p : Nat) : Nat := if p < 4 then siteNo (10 + p) 0 else siteNo (10 + (p - 4)) 23

/-- Chiplet of GL link `l` (R13). -/
def glChip (l : Nat) : Nat := if l < 4 then siteNo 0 (10 + l) else siteNo 23 (10 + (l - 4))

/-- The edge chiplet with the boot ROM, the key store and the telemetry port (R13). -/
def bootChip : Nat := siteNo 11 0

/-- The usual root of the Carillon tree (R23). -/
def carillonRoot : Nat := siteNo 11 11

/-- Chiplet of a global core number (R15). -/
def chipOf (g : Nat) : Nat := g / 64

/-- Core number within its chiplet (R15). -/
def coreOf (g : Nat) : Nat := g % 64

/-- Cluster of a global core number (R15). -/
def clusterOf (g : Nat) : Nat := g % 64 / 16

/-- A global core number that some core bears (R15). -/
def isCore (g : Nat) : Bool := isCompute (chipOf g)

/-- Bytes of a DRAM stack: 12 GiB (R18, R387). -/
def dramBytes : Nat := 12 * 1024 * 1024 * 1024

/-- UNVERIFIED: a free value, unconstrained, drawn with a fresh index each time (log 7). -/
opaque freeValue : Nat → BitVec 64

/-- UNVERIFIED: the scale and the special value, bits 7:0 and 15:8, of an E2M1 block whose element code comes from a P
register of this value; R45 supplies the code to every element, and the spec states no scale for it (log 12). -/
opaque pnScale : BitVec 64 → BitVec 16

/-- ML-DSA-65 verification of FIPS 204: public key, message, signature (R415; log 8). -/
opaque mldsaVerify : List Byte → List Byte → List Byte → Bool

/-- ML-DSA-65 signature by the identity key derived from ξ: seed ξ, message (R419; log 8). -/
opaque mldsaSign : List Byte → List Byte → List Byte

/-- ML-DSA-65 deterministic key generation: the public key of seed ξ (R418; log 8). -/
opaque mldsaPublic : List Byte → List Byte

/-- The 16 KiB of the key store as the module was manufactured (R417; log 8). -/
opaque keyStore : List Byte

/-- The SRAM PUF's response, corrected with the helper data in the key store; none where it holds none (R418; log 8). -/
opaque pufResponse : List Byte → Option (List Byte)

/-- Digest of the firmware signing key held in the boot ROM (R415; log 8). -/
opaque romKeyDigest : List Byte

/-- The identity public key in the certificate that the key store holds (R417; log 8). -/
opaque certifiedKey : List Byte → List Byte

end Sys2Proof.Config
end

