-- ==== Sys2Proof/Syntax.lean ====
section
/-! DEFINITION. The instructions: one constructor per row of the table of operations. Rows a core issues carry
the fields of their format; rows that are steps of other agents carry the unit they act on and what the
outside world or firmware policy supplies to that step. `g` is a global core number (R15), `n` a global
chiplet number (R12), `m` a cluster, 4n + c (R147), `l` a GL link, `i` an index into the list the row names. -/

namespace Sys2Proof

/-- A matrix-engine bind that firmware gives with a team (R125, R126, R344): cluster, bind id, tiles, slots with
STRICT. -/
structure MxGrant where
  cluster : Nat
  bind : Nat
  tmsk : BitVec 4
  slots : List (Nat × Bool)
  deriving DecidableEq, Repr

/-- An acknowledgement as it comes from the far end of a GL link (R263, R458): the LSEQ accepted, and whether the copy parts up to
it have been performed. -/
structure GlHeard where
  lseq : W32
  written : Bool
  deriving DecidableEq, Repr

/-- What the end of a GL training tells: the lanes that have trained and, after a lane failure, what the far end has accepted
(R457, R458). -/
structure GlTraining where
  lanes : W16
  heard : GlHeard
  deriving DecidableEq, Repr

/-- What is measured for a budget period (R366): the module's draw, the part of it that no unit is granted, and the demand of each
unit with its power class. -/
structure Measured where
  draw : Nat
  fixed : Nat
  demand : List (Nat × Nat × Nat)
  deriving DecidableEq, Repr

inductive Instr where
  /-- NOP (R52). -/
  | nop
  /-- ADD (R92). -/
  | add (f : M3)
  /-- SUB (R92). -/
  | sub (f : M3)
  /-- MUL (R92). -/
  | mul (f : M3)
  /-- MULH (R92). -/
  | mulh (f : M3)
  /-- DIV (R93). -/
  | div (f : M3)
  /-- REM (R93). -/
  | rem (f : M3)
  /-- MAC (R92). -/
  | mac (f : M3)
  /-- DOT4 (R96). -/
  | dot4 (f : M3)
  /-- ADDS (R92). -/
  | adds (f : M3)
  /-- SUBS (R92). -/
  | subs (f : M3)
  /-- NEG (R92). -/
  | neg (f : M3)
  /-- ABS (R92). -/
  | absI (f : M3)
  /-- MIN (R92). -/
  | minI (f : M3)
  /-- MAX (R92). -/
  | maxI (f : M3)
  /-- AND (R92). -/
  | andI (f : M3)
  /-- OR (R92). -/
  | orI (f : M3)
  /-- XOR (R92). -/
  | xorI (f : M3)
  /-- NOT (R92). -/
  | notI (f : M3)
  /-- SHL (R94). -/
  | shl (f : M3)
  /-- SHR (R94). -/
  | shr (f : M3)
  /-- SRA (R94). -/
  | sra (f : M3)
  /-- ROT (R94). -/
  | rot (f : M3)
  /-- CLZ (R92). -/
  | clz (f : M3)
  /-- POPC (R92). -/
  | popc (f : M3)
  /-- MOV (R92). -/
  | mov (f : M3)
  /-- CMPEQ (R95). -/
  | cmpeq (f : M3)
  /-- CMPNE (R95). -/
  | cmpne (f : M3)
  /-- CMPLT (R95). -/
  | cmplt (f : M3)
  /-- CMPLE (R95). -/
  | cmple (f : M3)
  /-- SEL (R95). -/
  | sel (f : M3)
  /-- TAGS (R98). -/
  | tags (f : M3)
  /-- LDI (R97). -/
  | ldi (f : MI)
  /-- ADD_IMM (R97). -/
  | addImm (f : MI)
  /-- SUB_IMM (R97). -/
  | subImm (f : MI)
  /-- MUL_IMM (R97). -/
  | mulImm (f : MI)
  /-- AND_IMM (R97). -/
  | andImm (f : MI)
  /-- OR_IMM (R97). -/
  | orImm (f : MI)
  /-- XOR_IMM (R97). -/
  | xorImm (f : MI)
  /-- MIN_IMM (R97). -/
  | minImm (f : MI)
  /-- MAX_IMM (R97). -/
  | maxImm (f : MI)
  /-- CMPEQ_IMM (R97). -/
  | cmpeqImm (f : MI)
  /-- CMPNE_IMM (R97). -/
  | cmpneImm (f : MI)
  /-- CMPLT_IMM (R97). -/
  | cmpltImm (f : MI)
  /-- CMPLE_IMM (R97). -/
  | cmpleImm (f : MI)
  /-- PSET (R100). -/
  | pset (f : MI)
  /-- PSET_HI (R100). -/
  | psetHi (f : MI)
  /-- PADD (R101). -/
  | padd (f : M3)
  /-- PADD_IMM (R101). -/
  | paddImm (f : MI)
  /-- PMOD (R102). -/
  | pmod (f : M3)
  /-- FADD (R103). -/
  | fadd (f : M3)
  /-- FSUB (R103). -/
  | fsub (f : M3)
  /-- FMUL (R103). -/
  | fmul (f : M3)
  /-- FMA (R103). -/
  | fma (f : M3)
  /-- FNMA (R103). -/
  | fnma (f : M3)
  /-- FDIV (R103). -/
  | fdiv (f : M3)
  /-- FSQRT (R103). -/
  | fsqrt (f : M3)
  /-- FRCP (R108). -/
  | frcp (f : M3)
  /-- FRSQ (R108). -/
  | frsq (f : M3)
  /-- FMIN (R104). -/
  | fmin (f : M3)
  /-- FMAX (R104). -/
  | fmax (f : M3)
  /-- FABS (R103). -/
  | fabs (f : M3)
  /-- FNEG (R103). -/
  | fneg (f : M3)
  /-- FCMP (R105). -/
  | fcmp (f : M3)
  /-- FCLASS (R106). -/
  | fclass (f : M3)
  /-- FRNDI (R107). -/
  | frndi (f : M3)
  /-- FEXP2F (R109). -/
  | fexp2f (f : M3)
  /-- FLOG2F (R110). -/
  | flog2f (f : M3)
  /-- FSCALE (R107). -/
  | fscale (f : M3)
  /-- FGETEXP (R107). -/
  | fgetexp (f : M3)
  /-- FCVT (R111). -/
  | fcvt (f : M3)
  /-- FSUM (R112). -/
  | fsum (f : M3)
  /-- FDOT (R112). -/
  | fdot (f : M3)
  /-- FADD_IMM (R113). -/
  | faddImm (f : MI)
  /-- FMUL_IMM (R113). -/
  | fmulImm (f : MI)
  /-- FSUB_IMM (R113). -/
  | fsubImm (f : MI)
  /-- VCMP (R114). -/
  | vcmp (f : M3)
  /-- VSET (R115). -/
  | vset (f : M3)
  /-- VCLR (R115). -/
  | vclr (f : M3)
  /-- VCNT (R116). -/
  | vcnt (f : M3)
  /-- SHUF (R117). -/
  | shuf (f : M3)
  /-- BCAST (R117). -/
  | bcast (f : M3)
  /-- PACK (R118). -/
  | pack (f : M3)
  /-- UNPK (R118). -/
  | unpk (f : M3)
  /-- LGATH (R119). -/
  | lgath (f : M3)
  /-- LSCAT (R119). -/
  | lscat (f : M3)
  /-- FMTX (R120). -/
  | fmtx (f : M3)
  /-- LD (R222). -/
  | ld (f : M3)
  /-- ST (R223). -/
  | st (f : M3)
  /-- LDEF (R222). -/
  | ldef (f : M3)
  /-- PF (R224). -/
  | pf (f : M3)
  /-- PIN (R225). -/
  | pin (f : M3)
  /-- UNPIN (R226). -/
  | unpin (f : M3)
  /-- PHASE (R227). -/
  | phase (f : M3)
  /-- FENCE (R229). -/
  | fence (f : M3)
  /-- AMO (R230). -/
  | amo (f : M3)
  /-- LLOG (R231). -/
  | llog (f : M3)
  /-- BARR_INIT (R237). -/
  | barrInit (f : M3)
  /-- BARR_WAIT (R237). -/
  | barrWait (f : M3)
  /-- BARR_EXIT (R237). -/
  | barrExit (f : M3)
  /-- CTRSET (R234). -/
  | ctrset (f : M3)
  /-- CTRDEC (R234). -/
  | ctrdec (f : M3)
  /-- CTRWAIT (R234). -/
  | ctrwait (f : M3)
  /-- L1CLN (R239). -/
  | l1cln (f : M3)
  /-- L1INV (R239). -/
  | l1inv (f : M3)
  /-- L1INV_ALL (R239). -/
  | l1invAll (f : M3)
  /-- SEND (R324). -/
  | send (f : M3)
  /-- SENDR (R324). -/
  | sendr (f : M3)
  /-- MIGR (R326). -/
  | migr (f : BR)
  /-- HEND (R325). -/
  | hend (f : BR)
  /-- QCNT (R328). -/
  | qcnt (f : M3)
  /-- HTSET (R330). -/
  | htset (f : M3)
  /-- WAITQ (R329). -/
  | waitq (f : M3)
  /-- ECOPY (R267). -/
  | ecopy (f : EN)
  /-- MMA (R136). -/
  | mma (f : EN)
  /-- MMAZ (R136). -/
  | mmaz (f : EN)
  /-- ALOAD (R137). -/
  | aload (f : EN)
  /-- ASTORE (R139). -/
  | astore (f : EN)
  /-- ACLR (R138). -/
  | aclr (f : EN)
  /-- MXWAIT (R141). -/
  | mxwait (f : M3)
  /-- ECOLL (R289). -/
  | ecoll (f : EN)
  /-- CLGRP (R287). -/
  | clgrp (f : M3)
  /-- CLFREE (R288). -/
  | clfree (f : M3)
  /-- PUBL (R284). -/
  | publ (f : EN)
  /-- WSTART (R166). -/
  | wstart (f : EN)
  /-- WSTOP (R168). -/
  | wstop (f : M3)
  /-- WRESUME (R169). -/
  | wresume (f : EN)
  /-- WSTAT (R170). -/
  | wstat (f : M3)
  /-- B (R331). -/
  | br (f : BR)
  /-- BZ (R331). -/
  | bz (f : BR)
  /-- BNZ (R331). -/
  | bnz (f : BR)
  /-- BV (R331). -/
  | bv (f : BR)
  /-- BNV (R331). -/
  | bnv (f : BR)
  /-- BQE (R331). -/
  | bqe (f : BR)
  /-- BQNE (R331). -/
  | bqne (f : BR)
  /-- LOOP (R332). -/
  | loop (f : BR)
  /-- CALL (R332). -/
  | call (f : BR)
  /-- CALLI (R332). -/
  | calli (f : BR)
  /-- RET (R332). -/
  | ret (f : BR)
  /-- GANG (R340). -/
  | gang (f : M3)
  /-- UNGANG (R340). -/
  | ungang (f : M3)
  /-- REJOIN (R342). -/
  | rejoin (f : M3)
  /-- YIELD (R337). -/
  | yield (f : M3)
  /-- SRD (R399). -/
  | srd (f : SY)
  /-- SWR (R400). -/
  | swr (f : SY)
  /-- TRAP (R402). -/
  | trap (f : M3)
  /-- ERET (R403). -/
  | eret (f : M3)
  /-- TLBINV_PAGE (R396). -/
  | tlbinvPage (f : M3)
  /-- TLBINV_RANGE (R396). -/
  | tlbinvRange (f : M3)
  /-- TLBINV_ASID (R396). -/
  | tlbinvAsid (f : M3)
  /-- XLAT (R404). -/
  | xlat (f : M3)
  /-- SCRUB_PAGE (R439). -/
  | scrubPage (f : M3)
  /-- SCRUB_LINE (R439). -/
  | scrubLine (f : M3)
  /-- PWRB_CAP (R406). -/
  | pwrbCap (f : M3)
  /-- PWRB_GATE (R406). -/
  | pwrbGate (f : M3)
  /-- BRK (R446). -/
  | brk (f : M3)
  /-- SIGCHK (R442). -/
  | sigchk (sp : Bool) (s : BitVec 16)
  /-- LINE_FETCH (R31). -/
  | lineFetch (g : Nat)
  /-- LINE_REFETCH (R31). -/
  | lineRefetch (g : Nat)
  /-- WRITE_SPCFG (R178). -/
  | writeSpcfg (f : SY)
  /-- WRITE_SPPWR (R183). -/
  | writeSppwr (f : SY)
  /-- BANK_OFF_EFFECTIVE (R183). -/
  | bankOffEffective (g bank : Nat)
  /-- BANK_WAKE (R183). -/
  | bankWake (g bank : Nat)
  /-- WRITE_SRSEED (R71). -/
  | writeSrseed (f : SY)
  /-- WRITE_MXRP_HLT (R143). -/
  | writeMxrpHlt (f : SY)
  /-- REGISTER (R347). -/
  | registerRcb (g rid : Nat)
  /-- UPDATE (R347). -/
  | updateRcb (g : Nat)
  /-- UNREGISTER (R347). -/
  | unregisterRcb (g : Nat)
  /-- TEAM (R347). -/
  | teamCall (g : Nat) (grant : W64) (binds : List MxGrant)
  /-- RELEASE (R347). -/
  | releaseCall (g : Nat)
  /-- WSTOP_CALL (R347). -/
  | wstopCall (g : Nat)
  /-- CTXRD (R347). -/
  | ctxrd (g : Nat)
  /-- GLCNT (R347). -/
  | glcnt (g : Nat)
  /-- MIGRATE (R361). -/
  | migrateCall (g dest : Nat) (cores : List Nat)
  /-- IMGGO (R415). -/
  | imggo (port : Nat) (sites : List Nat) (readOk : Bool) (askSvn : W32)
  /-- ASNEW (R410). -/
  | asnew (port asid : Nat)
  /-- ASKILL (R410). -/
  | askill (port : Nat)
  /-- GRANT (R410). -/
  | grantCmd (port : Nat)
  /-- REVOKE (R410). -/
  | revokeCmd (port : Nat)
  /-- ROOTREG (R410). -/
  | rootreg (port rid : Nat)
  /-- WINBIND (R410). -/
  | winbind (port : Nat)
  /-- APBIND (R410). -/
  | apbind (port : Nat)
  /-- ATTEST (R419). -/
  | attestCmd (port : Nat)
  /-- ALMPOL (R423). -/
  | almpolCmd (port : Nat)
  /-- DEBUG (R410). -/
  | debugCmd (port : Nat)
  /-- RESUME (R410). -/
  | resumeBrk (port : Nat)
  /-- CAUSE (R410). -/
  | causeOf (port : Nat)
  /-- MANAGEMENT_PAGE_WRITE (R409). -/
  | managementPageWrite (port off : Nat) (bytes : List Byte)
  /-- RING (R412). -/
  | ringWrite (w : Nat)
  /-- APERTURE_READ (R413). -/
  | apertureRead (ap off len : Nat)
  /-- APERTURE_WRITE (R413). -/
  | apertureWrite (ap off : Nat) (bytes : List Byte)
  /-- HOST_INVALIDATION_REQUEST (R414). -/
  | hostInvalidationRequest (port pasid lo hi : Nat)
  /-- POWER_GOOD (R449). -/
  | powerGood
  /-- CLOCK_LOCK (R449). -/
  | clockLock (n : Nat) (holds : Option (List Nat))
  /-- SELFTEST_DONE (R447). -/
  | selftestDone (n result : Nat)
  /-- LINKS_TRAINED (R451). -/
  | linksTrained (n : Nat) (untrained : List Nat)
  /-- STATE_LIMIT_EXPIRY (R447). -/
  | stateLimitExpiry (n : Nat)
  /-- PEAL_PASS2 (R452). -/
  | pealPass2
  /-- CONFIG_TRANSFER (R452). -/
  | configTransfer (n : Nat) (got : Option (List Byte))
  /-- SITE_FAILURE_IN_SERVICE (R456). -/
  | siteFailureInService (n : Nat) (isolated : Bool)
  /-- SENSOR_TRIP (R420). -/
  | sensorTrip (sensor : Nat)
  /-- ALARM_EVENT (R423). -/
  | alarmEvent
  /-- ERASE_COMPLETE (R423). -/
  | eraseComplete
  /-- TELEMETRY_FRAME (R375). -/
  | telemetryFrame (bytes : List Byte)
  /-- TELEMETRY_STALE (R375). -/
  | telemetryStale
  /-- STALE_FALLBACK (R375). -/
  | staleFallback
  /-- RESTORE_HOLD_EXPIRY (R378). -/
  | restoreHoldExpiry (cls : Nat)
  /-- SHED_NOTICE (R380). -/
  | shedNotice (n : Nat)
  /-- SHED_DEADLINE (R381). -/
  | shedDeadline (g : Nat)
  /-- BUDGET_PERIOD (R366). -/
  | budgetPeriod (seen : Measured) (clocks : List (Nat × Nat × Nat)) (rates : List (Nat × Nat)) (hot : List (Nat × BitVec 6))
  /-- CLOCK_HOP (R364). -/
  | clockHop (g : Nat)
  /-- DROOP_START (R365). -/
  | droopStart (n : Nat)
  /-- DROOP_CLEAR (R365). -/
  | droopClear (n : Nat)
  /-- CHARGE_BUCKET_REFILL (R369). -/
  | chargeBucketRefill (m : Nat)
  /-- RAMP_WINDOW (R146). -/
  | rampWindow (m : Nat)
  /-- HOLD_EXPIRY (R372). -/
  | holdExpiry (g : Nat)
  /-- WAKE_REQUEST (R372). -/
  | wakeRequest (g : Nat)
  /-- INRUSH_WINDOW (R372). -/
  | inrushWindow (m : Nat)
  /-- WAKE_COMPLETE (R372). -/
  | wakeComplete (g : Nat)
  /-- LAUNCH_SKEW_EXPIRY (R371). -/
  | launchSkewExpiry (n cl : Nat)
  /-- LAUNCH_TAKE (R311). -/
  | launchTake (rid : Nat)
  /-- LAUNCH_DEAL (R353). -/
  | launchDeal (n i : Nat)
  /-- QUIESCENCE_SWEEP (R314). -/
  | quiescenceSweep
  /-- QUEUE_AGEING (R349). -/
  | queueAgeing (g rec : Nat)
  /-- DISPATCH (R296). -/
  | dispatch (g : Nat)
  /-- ACTIVATION_STOP (R351). -/
  | activationStop (g : Nat) (ask : Bool)
  /-- CONTEXT_RESTORE (R359). -/
  | contextRestore (g rec : Nat)
  /-- KILL (R437). -/
  | kill (n asid : Nat)
  /-- ASYNC_FAULT (R429). -/
  | asyncFault (g : Nat)
  /-- LOAD_RETURN (R222). -/
  | loadReturn (g i : Nat)
  /-- IMMEDIATE_PERFORM (R213). -/
  | immediatePerform (g i : Nat)
  /-- CLGRP_RESULT (R287). -/
  | clgrpResult (g : Nat)
  /-- WSTAT_REPLY (R170). -/
  | wstatReply (g : Nat)
  /-- PAGE_WALK (R394). -/
  | pageWalk (n asid : Nat) (va : W64)
  /-- TLBINV_BROADCAST (R396). -/
  | tlbinvBroadcast (n : Nat)
  /-- BOUNDARY_START (R199). -/
  | boundaryStart (g : Nat)
  /-- PHASE_BARRIER_COMPLETE (R198). -/
  | phaseBarrierComplete (phg : Nat)
  /-- PACKET_SEND (R254). -/
  | packetSend (n i : Nat)
  /-- HEADER_ARRIVAL (R249). -/
  | headerArrival (i : Nat)
  /-- PACKET_ACCEPT (R247). -/
  | packetAccept (i : Nat) (hcrcOk pcrcOk : Bool)
  /-- GAP_NOTICE (R247). -/
  | gapNotice (n : Nat)
  /-- SIDE_FLIT_ARRIVAL (R248). -/
  | sideFlitArrival (i : Nat)
  /-- ACK (R250). -/
  | ackArrive (n : Nat)
  /-- NACK (R250). -/
  | nackArrive (n : Nat)
  /-- RESEND_DELAY_EXPIRY (R250). -/
  | resendDelayExpiry (n i : Nat)
  /-- ACK_TIMEOUT (R250). -/
  | ackTimeout (n i : Nat)
  /-- RETENTION_COPY_ERROR (R444). -/
  | retentionCopyError (n i : Nat)
  /-- GL_PACKET_CLOSE (R262). -/
  | glPacketClose (l i : Nat)
  /-- GL_PACKET_RECEIVE (R262). -/
  | glPacketReceive (l : Nat) (p : GlPacket) (crcOk : Bool)
  /-- REMOTE_COPY_DONE (R509). -/
  | remoteCopyDone (l i : Nat)
  /-- GL_ACK (R263). -/
  | glAck (l : Nat) (heard : GlHeard)
  /-- GL_NACK (R263). -/
  | glNack (l : Nat) (lseq : W32)
  /-- EXTERNAL_FRAME (R264). -/
  | externalFrame (l : Nat) (stream asid : W16) (fseq : W32) (cmp : Bool) (payload : List Byte)
  /-- LANE_FAILURE (R458). -/
  | laneFailure (l : Nat) (near far : W16) (cut : Bool)
  /-- LINK_TRAIN_RETRY (R457). -/
  | linkTrainRetry (l : Nat)
  /-- LINK_LOST (R459). -/
  | linkLost (l : Nat)
  /-- MXE_COMMAND_START (R136). -/
  | mxeCommandStart (m : Nat)
  /-- MXE_CHUNK_APPLY (R122). -/
  | mxeChunkApply (m : Nat)
  /-- MXE_COMPLETE (R134). -/
  | mxeComplete (m : Nat)
  /-- MXE_HALT (R143). -/
  | mxeHalt (m : Nat)
  /-- MXE_SLOT_BOUNDARY (R127). -/
  | mxeSlotBoundary (m : Nat)
  /-- STREAM_START (R167). -/
  | streamStart (m : Nat)
  /-- STREAM_STEP (R159). -/
  | streamStep (m : Nat)
  /-- STREAM_WAIT_POLL (R158). -/
  | streamWaitPoll (m : Nat)
  /-- WSS_CHUNK_DECODE (R164). -/
  | wssChunkDecode (m : Nat)
  /-- STREAM_HALT (R173). -/
  | streamHalt (m : Nat)
  /-- COPY_START (R266). -/
  | copyStart (n inbox : Nat)
  /-- COPY_CHUNK_DECODE (R276). -/
  | copyChunkDecode (n i : Nat)
  /-- COPY_COMPLETE (R277). -/
  | copyComplete (n i : Nat)
  /-- COPY_FAULT (R278). -/
  | copyFault (n i : Nat)
  /-- COLLECTIVE_COMBINE (R286). -/
  | collectiveCombine (id : Nat) (n : Nat)
  /-- COLLECTIVE_COMPLETE (R290). -/
  | collectiveComplete (n i : Nat)
  /-- GROUP_DRAINED (R288). -/
  | groupDrained (id : Nat)
  /-- RESET (R447). -/
  | resetAll
  /-- WAITQ_TIMEOUT (R329). -/
  | waitqTimeout (g : Nat)
  /-- GL_LINK_TRAINED (R457). -/
  | glLinkTrained (l : Nat) (ended : GlTraining)
  /-- HOST_PORT_LANE_FAULT (R407). -/
  | hostPortLaneFault (port width : Nat)
  deriving DecidableEq, Repr

end Sys2Proof
end

