-- ==== Sys2Proof/Machine/State.lean ====
section
/-! DEFINITION. The state of the module: every register and store the spec names, the work its agents have in
hand, and the schedule that says which agent moves next. All plain data. Sparse parts are lists in rising key
order; what an unlisted key reads as is said at each. -/

namespace Sys2Proof.Machine

/-- Why a step stops the model. No instruction of ordinary data does. -/
inductive Fault where
  /-- Raised by a row whose argument, or by a core instruction whose core, names no unit of the module (R10 to R15).
  No such step exists on the hardware. Safe. -/
  | noUnit
  deriving DecidableEq, Repr

/-- Why a step has no meaning. -/
inductive Refusal where
  /-- Raised by an arm of exec whose instruction has no meaning yet. Safe. -/
  | notModelled (mnemonic : String)
  deriving DecidableEq, Repr

/-- The fault codes of R425. -/
inductive FCode where
  | iill | pfxuse | cfv | sigm | bankoff | align | priv | txnp | txperm | wxperm | quar | logfull | qovf
  | hempty | broken | eccu | decode | cksum | linkdown | shed | wsblk | spawn | relay | alarm
  deriving DecidableEq, Repr

/-- A rounding mode in force (R63). -/
inductive RMode where
  | rne | rtz | rdn | rup | rna | sr
  deriving DecidableEq, Repr

/-- One lane of the accumulator: data, validity and width tag (R87). -/
structure ALane where
  w : W32
  v : Bool
  tag : BitVec 2
  deriving DecidableEq, Repr

/-- A queue entry of 16 lanes (R316). -/
abbrev QEntry := Vector Lane 16

/-- Where a byte of global memory lies: physical memory, or memory of the host behind a port (R387, R414). -/
inductive Loc where
  | pa (a : Nat)
  | host (port pasid iova : Nat)
  deriving DecidableEq, Repr

/-- The body of a phase-log entry (R202): a combined run of plain stores with its byte mask and values, or a
combined run of merge-log operations on the element `elem` bytes into the doubleword, in program order. -/
inductive LogBody where
  | store (mask : BitVec 8) (val : W64)
  | merge (fn : Nat) (ty : Ty) (elem : Nat) (ops : List W64)
  deriving DecidableEq, Repr

/-- A phase-log entry (R202, R203); `addr` is the doubleword's physical address. -/
structure LogEntry where
  addr : Nat
  body : LogBody
  lcn : W16
  key : BitVec 48
  asid : W16
  phg : W16
  committed : Bool
  inL1 : Bool
  /-- MODEL: program-order stamp on its core, equal within one instruction -/
  pos : Nat
  /-- the region of its activation: keys and logical core numbers of two regions may agree (R203, R208) -/
  rid : W16
  deriving DecidableEq, Repr

/-- Where a result goes once its address has been formed. -/
inductive Dest where
  | none
  | acc
  | reg (n : BitVec 3)
  | queue (n : BitVec 3)
  | spad (off : Nat)
  deriving DecidableEq, Repr

/-- Where a lane of a load in flight comes from: taken at issue, or read at its home when the load is performed. -/
inductive LaneSrc where
  | taken (x : Lane)
  | home (l : Loc)
  deriving DecidableEq, Repr

/-- A global access in flight (R213, R219). -/
inductive PendKind where
  | load (src : List LaneSrc) (dest : Dest) (ty : Ty) (ln : BitVec 4)
  | store (bytes : List (Loc × Byte))
  | amo (fn : BitVec 10) (ty : Ty) (place : List Loc) (b c : W64) (dest : Dest)
  deriving DecidableEq, Repr

/-- A global access in flight, with the homes that perform it (none: no IMMEDIATE access), the slot of its
instruction and its address. -/
structure Pend where
  kind : PendKind
  homes : List Nat
  pc : W64
  va : W64
  asid : W16
  deriving DecidableEq, Repr

/-- A message held by an activation until HEND (R324). -/
structure OutMsg where
  tgt : W64
  plen : Nat
  words : List Lane
  cont : Bool
  deriving DecidableEq, Repr

/-- One journal block: its offset in 64-byte units and its sixteen old words (R300). -/
structure JBlock where
  blk : Nat
  words : List Lane
  deriving DecidableEq, Repr

/-- The running activation (R296 to R302, R350). -/
structure Act where
  rid : W16
  brec : Nat
  key : BitVec 48
  lcn : W16
  trig : Packet
  tries : Nat
  irrev : Bool
  report : Bool
  nmsk : BitVec 14
  lr : Nat
  gang : Bool
  detached : Bool
  leader : Bool
  /-- PHASE has been executed and its boundary has not completed (R199) -/
  phased : Bool
  /-- the gang member has ended its own part (R309, R341) -/
  ended : Bool
  /-- bound named regions: byte offset and size (R293, R300) -/
  named : List (Nat × Nat)
  deriving DecidableEq, Repr

/-- The target of a completion (R132). -/
inductive Cp where
  | none
  | counter (off : Nat)
  | queue (n : BitVec 3)
  | handler (tgt : W64)
  deriving DecidableEq, Repr

/-- How the slot at PC is entered (R50, R51). -/
inductive Entered where
  /-- by a checked transfer from the given slot -/
  | checked (src : W64)
  /-- from a BR-format instruction that fell through -/
  | afterBr
  /-- by sequential flow from another instruction -/
  | seq
  /-- by ERET or the restore of an image -/
  | resumed
  deriving DecidableEq, Repr

/-- What a stalled instruction is waiting for, or the answer it has been given (R240, R336). -/
inductive Wait where
  | none
  /-- stalled; issues again -/
  | again
  /-- PHASE issued and arrived, boundary open (R228) -/
  | phase
  /-- the acquire of PHASE is done -/
  | acquired
  /-- BARR has arrived at the object of this address and place, with generation g (R237) -/
  | barrier (va : W64) (place : List Loc) (g : W32)
  /-- BARR has arrived at a barrier that a kill broke: it raises BROKEN (R238) -/
  | broken (va : W64)
  /-- TLBINV broadcast with this number is out (R396) -/
  | tlbinv (id : Nat)
  /-- CLGRP asked for this id and member mask; the answer is a lane (R287) -/
  | clgrp (id : Nat) (mask : List Nat) (ans : Option Lane)
  /-- WSTAT asked of this stream id; the answer is eight words (R170) -/
  | wstat (id : W64) (ans : Option (List W32))
  /-- WAITQ with the router time at which its timeout elapses, if it has one; elapsed or not (R329) -/
  | waitq (till : Option Nat) (out : Bool)
  /-- REJOIN at this slot (R342) -/
  | rejoin (x : W64)
  /-- SPCFG or SPPWR write accepted, not yet complete (R178, R183) -/
  | sp (v : BitVec 6)
  deriving DecidableEq, Repr

/-- A saved context (R356). -/
structure Image where
  pc : W64
  act : Act
  st : W32
  fm : W32
  px : W32
  srseed : W32
  lk : W64
  live : BitVec 18
  wait : BitVec 8
  badd : W64
  bplace : List Loc
  bgen : W32
  sppwr : W32
  scrc : W16
  /-- the activation's own power limits; R356 gives them no bytes (R405; log 122) -/
  pwrcap : W32
  a : Vector ALane 16
  p : Vector W64 8
  q : Vector (List QEntry) 8
  journal : List JBlock
  msgs : List OutMsg
  deriving DecidableEq, Repr

/-- What one bind record owns on a core: its activation queue (R295), spilled records (R304), report queue with
the count of lost reports (R434), suspended image (R356) and the moment it began to wait (R349). -/
structure RecQ where
  msgs : List Packet
  /-- spilled records with their places in the ring, oldest first -/
  spilled : List (Nat × Packet)
  reports : List Packet
  /-- tries of the message and of the report at the head (R301) -/
  tries : Nat
  rtries : Nat
  lost : Nat
  image : Option Image
  since : Option Nat
  /-- barrier membership table of the binding: address and place (R236; log 34) -/
  barr : List (W64 × List Loc)
  deriving DecidableEq, Repr

/-- One entry of a translation cache (R393): a page of an address space, its size in bytes, the leaf, and whether
it is dropped at the next acquire (R396). -/
structure TlbEntry where
  asid : W16
  vpage : Nat
  size : Nat
  leaf : W64
  stale : Bool
  deriving DecidableEq, Repr

/-- A line of L1, most recent first: its 128-byte line number in physical memory, the virtual line it was filled
for, and its bytes (R186). -/
structure L1Line where
  line : Nat
  vline : Nat
  data : List Byte
  deriving DecidableEq, Repr

/-- The power state of a core (R372). -/
inductive Gate where
  | running
  | holding (since : Nat)
  | gated
  | waking (admitted : Option Nat)
  deriving DecidableEq, Repr

/-- A mailbox request not yet answered: the address of its block, the region and address space that asked (R345). -/
structure MbxReq where
  addr : W64
  rid : W16
  asid : W16
  deriving DecidableEq, Repr

/-- One core (R16), with the network-interface and scheduling state kept for it. -/
structure Core where
  pc : W64
  a : Vector ALane 16
  p : Vector W64 8
  q : Vector (List QEntry) 8
  lk : W64
  st : W32
  fm : W32
  px : W32
  srseed : W32
  spcfg : W32
  sppwr : W32
  /-- banks whose off state waits for accepted accesses, and banks waking: bits 2:0 and 5:3 -/
  bankPend : BitVec 6
  /-- scratchpad words by offset ÷ 4; unlisted words are data zero, validity 0 (R181) -/
  spad : List (Nat × Lane)
  /-- words that engines have sent to scratchpad and that have not landed: command, offset and word, oldest first (R90) -/
  land : List (Nat × Nat × Lane)
  /-- scratchpad words with an uncorrectable error, until they are written (R181, R444) -/
  spBad : List Nat
  spill : Bool
  log : List LogEntry
  /-- MODEL: next program-order stamp of a log entry -/
  pos : Nat
  cepat : W64
  gmask : W32
  /-- the region of the gang that the core is in (R340) -/
  gangRid : W16
  mbx : List MbxReq
  brec : Vector W64 8
  brshc : W32
  pwrst : W32
  pwrcap : W32
  tspc : W64
  tsst : W32
  tspx : W32
  tsinf : W64
  tsadr : W64
  fltpc : W64
  fltdis : W32
  crc : W16
  entered : Entered
  /-- the four most recent lines: line address and bits (R334) -/
  fetch : List (W64 × BitVec 512)
  /-- the line address whose parity failed once (R31) -/
  refetch : Option W64
  /-- the LIVE mask of the safe point at which the core stands (R335) -/
  safe : Option (BitVec 18)
  act : Option Act
  journal : List JBlock
  msgs : List OutMsg
  /-- committed messages that wait to enter their flows -/
  outbox : List Packet
  pend : List Pend
  wait : Wait
  /-- the wait of a PHASE or BARR during which a trap was entered, with its slot (R240) -/
  trapWait : Option (W64 × Wait)
  /-- copies of CUR that differ from the home's, by the select word's physical address (R211) -/
  cur : List (Nat × Bool)
  /-- groups whose last boundary is complete but for this core's own acquire, due when a suspended PHASE is restored (R228) -/
  owed : List W16
  /-- next PCs of the leader that an attached gang member has yet to follow (R341) -/
  gpath : List W64
  recq : Vector RecQ 8
  /-- last-served record per level (R350) -/
  served : Vector (Option Nat) 8
  /-- firmware asks for a stop (R351); shed deadline has come (R381) -/
  stopReq : Bool
  deadline : Bool
  /-- records whose images wait at a BRK (R446) -/
  brkStop : List Nat
  /-- the next command sequence number, flags and earliest bad status (with its sequence number) of matrix
  commands completed since the last MXWAIT (R133, R141) -/
  cseq : W32
  mxFlags : BitVec 8
  mxBad : Option (W32 × BitVec 8)
  /-- messages released per destination logical core, and the count at each region's last quiescence (R203) -/
  sent : List (Nat × Nat)
  sentBase : List (Nat × Nat)
  reports : Nat
  l1 : List L1Line
  tlb : List TlbEntry
  gate : Gate
  /-- the break-even hold in µs (R372) -/
  gateHold : Byte
  /-- faults found late, oldest first: code, slot of the access, address (R220, R429) -/
  async : List (FCode × W64 × W64)
  deriving DecidableEq, Repr

/-- A captured matrix command (R133), WSTART (R166) or WRESUME (R169). -/
structure MxCmd where
  op : Nat
  core : Nat
  rid : W16
  asid : W16
  user : Bool
  ty : Ty
  tb : Ty
  tile : BitVec 2
  rs : Bool
  block : List Lane
  pn : W64
  cp : Cp
  mode : RMode
  sat : Bool
  seed : W32
  seq : W32
  key : BitVec 48
  lcn : W16
  phg : W16
  pos : Nat
  /-- queued when the bind was halted: it completes with ABORT (R143) -/
  abort : Bool
  deriving DecidableEq, Repr

/-- A matrix command in hand: rows or elements done, flags raised, the status it ends with. -/
structure MxRun where
  cmd : MxCmd
  bind : Nat
  k : Nat
  flags : BitVec 8
  sts : Option (BitVec 8)
  addr : W64
  deriving DecidableEq, Repr

/-- An accumulator tile (R123): FP32 patterns by 128i + j, unlisted +0; shape; poisoned elements (R444). -/
structure Tile where
  data : List (Nat × W32)
  tm : Nat
  tn : Nat
  poison : List Nat
  /-- the bind id firmware last gave the tile to (R123) -/
  bind : Option Nat
  deriving DecidableEq, Repr

/-- A weight stream (R147, R159, R165). -/
structure Stream where
  /-- state code of R149 -/
  state : Nat
  /-- the WSTART, and the WSTART or WRESUME that last started the stream (R171) -/
  cmd : MxCmd
  via : MxCmd
  bind : Nat
  /-- the block address B, the call stack and the current activation record CUR -/
  b : W64
  stack : List W64
  cur : List Byte
  dqdone : Bool
  blocks : W32
  emit : W32
  flags : BitVec 8
  last : BitVec 8
  gen : W32
  stopReq : Bool
  /-- a block that uses a tile is under way, its header -/
  busy : Bool
  header : List Byte
  /-- the block at B was interrupted by a halt or stop (R169, R174) -/
  again : Bool
  /-- decoded chunks in order from `base`, each with its stored size; payload offset of chunk `base`; running CRC over
  the chunks applied (R156, R164) -/
  staged : List (Nat × List Byte)
  base : Nat
  boff : Nat
  ccrc : W32
  /-- the successor header as prefetched: its address, its bytes, the fault that the prefetch met (R164) -/
  ahead : Option (W64 × List Byte × Option (BitVec 8 × W64))
  /-- a chunk after the staged ones has failed: status and address (R164) -/
  cfault : Option (BitVec 8 × W64)
  faultChunk : Nat
  /-- the status with which the stream is about to halt, and the address (R173) -/
  sts : Option (BitVec 8)
  addr : W64
  deriving DecidableEq, Repr

/-- The matrix engine of a cluster with its sequencer (R121, R125, R126, R146, R147). -/
structure Mxe where
  bind : Vector W32 16
  /-- the region to which firmware has given each bind (R125, R344) -/
  rid : Vector W16 16
  /-- binds whose slots firmware has withdrawn (R354) -/
  held : W16
  slot : Vector W32 16
  ramp : W32
  tiles : Vector Tile 4
  /-- inbox per bind, oldest first (R128) -/
  inbox : List (Nat × List MxCmd)
  run : Option MxRun
  susp : List MxRun
  halted : List (Nat × MxRun)
  /-- MXRP per bind (R142) -/
  rp : List (Nat × W32)
  curSlot : Nat
  lastLent : Nat
  /-- active cycles of this window and of the window before (R146) -/
  act : Nat
  actPrev : Nat
  /-- burn cycles not yet charged (R370) -/
  burn : Nat
  rampAt : Nat
  stream : Option Stream
  deriving DecidableEq, Repr

/-- A captured copy (R267) or publication (R284) command, with its follow-on as captured, if it has one (R145). -/
structure CopyCmd where
  op : Nat
  core : Nat
  rid : W16
  asid : W16
  user : Bool
  block : List Lane
  layout : List Lane
  cepat : W64
  fol : Option MxCmd
  /-- the block asks for a follow-on whose area is malformed (R281) -/
  folBad : Bool
  cp : Cp
  mode : RMode
  sat : Bool
  seed : W32
  seq : W32
  key : BitVec 48
  lcn : W16
  phg : W16
  deriving DecidableEq, Repr

/-- A copy in hand (R276 to R282): stream positions done; positions sent on their way; stored bytes; chunks done and
the failing chunk; running CRCs; the generator; flags; the status it ends with and the address of its fault. -/
structure CopyRun where
  cmd : CopyCmd
  inbox : Nat
  bdone : Nat
  sent : Nat
  /-- the positions of the packets not known to be performed (R278), stored bytes before the step that sent them -/
  outs : List Nat
  cb0 : Nat
  cbytes : Nat
  chunks : Nat
  failing : Nat
  scrc : W32
  dcrc : W32
  gen : W32
  flags : BitVec 8
  sts : Option (BitVec 8)
  addr : W64
  /-- select words to publish, in order of first write (R280) -/
  pubs : List Nat
  /-- the follow-on has been dealt with: whether it entered its inbox (R145) -/
  foi : Option Bool
  deriving DecidableEq, Repr

/-- A captured collective command (R289). -/
structure CollCmd where
  fn : Nat
  core : Nat
  rid : W16
  asid : W16
  user : Bool
  block : List Lane
  cp : Cp
  seq : W32
  key : BitVec 48
  lcn : W16
  phg : W16
  /-- the operation number under its handle, the result once combined, the CRC of the contribution read, the status and
  the address of its fault -/
  opn : Nat
  result : Option (List Byte)
  scrc : W32
  sts : Option (BitVec 8)
  addr : W64
  /-- select words to publish (R280) -/
  pubs : List Nat
  deriving DecidableEq, Repr

/-- An outbound flow of a network interface (R246, R255). -/
structure OutFlow where
  next : W16
  acked : List W16
  oldest : W16
  refused : Bool
  deriving DecidableEq, Repr

/-- An inbound flow (R247): NEXT, the SEEN mask, and the packets held for order. -/
structure InFlow where
  next : W16
  seen : W64
  /-- a held packet, with the ring record reserved for it plus one, or 0 (R304) -/
  held : List (Nat × Packet)
  deriving DecidableEq, Repr

/-- A retained copy of a sent packet (R246, R250). -/
structure Retained where
  pkt : Packet
  lastSend : Nat
  resendAt : Option Nat
  /-- it has been sent as AGED (R250) -/
  asAged : Bool
  deriving DecidableEq, Repr

/-- The coding table of a compressing flow (R256). -/
structure Coder where
  t : Vector W32 16
  nxt : Nat
  deriving DecidableEq, Repr

/-- A side-mesh flit (R248) and the site it is at. -/
structure SideFlit where
  kind : BitVec 2
  cause : BitVec 3
  cls : BitVec 3
  tch : Nat
  tep : BitVec 7
  pch : Nat
  rch : Nat
  rv : Bool
  ms : Bool
  ms2 : Bool
  seq : W16
  site : Nat
  deriving DecidableEq, Repr

/-- A packet in flight: the site whose buffer holds it, and the port it came in by (4: from the local NI;
5: a relay buffer). -/
structure Flight where
  pkt : Packet
  site : Nat
  port : Nat
  inAged : Bool
  deriving DecidableEq, Repr

/-- A team: the region's cores on a chiplet and its counts (R307, R313). -/
structure Team where
  mask : W64
  spc : Int
  sent : Nat
  recv : Nat
  deriving DecidableEq, Repr

/-- A launch share held by a management core: the indices [lo, hi), the team's cores when it came, and how many indices
each has been given (R312, R353). -/
structure Share where
  rid : W16
  lo : Nat
  hi : Nat
  cores : List Nat
  given : List (Nat × Nat)
  hix : Nat
  args : List Byte
  /-- clusters whose first message is still held back by the skew (R371) -/
  skew : BitVec 4
  received : Nat
  deriving DecidableEq, Repr

/-- A translation-invalidation broadcast on its way to a chiplet (R396). -/
structure Inval where
  id : Nat
  asid : W16
  lo : Nat
  hi : Nat
  deriving DecidableEq, Repr

/-- A set of an L2 slice: the lines it holds by way, and the ways from most to least recent (R188). `tag`: the
request that filled each way, 2^57 × ASID + virtual line number (R191). -/
structure L2Set where
  ways : List (Nat × Nat)
  order : List Nat
  tag : List (Nat × Nat)
  /-- the ways whose line has its home in this slice (R186) -/
  home : List Nat
  /-- the ways that hold lines of log segments (R190) -/
  log : List Nat
  deriving DecidableEq, Repr

/-- Clock, bucket and in-rush state of a cluster (R363 to R372). -/
structure ClusterPwr where
  thrrsn : W32
  bucket : Nat
  rate : Nat
  cbwt : W64
  engClk : Nat
  lastAdmit : Nat
  /-- the next refill of the bucket and the next window of the in-rush arbiter, in rc -/
  refillAt : Nat
  inrushAt : Nat
  /-- cores with a wake request not yet admitted -/
  wakes : List Nat
  deriving DecidableEq, Repr

/-- A shed notice (R378): shed mask, target G, router time of the decision, frame sequence. -/
structure Notice where
  shm : BitVec 8
  tgt : BitVec 12
  t0 : Nat
  fseq : BitVec 24
  deriving DecidableEq, Repr

/-- One site of the wafer with its chiplet (R10 to R22). -/
structure Chip where
  /-- Peal state code (R447), the router time at which it was entered, failed transfers of CONFIG -/
  peal : Nat
  pealSince : Int
  tries : Nat
  /-- NSEL by destination; unlisted entries are 0 (R253) -/
  nsel : List (Nat × W16)
  /-- peer table: index to (module id, link) of valid entries (R260) -/
  peers : List (Nat × (W16 × Nat))
  /-- packets waiting for a first send, flows by 8 × destination + class -/
  sendq : List Packet
  outf : List (Nat × OutFlow)
  inf : List (Nat × InFlow)
  retained : List Retained
  coders : List (Nat × Coder)
  answers : List SideFlit
  nitx : W64
  niretx : W64
  ninack : W64
  niaged : W64
  clstale : W64
  ecccor : W64
  eccunc : W64
  rctl : Vector W64 8
  rbase : Vector W64 8
  rlen : Vector W64 8
  rhit : Vector W64 8
  rovf : Vector W64 8
  /-- L2 sets by 4096 × slice + set -/
  l2 : List (Nat × L2Set)
  tlb : List TlbEntry
  /-- the caches of 16 translations: 3c and 3c + 1 the pipes of engine c, 3c + 2 its sequencer, 12 + i copy inbox i (R121, R393)
  -/
  ptlb : List (Nat × List TlbEntry)
  /-- IMMEDIATE lines that an engine command under way has read, by command and line (R135, R271) -/
  lines : List (Nat × List (Nat × List Byte))
  mxe : Vector Mxe 4
  ceIn : Vector (List CopyCmd) 4
  ceRun : List CopyRun
  clIn : List CollCmd
  teams : List (Nat × Team)
  shares : List Share
  lskew : W32
  /-- forwarding: 64 × region + core to destination core (R362) -/
  forward : List (Nat × Nat)
  /-- overflow records in use per region (R303) and whether the ring last refused (R305) -/
  ovfUse : List (Nat × List Nat)
  ovfRef : List (Nat × Bool)
  invals : List Inval
  /-- invalidations carried out, each with the phase groups that have still to acquire after it (R396) -/
  phinv : List (Inval × List W16)
  pwr : Vector ClusterPwr 4
  droop : Bool
  /-- core clock hops in progress: core, new source in MHz (R364) -/
  hops : List (Nat × Nat)
  notice : Notice
  noticeIn : List Notice
  /-- per output port of its router, the input port last served (R249) -/
  rr : List (Nat × Nat)
  /-- per class, the time of the notice that last shed it (R381) -/
  shedAt : Vector Nat 8
  deriving DecidableEq, Repr

/-- An address-space record (R384) with its kill report (R410) and debug enable (R446). -/
structure Space where
  root : Nat
  twbase : W64
  pasid : BitVec 20
  killed : Bool
  /-- chiplets that have still to carry out the kill (R437) -/
  killing : List Nat
  cause : Nat
  code : BitVec 8
  debug : Bool
  deriving DecidableEq, Repr

/-- A registered region: its block as firmware last read it, its effective groups (R291, R292). -/
structure Region where
  rcb : W64
  raw : List Byte
  asid : W16
  parent : W64
  cores : Nat
  mxs : Nat
  pwr : Nat
  mem : Nat
  spwn : Nat
  prio : Nat
  shc : Nat
  fdom : Nat
  htlen : Nat
  fhix : Nat
  htab : W64
  lq : W64
  stray : W64
  phg : W16
  ovfr : Nat
  ovfa : W64
  shrpt : Bool
  nr : List (Nat × Nat)
  depth : Nat
  deriving DecidableEq, Repr

/-- A phase group (R196, R198, R199). -/
structure PGroup where
  phase : W64
  /-- a boundary has begun; cores that have received its start -/
  started : Bool
  heard : List Nat
  /-- select words whose PEND waits for a boundary of this group; true: set after the boundary in progress began (R211) -/
  pubs : List (Nat × Bool)
  deriving DecidableEq, Repr

/-- A collective group id (R285): 0 FREE, 1 ACTIVE, 2 DRAINING. -/
structure CGroup where
  state : Nat
  gen : BitVec 4
  asid : W16
  members : List Nat
  /-- operations issued per member -/
  issued : List (Nat × Nat)
  /-- the operation being combined, and the partials of the routers that have passed theirs up: none after a fault, no
  bytes where no input carries data (R286) -/
  cur : Nat
  parts : List (Nat × Option (List Byte))
  deriving DecidableEq, Repr

/-- A GL packet being packed, and when its last part came (R262). -/
structure Packing where
  pkt : GlPacket
  since : Nat
  deriving DecidableEq, Repr

/-- A remote copy being written by a receiving gateway (R509): where it comes from, its ASID there, running CRC, bytes,
EOM seen, status, its answer sent. -/
structure RCopy where
  smod : W16
  sch : Nat
  sep : Nat
  cls : Nat
  key : BitVec 48
  /-- MODEL: the command's number, which tells copies of one activation apart (log 28) -/
  cmd : Nat
  asid : W16
  crc : W32
  count : Nat
  eom : Bool
  sts : BitVec 8
  answered : Bool
  deriving DecidableEq, Repr

/-- A GL link with its gateway (R260 to R265, R457 to R460). -/
structure GlLink where
  state : Nat
  wid : Nat
  lost : Bool
  nrt : Nat
  flm : W16
  lack : W32
  downSince : Int
  /-- in RETRAIN: the width to come up at, and since when (R458) -/
  retrain : Option (Nat × Int)
  /-- the lane map of the configuration image, sixteen 4-bit lane numbers (R28; log 128) -/
  laneMap : W64
  /-- the router time of the next training (R457) -/
  tryAt : Nat
  limited : Bool
  txNext : W32
  rxNext : W32
  rxHeld : List GlPacket
  unacked : List GlPacket
  packing : List Packing
  txCode : List (Nat × Coder)
  rxCode : List (Nat × Coder)
  gltx : W64
  glretx : W64
  glrxbad : W64
  glxdrop : W64
  /-- ingress table: stream to (ASID, TGT) (R264) -/
  ingress : List (Nat × (W16 × W64))
  /-- import table: 65536 × module + ASID to local ASID (R282) -/
  imports : List (Nat × W16)
  rcopies : List RCopy
  /-- frames held by an OVF refusal -/
  heldFrames : List Packet
  /-- acknowledgements (true) and NACKs of received LSEQs, oldest first, that the far end has not taken (R263) -/
  answers : List (Bool × W32)
  deriving DecidableEq, Repr

/-- One host port: its image and command registers and its link (R407, R409). -/
structure HostPort where
  imgadr : W64
  imglen : W64
  cmd : List (Nat × Byte)
  res : List Byte
  done : Bool
  busy : Bool
  sts : BitVec 8
  evtail : W32
  width : Nat
  /-- port translation cache: pasid and page (R414) -/
  atc : List (Nat × Nat)
  /-- MSI-X vectors signalled, latest first -/
  msix : List Nat
  deriving DecidableEq, Repr

/-- A launch window (R412). -/
structure Window where
  asid : W16
  lq : W64
  stage : List (Nat × Byte)
  drop : W32
  deriving DecidableEq, Repr

/-- A BAR2 aperture (R413). -/
structure Aperture where
  asid : W16
  base : W64
  write : Bool
  deriving DecidableEq, Repr

/-- A launch in progress (R311, R314): record index, completion word, whether the sweep before saw it accepted. -/
structure Launch where
  rid : W16
  h : W32
  caddr : W64
  swept : Bool
  deriving DecidableEq, Repr

/-- The last quiescence sweep of a region (R314). -/
structure Sweep where
  idle : Bool
  sent : Nat
  recv : Nat
  time : Nat
  deriving DecidableEq, Repr

/-- Bellman (R375 to R379) and the module controller's setpoint. -/
structure Bellman where
  blcfg : W64
  fpt : Vector W32 8
  vpt : Vector W32 8
  ramp : W32
  shc : Vector W64 8
  lastSeq : Option W32
  lastMeas : Nat
  stale : Bool
  staleSince : Nat
  fallback : Bool
  level : Nat
  shed : BitVec 8
  g : Nat
  fseq : BitVec 24
  /-- since when the restore condition of each class has held -/
  hold : Vector (Option Nat) 8
  /-- G as the module controller has it, from the notices (R378, R379); setpoint in W; S is falling; S fell at the last period start -/
  heard : Nat
  s : Nat
  falling : Bool
  fell : Bool
  /-- the next period start (R366) -/
  periodAt : Nat
  deriving DecidableEq, Repr

/-- Boot, identity and alarm (R415 to R424). -/
structure Security where
  boot : Nat
  refused : Nat
  minsvn : W32
  acnt : W32
  lat : BitVec 4
  almpol : W32
  /-- the key store's bytes: none where they are those of manufacture, Config.keyStore; empty once zeroed (R417, R423; DESIGN
  CHOICE, log 139) -/
  keyStore : Option (List Byte)
  /-- the identity's private key, held as ξ (R418) -/
  key : Option (List Byte)
  stopped : Bool
  erasing : Bool
  /-- sensors tripped in the open window, and its start -/
  window : Option (Int × BitVec 4)
  firmware : List Byte
  config : List Byte
  fwsvn : W32
  /-- host ports with an image on offer, in the order of their offers (R415) -/
  offers : List Nat
  /-- sites that the configuration image isolates (R28) -/
  isolate : List Nat
  deriving DecidableEq, Repr

/-- An error that the protection of an array finds (R444): where it strikes. -/
inductive Upset where
  /-- corrected, in an array of a chiplet -/
  | fixed (n : Nat)
  /-- a word of scratchpad, at an offset: whoever reads it finds the error -/
  | spad (g off : Nat)
  /-- a queue register or an uncommitted log entry that a core's next instruction reads; its address -/
  | coreRead (g : Nat) (addr : W64)
  /-- the fetched line a core issues from -/
  | fetched (g : Nat)
  /-- a line of L1; a way of an L2 set that is no home; a home line, at the chiplet that counts it -/
  | l1 (g k : Nat)
  | l2 (n set way : Nat)
  | home (n line : Nat)
  /-- a committed log entry -/
  | committed (g k : Nat)
  | coreTlb (g k : Nat)
  | chipTlb (n k : Nat)
  /-- an activation-queue entry of a record; a packet held for order -/
  | queued (g i k : Nat)
  | held (n flow k : Nat)
  /-- the save slot of a record -/
  | image (g i : Nat)
  /-- an element of a tile -/
  | tile (m : Nat) (t : BitVec 2) (k : Nat)
  /-- what a matrix engine or copy engine has read into buffers of its own -/
  | matrixRead (m : Nat)
  | copyRead (n k : Nat)
  /-- a side-mesh flit -/
  | flit (k : Nat)
  deriving DecidableEq, Repr

/-- What comes from outside any step: a value that the configuration image gives or firmware's policy writes into a firmware
register or table, and what the host does to its own memory (log 78). -/
inductive Input where
  /-- the module id (R260) and the alarm policies (R422), from the configuration image -/
  | modid (v : W16)
  | almpol (v : W32)
  /-- entry i of the peer table of chiplet n (R260): module and link -/
  | peer (n i : Nat) (e : Option (W16 × Nat))
  /-- ingress entry of a stream (R264) and import entry of a pair (R282) of link l -/
  | ingress (l : Nat) (stream : W16) (e : Option (W16 × W64))
  | importId (l : Nat) (smod asid : W16) (e : Option W16)
  /-- CBWT of cluster m (R370), LSKEW of chiplet n (R371), the hold of core g (R372), MXRAMP of cluster m (R146) -/
  | cbwt (m : Nat) (v : W64)
  | lskew (n : Nat) (v : W32)
  | hold (g : Nat) (v : Byte)
  | mxramp (m : Nat) (v : W32)
  /-- slot k of cluster m: withdrawn, or given to a bind, strict or not (R126, R354) -/
  | slot (m k : Nat) (e : Option (Nat × Bool))
  /-- a bind on an engine of chiplet n for a region with a team there (R125, R126, R344) -/
  | bind (n : Nat) (rid : W16) (b : MxGrant)
  /-- the far end of link l takes the oldest acknowledgement or NACK (R263) -/
  | glTake (l : Nat)
  /-- Bellman's registers (R376); the points of a curve as the write leaves them -/
  | blcfg (v : W64)
  | blfpt (pts : Vector W32 8)
  | blvpt (pts : Vector W32 8)
  | blramp (v : W32)
  | blshc (c : Nat) (v : W64)
  /-- a byte of host memory behind a port; whether the host refuses to translate a page of it (R414) -/
  | hostByte (port pasid iova : Nat) (b : Byte)
  | hostPage (port pasid page : Nat) (refused : Bool)
  /-- the oldest engine word bound for an offset of core g's scratchpad lands (R90) -/
  | land (g off : Nat)
  /-- the k-th word that engines have brought to its home is written there (R272) -/
  | landHome (k : Nat)
  /-- the lane map of link l (R28) -/
  | laneMap (l : Nat) (v : W64)
  deriving DecidableEq, Repr

/-- One turn of the schedule: router time that passes (in rc), an error that an array meets, what comes from outside, then the
core that issues, or the step of another agent. The schedule is an input: statements hold for every schedule (log 5). -/
structure Turn where
  dt : Nat
  core : Option Nat
  ev : Option Instr
  upset : Option Upset
  input : Option Input
  deriving DecidableEq, Repr

/-- A word that an engine has brought to its home and that is not yet written: of which chiplet's engine, for whom, of which command, its places (R272,
R509). -/
structure HomeWrite where
  chip : Nat
  asid : W16
  cmd : Nat
  bytes : List (Loc × Byte)
  deriving DecidableEq, Repr

/-- The module. -/
structure State where
  /-- MODEL: the schedule, the core that issues, and the count of free values drawn (logs 5, 7). -/
  turns : List Turn
  self : Nat
  fresh : Nat
  now : Nat
  mem : List Host.Cell
  poison : List Nat
  hostMem : List (Nat × Byte)
  hostRefuse : List Nat
  /-- owner of each 2 MiB block (R391) -/
  owner : List (Nat × W16)
  /-- quarantined 4 KiB frames, and the ASID that last wrote each frame since its last boundary (R438) -/
  marks : List Nat
  writers : List (Nat × W16)
  spaces : List (Nat × Space)
  regions : List (Nat × Region)
  groups : List (Nat × PGroup)
  cgroups : List (Nat × CGroup)
  cores : List (Nat × Core)
  chips : List (Nat × Chip)
  flights : List Flight
  flits : List SideFlit
  /-- engine words at their homes, oldest first -/
  writes : List HomeWrite
  links : Vector GlLink 8
  ports : Vector HostPort 8
  modid : W16
  evhead : W32
  evlost : W32
  evring : List (Nat × List Byte)
  apref : W64
  windows : List (Nat × Window)
  apertures : List (Nat × Aperture)
  /-- the answer to the last aperture read: none for Completer Abort -/
  apRead : Option (List Byte)
  launches : List Launch
  sweeps : List (Nat × Sweep)
  /-- launch queues last found inconsistent (R311) -/
  lqBad : List (Nat × Bool)
  csgen : W64
  everReady : Bool
  carillon : List (Nat × Nat)
  invalNext : Nat
  bell : Bellman
  sec : Security
  deriving DecidableEq, Repr

/-! ### Reset -/

/-- A packet with every field zero. -/
def Packet.zero : Packet :=
  ⟨0, 0, 0, 0, 0, false, false, false, false, false, 0, 0, false, 0, false, 0, 0, 0, [], [], 0, 0, none, false, 0, 0, none⟩

/-- An accumulator lane at the start of an activation (R298). -/
def ALane.start : ALane := ⟨0, false, 3⟩

/-- A bind record that owns nothing. -/
def RecQ.reset : RecQ := ⟨[], [], [], 0, 0, 0, none, none, []⟩

/-- A core after reset. Registers without a reset value in the spec are zero (DESIGN CHOICE, log 2). -/
def Core.reset : Core where
  pc := 0
  a := Vector.replicate 16 ALane.start
  p := Vector.replicate 8 0
  q := Vector.replicate 8 []
  lk := 0
  st := 0
  fm := 1
  px := 0
  srseed := 1
  spcfg := 2
  sppwr := 0
  bankPend := 0
  spad := []
  land := []
  spBad := []
  spill := false
  log := []
  pos := 0
  cepat := 0x01000100
  gmask := 0
  gangRid := 0
  mbx := []
  brec := Vector.replicate 8 0
  brshc := 0
  pwrst := 0x03AC0010
  pwrcap := 16
  tspc := 0
  tsst := 0
  tspx := 0
  tsinf := 0
  tsadr := 0
  fltpc := 0
  fltdis := 0
  crc := 0xFFFF
  entered := .resumed
  fetch := []
  refetch := none
  safe := none
  act := none
  journal := []
  msgs := []
  outbox := []
  pend := []
  wait := .none
  trapWait := none
  cur := []
  owed := []
  gpath := []
  recq := Vector.replicate 8 RecQ.reset
  served := Vector.replicate 8 none
  stopReq := false
  deadline := false
  brkStop := []
  cseq := 0
  mxFlags := 0
  mxBad := none
  sent := []
  sentBase := []
  reports := 0
  l1 := []
  tlb := []
  gate := .running
  gateHold := 20
  async := []

/-- A tile after reset: +0 everywhere, shape (128, 128) (R123). -/
def Tile.reset : Tile := ⟨[], 128, 128, [], none⟩

/-- A matrix engine after reset (R125, R126, R146). -/
def Mxe.reset : Mxe where
  bind := Vector.replicate 16 0
  rid := Vector.replicate 16 0
  held := 0
  slot := Vector.replicate 16 0
  ramp := 0x005E005E
  tiles := Vector.replicate 4 Tile.reset
  inbox := []
  run := none
  susp := []
  halted := []
  rp := []
  curSlot := 0
  lastLent := 15
  act := 0
  actPrev := 0
  burn := 0
  rampAt := 0
  stream := none

/-- Power state of a cluster after reset; BUCKET and RATE by log 4. -/
def ClusterPwr.reset : ClusterPwr := ⟨0, 4096, 255, 0x3040404002040201, 940, 15, 0, 0, []⟩

/-- The shed notice before any frame (R378). -/
def Notice.reset : Notice := ⟨0, 2600, 0, 0⟩

/-- A site after reset: OFF (R447). -/
def Chip.reset : Chip where
  peal := 0
  pealSince := 0
  tries := 0
  nsel := []
  peers := []
  sendq := []
  outf := []
  inf := []
  retained := []
  coders := []
  answers := []
  nitx := 0
  niretx := 0
  ninack := 0
  niaged := 0
  clstale := 0
  ecccor := 0
  eccunc := 0
  rctl := Vector.replicate 8 0
  rbase := Vector.replicate 8 0
  rlen := Vector.replicate 8 0
  rhit := Vector.replicate 8 0
  rovf := Vector.replicate 8 0
  l2 := []
  tlb := []
  ptlb := []
  lines := []
  mxe := Vector.replicate 4 Mxe.reset
  ceIn := Vector.replicate 4 []
  ceRun := []
  clIn := []
  teams := []
  shares := []
  lskew := 0x0C080400
  forward := []
  ovfUse := []
  ovfRef := []
  invals := []
  phinv := []
  pwr := Vector.replicate 4 ClusterPwr.reset
  droop := false
  hops := []
  notice := Notice.reset
  noticeIn := []
  rr := []
  shedAt := Vector.replicate 8 0

/-- A coding table at bring-up (R256). -/
def Coder.reset : Coder := ⟨Vector.replicate 16 0, 0⟩

/-- A GL link after reset (R460). -/
def GlLink.reset : GlLink where
  state := 0
  wid := 0
  lost := false
  nrt := 0
  flm := 0
  lack := 0
  downSince := 0
  retrain := none
  laneMap := 0xFEDCBA9876543210
  tryAt := 0
  limited := false
  txNext := 0
  rxNext := 0
  rxHeld := []
  unacked := []
  packing := []
  txCode := []
  rxCode := []
  gltx := 0
  glretx := 0
  glrxbad := 0
  glxdrop := 0
  ingress := []
  imports := []
  rcopies := []
  heldFrames := []
  answers := []

/-- A host port after reset. -/
def HostPort.reset : HostPort := ⟨0, 0, [], [], false, false, 0, 0, 16, [], []⟩

/-- The reset value of a frequency or bus point: DEV i − 4, LVL 1,024 (R376). -/
def pointReset (i : Nat) : W32 := (BitVec.ofInt 16 (Int.ofNat i - 4)).append (1024 : BitVec 16)

/-- The reset value of BLSHC1 to BLSHC7 (R376): HYS 32, RHOLD 10, DL 20, THR 0. -/
def blshcReset : W64 := (32 <<< 32 ||| 10 <<< 24 ||| 20 <<< 16 : Nat)

/-- Bellman after reset (R376); FNOM and EN zero by log 3, S by log 4. -/
def Bellman.reset : Bellman where
  blcfg := ((80000 <<< 44 ||| 2600 <<< 32 ||| 16 <<< 8 : Nat) : W64)
  fpt := Vector.ofFn fun i => pointReset i.val
  vpt := Vector.ofFn fun i => pointReset i.val
  ramp := 0x00040008
  shc := Vector.ofFn fun i => if i.val = 0 then 0 else blshcReset
  lastSeq := none
  lastMeas := 0
  stale := false
  staleSince := 0
  fallback := false
  level := 1024
  shed := 0
  g := 2600
  fseq := 0
  hold := Vector.replicate 8 none
  heard := 2600
  s := 26000
  falling := false
  fell := false
  periodAt := 0

/-- Boot and alarm state after reset; the values with no reset of their own are zero by log 3. -/
def Security.reset : Security where
  boot := 0
  refused := 0
  minsvn := 0
  acnt := 0
  lat := 0
  almpol := 0
  keyStore := none
  key := none
  stopped := false
  erasing := false
  window := none
  firmware := []
  config := []
  fwsvn := 0
  offers := []
  isolate := []

/-- The machine right after reset: every site OFF (R447), memory with nothing listed. -/
def State.reset : State where
  turns := []
  self := 3200
  fresh := 0
  now := 0
  mem := []
  poison := []
  hostMem := []
  hostRefuse := []
  owner := []
  marks := []
  writers := []
  spaces := []
  regions := []
  groups := []
  cgroups := []
  cores := []
  chips := []
  flights := []
  flits := []
  writes := []
  links := Vector.replicate 8 GlLink.reset
  ports := Vector.replicate 8 HostPort.reset
  modid := 0
  evhead := 0
  evlost := 0
  evring := []
  apref := 0
  windows := []
  apertures := []
  apRead := none
  launches := []
  sweeps := []
  lqBad := []
  csgen := 0
  everReady := false
  carillon := []
  invalNext := 0
  bell := Bellman.reset
  sec := Security.reset

end Sys2Proof.Machine
end

