-- ==== Sys2Proof/Machine/Num.lean ====
section
/-! DEFINITION. Number formats, exact values, rounding and conversions (chapter 3 of the spec: R58 to R73, R515).
A floating value is exact: a dyadic number, an infinity or NaN; quotients are rounded from their numerator and
denominator. Flags are eight bits in the positions of ST (R77). -/

namespace Sys2Proof.Machine.Num

/-- Sticky flags, in the positions of ST bits 7:0 (R77). -/
abbrev Flags := BitVec 8

def fSAT : Flags := 0x80
def fAUF : Flags := 0x40
def fNV : Flags := 0x10
def fDZ : Flags := 0x08
def fOF : Flags := 0x04
def fUF : Flags := 0x02
def fNX : Flags := 0x01
def fNone : Flags := 0

/-- `f` where `b` holds, no flag otherwise. -/
def flagIf (b : Bool) (f : Flags) : Flags := if b then f else fNone

/-! ### Integer types (R58) -/

/-- Width in bits of an element of a type (R40, R59). -/
def width : Ty → Nat
  | .i8 | .u8 | .e4m3 | .e5m2 | .e8m0 => 8
  | .i16 | .u16 | .f16 | .bf16 => 16
  | .i32 | .u32 | .f32 => 32
  | .i64 | .u64 => 64
  | .e2m1 => 4
  | .px => 32

def isInt : Ty → Bool
  | .i8 | .i16 | .i32 | .i64 | .u8 | .u16 | .u32 | .u64 => true
  | _ => false

def isSigned : Ty → Bool
  | .i8 | .i16 | .i32 | .i64 => true
  | _ => false

/-- The vector floating class VF (R85). -/
def isVF : Ty → Bool
  | .f16 | .bf16 | .f32 => true
  | _ => false

/-- Any floating format but E8M0 (R59). -/
def isFloat : Ty → Bool
  | .f16 | .bf16 | .f32 | .e4m3 | .e5m2 | .e2m1 => true
  | _ => false

/-- The integer a bit pattern of `w` bits stands for. -/
def toInt (signed : Bool) (w : Nat) (b : Nat) : Int :=
  let u := b % 2 ^ w
  if signed && decide (2 ^ (w - 1) ≤ u) then (u : Int) - (2 ^ w : Nat) else (u : Int)

/-- The pattern of `w` bits of an integer modulo 2^w. -/
def wrap (w : Nat) (x : Int) : Nat := (x % ((2 ^ w : Nat) : Int)).toNat

def minOf (signed : Bool) (w : Nat) : Int := if signed then -((2 ^ (w - 1) : Nat) : Int) else 0
def maxOf (signed : Bool) (w : Nat) : Int :=
  if signed then ((2 ^ (w - 1) : Nat) : Int) - 1 else ((2 ^ w : Nat) : Int) - 1

/-- Clamp to the type's range; SAT where it clamps (R58, R92). -/
def satInt (signed : Bool) (w : Nat) (x : Int) : Nat × Flags :=
  if x < minOf signed w then (wrap w (minOf signed w), fSAT)
  else if x > maxOf signed w then (wrap w (maxOf signed w), fSAT)
  else (wrap w x, fNone)

/-! ### Floating formats (R59 to R61) -/

/-- An exact value: (−1)^neg × m × 2^e, an infinity, or NaN. -/
inductive Val where
  | nan
  | inf (neg : Bool)
  | fin (neg : Bool) (m : Nat) (e : Int)
  deriving DecidableEq, Repr

/-- Fraction width mb of the table of R59. -/
def mb : Ty → Nat
  | .f32 => 23
  | .f16 => 10
  | .bf16 => 7
  | .e4m3 => 3
  | .e5m2 => 2
  | .e2m1 => 1
  | _ => 0

def bias : Ty → Nat
  | .f32 | .bf16 => 127
  | .f16 | .e5m2 => 15
  | .e4m3 => 7
  | .e2m1 => 1
  | _ => 0

def emin (t : Ty) : Int := 1 - (bias t : Int)

/-- Exponent-field width. -/
def eb : Ty → Nat
  | .f32 | .bf16 => 8
  | .f16 | .e5m2 => 5
  | .e4m3 => 4
  | .e2m1 => 2
  | _ => 0

/-- A format with infinities (R59). -/
def hasInf : Ty → Bool
  | .f32 | .f16 | .bf16 | .e5m2 => true
  | _ => false

/-- The largest finite value as significand and exponent (R59). -/
def maxf : Ty → Nat × Int
  | .f32 => (2 ^ 24 - 1, 104)
  | .f16 => (2 ^ 11 - 1, 5)
  | .bf16 => (2 ^ 8 - 1, 120)
  | .e4m3 => (14, 5)
  | .e5m2 => (7, 13)
  | .e2m1 => (3, 1)
  | _ => (0, 0)

/-- Canonical NaN (R59, R60). E8M0's NaN is 0xFF (R61). -/
def canon : Ty → Nat
  | .f32 => 0x7FC00000
  | .f16 => 0x7E00
  | .bf16 => 0x7FC0
  | .e4m3 => 0x7F
  | .e5m2 => 0x7E
  | .e8m0 => 0xFF
  | _ => 0

/-- Value of a bit pattern (R59, R61, R62); an E2M1 code alone. -/
def val (t : Ty) (b : Nat) : Val :=
  match t with
  | .e8m0 => if b % 256 = 255 then .nan else .fin false 1 ((b % 256 : Nat) - 127 : Int)
  | _ =>
    let f := b % 2 ^ mb t
    let e := b / 2 ^ mb t % 2 ^ eb t
    let s := decide (b / 2 ^ (mb t + eb t) % 2 = 1)
    let top := 2 ^ eb t - 1
    if t = .e4m3 ∧ e = 15 ∧ f = 7 then .nan
    else if hasInf t ∧ e = top then (if f = 0 then .inf s else .nan)
    else if e = 0 then .fin s f (emin t - mb t)
    else .fin s (2 ^ mb t + f) ((e : Int) - bias t - mb t)

/-- A signalling NaN pattern (R60). -/
def isSnan (t : Ty) (b : Nat) : Bool :=
  match t with
  | .f32 | .f16 | .bf16 | .e5m2 => val t b = .nan && decide (b / 2 ^ (mb t - 1) % 2 = 0)
  | _ => false

/-- Pattern of an infinity. -/
def encInf (t : Ty) (neg : Bool) : Nat :=
  (if neg then 2 ^ (mb t + eb t) else 0) + (2 ^ eb t - 1) * 2 ^ mb t

/-- Pattern of n × 2^qe, where n is at most 2^(mb+1) and, below 2^mb, qe is the subnormal unit (R59, R62). -/
def encFin (t : Ty) (neg : Bool) (n : Nat) (qe : Int) : Nat :=
  let sgn := if neg then 2 ^ (mb t + eb t) else 0
  if n < 2 ^ mb t then sgn + n
  else if n = 2 ^ (mb t + 1) then sgn + (qe + 1 + mb t + bias t).toNat * 2 ^ mb t
  else sgn + (qe + mb t + bias t).toNat * 2 ^ mb t + (n - 2 ^ mb t)

/-- ⌊log2(num ÷ den)⌋ of a positive quotient. -/
def flog2 (num den : Nat) : Int :=
  let l : Int := (Nat.log2 num : Int) - Nat.log2 den
  let below := if 0 ≤ l then decide (num < den * 2 ^ l.toNat) else decide (num * 2 ^ (-l).toNat < den)
  if below then l - 1 else l

/-- Round N ÷ D to an integer under a mode (R64); `neg` is the sign of the value, `r` the random word. -/
def roundN (m : RMode) (neg : Bool) (n d : Nat) (r : W32) : Nat :=
  let q := n / d
  let rem := n % d
  match m with
  | .rne => if 2 * rem > d ∨ (2 * rem = d ∧ q % 2 = 1) then q + 1 else q
  | .rna => if 2 * rem ≥ d then q + 1 else q
  | .rtz => q
  | .rdn => if neg && decide (rem ≠ 0) then q + 1 else q
  | .rup => if !neg && decide (rem ≠ 0) then q + 1 else q
  | .sr => (n * 2 ^ 24 + r.toNat % 2 ^ 24 * d) / (d * 2 ^ 24)

/-- a × 2^ea compared with b × 2^eb: the first is greater. -/
def gtScaled (a : Nat) (ea : Int) (b : Nat) (eb : Int) : Bool :=
  if ea ≤ eb then decide (a > b * 2 ^ (eb - ea).toNat) else decide (a * 2 ^ (ea - eb).toNat > b)

/-- Round the exact magnitude num ÷ den, not zero, to a floating type (R64). -/
def rndQ (t : Ty) (m : RMode) (s : Bool) (r : W32) (neg : Bool) (num den : Nat) : Nat × Flags :=
  let lg := flog2 num den
  let e := max lg (emin t)
  let qe := e - mb t
  let n := if 0 ≤ qe then num else num * 2 ^ (-qe).toNat
  let d := if 0 ≤ qe then den * 2 ^ qe.toNat else den
  let k := roundN m neg n d r
  let inexact := decide (n % d ≠ 0)
  let fl := flagIf inexact fNX ||| flagIf (inexact && decide (lg < emin t)) fUF
  if gtScaled k qe (maxf t).1 (maxf t).2 then
    if s then (encFin t neg (maxf t).1 (maxf t).2, fl ||| fSAT)
    else if !hasInf t then (canon t, fl ||| fOF)
    else if m = .rtz ∨ (m = .rdn ∧ !neg) ∨ (m = .rup ∧ neg) then
      (encFin t neg (maxf t).1 (maxf t).2, fl ||| fOF)
    else (encInf t neg, fl ||| fOF)
  else (encFin t neg k qe, fl)

/-- Numerator and denominator of m × 2^e. -/
def ratio (m : Nat) (e : Int) : Nat × Nat :=
  if 0 ≤ e then (m * 2 ^ e.toNat, 1) else (m, 2 ^ (-e).toNat)

/-- rnd(v, t, m, s, r) of R64; the sign of a zero is that of the value. -/
def rnd (t : Ty) (m : RMode) (s : Bool) (r : W32) (v : Val) : Nat × Flags :=
  match v with
  | .nan => (canon t, fNone)
  | .inf neg =>
    if s then (encFin t neg (maxf t).1 (maxf t).2, fSAT)
    else if !hasInf t then (canon t, fNV)
    else (encInf t neg, fNone)
  | .fin neg 0 _ => (encFin t neg 0 0, fNone)
  | .fin neg (k + 1) e => rndQ t m s r neg (ratio (k + 1) e).1 (ratio (k + 1) e).2

/-- rint(v, t, m, s, r) of R67: to an integer type, clamping with NV. A clamp sets NV and never SAT, as R67 names NV alone
(DESIGN CHOICE, log 132). -/
def rint (t : Ty) (m : RMode) (r : W32) (v : Val) : Nat × Flags :=
  let w := width t
  let sg := isSigned t
  match v with
  | .nan => (0, fNV)
  | .inf neg => (wrap w (if neg then minOf sg w else maxOf sg w), fNV)
  | .fin neg k e =>
    let q := ratio k e
    let n := roundN m neg q.1 q.2 r
    let i : Int := if neg then -(n : Int) else n
    if i < minOf sg w then (wrap w (minOf sg w), fNV ||| flagIf (decide (q.1 % q.2 ≠ 0)) fNX)
    else if i > maxOf sg w then (wrap w (maxOf sg w), fNV ||| flagIf (decide (q.1 % q.2 ≠ 0)) fNX)
    else (wrap w i, flagIf (decide (q.1 % q.2 ≠ 0)) fNX)

/-! ### Exact sums and products (R515) -/

/-- The signed significands of two dyadic numbers on their common exponent. -/
def align (n1 : Bool) (m1 : Nat) (e1 : Int) (n2 : Bool) (m2 : Nat) (e2 : Int) : Int × Int × Int :=
  let e := min e1 e2
  let a : Int := (m1 * 2 ^ (e1 - e).toNat : Nat)
  let b : Int := (m2 * 2 ^ (e2 - e).toNat : Nat)
  (if n1 then -a else a, if n2 then -b else b, e)

/-- a + b exactly, with the sign of a zero sum by R515 under mode `m`; NV for inf − inf. -/
def addV (m : RMode) (a b : Val) : Val × Flags :=
  match a, b with
  | .nan, _ => (.nan, fNone)
  | _, .nan => (.nan, fNone)
  | .inf x, .inf y => if x = y then (.inf x, fNone) else (.nan, fNV)
  | .inf x, .fin _ _ _ => (.inf x, fNone)
  | .fin _ _ _, .inf y => (.inf y, fNone)
  | .fin n1 m1 e1, .fin n2 m2 e2 =>
    let s := align n1 m1 e1 n2 m2 e2
    let sum := s.1 + s.2.1
    if sum = 0 then
      if m1 = 0 ∧ m2 = 0 ∧ n1 = n2 then (.fin n1 0 0, fNone) else (.fin (decide (m = .rdn)) 0 0, fNone)
    else (.fin (decide (sum < 0)) sum.natAbs s.2.2, fNone)

def negV : Val → Val
  | .nan => .nan
  | .inf n => .inf (!n)
  | .fin n m e => .fin (!n) m e

/-- a × b exactly; NV for 0 × inf. -/
def mulV (a b : Val) : Val × Flags :=
  match a, b with
  | .nan, _ => (.nan, fNone)
  | _, .nan => (.nan, fNone)
  | .inf x, .inf y => (.inf (x != y), fNone)
  | .inf x, .fin y m _ => if m = 0 then (.nan, fNV) else (.inf (x != y), fNone)
  | .fin x m _, .inf y => if m = 0 then (.nan, fNV) else (.inf (x != y), fNone)
  | .fin x m1 e1, .fin y m2 e2 => (.fin (x != y) (m1 * m2) (e1 + e2), fNone)

/-- NV when any pattern is a signalling NaN (R60). -/
def snanFlags (t : Ty) (l : List Nat) : Flags := flagIf (l.any (isSnan t)) fNV

def fadd (t : Ty) (m : RMode) (r : W32) (a b : Nat) : Nat × Flags :=
  let s := addV m (val t a) (val t b)
  let o := rnd t m false r s.1
  (o.1, o.2 ||| s.2 ||| snanFlags t [a, b])

def fsub (t : Ty) (m : RMode) (r : W32) (a b : Nat) : Nat × Flags :=
  let s := addV m (val t a) (negV (val t b))
  let o := rnd t m false r s.1
  (o.1, o.2 ||| s.2 ||| snanFlags t [a, b])

def fmul (t : Ty) (m : RMode) (r : W32) (a b : Nat) : Nat × Flags :=
  let s := mulV (val t a) (val t b)
  let o := rnd t m false r s.1
  (o.1, o.2 ||| s.2 ||| snanFlags t [a, b])

/-- a × b + c with one rounding; `neg` gives c − a × b (R103). -/
def ffma (t : Ty) (neg : Bool) (m : RMode) (r : W32) (a b c : Nat) : Nat × Flags :=
  let p := mulV (val t a) (val t b)
  let s := addV m (if neg then negV p.1 else p.1) (val t c)
  let o := rnd t m false r s.1
  (o.1, o.2 ||| s.2 ||| p.2 ||| snanFlags t [a, b, c])

/-- a ÷ b (R103, R515). -/
def fdiv (t : Ty) (m : RMode) (r : W32) (a b : Nat) : Nat × Flags :=
  let sn := snanFlags t [a, b]
  match val t a, val t b with
  | .nan, _ => (canon t, sn)
  | _, .nan => (canon t, sn)
  | .inf _, .inf _ => (canon t, fNV)
  | .inf x, .fin y _ _ => (encInf t (x != y), fNone)
  | .fin x _ _, .inf y => (encFin t (x != y) 0 0, fNone)
  | .fin x m1 e1, .fin y m2 e2 =>
    if m2 = 0 then (if m1 = 0 then (canon t, fNV) else (encInf t (x != y), fDZ))
    else if m1 = 0 then (encFin t (x != y) 0 0, fNone)
    else
      let q1 := ratio m1 (e1 - e2)
      rndQ t m false r (x != y) q1.1 (q1.2 * m2)

/-- Integer square root, most significant bit first: `f` bits of the root remain to be tried. -/
def isqrtGo (x : Nat) : Nat → Nat → Nat
  | 0, acc => acc
  | f + 1, acc => let c := acc + 2 ^ f; isqrtGo x f (if c * c ≤ x then c else acc)

/-- ⌊√x⌋. -/
def isqrt (x : Nat) : Nat := isqrtGo x (Nat.log2 x / 2 + 1) 0

/-- √(m × 2^e) as a significand with one sticky bit below 64 exact ones, and its exponent. -/
def sqrtDy (m : Nat) (e : Int) : Nat × Int :=
  let odd := decide (e % 2 ≠ 0)
  let m1 := (if odd then 2 * m else m) * 2 ^ 128
  let e1 := (if odd then e - 1 else e) - 128
  let s := isqrt m1
  (2 * s + (if s * s = m1 then 0 else 1), e1 / 2 - 1)

/-- √a (R103, R515). -/
def fsqrt (t : Ty) (m : RMode) (r : W32) (a : Nat) : Nat × Flags :=
  match val t a with
  | .nan => (canon t, snanFlags t [a])
  | .inf neg => if neg then (canon t, fNV) else (encInf t false, fNone)
  | .fin neg k e =>
    if k = 0 then (encFin t neg 0 0, fNone)
    else if neg then (canon t, fNV)
    else
      let s := sqrtDy k e
      rndQ t m false r false (ratio s.1 s.2).1 (ratio s.1 s.2).2

/-- FRCP (R108): truncated reciprocal. -/
def frcp (t : Ty) (a : Nat) : Nat × Flags :=
  match val t a with
  | .nan => (canon t, snanFlags t [a])
  | .inf neg => (encFin t neg 0 0, fNone)
  | .fin neg k e =>
    if k = 0 then (encInf t neg, fDZ)
    else rndQ t .rtz false 0 neg (ratio k e).2 (ratio k e).1

/-- FRSQ (R108): truncated reciprocal square root. -/
def frsq (t : Ty) (a : Nat) : Nat × Flags :=
  match val t a with
  | .nan => (canon t, snanFlags t [a])
  | .inf neg => if neg then (canon t, fNV) else (encFin t false 0 0, fNone)
  | .fin neg k e =>
    if k = 0 then (encInf t neg, fDZ)
    else if neg then (canon t, fNV)
    else
      let odd := decide (e % 2 ≠ 0)
      let m1 := if odd then 2 * k else k
      let e1 := if odd then e - 1 else e
      let s := isqrt (2 ^ 256 / m1)
      let n := 2 * s + (if s * s * m1 = 2 ^ 256 then 0 else 1)
      let q := ratio n (-(e1 / 2) - 129)
      rndQ t .rtz false 0 false q.1 q.2

/-- Order of two values that are not NaN, with −0 = +0: −1, 0 or 1. -/
def cmpV (a b : Val) : Int :=
  match a, b with
  | .inf x, .inf y => if x = y then 0 else if x then -1 else 1
  | .inf x, _ => if x then -1 else 1
  | _, .inf y => if y then 1 else -1
  | .fin n1 m1 e1, .fin n2 m2 e2 =>
    let s := align n1 m1 e1 n2 m2 e2
    if s.1 < s.2.1 then -1 else if s.1 > s.2.1 then 1 else 0
  | _, _ => 0

def isNegV : Val → Bool
  | .inf n => n
  | .fin n _ _ => n
  | .nan => false

/-- FMIN and FMAX (R104). -/
def fminmax (t : Ty) (mx : Bool) (a b : Nat) : Nat × Flags :=
  let va := val t a
  let vb := val t b
  let fl := snanFlags t [a, b]
  if va = .nan then (if vb = .nan then (canon t, fl) else (b, fl))
  else if vb = .nan then (a, fl)
  else
    let c := cmpV va vb
    let aLess := decide (c < 0) || (decide (c = 0) && isNegV va && !isNegV vb)
    (if aLess != mx then a else b, fl)

/-- FABS and FNEG (R103). -/
def fsign (t : Ty) (neg : Bool) (a : Nat) : Nat × Flags :=
  if val t a = .nan then (canon t, snanFlags t [a])
  else
    let top := 2 ^ (mb t + eb t)
    let mag := a % top
    (if neg && decide (a / top % 2 = 0) then top + mag else mag, fNone)

/-- The predicates of FCMP by FN 0 to 5 (R105) and of VCMP (R114, FN 0 to 5 of its own). -/
def fcmpHolds (t : Ty) (fn : Nat) (a b : Nat) : Bool :=
  let va := val t a
  let vb := val t b
  let un := decide (va = .nan) || decide (vb = .nan)
  let c := cmpV va vb
  match fn with
  | 0 => !un && decide (c = 0)
  | 1 => un || decide (c ≠ 0)
  | 2 => !un && decide (c < 0)
  | 3 => !un && decide (c ≤ 0)
  | 4 => un
  | _ => !un

def fcmpFlags (t : Ty) (quietSignals : Bool) (a b : Nat) : Flags :=
  snanFlags t [a, b] |||
    flagIf (quietSignals && (decide (val t a = .nan) || decide (val t b = .nan))) fNV

/-- FCLASS (R106). -/
def fclass (t : Ty) (a : Nat) : Nat :=
  match val t a with
  | .nan => if isSnan t a then 2 ^ 8 else 2 ^ 9
  | .inf n => if n then 1 else 2 ^ 7
  | .fin n m _ =>
    if m = 0 then (if n then 2 ^ 3 else 2 ^ 4)
    else if m < 2 ^ mb t then (if n then 2 ^ 2 else 2 ^ 5)
    else (if n then 2 else 2 ^ 6)

/-- An integral value as a dyadic rounded by q = 1 (R64, R107), with NX where it differs. -/
def rndiV (m : RMode) (r : W32) (v : Val) : Val × Flags :=
  match v with
  | .fin n k e =>
    if 0 ≤ e then (v, fNone)
    else
      let d := 2 ^ (-e).toNat
      (.fin n (roundN m n k d r) 0, flagIf (decide (k % d ≠ 0)) fNX)
  | _ => (v, fNone)

/-- FRNDI (R107). The rounded value is representable, so the last rounding is exact. -/
def frndi (t : Ty) (m : RMode) (r : W32) (a : Nat) : Nat × Flags :=
  let s := rndiV m r (val t a)
  ((rnd t .rne false 0 s.1).1, s.2 ||| snanFlags t [a])

/-- The count n of FSCALE: val(b) rounded towards zero and clamped to −512 … 512 (R107). -/
def scaleCount (v : Val) : Int :=
  match v with
  | .nan => 0
  | .inf n => if n then -512 else 512
  | .fin n k e =>
    let q := ratio k e
    let i : Int := (q.1 / q.2 : Nat)
    max (-512) (min 512 (if n then -i else i))

/-- a × 2^n for an exact value. -/
def scaleV (v : Val) (n : Int) : Val :=
  match v with
  | .fin s k e => .fin s k (e + n)
  | _ => v

/-- FSCALE (R107). -/
def fscale (t : Ty) (m : RMode) (r : W32) (a b : Nat) : Nat × Flags :=
  let va := val t a
  let vb := val t b
  let fl := snanFlags t [a, b]
  if va = .nan ∨ vb = .nan then (canon t, fl)
  else
    match va with
    | .fin _ 0 _ => (a, fl)
    | .inf _ => (a, fl)
    | _ => let o := rnd t m false r (scaleV va (scaleCount vb)); (o.1, o.2 ||| fl)

/-- FGETEXP (R107). -/
def fgetexp (t : Ty) (a : Nat) : Nat × Flags :=
  match val t a with
  | .nan => (canon t, snanFlags t [a])
  | .inf _ => (encInf t false, fNone)
  | .fin _ k e =>
    if k = 0 then (encInf t true, fDZ)
    else
      let x : Int := (Nat.log2 k : Int) + e
      ((rnd t .rne false 0 (.fin (decide (x < 0)) x.natAbs 0)).1, fNone)

/-! ### FEXP2F and FLOG2F (R109, R110) -/

/-- c0 … c7: (ln 2)^k ÷ k! rounded to FP32 (R109). -/
def expCoef : List Nat :=
  [0x3f800000, 0x3f317218, 0x3e75fdf0, 0x3d635847, 0x3c1d955b, 0x3aaec3ff, 0x39218489, 0x377fe5fe]

/-- The Horner steps of R109 over the remaining coefficients, highest first. -/
def horner (x : Nat) : List Nat → Nat × Flags → Nat × Flags
  | [], acc => acc
  | c :: cs, acc =>
    let s := ffma .f32 false .rne 0 acc.1 x c
    horner x cs (s.1, s.2 ||| acc.2)

def fexp2f (a : Nat) : Nat × Flags :=
  match val .f32 a with
  | .nan => (canon .f32, snanFlags .f32 [a])
  | .inf _ => (canon .f32, fNV)
  | .fin _ k e =>
    if gtScaled k e 1 (-1) then (canon .f32, fNV)
    else
      match expCoef.reverse with
      | [] => (0, fNone)
      | c7 :: cs => horner a cs (c7, fNone)

/-- d0 … d4: 2 ÷ ((2k + 1) ln 2) rounded to FP32 (R110). -/
def logCoef : List Nat := [0x4038aa3b, 0x3f76384f, 0x3f13bb63, 0x3ed30bb1, 0x3ea4258a]

def flog2f (a : Nat) : Nat × Flags :=
  match val .f32 a with
  | .nan => (canon .f32, snanFlags .f32 [a])
  | .inf neg => if neg then (canon .f32, fNV) else (encInf .f32 false, fNone)
  | .fin neg k e =>
    if k = 0 then (encInf .f32 true, fDZ)
    else if neg then (canon .f32, fNV)
    else
      let l := Nat.log2 k
      let x : Int := e + l
      -- m = k × 2^−l lies in [1, 2); compared with h = 0xB504F3 × 2^−23
      let big := gtScaled k (-(l : Int)) 0xB504F3 (-23)
      let me : Int := if big then -(l : Int) - 1 else -(l : Int)
      let ex : Int := if big then x + 1 else x
      -- f = m − 1 and 2 + f = m + 1, both on the exponent me ≤ 0
      let one : Int := (2 ^ (-me).toNat : Nat)
      let fi : Int := (k : Int) - one
      let den : Int := (k : Int) + one
      let s : Nat × Flags :=
        if fi = 0 then (0, fNone)
        else rndQ .f32 .rne false 0 (decide (fi < 0)) fi.natAbs den.natAbs
      let z := fmul .f32 .rne 0 s.1 s.1
      let q : Nat × Flags :=
        match logCoef.reverse with
        | [] => (0, fNone)
        | d4 :: ds => horner z.1 ds (d4, fNone)
      let p := mulV (val .f32 s.1) (val .f32 q.1)
      let t := addV .rne p.1 (.fin (decide (ex < 0)) ex.natAbs 0)
      let o := rnd .f32 .rne false 0 t.1
      (o.1, o.2 ||| s.2 ||| z.2 ||| q.2)

/-! ### Conversions (R67, R68, R111) -/

/-- Floating or integer value to E8M0 (R67). -/
def toE8M0 (v : Val) : Nat × Flags :=
  match v with
  | .nan => (0xFF, fNV)
  | .inf _ => (0xFF, fNV)
  | .fin _ k e =>
    if k = 0 then (0xFF, fNV)
    else
      let l : Int := (Nat.log2 k : Int) + e
      let c := (min (max (l + 127) 0) 254).toNat
      let q := ratio k e
      let same := decide (q.1 * (ratio 1 ((c : Int) - 127)).2 = (ratio 1 ((c : Int) - 127)).1 * q.2)
      (c, flagIf (!same) fNX)

/-- The value of an element for a conversion: floating by R59, integers exact. -/
def valAny (t : Ty) (b : Nat) : Val :=
  if isInt t then
    let i := toInt (isSigned t) (width t) b
    .fin (decide (i < 0)) i.natAbs 0
  else val t b

/-- One element's conversion from s to t, neither E2M1 (R67, R111). -/
def convert (s t : Ty) (m : RMode) (sat : Bool) (r : W32) (b : Nat) : Nat × Flags :=
  let sn := snanFlags s [b]
  if t = .e8m0 then
    let o := toE8M0 (valAny s b); (o.1, o.2 ||| sn)
  else if isInt t then
    if isInt s then
      let i := toInt (isSigned s) (width s) b
      if sat then satInt (isSigned t) (width t) i else (wrap (width t) i, fNone)
    else
      let o := rint t m r (val s b); (o.1, o.2 ||| sn)
  else
    let o := rnd t m sat r (valAny s b); (o.1, o.2 ||| sn)

/-- The value of an E2M1 element code within a block with scale SC and special value SPC (R61). -/
def valBlock (sc spc code : Nat) : Val :=
  if sc = 0xFF then .nan
  else
    let x : Int := (sc : Int) - 127
    if code = 8 then
      if spc = 0 then .fin true 0 0 else scaleV (val .e4m3 spc) x
    else scaleV (val .e2m1 code) x

/-- The greatest magnitude of a list of finite values, as a quotient. -/
def maxMag : List Val → Nat × Nat
  | [] => (0, 1)
  | v :: l =>
    let r := maxMag l
    match v with
    | .fin _ k e => let q := ratio k e; if q.1 * r.2 > r.1 * q.2 then q else r
    | _ => r

/-- An infinite or NaN value. -/
def isSpecial : Val → Bool
  | .fin _ _ _ => false
  | _ => true

/-- A block of 32 values converted to E2M1 (R68): scale, codes, flags. `rs` gives each element's random word. -/
def toBlock (m : RMode) (vs : List Val) (rs : List W32) : Nat × List Nat × Flags :=
  if vs.any isSpecial then (0xFF, vs.map fun _ => 0, fNV)
  else
    let mx := maxMag vs
    let sc : Nat := if mx.1 = 0 then 127 else (min (max (flog2 mx.1 mx.2 - 2 + 127) 0) 254).toNat
    let o := (vs.zip rs).map fun p => rnd .e2m1 m true p.2 (scaleV p.1 (127 - (sc : Int)))
    (sc, o.map (·.1), o.foldl (fun f x => f ||| x.2) fNone)

/-! ### The order of sums (R72, R73) -/

/-- An exact chunk sum (R72): what its products came to. `negZero`: every product is −0. -/
structure Sum where
  v : Val
  negZero : Bool
  deriving DecidableEq, Repr

/-- The exact sum of products, special by R72; NV where it is NaN. -/
def sumProducts (ps : List (Val × Flags)) : Sum × Flags :=
  let anyNan := ps.any fun p => p.1 == .nan
  let posInf := ps.any fun p => p.1 == .inf false
  let negInf := ps.any fun p => p.1 == .inf true
  if anyNan || (posInf && negInf) then (⟨.nan, false⟩, fNV)
  else if posInf then (⟨.inf false, false⟩, fNone)
  else if negInf then (⟨.inf true, false⟩, fNone)
  else
    let negz := ps.all fun p => match p.1 with | .fin true 0 _ => true | _ => false
    (⟨ps.foldl (fun acc p => (addV .rne acc p.1).1) (.fin false 0 0), negz⟩, fNone)

/-- One accumulator update of the matrix engine (R72). -/
def accadd (acc : Nat) (s : Sum) : Nat × Flags :=
  match val .f32 acc, s.v with
  | .nan, _ => (canon .f32, fNV)
  | _, .nan => (canon .f32, fNV)
  | a, b =>
    let t := addV .rne a b
    match t.1 with
    | .nan => (canon .f32, fNV)
    | .inf n => (encInf .f32 n, fNone)
    | .fin _ 0 _ =>
      if acc = 0x80000000 && s.negZero then (0x80000000, fNone) else (0, fNone)
    | v =>
      let x := (rnd .f32 .rne false 0 v).1
      if decide (x / 2 ^ 23 % 256 = 0) && decide (x % 2 ^ 23 ≠ 0) then (x / 2 ^ 31 * 2 ^ 31, fAUF) else (x, fNone)

/-- x0 of a fold: a NaN is canonical, and a signalling one sets NV (R60, R73). -/
def foldStart (t : Ty) (x0 : Nat) : Nat × Flags :=
  if val t x0 = .nan then (canon t, snanFlags t [x0]) else (x0, fNone)

/-- fold(t, m, s, x0 … xn) of R73, with one random word per step. -/
def foldAdd (t : Ty) (m : RMode) : Nat × Flags → List (Nat × W32) → Nat × Flags
  | acc, [] => acc
  | acc, (x, r) :: l =>
    let o := fadd t m r acc.1 x
    foldAdd t m (o.1, o.2 ||| acc.2) l

/-- The steps of FDOT after the first product (R73, R112). -/
def foldDot (t : Ty) (m : RMode) : Nat × Flags → List (Nat × Nat × W32) → Nat × Flags
  | acc, [] => acc
  | acc, (a, b, r) :: l =>
    let o := ffma t false m r a b acc.1
    foldDot t m (o.1, o.2 ||| acc.2) l

/-- xorshift32 with shifts 13, 17, 5 (R69). -/
def xorshift (x : W32) : W32 :=
  let a := x ^^^ (x <<< 13)
  let b := a ^^^ (a >>> 17)
  b ^^^ (b <<< 5)

/-- `n` successive generator states, and the state left (R69, R70). -/
def draws : Nat → W32 → List W32 × W32
  | 0, x => ([], x)
  | n + 1, x => let y := xorshift x; let o := draws n y; (y :: o.1, o.2)

/-! ### Activations of the epilogue (R140) -/

/-- L = log2 e and G = 1.702, rounded (R140). -/
def actL : Nat := 0x3FB8AA3B
def actG : Nat := 0x3fd9db23

def sigF (z : Nat) : Nat :=
  match val .f32 z with
  | .nan => canon .f32
  | .inf n => if n then 0 else 0x3F800000
  | .fin _ _ _ =>
    let x := (fmul .f32 .rne 0 (z ^^^ 0x80000000) actL).1
    match val .f32 x with
    | .inf false => 0
    | .inf true => 0x3F800000
    | _ =>
      let n := (frndi .f32 .rne 0 x).1
      let p := (fexp2f (fsub .f32 .rne 0 x n).1).1
      let e := (fscale .f32 .rne 0 p n).1
      let d := (fadd .f32 .rne 0 0x3F800000 e).1
      (fdiv .f32 .rne 0 0x3F800000 d).1

/-- act(ACT, v) for ACT 0 … 3; a NaN gives the canonical one (R140). -/
def actF (a : Nat) (v : Nat) : Nat :=
  match a with
  | 0 => if val .f32 v = .nan then canon .f32 else v
  | 1 => match val .f32 v with
    | .nan => canon .f32
    | .inf n => if n then 0 else v
    | .fin n m _ => if n || decide (m = 0) then 0 else v
  | 2 => match val .f32 v with
    | .nan => canon .f32
    | .inf true => 0x80000000
    | _ => (fmul .f32 .rne 0 v (sigF (fmul .f32 .rne 0 actG v).1)).1
  | _ => match val .f32 v with
    | .nan => canon .f32
    | .inf true => 0x80000000
    | _ => (fmul .f32 .rne 0 v (sigF v)).1

end Sys2Proof.Machine.Num
end

