-- ==== Sys2Proof/WellFormed.lean ====
section
/-! DEFINITION. Which terms of Instr an encoding can give, or a unit of the module can carry out. For a row of
a core: the function code that names the row, the SP bits that R49 forbids, and the system registers with rows
of their own. For a row of another agent: that the units it names exist (R10 to R15). -/

namespace Sys2Proof

/-- A compute chiplet's number (R11). -/
def wfCompute (n : Nat) : Bool := Config.isCompute n

/-- The number of a site of the module (R10). -/
def wfSite (n : Nat) : Bool := decide (n < 576)

/-- A global core number that a core bears (R15). -/
def wfCore (g : Nat) : Bool := Config.isCore g

/-- A cluster number, 4n + c for a compute chiplet n (R147). -/
def wfCluster (m : Nat) : Bool := Config.isCompute (m / 4)

/-- A GL link, host port or region-independent index below 8. -/
def wfEight (l : Nat) : Bool := decide (l < 8)

/-- SRNs whose SWR is a row of its own (R71, R143, R178, R183). -/
def swrOwnRow (srn : BitVec 12) : Bool := srn = 0x013 || srn = 0x020 || srn = 0x021 || srn = 0x022

/-- Well-formed instructions. -/
def Instr.wf : Instr → Bool
  | .nop => true
  | .add _ => true
  | .sub _ => true
  | .mul _ => true
  | .mulh _ => true
  | .div _ => true
  | .rem _ => true
  | .mac _ => true
  | .dot4 _ => true
  | .adds _ => true
  | .subs _ => true
  | .neg _ => true
  | .absI _ => true
  | .minI _ => true
  | .maxI _ => true
  | .andI _ => true
  | .orI _ => true
  | .xorI _ => true
  | .notI _ => true
  | .shl _ => true
  | .shr _ => true
  | .sra _ => true
  | .rot _ => true
  | .clz _ => true
  | .popc _ => true
  | .mov _ => true
  | .cmpeq _ => true
  | .cmpne _ => true
  | .cmplt _ => true
  | .cmple _ => true
  | .sel _ => true
  | .tags _ => true
  | .ldi _ => true
  | .addImm _ => true
  | .subImm _ => true
  | .mulImm _ => true
  | .andImm _ => true
  | .orImm _ => true
  | .xorImm _ => true
  | .minImm _ => true
  | .maxImm _ => true
  | .cmpeqImm _ => true
  | .cmpneImm _ => true
  | .cmpltImm _ => true
  | .cmpleImm _ => true
  | .pset f => f.fn = 0
  | .psetHi f => f.fn = 1
  | .padd _ => true
  | .paddImm _ => true
  | .pmod _ => true
  | .fadd _ => true
  | .fsub _ => true
  | .fmul _ => true
  | .fma _ => true
  | .fnma _ => true
  | .fdiv _ => true
  | .fsqrt _ => true
  | .frcp _ => true
  | .frsq _ => true
  | .fmin _ => true
  | .fmax _ => true
  | .fabs _ => true
  | .fneg _ => true
  | .fcmp _ => true
  | .fclass _ => true
  | .frndi _ => true
  | .fexp2f _ => true
  | .flog2f _ => true
  | .fscale _ => true
  | .fgetexp _ => true
  | .fcvt _ => true
  | .fsum _ => true
  | .fdot _ => true
  | .faddImm _ => true
  | .fmulImm _ => true
  | .fsubImm _ => true
  | .vcmp _ => true
  | .vset _ => true
  | .vclr _ => true
  | .vcnt _ => true
  | .shuf _ => true
  | .bcast _ => true
  | .pack _ => true
  | .unpk _ => true
  | .lgath _ => true
  | .lscat _ => true
  | .fmtx f => !f.sp
  | .ld _ => true
  | .st _ => true
  | .ldef _ => true
  | .pf _ => true
  | .pin _ => true
  | .unpin _ => true
  | .phase _ => true
  | .fence _ => true
  | .amo _ => true
  | .llog _ => true
  | .barrInit f => f.fn = 1
  | .barrWait f => f.fn = 0
  | .barrExit f => f.fn = 2
  | .ctrset _ => true
  | .ctrdec _ => true
  | .ctrwait _ => true
  | .l1cln _ => true
  | .l1inv f => f.fn = 0
  | .l1invAll f => f.fn = 1
  | .send _ => true
  | .sendr _ => true
  | .migr _ => true
  | .hend _ => true
  | .qcnt _ => true
  | .htset _ => true
  | .waitq _ => true
  | .ecopy _ => true
  | .mma _ => true
  | .mmaz _ => true
  | .aload _ => true
  | .astore _ => true
  | .aclr _ => true
  | .mxwait _ => true
  | .ecoll _ => true
  | .clgrp _ => true
  | .clfree _ => true
  | .publ _ => true
  | .wstart _ => true
  | .wstop _ => true
  | .wresume _ => true
  | .wstat _ => true
  | .br _ => true
  | .bz _ => true
  | .bnz _ => true
  | .bv _ => true
  | .bnv _ => true
  | .bqe _ => true
  | .bqne _ => true
  | .loop _ => true
  | .call _ => true
  | .calli _ => true
  | .ret _ => true
  | .gang _ => true
  | .ungang _ => true
  | .rejoin _ => true
  | .yield _ => true
  | .srd _ => true
  | .swr f => !swrOwnRow f.srn
  | .trap f => !f.sp
  | .eret f => !f.sp
  | .tlbinvPage f => f.fn = 0
  | .tlbinvRange f => f.fn = 1
  | .tlbinvAsid f => f.fn = 2
  | .xlat _ => true
  | .scrubPage f => f.fn = 0
  | .scrubLine f => f.fn = 1
  | .pwrbCap f => f.fn = 0
  | .pwrbGate f => f.fn = 1
  | .brk f => !f.sp
  | .sigchk _ _ => true
  | .lineFetch g => wfCore g
  | .lineRefetch g => wfCore g
  | .writeSpcfg f => f.srn = 0x021
  | .writeSppwr f => f.srn = 0x022
  | .bankOffEffective g _ => wfCore g
  | .bankWake g _ => wfCore g
  | .writeSrseed f => f.srn = 0x013
  | .writeMxrpHlt f => f.srn = 0x020
  | .registerRcb g _ => wfCore g
  | .updateRcb g => wfCore g
  | .unregisterRcb g => wfCore g
  | .teamCall g _ _ => wfCore g
  | .releaseCall g => wfCore g
  | .wstopCall g => wfCore g
  | .ctxrd g => wfCore g
  | .glcnt g => wfCore g
  | .migrateCall g _ _ => wfCore g
  | .imggo port _ _ _ => wfEight port
  | .asnew port _ => wfEight port
  | .askill port => wfEight port
  | .grantCmd port => wfEight port
  | .revokeCmd port => wfEight port
  | .rootreg port _ => wfEight port
  | .winbind port => wfEight port
  | .apbind port => wfEight port
  | .attestCmd port => wfEight port
  | .almpolCmd port => wfEight port
  | .debugCmd port => wfEight port
  | .resumeBrk port => wfEight port
  | .causeOf port => wfEight port
  | .managementPageWrite port _ _ => wfEight port
  | .ringWrite _ => true
  | .apertureRead _ _ _ => true
  | .apertureWrite _ _ _ => true
  | .hostInvalidationRequest port _ _ _ => wfEight port
  | .powerGood => true
  | .clockLock n _ => wfSite n
  | .selftestDone n _ => wfSite n
  | .linksTrained n _ => wfSite n
  | .stateLimitExpiry n => wfSite n
  | .pealPass2 => true
  | .configTransfer n _ => wfSite n
  | .siteFailureInService n _ => wfSite n
  | .sensorTrip _ => true
  | .alarmEvent => true
  | .eraseComplete => true
  | .telemetryFrame _ => true
  | .telemetryStale => true
  | .staleFallback => true
  | .restoreHoldExpiry _ => true
  | .shedNotice n => wfSite n
  | .shedDeadline g => wfCore g
  | .budgetPeriod _ _ _ _ => true
  | .clockHop g => wfCore g
  | .droopStart n => wfSite n
  | .droopClear n => wfSite n
  | .chargeBucketRefill m => wfCluster m
  | .rampWindow m => wfCluster m
  | .holdExpiry g => wfCore g
  | .wakeRequest g => wfCore g
  | .inrushWindow m => wfCluster m
  | .wakeComplete g => wfCore g
  | .launchSkewExpiry n _ => wfSite n
  | .launchTake _ => true
  | .launchDeal n _ => wfSite n
  | .quiescenceSweep => true
  | .queueAgeing g _ => wfCore g
  | .dispatch g => wfCore g
  | .activationStop g _ => wfCore g
  | .contextRestore g _ => wfCore g
  | .kill n _ => wfSite n
  | .asyncFault g => wfCore g
  | .loadReturn g _ => wfCore g
  | .immediatePerform g _ => wfCore g
  | .pageWalk n _ _ => wfSite n
  | .tlbinvBroadcast n => wfSite n
  | .boundaryStart g => wfCore g
  | .phaseBarrierComplete _ => true
  | .packetSend n _ => wfSite n
  | .headerArrival _ => true
  | .packetAccept _ _ _ => true
  | .gapNotice n => wfSite n
  | .sideFlitArrival _ => true
  | .ackArrive n => wfSite n
  | .nackArrive n => wfSite n
  | .resendDelayExpiry n _ => wfSite n
  | .ackTimeout n _ => wfSite n
  | .retentionCopyError n _ => wfSite n
  | .glPacketClose l _ => wfEight l
  | .glPacketReceive l _ _ => wfEight l
  | .remoteCopyDone l _ => wfEight l
  | .glAck l _ => wfEight l
  | .glNack l _ => wfEight l
  | .externalFrame l _ _ _ _ _ => wfEight l
  | .laneFailure l _ _ _ => wfEight l
  | .linkTrainRetry l => wfEight l
  | .linkLost l => wfEight l
  | .mxeCommandStart m => wfCluster m
  | .mxeChunkApply m => wfCluster m
  | .mxeComplete m => wfCluster m
  | .mxeHalt m => wfCluster m
  | .mxeSlotBoundary m => wfCluster m
  | .streamStart m => wfCluster m
  | .streamStep m => wfCluster m
  | .streamWaitPoll m => wfCluster m
  | .wssChunkDecode m => wfCluster m
  | .streamHalt m => wfCluster m
  | .copyStart n _ => wfSite n
  | .copyChunkDecode n _ => wfSite n
  | .copyComplete n _ => wfSite n
  | .copyFault n _ => wfSite n
  | .collectiveCombine _ n => wfSite n
  | .collectiveComplete n _ => wfSite n
  | .groupDrained _ => true
  | .resetAll => true
  | .waitqTimeout g => wfCore g
  | .glLinkTrained l _ => wfEight l
  | .hostPortLaneFault port _ => wfEight port
  | .wstatReply g => wfCore g
  | .clgrpResult g => wfCore g

end Sys2Proof
end

