-- ==== Sys2Proof/Decode.lean ====
section
/-! DEFINITION. Fetch lines and slots (R30 to R34, R48 to R52): bits to instructions and back. Decoding is total and
rejects by name; the core answers every rejection with IILL (R52). The encoder is written from the same tables. -/

namespace Sys2Proof

/-- A slot of a line (R30). -/
abbrev Slot := BitVec 96

/-- Why a slot is no instruction. -/
inductive DecodeErr where
  /-- the map marks the opcode IILL, the fill code included (R52) -/
  | unassigned
  /-- a NOP with a bit set (R52) -/
  | nopBits
  /-- a LIVE word where an instruction stands (R48, R49) -/
  | liveWord
  /-- VP = 0b11 (R37) -/
  | badVp
  /-- RM = 0b111 (R37) -/
  | badRm
  /-- a nonzero reserved field (R36, R52) -/
  | reservedField
  /-- an operand that breaks a constraint of R41 -/
  | badOperand
  /-- SP on a control transfer or FMTX (R49) -/
  | badSp
  /-- a function code that names no row (R37) -/
  | badFn
  deriving DecidableEq, Repr

/-- A slot taken apart by its format (R36). -/
inductive Form where
  | nop
  | m3 (op : Byte) (f : M3)
  | mi (op : Byte) (f : MI)
  | br (op : Byte) (f : BR)
  | en (op : Byte) (f : EN)
  | sy (op : Byte) (f : SY)
  | chk (sp : Bool) (s : BitVec 16)
  | agent
  deriving DecidableEq, Repr

/-! ### Fields -/

/-- The code of a type (R40). -/
def Ty.code : Ty → BitVec 4
  | .i8 => 0 | .i16 => 1 | .i32 => 2 | .i64 => 3 | .u8 => 4 | .u16 => 5 | .u32 => 6 | .u64 => 7
  | .f16 => 8 | .bf16 => 9 | .f32 => 10 | .e4m3 => 11 | .e5m2 => 12 | .e2m1 => 13 | .e8m0 => 14 | .px => 15

/-- The type of a code (R40). -/
def Ty.ofCode (c : BitVec 4) : Ty :=
  match c.toNat with
  | 0 => .i8 | 1 => .i16 | 2 => .i32 | 3 => .i64 | 4 => .u8 | 5 => .u16 | 6 => .u32 | 7 => .u64
  | 8 => .f16 | 9 => .bf16 | 10 => .f32 | 11 => .e4m3 | 12 => .e5m2 | 13 => .e2m1 | 14 => .e8m0 | _ => .px

def Vp.code : Vp → BitVec 2
  | .propagate => 0 | .ignore => 1 | .allValid => 2

def Vp.ofCode (c : BitVec 2) : Option Vp :=
  match c.toNat with
  | 0 => some .propagate | 1 => some .ignore | 2 => some .allValid | _ => none

def Rm.code : Rm → BitVec 3
  | .fm => 0 | .rne => 1 | .rtz => 2 | .rdn => 3 | .rup => 4 | .rna => 5 | .sr => 6

def Rm.ofCode (c : BitVec 3) : Option Rm :=
  match c.toNat with
  | 0 => some .fm | 1 => some .rne | 2 => some .rtz | 3 => some .rdn | 4 => some .rup | 5 => some .rna
  | 6 => some .sr | _ => none

/-- The sixteen bits of an operand field (R41). -/
def Operand.code : Operand → BitVec 16
  | .mem n ds => 0b000#3 ++ n ++ ds
  | .inc n ds => 0b001#3 ++ n ++ ds
  | .off n ds => 0b010#3 ++ n ++ ds
  | .incReg n m => 0b011#3 ++ n ++ 0#7 ++ m
  | .acc => 0x8000
  | .queue n => 0b101#3 ++ n ++ 0#10
  | .imm v => 0b110#3 ++ v
  | .reg n ds => 0b111#3 ++ n ++ ds

/-- The operand of sixteen bits; none where a constraint of R41 is broken. -/
def Operand.ofCode (b : BitVec 16) : Option Operand :=
  let n := b.extractLsb' 10 3
  let ds := b.extractLsb' 0 10
  match (b.extractLsb' 13 3).toNat with
  | 0 => some (.mem n ds)
  | 1 => some (.inc n ds)
  | 2 => some (.off n ds)
  | 3 => if b.extractLsb' 3 7 = 0 then some (.incReg n (b.extractLsb' 0 3)) else none
  | 4 => if b.extractLsb' 0 13 = 0 then some .acc else none
  | 5 => if ds = 0 then some (.queue n) else none
  | 6 => some (.imm (b.extractLsb' 0 13))
  | _ => some (.reg n ds)

/-- One bit. -/
def bit1 (b : Bool) : BitVec 1 := BitVec.ofBool b

/-! ### Encoding -/

def M3.encode (op : Byte) (f : M3) : Slot :=
  op ++ bit1 f.sp ++ f.ty.code ++ f.ln ++ f.vp.code ++ f.rm.code ++ f.fn ++ f.od.code ++ f.oa.code ++ f.ob.code ++
    f.oc.code

def MI.encode (op : Byte) (f : MI) : Slot :=
  op ++ bit1 f.sp ++ f.ty.code ++ f.ln ++ f.vp.code ++ f.rm.code ++ f.fn ++ f.od.code ++ f.oa.code ++ f.imm

def BR.encode (op : Byte) (f : BR) : Slot :=
  op ++ 0#2 ++ f.cnd ++ f.sig ++ f.co.code ++ f.ax.code ++ f.off

def EN.encode (op : Byte) (f : EN) : Slot :=
  op ++ bit1 f.sp ++ f.ty.code ++ 0#9 ++ f.fn ++ f.cb.code ++ f.cp.code ++ f.opt ++ f.sel

def SY.encode (op : Byte) (f : SY) : Slot :=
  op ++ bit1 f.sp ++ f.ty.code ++ f.ln ++ f.vp.code ++ f.rm.code ++ f.fn ++ f.srn ++ 0#4 ++ f.oa.code ++ f.ob.code ++
    f.oc.code

/-- The slot of a form; a row that is no core instruction has none. -/
def Form.encode : Form → Option Slot
  | .nop => some 0
  | .m3 op f => some (f.encode op)
  | .mi op f => some (f.encode op)
  | .br op f => some (f.encode op)
  | .en op f => some (f.encode op)
  | .sy op f => some (f.encode op)
  | .chk sp s => some (0xE9#8 ++ bit1 sp ++ 0#71 ++ s)
  | .agent => none

/-- Format, opcode and fields of an instruction (R52). -/
def Instr.form : Instr → Form
  | .nop => .nop
  | .sigchk sp s => .chk sp s
  | .add f => .m3 0x01 f
  | .sub f => .m3 0x02 f
  | .mul f => .m3 0x03 f
  | .mulh f => .m3 0x04 f
  | .div f => .m3 0x05 f
  | .rem f => .m3 0x06 f
  | .mac f => .m3 0x07 f
  | .dot4 f => .m3 0x08 f
  | .adds f => .m3 0x09 f
  | .subs f => .m3 0x0A f
  | .neg f => .m3 0x0B f
  | .absI f => .m3 0x0C f
  | .minI f => .m3 0x0D f
  | .maxI f => .m3 0x0E f
  | .andI f => .m3 0x0F f
  | .orI f => .m3 0x10 f
  | .xorI f => .m3 0x11 f
  | .notI f => .m3 0x12 f
  | .shl f => .m3 0x13 f
  | .shr f => .m3 0x14 f
  | .sra f => .m3 0x15 f
  | .rot f => .m3 0x16 f
  | .clz f => .m3 0x17 f
  | .popc f => .m3 0x18 f
  | .mov f => .m3 0x19 f
  | .cmpeq f => .m3 0x1A f
  | .cmpne f => .m3 0x1B f
  | .cmplt f => .m3 0x1C f
  | .cmple f => .m3 0x1D f
  | .sel f => .m3 0x1E f
  | .tags f => .m3 0x1F f
  | .ldi f => .mi 0x20 f
  | .addImm f => .mi 0x21 f
  | .subImm f => .mi 0x22 f
  | .mulImm f => .mi 0x23 f
  | .andImm f => .mi 0x24 f
  | .orImm f => .mi 0x25 f
  | .xorImm f => .mi 0x26 f
  | .minImm f => .mi 0x27 f
  | .maxImm f => .mi 0x28 f
  | .cmpeqImm f => .mi 0x29 f
  | .cmpneImm f => .mi 0x2A f
  | .cmpltImm f => .mi 0x2B f
  | .cmpleImm f => .mi 0x2C f
  | .pset f => .mi 0x30 f
  | .psetHi f => .mi 0x30 f
  | .padd f => .m3 0x31 f
  | .paddImm f => .mi 0x33 f
  | .pmod f => .m3 0x32 f
  | .fadd f => .m3 0x40 f
  | .fsub f => .m3 0x41 f
  | .fmul f => .m3 0x42 f
  | .fma f => .m3 0x43 f
  | .fnma f => .m3 0x44 f
  | .fdiv f => .m3 0x45 f
  | .fsqrt f => .m3 0x46 f
  | .frcp f => .m3 0x47 f
  | .frsq f => .m3 0x48 f
  | .fmin f => .m3 0x49 f
  | .fmax f => .m3 0x4A f
  | .fabs f => .m3 0x4B f
  | .fneg f => .m3 0x4C f
  | .fcmp f => .m3 0x4D f
  | .fclass f => .m3 0x4E f
  | .frndi f => .m3 0x4F f
  | .fexp2f f => .m3 0x50 f
  | .flog2f f => .m3 0x51 f
  | .fscale f => .m3 0x52 f
  | .fgetexp f => .m3 0x53 f
  | .fcvt f => .m3 0x54 f
  | .fsum f => .m3 0x55 f
  | .fdot f => .m3 0x56 f
  | .faddImm f => .mi 0x57 f
  | .fmulImm f => .mi 0x58 f
  | .fsubImm f => .mi 0x59 f
  | .vcmp f => .m3 0x60 f
  | .vset f => .m3 0x61 f
  | .vclr f => .m3 0x62 f
  | .vcnt f => .m3 0x63 f
  | .shuf f => .m3 0x64 f
  | .bcast f => .m3 0x65 f
  | .pack f => .m3 0x66 f
  | .unpk f => .m3 0x67 f
  | .lgath f => .m3 0x68 f
  | .lscat f => .m3 0x69 f
  | .fmtx f => .m3 0x7F f
  | .ld f => .m3 0x80 f
  | .st f => .m3 0x81 f
  | .ldef f => .m3 0x82 f
  | .pf f => .m3 0x83 f
  | .pin f => .m3 0x84 f
  | .unpin f => .m3 0x85 f
  | .phase f => .m3 0x86 f
  | .fence f => .m3 0x87 f
  | .amo f => .m3 0x88 f
  | .llog f => .m3 0x89 f
  | .barrInit f => .m3 0x8A f
  | .barrWait f => .m3 0x8A f
  | .barrExit f => .m3 0x8A f
  | .ctrset f => .m3 0x8B f
  | .ctrdec f => .m3 0x8C f
  | .ctrwait f => .m3 0x8D f
  | .l1cln f => .m3 0x8E f
  | .l1inv f => .m3 0x8F f
  | .l1invAll f => .m3 0x8F f
  | .send f => .m3 0xA0 f
  | .sendr f => .m3 0xA1 f
  | .migr f => .br 0xA2 f
  | .hend f => .br 0xA3 f
  | .qcnt f => .m3 0xA4 f
  | .htset f => .m3 0xA5 f
  | .waitq f => .m3 0xA6 f
  | .ecopy f => .en 0xA8 f
  | .mma f => .en 0xA9 f
  | .mmaz f => .en 0xAA f
  | .aload f => .en 0xAB f
  | .astore f => .en 0xAC f
  | .aclr f => .en 0xAD f
  | .mxwait f => .m3 0xAE f
  | .ecoll f => .en 0xAF f
  | .clgrp f => .m3 0xB0 f
  | .clfree f => .m3 0xB1 f
  | .publ f => .en 0xB2 f
  | .wstart f => .en 0xB3 f
  | .wstop f => .m3 0xB4 f
  | .wresume f => .en 0xB5 f
  | .wstat f => .m3 0xB6 f
  | .br f => .br 0xC0 f
  | .bz f => .br 0xC1 f
  | .bnz f => .br 0xC2 f
  | .bv f => .br 0xC3 f
  | .bnv f => .br 0xC4 f
  | .bqe f => .br 0xC5 f
  | .bqne f => .br 0xC6 f
  | .loop f => .br 0xC7 f
  | .call f => .br 0xC8 f
  | .calli f => .br 0xC9 f
  | .ret f => .br 0xCA f
  | .gang f => .m3 0xD0 f
  | .ungang f => .m3 0xD1 f
  | .rejoin f => .m3 0xD2 f
  | .yield f => .m3 0xD3 f
  | .srd f => .sy 0xE0 f
  | .swr f => .sy 0xE1 f
  | .trap f => .m3 0xE2 f
  | .eret f => .m3 0xE3 f
  | .tlbinvPage f => .m3 0xE4 f
  | .tlbinvRange f => .m3 0xE4 f
  | .tlbinvAsid f => .m3 0xE4 f
  | .xlat f => .m3 0xE5 f
  | .scrubPage f => .m3 0xE6 f
  | .scrubLine f => .m3 0xE6 f
  | .pwrbCap f => .m3 0xE7 f
  | .pwrbGate f => .m3 0xE7 f
  | .brk f => .m3 0xE8 f
  | .lineFetch _ => .agent
  | .lineRefetch _ => .agent
  | .writeSpcfg f => .sy 0xE1 f
  | .writeSppwr f => .sy 0xE1 f
  | .bankOffEffective _ _ => .agent
  | .bankWake _ _ => .agent
  | .writeSrseed f => .sy 0xE1 f
  | .writeMxrpHlt f => .sy 0xE1 f
  | .registerRcb _ _ => .agent
  | .updateRcb _ => .agent
  | .unregisterRcb _ => .agent
  | .teamCall _ _ _ => .agent
  | .releaseCall _ => .agent
  | .wstopCall _ => .agent
  | .ctxrd _ => .agent
  | .glcnt _ => .agent
  | .migrateCall _ _ _ => .agent
  | .imggo _ _ _ _ => .agent
  | .asnew _ _ => .agent
  | .askill _ => .agent
  | .grantCmd _ => .agent
  | .revokeCmd _ => .agent
  | .rootreg _ _ => .agent
  | .winbind _ => .agent
  | .apbind _ => .agent
  | .attestCmd _ => .agent
  | .almpolCmd _ => .agent
  | .debugCmd _ => .agent
  | .resumeBrk _ => .agent
  | .causeOf _ => .agent
  | .managementPageWrite _ _ _ => .agent
  | .ringWrite _ => .agent
  | .apertureRead _ _ _ => .agent
  | .apertureWrite _ _ _ => .agent
  | .hostInvalidationRequest _ _ _ _ => .agent
  | .powerGood => .agent
  | .clockLock _ _ => .agent
  | .selftestDone _ _ => .agent
  | .linksTrained _ _ => .agent
  | .stateLimitExpiry _ => .agent
  | .pealPass2 => .agent
  | .configTransfer _ _ => .agent
  | .siteFailureInService _ _ => .agent
  | .sensorTrip _ => .agent
  | .alarmEvent => .agent
  | .eraseComplete => .agent
  | .telemetryFrame _ => .agent
  | .telemetryStale => .agent
  | .staleFallback => .agent
  | .restoreHoldExpiry _ => .agent
  | .shedNotice _ => .agent
  | .shedDeadline _ => .agent
  | .budgetPeriod _ _ _ _ => .agent
  | .clockHop _ => .agent
  | .droopStart _ => .agent
  | .droopClear _ => .agent
  | .chargeBucketRefill _ => .agent
  | .rampWindow _ => .agent
  | .holdExpiry _ => .agent
  | .wakeRequest _ => .agent
  | .inrushWindow _ => .agent
  | .wakeComplete _ => .agent
  | .launchSkewExpiry _ _ => .agent
  | .launchTake _ => .agent
  | .launchDeal _ _ => .agent
  | .quiescenceSweep => .agent
  | .queueAgeing _ _ => .agent
  | .dispatch _ => .agent
  | .activationStop _ _ => .agent
  | .contextRestore _ _ => .agent
  | .kill _ _ => .agent
  | .asyncFault _ => .agent
  | .loadReturn _ _ => .agent
  | .immediatePerform _ _ => .agent
  | .pageWalk _ _ _ => .agent
  | .tlbinvBroadcast _ => .agent
  | .boundaryStart _ => .agent
  | .phaseBarrierComplete _ => .agent
  | .packetSend _ _ => .agent
  | .headerArrival _ => .agent
  | .packetAccept _ _ _ => .agent
  | .gapNotice _ => .agent
  | .sideFlitArrival _ => .agent
  | .ackArrive _ => .agent
  | .nackArrive _ => .agent
  | .resendDelayExpiry _ _ => .agent
  | .ackTimeout _ _ => .agent
  | .retentionCopyError _ _ => .agent
  | .glPacketClose _ _ => .agent
  | .glPacketReceive _ _ _ => .agent
  | .remoteCopyDone _ _ => .agent
  | .glAck _ _ => .agent
  | .glNack _ _ => .agent
  | .externalFrame _ _ _ _ _ _ => .agent
  | .laneFailure _ _ _ _ => .agent
  | .linkTrainRetry _ => .agent
  | .linkLost _ => .agent
  | .mxeCommandStart _ => .agent
  | .mxeChunkApply _ => .agent
  | .mxeComplete _ => .agent
  | .mxeHalt _ => .agent
  | .mxeSlotBoundary _ => .agent
  | .streamStart _ => .agent
  | .streamStep _ => .agent
  | .streamWaitPoll _ => .agent
  | .wssChunkDecode _ => .agent
  | .streamHalt _ => .agent
  | .copyStart _ _ => .agent
  | .copyChunkDecode _ _ => .agent
  | .copyComplete _ _ => .agent
  | .copyFault _ _ => .agent
  | .collectiveCombine _ _ => .agent
  | .collectiveComplete _ _ => .agent
  | .groupDrained _ => .agent
  | .resetAll => .agent
  | .waitqTimeout _ => .agent
  | .glLinkTrained _ _ => .agent
  | .hostPortLaneFault _ _ => .agent
  | .wstatReply _ => .agent
  | .clgrpResult _ => .agent

/-- The slot of an instruction of a core; none for a row that is a step of another agent. -/
def encode (i : Instr) : Option Slot := i.form.encode

/-! ### Decoding -/

/-- The row of an M3 opcode. -/
def m3Row (op : Nat) (f : M3) : Except DecodeErr Instr :=
  match op with
  | 0x01 => .ok (.add f)
  | 0x02 => .ok (.sub f)
  | 0x03 => .ok (.mul f)
  | 0x04 => .ok (.mulh f)
  | 0x05 => .ok (.div f)
  | 0x06 => .ok (.rem f)
  | 0x07 => .ok (.mac f)
  | 0x08 => .ok (.dot4 f)
  | 0x09 => .ok (.adds f)
  | 0x0A => .ok (.subs f)
  | 0x0B => .ok (.neg f)
  | 0x0C => .ok (.absI f)
  | 0x0D => .ok (.minI f)
  | 0x0E => .ok (.maxI f)
  | 0x0F => .ok (.andI f)
  | 0x10 => .ok (.orI f)
  | 0x11 => .ok (.xorI f)
  | 0x12 => .ok (.notI f)
  | 0x13 => .ok (.shl f)
  | 0x14 => .ok (.shr f)
  | 0x15 => .ok (.sra f)
  | 0x16 => .ok (.rot f)
  | 0x17 => .ok (.clz f)
  | 0x18 => .ok (.popc f)
  | 0x19 => .ok (.mov f)
  | 0x1A => .ok (.cmpeq f)
  | 0x1B => .ok (.cmpne f)
  | 0x1C => .ok (.cmplt f)
  | 0x1D => .ok (.cmple f)
  | 0x1E => .ok (.sel f)
  | 0x1F => .ok (.tags f)
  | 0x31 => .ok (.padd f)
  | 0x32 => .ok (.pmod f)
  | 0x40 => .ok (.fadd f)
  | 0x41 => .ok (.fsub f)
  | 0x42 => .ok (.fmul f)
  | 0x43 => .ok (.fma f)
  | 0x44 => .ok (.fnma f)
  | 0x45 => .ok (.fdiv f)
  | 0x46 => .ok (.fsqrt f)
  | 0x47 => .ok (.frcp f)
  | 0x48 => .ok (.frsq f)
  | 0x49 => .ok (.fmin f)
  | 0x4A => .ok (.fmax f)
  | 0x4B => .ok (.fabs f)
  | 0x4C => .ok (.fneg f)
  | 0x4D => .ok (.fcmp f)
  | 0x4E => .ok (.fclass f)
  | 0x4F => .ok (.frndi f)
  | 0x50 => .ok (.fexp2f f)
  | 0x51 => .ok (.flog2f f)
  | 0x52 => .ok (.fscale f)
  | 0x53 => .ok (.fgetexp f)
  | 0x54 => .ok (.fcvt f)
  | 0x55 => .ok (.fsum f)
  | 0x56 => .ok (.fdot f)
  | 0x60 => .ok (.vcmp f)
  | 0x61 => .ok (.vset f)
  | 0x62 => .ok (.vclr f)
  | 0x63 => .ok (.vcnt f)
  | 0x64 => .ok (.shuf f)
  | 0x65 => .ok (.bcast f)
  | 0x66 => .ok (.pack f)
  | 0x67 => .ok (.unpk f)
  | 0x68 => .ok (.lgath f)
  | 0x69 => .ok (.lscat f)
  | 0x7F => if f.sp then .error .badSp else .ok (.fmtx f)
  | 0x80 => .ok (.ld f)
  | 0x81 => .ok (.st f)
  | 0x82 => .ok (.ldef f)
  | 0x83 => .ok (.pf f)
  | 0x84 => .ok (.pin f)
  | 0x85 => .ok (.unpin f)
  | 0x86 => .ok (.phase f)
  | 0x87 => .ok (.fence f)
  | 0x88 => .ok (.amo f)
  | 0x89 => .ok (.llog f)
  | 0x8A => if f.fn = 0 then .ok (.barrWait f) else if f.fn = 1 then .ok (.barrInit f) else if f.fn = 2 then .ok (.barrExit f) else .error .badFn
  | 0x8B => .ok (.ctrset f)
  | 0x8C => .ok (.ctrdec f)
  | 0x8D => .ok (.ctrwait f)
  | 0x8E => .ok (.l1cln f)
  | 0x8F => if f.fn = 0 then .ok (.l1inv f) else if f.fn = 1 then .ok (.l1invAll f) else .error .badFn
  | 0xA0 => .ok (.send f)
  | 0xA1 => .ok (.sendr f)
  | 0xA4 => .ok (.qcnt f)
  | 0xA5 => .ok (.htset f)
  | 0xA6 => .ok (.waitq f)
  | 0xAE => .ok (.mxwait f)
  | 0xB0 => .ok (.clgrp f)
  | 0xB1 => .ok (.clfree f)
  | 0xB4 => .ok (.wstop f)
  | 0xB6 => .ok (.wstat f)
  | 0xD0 => .ok (.gang f)
  | 0xD1 => .ok (.ungang f)
  | 0xD2 => .ok (.rejoin f)
  | 0xD3 => .ok (.yield f)
  | 0xE2 => if f.sp then .error .badSp else .ok (.trap f)
  | 0xE3 => if f.sp then .error .badSp else .ok (.eret f)
  | 0xE4 => if f.fn = 0 then .ok (.tlbinvPage f) else if f.fn = 1 then .ok (.tlbinvRange f) else if f.fn = 2 then .ok (.tlbinvAsid f) else .error .badFn
  | 0xE5 => .ok (.xlat f)
  | 0xE6 => if f.fn = 0 then .ok (.scrubPage f) else if f.fn = 1 then .ok (.scrubLine f) else .error .badFn
  | 0xE7 => if f.fn = 0 then .ok (.pwrbCap f) else if f.fn = 1 then .ok (.pwrbGate f) else .error .badFn
  | 0xE8 => if f.sp then .error .badSp else .ok (.brk f)
  | _ => .error .unassigned

/-- The row of an MI opcode. -/
def miRow (op : Nat) (f : MI) : Except DecodeErr Instr :=
  match op with
  | 0x20 => .ok (.ldi f)
  | 0x21 => .ok (.addImm f)
  | 0x22 => .ok (.subImm f)
  | 0x23 => .ok (.mulImm f)
  | 0x24 => .ok (.andImm f)
  | 0x25 => .ok (.orImm f)
  | 0x26 => .ok (.xorImm f)
  | 0x27 => .ok (.minImm f)
  | 0x28 => .ok (.maxImm f)
  | 0x29 => .ok (.cmpeqImm f)
  | 0x2A => .ok (.cmpneImm f)
  | 0x2B => .ok (.cmpltImm f)
  | 0x2C => .ok (.cmpleImm f)
  | 0x30 => if f.fn = 0 then .ok (.pset f) else if f.fn = 1 then .ok (.psetHi f) else .error .badFn
  | 0x33 => .ok (.paddImm f)
  | 0x57 => .ok (.faddImm f)
  | 0x58 => .ok (.fmulImm f)
  | 0x59 => .ok (.fsubImm f)
  | _ => .error .unassigned

/-- The row of a BR opcode. -/
def brRow (op : Nat) (f : BR) : Except DecodeErr Instr :=
  match op with
  | 0xA2 => .ok (.migr f)
  | 0xA3 => .ok (.hend f)
  | 0xC0 => .ok (.br f)
  | 0xC1 => .ok (.bz f)
  | 0xC2 => .ok (.bnz f)
  | 0xC3 => .ok (.bv f)
  | 0xC4 => .ok (.bnv f)
  | 0xC5 => .ok (.bqe f)
  | 0xC6 => .ok (.bqne f)
  | 0xC7 => .ok (.loop f)
  | 0xC8 => .ok (.call f)
  | 0xC9 => .ok (.calli f)
  | 0xCA => .ok (.ret f)
  | _ => .error .unassigned

/-- The row of an EN opcode. -/
def enRow (op : Nat) (f : EN) : Except DecodeErr Instr :=
  match op with
  | 0xA8 => .ok (.ecopy f)
  | 0xA9 => .ok (.mma f)
  | 0xAA => .ok (.mmaz f)
  | 0xAB => .ok (.aload f)
  | 0xAC => .ok (.astore f)
  | 0xAD => .ok (.aclr f)
  | 0xAF => .ok (.ecoll f)
  | 0xB2 => .ok (.publ f)
  | 0xB3 => .ok (.wstart f)
  | 0xB5 => .ok (.wresume f)
  | _ => .error .unassigned

/-- The row of an SY opcode; four registers have rows of their own for SWR. -/
def syRow (op : Nat) (f : SY) : Except DecodeErr Instr :=
  match op with
  | 0xE0 => .ok (.srd f)
  | 0xE1 =>
    if f.srn = 0x013 then .ok (.writeSrseed f)
    else if f.srn = 0x020 then .ok (.writeMxrpHlt f)
    else if f.srn = 0x021 then .ok (.writeSpcfg f)
    else if f.srn = 0x022 then .ok (.writeSppwr f)
    else .ok (.swr f)
  | _ => .error .unassigned

/-- The instruction of a form. -/
def Form.toInstr : Form → Except DecodeErr Instr
  | .nop => .ok .nop
  | .m3 op f => m3Row op.toNat f
  | .mi op f => miRow op.toNat f
  | .br op f => brRow op.toNat f
  | .en op f => enRow op.toNat f
  | .sy op f => syRow op.toNat f
  | .chk sp s => .ok (.sigchk sp s)
  | .agent => .error .unassigned

/-- Formats of the opcode map (R52). -/
inductive Fmt where
  | nop | m3 | mi | br | en | sy | chk | live | bad
  deriving DecidableEq, Repr

/-- The format of an opcode (R52). -/
def fmtOf (op : Nat) : Fmt :=
  if op = 0 then .nop
  else if op ≤ 0x1F then .m3
  else if op ≤ 0x2C then .mi
  else if op ≤ 0x2F then .bad
  else if op = 0x30 ∨ op = 0x33 then .mi
  else if op ≤ 0x32 then .m3
  else if op ≤ 0x3F then .bad
  else if op ≤ 0x56 then .m3
  else if op ≤ 0x59 then .mi
  else if op ≤ 0x5F then .bad
  else if op ≤ 0x69 then .m3
  else if op ≤ 0x7E then .bad
  else if op ≤ 0x8F then .m3
  else if op ≤ 0x9F then .bad
  else if op ≤ 0xA1 then .m3
  else if op ≤ 0xA3 then .br
  else if op ≤ 0xA6 then .m3
  else if op = 0xA7 then .bad
  else if op ≤ 0xAD then .en
  else if op = 0xAE then .m3
  else if op = 0xAF then .en
  else if op ≤ 0xB1 then .m3
  else if op ≤ 0xB3 then .en
  else if op = 0xB4 then .m3
  else if op = 0xB5 then .en
  else if op = 0xB6 then .m3
  else if op ≤ 0xBF then .bad
  else if op ≤ 0xCA then .br
  else if op ≤ 0xCF then .bad
  else if op ≤ 0xD3 then .m3
  else if op ≤ 0xDF then .bad
  else if op ≤ 0xE1 then .sy
  else if op ≤ 0xE8 then .m3
  else if op = 0xE9 then .chk
  else if op = 0xEF then .live
  else .bad

/-- VP and RM of a slot, in the places R36 gives them. -/
def vpRm (w : Slot) : Except DecodeErr (Vp × Rm) :=
  match Vp.ofCode (w.extractLsb' 77 2) with
  | none => .error .badVp
  | some v => match Rm.ofCode (w.extractLsb' 74 3) with
    | none => .error .badRm
    | some r => .ok (v, r)

/-- The operand whose field starts at bit `k`. -/
def operandAt (w : Slot) (k : Nat) : Except DecodeErr Operand :=
  match Operand.ofCode (w.extractLsb' k 16) with
  | none => .error .badOperand
  | some o => .ok o

/-- Bit `k` of a slot. -/
def bitAt (w : Slot) (k : Nat) : Bool := w.getLsbD k

def parseM3 (w : Slot) : Except DecodeErr M3 := do
  let (v, r) ← vpRm w
  let od ← operandAt w 48
  let oa ← operandAt w 32
  let ob ← operandAt w 16
  let oc ← operandAt w 0
  return ⟨bitAt w 87, Ty.ofCode (w.extractLsb' 83 4), w.extractLsb' 79 4, v, r, w.extractLsb' 64 10, od, oa, ob, oc⟩

def parseMI (w : Slot) : Except DecodeErr MI := do
  let (v, r) ← vpRm w
  let od ← operandAt w 48
  let oa ← operandAt w 32
  return ⟨bitAt w 87, Ty.ofCode (w.extractLsb' 83 4), w.extractLsb' 79 4, v, r, w.extractLsb' 64 10, od, oa,
    w.extractLsb' 0 32⟩

def parseBR (w : Slot) : Except DecodeErr BR := do
  if bitAt w 87 then throw .badSp
  if bitAt w 86 then throw .reservedField
  let co ← operandAt w 48
  let ax ← operandAt w 32
  return ⟨w.extractLsb' 80 6, w.extractLsb' 64 16, co, ax, w.extractLsb' 0 32⟩

def parseEN (w : Slot) : Except DecodeErr EN := do
  if w.extractLsb' 74 9 ≠ 0 then throw .reservedField
  let cb ← operandAt w 48
  let cp ← operandAt w 32
  return ⟨bitAt w 87, Ty.ofCode (w.extractLsb' 83 4), w.extractLsb' 64 10, cb, cp, w.extractLsb' 16 16,
    w.extractLsb' 0 16⟩

def parseSY (w : Slot) : Except DecodeErr SY := do
  let (v, r) ← vpRm w
  if w.extractLsb' 48 4 ≠ 0 then throw .reservedField
  let oa ← operandAt w 32
  let ob ← operandAt w 16
  let oc ← operandAt w 0
  return ⟨bitAt w 87, Ty.ofCode (w.extractLsb' 83 4), w.extractLsb' 79 4, v, r, w.extractLsb' 64 10,
    w.extractLsb' 52 12, oa, ob, oc⟩

/-- The form of a slot. -/
def parse (w : Slot) : Except DecodeErr Form :=
  let op : Byte := w.extractLsb' 88 8
  match fmtOf op.toNat with
  | .nop => if w = 0 then .ok .nop else .error .nopBits
  | .m3 => (parseM3 w).map (.m3 op)
  | .mi => (parseMI w).map (.mi op)
  | .br => (parseBR w).map (.br op)
  | .en => (parseEN w).map (.en op)
  | .sy => (parseSY w).map (.sy op)
  | .chk => if w.extractLsb' 16 71 = 0 then .ok (.chk (bitAt w 87) (w.extractLsb' 0 16)) else .error .reservedField
  | .live => .error .liveWord
  | .bad => .error .unassigned

/-- The instruction of a slot. -/
def decode (w : Slot) : Except DecodeErr Instr :=
  match parse w with
  | .error e => .error e
  | .ok f => f.toInstr

/-- The instruction whose low bits are `w`, higher bits zero: a slot is one word of 96 bits, bit j of the slot being
instruction bit i[j] (R30). -/
def decodeTableWord (_nbits w : Nat) : Option Instr :=
  match decode (BitVec.ofNat 96 w) with
  | .ok i => some i
  | .error _ => none

/-! ### LIVE words, lines, templates -/

/-- The LIVE word of a mask (R48). -/
def liveSlot (m : BitVec 18) : Slot := 0xEF#8 ++ 0#70 ++ m

/-- The mask of a LIVE word; none if the slot is not one, or a reserved bit is set (R48). -/
def liveMask? (w : Slot) : Option (BitVec 18) :=
  if w.extractLsb' 88 8 = 0xEF ∧ w.extractLsb' 18 70 = 0 then some (w.extractLsb' 0 18) else none

/-- Slot k of a line (R30). -/
def lineSlot (l : BitVec 512) (k : Nat) : Slot := l.extractLsb' (96 * k) 96

/-- The line word (R30). -/
def lineWord (l : BitVec 512) : W32 := l.extractLsb' 480 32

/-- Number of ones. -/
def onesOf {w : Nat} (b : BitVec w) : Nat := ((List.range w).filter fun k => b.getLsbD k).length

/-- Parity bit c of a line, computed over its covered bits (R30, R31). -/
def parityOf (l : BitVec 512) (c : Nat) : Bool :=
  let b : BitVec 128 := l.extractLsb' (128 * c) 128
  let b' : BitVec 128 := if c = 3 then b &&& (BitVec.allOnes 128 >>> 4) else b
  onesOf b' % 2 = 1

/-- Every parity bit of the line agrees with its covered bits (R31). -/
def parityOk (l : BitVec 512) : Bool :=
  (List.range 4).all fun c => (lineWord l).getLsbD (28 + c) == parityOf l c

/-- A line of five slots, template and target mask, with its parity (R30). -/
def mkLine (s : List Slot) (tpl : BitVec 4) (tgt : BitVec 5) : BitVec 512 :=
  let body : BitVec 480 := s.getD 4 0 ++ s.getD 3 0 ++ s.getD 2 0 ++ s.getD 1 0 ++ s.getD 0 0
  let l0 : BitVec 512 := 0#23 ++ tpl ++ tgt ++ body
  let par : BitVec 4 := bit1 (parityOf l0 3) ++ bit1 (parityOf l0 2) ++ bit1 (parityOf l0 1) ++ bit1 (parityOf l0 0)
  par ++ l0.extractLsb' 0 508

/-- The pairs a template names (R33): first slot, and whether its class is X. -/
def pairsOf (tpl : Nat) : List (Nat × Bool) :=
  match tpl with
  | 0x0 => [] | 0x1 => [(0, true)] | 0x2 => [(1, true)] | 0x3 => [(2, true)] | 0x4 => [(3, true)]
  | 0x5 => [(0, false)] | 0x6 => [(1, false)] | 0x7 => [(2, false)] | 0x8 => [(3, false)]
  | 0x9 => [(0, true), (2, true)] | 0xA => [(0, true), (3, true)] | 0xB => [(1, true), (3, true)]
  | 0xC => [(0, false), (2, false)] | 0xD => [(0, false), (3, false)] | 0xE => [(1, false), (3, false)]
  | _ => [(0, true), (2, false)]

/-- A slot an X-class place of a pair may hold: `x`; or a C-class place (R34, R52). -/
def pairable (x : Bool) (w : Slot) : Bool :=
  let op := (w.extractLsb' 88 8).toNat
  match fmtOf op with
  | .nop => true
  | .bad => false
  | .live => false
  | _ =>
    if op = 0x7F then false
    else
      let isX := decide (op ≤ 0x2C) || (decide (0x40 ≤ op) && decide (op ≤ 0x69)) ||
        (decide (0x80 ≤ op) && decide (op ≤ 0x82)) || op == 0x88 || op == 0x89
      isX == x

/-- A control-transfer instruction: BR format, TRAP, ERET, BRK (R34). -/
def isTransfer (w : Slot) : Bool :=
  let op := (w.extractLsb' 88 8).toNat
  fmtOf op = .br || op == 0xE2 || op == 0xE3 || op == 0xE8

/-- A pair that R34 calls invalid. -/
def pairBad (l : BitVec 512) (p : Nat × Bool) : Bool :=
  let a := lineSlot l p.1
  let b := lineSlot l (p.1 + 1)
  !pairable p.2 a || !pairable (!p.2) b || isTransfer a || a.getLsbD 87 || (lineWord l).getLsbD (p.1 + 1)

/-- A fault of the line word: reserved bits, template, targets on LIVE words or on the second slot of a pair (R30,
R34, R49, R53 row 3). -/
def lineBad (l : BitVec 512) : Bool :=
  let lw := lineWord l
  lw.extractLsb' 9 19 != 0 ||
    (pairsOf (lw.extractLsb' 5 4).toNat).any (pairBad l) ||
    (List.range 5).any fun k => lw.getLsbD k && (lineSlot l k).extractLsb' 88 8 == 0xEF

/-- The four bytes of an instruction that a signature covers (R51). -/
def coveredBytes (w : Slot) : List Byte :=
  [w.extractLsb' 88 8, (w.extractLsb' 58 3).zeroExtend 8, (w.extractLsb' 42 3).zeroExtend 8,
   (w.extractLsb' 26 3).zeroExtend 8]

/-! ### Check codes -/

/-- One bit of CRC-16 with polynomial 0x1021 (R51). -/
def crc16Bit (c : W16) : W16 := if c.getLsbD 15 then (c <<< 1) ^^^ 0x1021 else c <<< 1

/-- CRC-16 over one byte, most significant bit first (R51). -/
def crc16Byte (c : W16) (b : Byte) : W16 := iter crc16Bit 8 (c ^^^ (b.zeroExtend 16 <<< 8))

/-- CRC-16 over bytes (R51). -/
def crc16 (c : W16) (l : List Byte) : W16 := l.foldl crc16Byte c

/-- The running CRC after an instruction (R441). -/
def foldInstr (c : W16) (i : Instr) : W16 :=
  match encode i with
  | some w => crc16 c (coveredBytes w)
  | none => c

/-- One bit of CRC-32C, reflected. -/
def crc32Bit (c : W32) : W32 := if c.getLsbD 0 then (c >>> 1) ^^^ 0x82F63B78 else c >>> 1

/-- CRC-32C over one byte. -/
def crc32Byte (c : W32) (b : Byte) : W32 := iter crc32Bit 8 (c ^^^ b.zeroExtend 32)

/-- CRC-32C over bytes from a running value; initial value and final inversion are the caller's. -/
def crc32Run (c : W32) (l : List Byte) : W32 := l.foldl crc32Byte c

end Sys2Proof
end

