-- ==== Sys2Proof/Machine/Mem.lean ====
section
/-! DEFINITION. Access to the parts of the state, physical and host memory, page tables and translation caches
(R185 to R188, R384 to R394, R210, R211). -/

namespace Sys2Proof.Machine

/-! ### Units -/

/-- The core of a global core number. -/
def State.core (s : State) (g : Nat) : Core := KV.get Core.reset s.cores g

def State.setCore (s : State) (g : Nat) (c : Core) : State := { s with cores := KV.putD Core.reset g c s.cores }

def State.modCore (s : State) (g : Nat) (f : Core → Core) : State := s.setCore g (f (s.core g))

/-- The chiplet of a site. -/
def State.chip (s : State) (n : Nat) : Chip := KV.get Chip.reset s.chips n

def State.setChip (s : State) (n : Nat) (c : Chip) : State := { s with chips := KV.putD Chip.reset n c s.chips }

def State.modChip (s : State) (n : Nat) (f : Chip → Chip) : State := s.setChip n (f (s.chip n))

/-- The matrix engine of cluster m = 4n + c (R147). -/
def State.mxe (s : State) (m : Nat) : Mxe := (s.chip (m / 4)).mxe.getD (m % 4) Mxe.reset

def State.setMxe (s : State) (m : Nat) (x : Mxe) : State :=
  s.modChip (m / 4) fun c => { c with mxe := c.mxe.set! (m % 4) x }

/-- Power state of cluster m. -/
def State.pwr (s : State) (m : Nat) : ClusterPwr := (s.chip (m / 4)).pwr.getD (m % 4) ClusterPwr.reset

def State.setPwr (s : State) (m : Nat) (p : ClusterPwr) : State :=
  s.modChip (m / 4) fun c => { c with pwr := c.pwr.set! (m % 4) p }

def State.link (s : State) (l : Nat) : GlLink := s.links.getD l GlLink.reset

def State.setLink (s : State) (l : Nat) (k : GlLink) : State := { s with links := s.links.set! l k }

def State.port (s : State) (p : Nat) : HostPort := s.ports.getD p HostPort.reset

def State.setPort (s : State) (p : Nat) (h : HostPort) : State := { s with ports := s.ports.set! p h }

/-- Cluster m = 4n + c of a core (R147). -/
def clusterOfCore (g : Nat) : Nat := 4 * (g / 64) + g % 64 / 16

/-- Draw a free value (log 7). -/
def State.draw (s : State) : W64 × State := (Config.freeValue s.fresh, { s with fresh := s.fresh + 1 })

/-! ### Outcomes of a row -/

abbrev Out := Host.Outcome State Fault Refusal

/-- Carry out a row on a core that exists. -/
def onCore (g : Nat) (s : State) (f : State → State) : Out := if wfCore g then .next (f s) else .fault .noUnit

def onSite (n : Nat) (s : State) (f : State → State) : Out := if wfSite n then .next (f s) else .fault .noUnit

def onCluster (m : Nat) (s : State) (f : State → State) : Out := if wfCluster m then .next (f s) else .fault .noUnit

/-- The clock of a core runs: no droop holds its chiplet, no hop is under way (R364, R365). -/
def State.clockRuns (s : State) (g : Nat) : Bool := !(s.chip (g / 64)).droop && !(s.chip (g / 64)).hops.any fun h => h.1 == g

/-- Carry out a row on the engine clock of a cluster, which a droop stops (R363, R365). -/
def onEngine (m : Nat) (s : State) (f : State → State) : Out :=
  onCluster m s fun s => if (s.chip (m / 4)).droop then s else f s

/-- Carry out a row on one of eight links or host ports. -/
def onEight (l : Nat) (s : State) (f : State → State) : Out := if wfEight l then .next (f s) else .fault .noUnit

/-! ### Bytes -/

/-- Little-endian value of bytes (R3). -/
def leNat : List Byte → Nat
  | [] => 0
  | b :: l => b.toNat + 256 * leNat l

/-- The `n` little-endian bytes of a value (R3). -/
def leBytes : Nat → Nat → List Byte
  | 0, _ => []
  | n + 1, v => BitVec.ofNat 8 v :: leBytes n (v / 256)

/-- Byte field [k, k + n) of a block, little-endian; missing bytes read zero. -/
def fieldOf (l : List Byte) (k n : Nat) : Nat := leNat ((l.drop k).take n)

/-- Bytes as 32-bit words. -/
def wordsOf : List Byte → List W32
  | a :: b :: c :: d :: l => BitVec.ofNat 32 (leNat [a, b, c, d]) :: wordsOf l
  | [] => []
  | l => [BitVec.ofNat 32 (leNat l)]

/-- Words as bytes. -/
def bytesOf (l : List W32) : List Byte := l.flatMap fun w => leBytes 4 w.toNat

/-! ### Physical memory -/

abbrev Memory := List Host.Cell

/-- The byte at an address; an address that is not listed reads zero (DESIGN CHOICE, log 1). -/
def Memory.get (m : Memory) (a : Nat) : Byte := KV.get 0 m a

def Memory.put (m : Memory) (a : Nat) (b : Byte) : Memory := KV.putD 0 a b m

/-- The canonical form: addresses strictly rise and no listed byte is zero. -/
def Memory.wf (m : Memory) : Bool := KV.sorted m && m.all fun c => decide (c.2 ≠ 0)

/-- Key of a byte of host memory: port, PASID and I/O virtual address. -/
def hostKey (port pasid iova : Nat) : Nat := (port * 2 ^ 20 + pasid) * 2 ^ 64 + iova

/-- The byte at a place. -/
def State.byteAt (s : State) (l : Loc) : Byte :=
  match l with
  | .pa a => Memory.get s.mem a
  | .host p d i => KV.get 0 s.hostMem (hostKey p d i)

/-- Store a byte at a place. -/
def State.putByte (s : State) (l : Loc) (b : Byte) : State :=
  match l with
  | .pa a => { s with mem := Memory.put s.mem a b }
  | .host p d i => { s with hostMem := KV.putD 0 (hostKey p d i) b s.hostMem }

def State.bytesAt (s : State) (l : List Loc) : List Byte := l.map s.byteAt

def State.putBytes (s : State) (l : List (Loc × Byte)) : State := l.foldl (fun t x => t.putByte x.1 x.2) s

/-- The place `k` bytes on. -/
def Loc.plus (l : Loc) (k : Nat) : Loc :=
  match l with
  | .pa a => .pa (a + k)
  | .host p d i => .host p d (i + k)

/-- `n` places from `l`. -/
def Loc.span (l : Loc) (n : Nat) : List Loc := (List.range n).map l.plus

/-- Physical bytes as a little-endian number. -/
def State.paNat (s : State) (a n : Nat) : Nat := leNat (s.bytesAt (Loc.span (.pa a) n))

/-- A line of 128 bytes that is poisoned (R438). -/
def State.poisonedAt (s : State) (l : Loc) : Bool :=
  match l with
  | .pa a => s.poison.contains (a / 128)
  | .host _ _ _ => false

/-- A site in FAILED or ISOLATED serves no page (R447, R448). -/
def State.siteDown (s : State) (n : Nat) : Bool := (s.chip n).peal == 7 || (s.chip n).peal == 8

/-- Owner of a 2 MiB block; a block past the 12 GiB of its stack is no block of DRAM, and those of a memory chiplet that serves
no page are left out (R387, R391, R448). -/
def State.ownerOf (s : State) (block : Nat) : W16 :=
  if block % 8192 < 6144 ∧ block / 8192 < 160 then
    (if s.siteDown (Config.memoryOfIndex (block / 8192)) then 0 else KV.get 0 s.owner block)
  else 0

/-- A marked 4 KiB frame (R438). -/
def State.marked (s : State) (frame : Nat) : Bool := s.marks.contains frame

/-- The host translates a page for a PASID: cached in the port, or not refused (R414). -/
def State.hostOk (s : State) (l : Loc) : Bool :=
  match l with
  | .pa _ => true
  | .host p d i => (s.port p).atc.contains (d, i / 4096) || !s.hostRefuse.contains (hostKey p d (i / 4096))

/-- The port keeps the translation of an access it carried out, 1,024 at most (R414). -/
def State.hostFill (s : State) (l : Loc) : State :=
  match l with
  | .pa _ => s
  | .host p d i =>
    if (s.port p).atc.contains (d, i / 4096) then s
    else s.setPort p { s.port p with atc := ((d, i / 4096) :: (s.port p).atc).take 1024 }

/-- Note the last writer of the frames of some places (R438). -/
def State.noteWriter (s : State) (asid : W16) (l : List Loc) : State :=
  { s with writers := l.foldl (fun w x => match x with
      | .pa a => KV.put (a / 4096) asid w
      | .host _ _ _ => w) s.writers }

/-- A place in memory of the host (R414). -/
def Loc.isHost (l : Loc) : Bool :=
  match l with
  | .pa _ => false
  | .host _ _ _ => true

/-- Bytes stored at their homes for an address space: written, their frames' last writer noted (R438). -/
def State.storeHome (s : State) (asid : W16) (l : List (Loc × Byte)) : State :=
  ((l.foldl (fun t x => t.hostFill x.1) s).putBytes l).noteWriter asid (l.map (·.1))

/-! ### Page tables (R386 to R391) -/

/-- Bits 63:57 equal bit 56 (R386). -/
def canonical (va : W64) : Bool :=
  va.extractLsb' 57 7 == (if va.getLsbD 56 then BitVec.allOnes 7 else 0)

def hkOf (e : W64) : Nat := (e.extractLsb' 56 2).toNat
def hselOf (e : W64) : Nat := (e.extractLsb' 42 14).toNat
def frameOf (e : W64) : Nat := (e.extractLsb' 12 30).toNat

/-- Page size of a leaf at a level, C64 included. -/
def leafSize (e : W64) (level : Nat) : Nat :=
  if level = 1 then 2 ^ 30 else if level = 2 then 2 ^ 21 else if e.getLsbD 10 then 65536 else 4096

/-- A pointer entry that keeps the rule of R388. -/
def pointerOk (e : W64) : Bool := e.extractLsb' 1 11 == 0 && e.extractLsb' 42 22 == 0

/-- A malformed leaf (R388, R389, R390). -/
def leafBad (e : W64) (level : Nat) : Bool :=
  level == 0 || hkOf e == 3 || e.extractLsb' 58 6 != 0 ||
  (e.getLsbD 2 && e.getLsbD 4) ||
  (level != 3 && frameOf e * 4096 % leafSize e level != 0) ||
  (hkOf e == 0 && !e.getLsbD 6 && hselOf e != 0) ||
  (hkOf e == 1 && decide (400 ≤ hselOf e / 16)) ||
  (hkOf e == 2 && (decide (8 ≤ hselOf e) || e.getLsbD 3 || e.getLsbD 4 || e.getLsbD 6 || e.getLsbD 8 || !e.getLsbD 5)) ||
  (e.getLsbD 6 && (level != 3 || hkOf e != 0 || e.getLsbD 5 || e.getLsbD 10 || frameOf e % 2 != 0)) ||
  (e.getLsbD 10 && level != 3)

/-- The address space of a table byte or frame owns it (R391). -/
def State.owns (s : State) (asid : W16) (pa n : Nat) : Bool :=
  (List.range (n / 2 ^ 21 + 1)).all fun k => n ≤ k * 2 ^ 21 || s.ownerOf (pa / 2 ^ 21 + k) == asid

/-- Every frame a leaf names is owned; host frames are the host's to check (R391). -/
def State.leafOwned (s : State) (asid : W16) (e : W64) (level : Nat) : Bool :=
  if hkOf e = 2 then true
  else if e.getLsbD 6 then s.owns asid (frameOf e * 4096) 8192
  else
    let size := leafSize e level
    s.owns asid (frameOf e * 4096 / size * size) size

/-- Index of an address at a level (R386). -/
def vaIndex (va : W64) (level : Nat) : Nat :=
  match level with
  | 0 => (va.extractLsb' 39 18).toNat
  | 1 => (va.extractLsb' 30 9).toNat
  | 2 => (va.extractLsb' 21 9).toNat
  | _ => (va.extractLsb' 12 9).toNat

/-- The walk from a table at `level`, on fuel 4 − level: the leaf and its page size (R386, R388, R391). A table in a marked
frame is not read (R438). -/
def State.walkFrom (s : State) (asid : W16) (va : W64) : Nat → Nat → Nat → Except FCode (W64 × Nat)
  | 0, _, _ => .error .txnp
  | fuel + 1, level, table =>
    let ea := table + 8 * vaIndex va level
    if !s.owns asid table (if level = 0 then 2 ^ 21 else 4096) then .error .txnp
    else if s.marked (ea / 4096) then .error .quar
    else if s.poisonedAt (.pa ea) then .error .eccu
    else
      let e : W64 := BitVec.ofNat 64 (s.paNat ea 8)
      if !e.getLsbD 0 then .error .txnp
      else if !e.getLsbD 9 && level != 3 then
        if pointerOk e then s.walkFrom asid va fuel (level + 1) (frameOf e * 4096) else .error .txnp
      else if !e.getLsbD 9 || leafBad e level || !s.leafOwned asid e level then .error .txnp
      else .ok (e, leafSize e level)

/-- The record of an address space, while translations of it are made (R384). -/
def State.space? (s : State) (asid : W16) : Option Space :=
  match KV.find s.spaces asid.toNat with
  | some r => if r.killed then none else some r
  | none => none

/-- The four-level walk (R386, R394). -/
def State.walk (s : State) (asid : W16) (va : W64) : Except FCode (W64 × Nat) :=
  if !canonical va then .error .txnp
  else match s.space? asid with
    | none => .error .txnp
    | some r => s.walkFrom asid va 4 0 r.root

/-- A cached translation of an address (R393). -/
def tlbFind (l : List TlbEntry) (asid : W16) (va : W64) : Option TlbEntry :=
  l.find? fun e => e.asid == asid && va.toNat / e.size == e.vpage

/-- A cache of `cap` entries takes a translation; the oldest leaves (DESIGN CHOICE, log 9). -/
def tlbFill (cap : Nat) (l : List TlbEntry) (e : TlbEntry) : List TlbEntry :=
  if l.contains e then l else (e :: l).take cap

/-- The shared cache of 512 sets of 8 ways takes a translation: the oldest of its set leaves. The set is the page's number
mod 512 (R393; DESIGN CHOICE, log 9). -/
def tlbFillShared (l : List TlbEntry) (e : TlbEntry) : List TlbEntry :=
  if l.contains e then l
  else
    let same := l.filter fun x => x.vpage % 512 == e.vpage % 512
    e :: (if same.length < 8 then l else match same.getLast? with
      | some o => l.erase o
      | none => l)

/-- Whose own translation cache stands before the shared one (R121, R393): a core's, an engine unit's by its number in
`Chip.ptlb`, or nobody's. -/
inductive Cache where
  | core (g : Nat)
  | unit (u : Nat)
  | shared
  deriving DecidableEq, Repr

/-- The entries of a requester's own cache on chiplet n. -/
def State.ownTlb (s : State) (k : Cache) (n : Nat) : List TlbEntry :=
  match k with
  | .core g => (s.core g).tlb
  | .unit u => KV.get [] (s.chip n).ptlb u
  | .shared => []

/-- Translation through the requester's own cache, its chiplet's shared one and the walkers. A walk is done within the step of
the access that misses; waiting for a walker is time (R393, R394; log 104). -/
def State.lookup (s : State) (k : Cache) (n : Nat) (asid : W16) (va : W64) : Except FCode TlbEntry :=
  match tlbFind (s.ownTlb k n) asid va with
  | some e => .ok e
  | none =>
    match tlbFind (s.chip n).tlb asid va with
    | some e => .ok e
    | none =>
      match s.walk asid va with
      | .ok (leaf, size) => .ok ⟨asid, va.toNat / size, size, leaf, false⟩
      | .error f => .error f

/-- A page overlaps [lo, hi), a range that may pass 2^64. -/
def pageIn (e : TlbEntry) (lo hi : Nat) : Bool :=
  let a := e.vpage * e.size
  decide (lo < hi) && ((decide (a < hi) && decide (lo < a + e.size)) ||
    (decide (a + 2 ^ 64 < hi) && decide (lo < a + 2 ^ 64 + e.size)))

/-- An invalidation covers an entry. -/
def Inval.covers (v : Inval) (e : TlbEntry) : Bool := e.asid == v.asid && pageIn e v.lo v.hi

/-- A PHASED translation that a group has still to drop at its acquire is marked, walked anew or not (R396). -/
def Chip.markStale (c : Chip) (e : TlbEntry) : TlbEntry :=
  if !e.leaf.getLsbD 5 && c.phinv.any fun p => p.1.covers e then { e with stale := true } else e

/-- Fill the caches on the way with an entry (R393). -/
def State.fillTlb (s : State) (k : Cache) (n : Nat) (e : TlbEntry) : State :=
  let e := (s.chip n).markStale e
  let s := s.modChip n fun c => { c with tlb := tlbFillShared c.tlb e }
  match k with
  | .core g => s.modCore g fun c => { c with tlb := tlbFill 32 c.tlb e }
  | .unit u => s.modChip n fun c => { c with ptlb := KV.put u (tlbFill 16 (KV.get [] c.ptlb u) e) c.ptlb }
  | .shared => s

/-- Change every translation cache of a chiplet but those of its cores. -/
def Chip.mapTlbs (c : Chip) (f : List TlbEntry → List TlbEntry) : Chip :=
  { c with tlb := f c.tlb, ptlb := c.ptlb.map fun (x : Nat × List TlbEntry) => (x.1, f x.2) }

/-- What an access needs of a leaf (R392). -/
inductive Need where
  | r | w | rw | x | wx | nothing
  deriving DecidableEq, Repr

/-- The permission checks of R392 in their order, the quarantine mark of the frame with QU (R438). -/
def permCheck (leaf : W64) (user marked : Bool) (need : Need) : Option FCode :=
  if leaf.getLsbD 8 || marked then some .quar
  else if leaf.getLsbD 11 && user then some .txperm
  else match need with
    | .r => if leaf.getLsbD 1 then none else some .txperm
    | .w => if leaf.getLsbD 2 then none else some .txperm
    | .rw => if leaf.getLsbD 1 && leaf.getLsbD 2 then none else some .txperm
    | .x => if leaf.getLsbD 3 then none else some .txperm
    | .wx => if leaf.getLsbD 4 then none else some .wxperm
    | .nothing => none

/-- A translated stretch of one page: leaf, first place, length, home (R185). -/
structure Seg where
  va : W64
  len : Nat
  leaf : W64
  base : Loc
  home : Nat
  entry : TlbEntry
  deriving DecidableEq, Repr

/-- IMMEDIATE class (R194). -/
def Seg.imm (x : Seg) : Bool := x.leaf.getLsbD 5

/-- The places of a stretch. -/
def Seg.places (x : Seg) : List Loc := x.base.span x.len

/-- Number of the home of a leaf's page: memory chiplet index, 1000 + 16c + s for an L2 slice, 10000 + port. -/
def homeOf (leaf : W64) (pa : Nat) : Nat :=
  if hkOf leaf = 1 then 1000 + hselOf leaf else if hkOf leaf = 2 then 10000 + hselOf leaf % 8 else pa / 2 ^ 34

/-- First address of the scratchpad window (R180). -/
def windowBase : Nat := 0x00FF000000000000

/-- An address in the scratchpad window (R180). -/
def inWindow (va : W64) : Bool := decide (windowBase ≤ va.toNat) && decide (va.toNat < windowBase + 262144)

/-- Scratchpad offset of a window address. -/
def windowOff (va : W64) : Nat := va.toNat - windowBase

/-- The number of a place, by which select words are told apart. -/
def Loc.key (l : Loc) : Nat :=
  match l with
  | .pa a => a
  | .host p d i => 2 ^ 90 + hostKey p d i

/-- The place of a number. -/
def Loc.ofKey (k : Nat) : Loc :=
  if k < 2 ^ 90 then .pa k else .host ((k - 2 ^ 90) / 2 ^ 84) ((k - 2 ^ 90) / 2 ^ 64 % 2 ^ 20) ((k - 2 ^ 90) % 2 ^ 64)

/-- The site of a home, by the number homeOf gives it. -/
def homeSite (home : Nat) : Nat :=
  if home < 1000 then Config.memoryOfIndex home
  else if home < 10000 then Config.computeOfIndex ((home - 1000) / 16)
  else Config.hostPortChip (home - 10000)

/-- The number of the place of the select word of a twin leaf: any IMMEDIATE page with R will do. The scratchpad window is never
translated; a marked frame and a page that the host refuses are not read (R180, R390, R414, R438). -/
def State.selectPa (s : State) (k : Cache) (n : Nat) (asid : W16) (leaf : W64) : Except FCode Nat :=
  match s.space? asid with
  | none => .error .txnp
  | some r =>
    let va := r.twbase + BitVec.ofNat 64 (8 * hselOf leaf)
    if !canonical va || inWindow va then .error .txnp
    else match s.lookup k n asid va with
    | .error f => .error f
    | .ok e =>
      if e.leaf.getLsbD 5 && e.leaf.getLsbD 1 then
        let a := frameOf e.leaf * 4096 / e.size * e.size + va.toNat % e.size
        let l : Loc := if hkOf e.leaf = 2 then .host (hselOf e.leaf % 8) r.pasid.toNat a else .pa a
        if !s.hostOk l then .error .txnp
        else if hkOf e.leaf != 2 && s.marked (a / 4096) then .error .quar
        else if s.siteDown (homeSite (homeOf e.leaf a)) then .error .relay
        else .ok l.key
      else .error .txnp

/-! ### Engine words at their homes (R272, R509) -/

/-- Bytes in order as aligned 4-byte words or parts of them. -/
def joinWords : List (Loc × Byte) → List (List (Loc × Byte))
  | [] => []
  | x :: l =>
    match joinWords l with
    | (y :: g) :: r => if y.1.key / 4 = x.1.key / 4 then (x :: y :: g) :: r else [x] :: (y :: g) :: r
    | r => [x] :: r

/-- An engine of chiplet n brings bytes to their homes for an address space; each word is written in one step of its own (R272). -/
def State.bring (s : State) (n : Nat) (asid : W16) (cmd : Nat) (l : List (Loc × Byte)) : State :=
  { s with writes := s.writes ++ (joinWords l).map fun b => ⟨n, asid, cmd, b⟩ }

/-- A word that may be written: none brought before it shares a place with it. -/
def State.mayLand (s : State) (k : Nat) (w : HomeWrite) : Bool :=
  !(s.writes.take k).any fun v => v.bytes.any fun x => w.bytes.any fun y => x.1 == y.1

/-- The k-th word is written at its home. -/
def State.landHome (s : State) (k : Nat) : State :=
  match s.writes[k]? with
  | none => s
  | some w => if s.mayLand k w then { s with writes := listDel s.writes k }.storeHome w.asid w.bytes else s

/-- Every word that a command has brought is written, in order: its completion is near. -/
def State.landWrites (s : State) (cmd : Nat) : State :=
  (s.writes.filter fun w => w.cmd == cmd).foldl (fun t w => t.storeHome w.asid w.bytes)
    { s with writes := s.writes.filter fun w => w.cmd != cmd }

/-- A killed address space writes nothing more from a chiplet (R437). -/
def State.dropWrites (s : State) (n : Nat) (asid : W16) : State :=
  { s with writes := s.writes.filter fun w => !(w.chip == n && w.asid == asid) }

/-- CUR as the home holds it (R210). -/
def State.curHome (s : State) (sel : Nat) : Bool := (s.byteAt (Loc.ofKey sel)).getLsbD 0

/-- A core's copy of CUR (R211). -/
def State.curOf (s : State) (g : Nat) (sel : Nat) : Bool := (KV.find (s.core g).cur sel).getD (s.curHome sel)

/-- The line of 128 bytes that holds a place, and its first place. -/
def Loc.line (l : Loc) : Nat := l.key / 128

def Loc.lineStart (l : Loc) : Loc := Loc.ofKey (l.key / 128 * 128)

/-- The lines of IMMEDIATE memory that the command `cmd` of an engine of chiplet n has read (R135, R271). -/
def State.linesOf (s : State) (n cmd : Nat) : List (Nat × List Byte) := KV.get [] (s.chip n).lines cmd

/-- The command reads the line of a place at its home, unless it has read it before. -/
def State.readLine (s : State) (n cmd : Nat) (l : Loc) : State :=
  if (KV.find (s.linesOf n cmd) l.line).isSome then s
  else s.modChip n fun c => { c with
    lines := KV.put cmd (KV.put l.line (s.bytesAt (l.lineStart.span 128)) (s.linesOf n cmd)) c.lines }

/-- The command has ended: its next read of a line is a new one. -/
def State.dropLines (s : State) (n cmd : Nat) : State := s.modChip n fun c => { c with lines := KV.del cmd c.lines }

/-- Which frame of a twin page an access takes. -/
inductive Frame where
  | current
  | shadow
  deriving DecidableEq, Repr

/-- CUR for an access: a core's copy, else the home's, which an uncorrectable error hides (R211, R438). -/
def State.curFor (s : State) (who : Option Nat) (sel : Nat) : Except FCode Bool :=
  match who.bind fun g => KV.find (s.core g).cur sel with
  | some b => .ok b
  | none => if s.poisonedAt (Loc.ofKey sel) then .error .eccu else .ok (s.curHome sel)

/-- One translated stretch within a page: translation, twin frame, checks (R389 to R392). `who` is the core whose copy of CUR
selects. A request to a site in FAILED or ISOLATED is refused at its source (R255, R448; DEDUCED, log 124). -/
def State.seg (s : State) (k : Cache) (n : Nat) (who : Option Nat) (asid : W16) (user : Bool) (va : W64)
    (len : Nat) (need : Need) (fr : Frame) : Except FCode Seg :=
  if !canonical va || inWindow va then .error .txnp
  else match s.lookup k n asid va with
    | .error f => .error f
    | .ok e =>
      let off := va.toNat % e.size
      let base := frameOf e.leaf * 4096 / e.size * e.size
      if hkOf e.leaf = 2 then
        match permCheck e.leaf user false need with
        | some f => .error f
        | none =>
          if s.siteDown (homeSite (homeOf e.leaf 0)) then .error .relay
          else
          let pasid := match s.space? asid with
            | some r => r.pasid.toNat
            | none => 0
          .ok ⟨va, len, e.leaf, .host (hselOf e.leaf % 8) pasid (base + off), homeOf e.leaf 0, e⟩
      else
        match (if e.leaf.getLsbD 6 then
            match s.selectPa k n asid e.leaf with
            | .error f => Except.error f
            | .ok sp => match s.curFor who sp with
              | .error f => .error f
              | .ok cur =>
                let up := match fr with
                  | .current => cur
                  | .shadow => !cur
                Except.ok (if up then frameOf e.leaf * 4096 + 4096 else frameOf e.leaf * 4096)
          else Except.ok base) with
        | .error f => .error f
        | .ok b =>
          let pa := b + off
          match permCheck e.leaf user (s.marked (pa / 4096)) need with
          | some f => .error f
          | none =>
            if s.siteDown (homeSite (homeOf e.leaf pa)) then .error .relay
            else .ok ⟨va, len, e.leaf, .pa pa, homeOf e.leaf pa, e⟩

/-- The stretches of [va, va + len), each within one 4 KiB frame; every check before any effect (R217). -/
def State.segs (s : State) (c : Cache) (n : Nat) (who : Option Nat) (asid : W16) (user : Bool) (need : Need)
    (fr : Frame) : Nat → W64 → Nat → Except FCode (List Seg)
  | 0, _, _ => .ok []
  | fuel + 1, va, len =>
    if len = 0 then .ok []
    else
      let k := min len (4096 - va.toNat % 4096)
      match s.seg c n who asid user va k need fr with
      | .error f => .error f
      | .ok x => match s.segs c n who asid user need fr fuel (va + BitVec.ofNat 64 k) (len - k) with
        | .error f => .error f
        | .ok l => .ok (x :: l)

/-- Places hold a poisoned byte. -/
def State.anyPoison (s : State) (l : List Loc) : Bool := l.any s.poisonedAt

/-- An access by firmware, an engine's front or a descriptor read: the places of [va, va + len) of an address space,
IMMEDIATE where `imm` asks for it. The host may refuse a page of its own (R414); a poisoned line is not read (R438). -/
def State.placesAs (s : State) (n : Nat) (asid : W16) (user : Bool) (va : W64) (len : Nat) (need : Need) (imm : Bool) :
    Except FCode (List Loc) :=
  match s.segs .shared n none asid user need .current (len / 4096 + 2) va len with
  | .error f => .error f
  | .ok l =>
    let p := l.flatMap Seg.places
    if imm && !l.all Seg.imm then .error .txperm
    else if !p.all s.hostOk then .error .txnp
    else if need != .w && s.anyPoison p then .error .eccu
    else .ok p

end Sys2Proof.Machine
end

