-- ==== Sys2Proof/Machine/Pack.lean ====
section
/-! DEFINITION. Byte layouts: the header flit of a packet (R242), targets (R319), activation keys (R203). -/

namespace Sys2Proof.Machine

/-! ### Targets (R319) -/

def tgtKind (t : W64) : Nat := (t.extractLsb' 62 2).toNat
def tgtCh (t : W64) : Nat := (t.extractLsb' 52 10).toNat
def tgtCore (t : W64) : Nat := (t.extractLsb' 46 6).toNat
def tgtOrd (t : W64) : Bool := t.getLsbD 45
def tgtRmt (t : W64) : Bool := t.getLsbD 44
def tgtHix (t : W64) : Nat := (t.extractLsb' 32 12).toNat
def tgtDmod (t : W64) : W16 := t.extractLsb' 16 16
def tgtRid (t : W64) : W16 := t.extractLsb' 0 16

/-- A target word. -/
def mkTarget (kind : BitVec 2) (ch : BitVec 10) (core : BitVec 6) (ord rmt : Bool) (hix : BitVec 12) (dmod rid : W16) :
    W64 :=
  kind ++ ch ++ core ++ bit1 ord ++ bit1 rmt ++ hix ++ dmod ++ rid

/-- An activation key (R203). -/
def mkKey (orig : W16) (seq : W32) : BitVec 48 := orig ++ seq

/-! ### The header flit (R242) -/

/-- The number whose bit j is element j of the list. -/
def bitsNat : List Bool → Nat
  | [] => 0
  | b :: l => (if b then 1 else 0) + 2 * bitsNat l

/-- VMASK of a payload: bit w is the validity of word w. -/
def vmaskBytes (l : List Lane) : List Byte := leBytes 16 (bitsNat (l.map (·.v)))

/-- Bytes of a payload, invalid words as zero (R245). -/
def payloadBytes (l : List Lane) : List Byte := l.flatMap fun x => leBytes 4 (if x.v then x.w.toNat else 0)

/-- Stored payload bytes of a packet (R241). -/
def packetStored (p : Packet) : List Byte := if p.cmp then p.stored else payloadBytes p.words

/-- HX bytes 64–119 of a packet (R242, R260, R508). -/
def hxBytes (h : Option RemoteHx) : List Byte :=
  match h with
  | none => List.replicate 56 0
  | some x => leBytes 2 x.dmod.toNat ++ leBytes 2 x.rdch.toNat ++ leBytes 1 x.rdep.toNat ++ List.replicate 3 0 ++
      leBytes 8 x.addr.toNat ++ List.replicate 40 0

/-- The 128 bytes of a packet's header flit (R242). -/
def packetHeader (p : Packet) : List Byte :=
  let st := packetStored p
  let h := leBytes 2 p.dch ++ leBytes 2 p.sch ++ leBytes 1 p.dep ++ leBytes 1 p.sep ++ leBytes 1 p.cls ++
    leBytes 1 (bitsNat [p.cmp, p.aged, p.rly, p.ms, p.eom]) ++ leBytes 2 p.seq.toNat ++ leBytes 2 p.plen ++
    leBytes 2 st.length ++
    leBytes 2 (p.rch + (if p.ms2 then 2 ^ 13 else 0) + (if p.rv then 2 ^ 14 else 0)) ++ leBytes 2 p.asid.toNat ++
    leBytes 6 p.key.toNat ++ leBytes 8 p.tgt.toNat ++ List.replicate 8 0 ++ vmaskBytes p.words ++
    leBytes 6 p.stamp ++ leBytes 1 p.nk ++ leBytes 1 0 ++ hxBytes p.hx
  let pcrc := crc32Run 0xFFFFFFFF st ^^^ 0xFFFFFFFF
  let h := h ++ leBytes 4 pcrc.toNat
  h ++ leBytes 4 (crc32Run 0xFFFFFFFF h ^^^ 0xFFFFFFFF).toNat

/-- The 640-byte record of a stray or spilled message: header flit, then 512 payload bytes (R297, R303). -/
def packetRecord (p : Packet) : List Byte :=
  packetHeader p ++ (payloadBytes p.words ++ List.replicate 512 0).take 512

end Sys2Proof.Machine
end

