-- ==== Sys2Proof/Machine/Ops.lean ====
section
/-! DEFINITION. The operations the meanings share: registers, scratchpad and journal, counts, reports, rollback,
escalation and kill (R425 to R438), trap entry and return (R402, R403), and how one instruction issues, faults,
waits and retires (R50, R51, R53, R81). -/

namespace Sys2Proof.Machine

/-- Why an instruction does not complete in this step. -/
inductive Exn where
  /-- a fault with the address it reports -/
  | flt (c : FCode) (addr : W64)
  /-- it waits, with no effect, and issues again -/
  | stall
  deriving DecidableEq, Repr

/-- What an instruction that raises nothing leaves. -/
inductive Res where
  /-- the instruction completes -/
  | done (s : State)
  /-- the instruction remains at PC, waiting, with the effect made so far -/
  | hold (s : State)
  /-- the meaning has set PC and the block itself, or the activation has ended -/
  | gone (s : State)
  deriving DecidableEq, Repr

/-! ### Core registers -/

/-- Code of a fault (R425). -/
def FCode.code : FCode → Byte
  | .iill => 0x01 | .pfxuse => 0x02 | .cfv => 0x03 | .sigm => 0x04 | .bankoff => 0x05 | .align => 0x06
  | .priv => 0x07 | .txnp => 0x08 | .txperm => 0x09 | .wxperm => 0x0A | .quar => 0x0B | .logfull => 0x0C
  | .qovf => 0x0D | .hempty => 0x0E | .broken => 0x0F | .eccu => 0x10 | .decode => 0x11 | .cksum => 0x12
  | .linkdown => 0x13 | .shed => 0x14 | .wsblk => 0x15 | .spawn => 0x16 | .relay => 0x17 | .alarm => 0x18

/-- Privilege of a core: 0 user, 1 supervisor, 2 firmware (R77). -/
def Core.pl (c : Core) : Nat := (c.st.extractLsb' 14 2).toNat

def Core.user (c : Core) : Bool := c.pl == 0

/-- ST.PP (R77). -/
def Core.pp (c : Core) : Bool := c.st.getLsbD 13

/-- Write one field of a register: `n` bits at `k`. -/
def putField {w : Nat} (x : BitVec w) (k n v : Nat) : BitVec w :=
  let m : BitVec w := (BitVec.ofNat w (2 ^ n - 1)) <<< k
  (x &&& ~~~m) ||| ((BitVec.ofNat w v <<< k) &&& m)

def Core.setPp (c : Core) (b : Bool) : Core := { c with st := putField c.st 13 1 b.toNat }
def Core.setPl (c : Core) (p : Nat) : Core := { c with st := putField c.st 14 2 p }

/-- Set sticky flags (R66). -/
def Core.orFlags (c : Core) (f : BitVec 8) : Core := { c with st := c.st ||| (f &&& 0xDF).zeroExtend 32 }

/-- TSINF.ACT (R401). -/
def Core.trapActive (c : Core) : Bool := c.tsinf.getLsbD 16

/-- P register n. -/
def Core.preg (c : Core) (n : BitVec 3) : W64 := c.p.getD n.toNat 0

def Core.setP (c : Core) (n : BitVec 3) (v : W64) : Core := { c with p := c.p.set! n.toNat v }

def Core.queue (c : Core) (n : BitVec 3) : List QEntry := c.q.getD n.toNat []

def Core.setQ (c : Core) (n : BitVec 3) (l : List QEntry) : Core := { c with q := c.q.set! n.toNat l }

/-- Depth of a queue in entries (R316). -/
def qDepth (n : BitVec 3) : Nat :=
  match n.toNat with
  | 0 => 32 | 1 => 32 | 2 => 8 | 3 => 8 | _ => 16

/-- The bind record of the running activation, and its number. -/
def Core.curRec (c : Core) : W64 :=
  match c.act with
  | some a => c.brec.getD a.brec 0
  | none => 0

def recV (r : W64) : Bool := r.getLsbD 63
def recShd (r : W64) : Bool := r.getLsbD 62
def recMig (r : W64) : Bool := r.getLsbD 61
def recBase (r : W64) : Nat := (r.extractLsb' 56 3).toNat
def recLvl (r : W64) : Nat := (r.extractLsb' 53 3).toNat
def recAsid (r : W64) : W16 := r.extractLsb' 32 16
def recPhg (r : W64) : W16 := r.extractLsb' 16 16
def recRid (r : W64) : W16 := r.extractLsb' 0 16

/-- A bind record (R348). -/
def mkRec (mig : Bool) (base : BitVec 3) (asid phg rid : W16) : W64 :=
  1#1 ++ 0#1 ++ bit1 mig ++ 0#2 ++ base ++ base ++ 0#5 ++ asid ++ phg ++ rid

/-- Effective shed class of record i (R380). -/
def Core.shedClass (c : Core) (i : Nat) : Nat := (c.brshc.extractLsb' (4 * i) 3).toNat

/-- The record number that binds a region to the core. -/
def Core.recOf (c : Core) (rid : W16) : Option Nat :=
  (List.range 8).find? fun i => recV (c.brec.getD i 0) && recRid (c.brec.getD i 0) == rid

/-- Address space of the running activation: that of its record (R348, R385). -/
def Core.asid (c : Core) : W16 := match c.act with
  | some _ => recAsid c.curRec
  | none => 0

/-- Phase group of the running activation, if its core is bound to one (R196, R227). -/
def Core.group (c : Core) : Option W16 := if recV c.curRec then some (recPhg c.curRec) else none

/-- A queue state that belongs to a record. -/
def Core.rq (c : Core) (i : Nat) : RecQ := c.recq.getD i RecQ.reset

def Core.setRec (c : Core) (i : Nat) (r : RecQ) : Core := { c with recq := c.recq.set! i r }

/-! ### Scratchpad (R177 to R184) -/

/-- SPSIZE (R177). -/
def Core.spsize (c : Core) : Nat := 262144 - (c.spcfg.extractLsb' 0 3).toNat * 32768

/-- Power state of bank b: 0 run, 1 retention, 2 off (R182). -/
def Core.bankState (c : Core) (b : Nat) : Nat := (c.sppwr.extractLsb' (2 * b) 2).toNat

/-- The banks [off, off + n) touches (R47). -/
def banksOf (off n : Nat) : List Nat :=
  if n = 0 then [] else
    ((List.range ((off + n - 1) / 64 + 1 - off / 64)).map fun k => (off / 64 + k) % 3).eraseDups

def Core.bankOff (c : Core) (off n : Nat) : Bool := (banksOf off n).any fun b => c.bankState b == 2

/-- An access wakes the retention banks it touches (R183). -/
def Core.wakeBanks (c : Core) (off n : Nat) : Core :=
  { c with sppwr := (banksOf off n).foldl (fun r b => if c.bankState b = 1 then putField r (2 * b) 2 0 else r) c.sppwr }

/-- The scratchpad word at an offset (R181). -/
def Core.spGet (c : Core) (off : Nat) : Lane := KV.get ⟨0, false⟩ c.spad (off / 4)

/-- Write a word; an error it held is gone. -/
def Core.spPut (c : Core) (off : Nat) (v : Lane) : Core :=
  { c with spad := KV.putD ⟨0, false⟩ (off / 4) v c.spad, spBad := c.spBad.filter (· != off / 4) }

/-- No word of [off, off + n) holds an uncorrectable error. -/
def Core.sound (c : Core) (off n : Nat) : Bool := c.spBad.all fun w => !(decide (off < 4 * w + 4) && decide (4 * w < off + n))

/-- A read of [off, off + n) finds no uncorrectable error; one that does raises ECCU with the offset of the first such word
(R181, R444). -/
def Core.readable (c : Core) (off n : Nat) : Except Exn Unit :=
  if c.sound off n then .ok ()
  else .error (.flt .eccu (BitVec.ofNat 64 (((c.spBad.filter fun w => decide (off < 4 * w + 4) && decide (4 * w < off + n)).foldl
    (fun m w => min m (4 * w)) (off + n)))))

/-- `k` words from an offset. -/
def Core.spWords (c : Core) (off k : Nat) : List Lane := (List.range k).map fun i => c.spGet (off + 4 * i)

/-- Store words from an offset, without journaling (R300: engines and the network interface). -/
def Core.spStore (c : Core) (off : Nat) (l : List Lane) : Core :=
  l.zipIdx.foldl (fun c x => c.spPut (off + 4 * x.2) x.1) c

/-- The word at an offset once all that engines have sent to it has landed (R90). -/
def Core.spAhead (c : Core) (off : Nat) : Lane :=
  match c.land.reverse.find? fun x => x.2.1 / 4 == off / 4 with
  | some x => x.2.2
  | none => c.spGet off

/-- An engine's command sends words to scratchpad; each lands as a whole at a moment of its own, none later than the
command's completion (R90). -/
def Core.spSend (c : Core) (cmd off : Nat) (l : List Lane) : Core :=
  { c with land := c.land ++ l.zipIdx.map fun x => (cmd, off + 4 * x.2, x.1) }

/-- A word lands and wakes its bank; one bound for a bank that is off is lost with the bank (R183). -/
def Core.landWord (c : Core) (x : Nat × Nat × Lane) : Core :=
  if c.bankOff x.2.1 4 then c else (c.wakeBanks x.2.1 4).spPut x.2.1 x.2.2

/-- Every word of a command has landed. -/
def Core.landCmd (c : Core) (cmd : Nat) : Core :=
  (c.land.filter (·.1 == cmd)).foldl Core.landWord { c with land := c.land.filter (·.1 != cmd) }

/-- The oldest word bound for an offset lands. -/
def Core.landAt (c : Core) (off : Nat) : Core :=
  match c.land.find? fun x => x.2.1 / 4 == off / 4 with
  | some x => { c with land := c.land.erase x }.landWord x
  | none => c

/-- Checks of a local operand at `a`: alignment, SPSIZE, banks (R42, R179, R183, R217). -/
def Core.checkLocal (c : Core) (a : W64) (n align : Nat) : Except Exn Unit :=
  let off := a.toNat
  if off % align ≠ 0 then .error (.flt .align a)
  else if 0 < n ∧ off + n > c.spsize then .error (.flt .align (BitVec.ofNat 64 (max off c.spsize)))
  else if c.bankOff off n then .error (.flt .bankoff a)
  else .ok ()

/-- A block that the running activation must journal before its first write to it (R300). -/
def Core.mustJournal (c : Core) (a : Act) (blk : Nat) : Bool :=
  !a.irrev && a.named.any (fun r => decide (r.1 ≤ 64 * blk) && decide (64 * blk < r.1 + r.2)) &&
    !c.journal.any fun j => j.blk == blk

/-- The activation becomes irrevocable and its journal is discarded (R302). -/
def Core.makeIrrev (c : Core) : Core :=
  match c.act with
  | some a => { c with act := some { a with irrev := true }, journal := [] }
  | none => c

/-- Journal one 64-byte block if R300 asks for it; a 65th block makes the activation irrevocable. -/
def Core.journalBlock (c : Core) (blk : Nat) : Core :=
  match c.act with
  | none => c
  | some a =>
    if c.mustJournal a blk then
      if 64 ≤ c.journal.length then c.makeIrrev
      else { c with journal := c.journal ++ [⟨blk, c.spWords (64 * blk) 16⟩] }
    else c

/-- Journal every block of [off, off + n). -/
def Core.journalRange (c : Core) (off n : Nat) : Core :=
  if n = 0 then c else
    (List.range ((off + n - 1) / 64 + 1 - off / 64)).foldl (fun c k => c.journalBlock (off / 64 + k)) c

/-- Store words by an instruction of the activation (R300). -/
def Core.spWrite (c : Core) (off : Nat) (l : List Lane) : Core :=
  ((c.wakeBanks off (4 * l.length)).journalRange off (4 * l.length)).spStore off l

/-- Restore the journal, newest first (R301). -/
def Core.restoreJournal (c : Core) : Core :=
  { c.journal.foldr (fun j c => c.spStore (64 * j.blk) j.words) c with journal := [] }

/-! ### The accumulator (R87) -/

/-- Width tag of a word (R87). -/
def tagOf (w : W32) : BitVec 2 :=
  if w = 0 then 3
  else if w = (w.extractLsb' 0 8).signExtend 32 then 2
  else if w = (w.extractLsb' 0 16).signExtend 32 then 1
  else 0

def Core.alane (c : Core) (k : Nat) : ALane := c.a.getD k ALane.start

/-- Write a lane of A: a valid lane takes its tag, an invalid one keeps it (R87). -/
def Core.setA (c : Core) (k : Nat) (w : W32) (v : Bool) : Core :=
  { c with a := c.a.set! k ⟨w, v, if v then tagOf w else (c.alane k).tag⟩ }

/-! ### Regions, teams and counts -/

def State.region (s : State) (rid : W16) : Option Region := KV.find s.regions rid.toNat

def State.team (s : State) (n : Nat) (rid : W16) : Team := KV.get ⟨0, 0, 0, 0⟩ (s.chip n).teams rid.toNat

def State.setTeam (s : State) (n : Nat) (rid : W16) (t : Team) : State :=
  s.modChip n fun c => { c with teams := KV.put rid.toNat t c.teams }

/-- The team's counts of R313. -/
def State.countSent (s : State) (n : Nat) (rid : W16) (k : Nat) : State :=
  s.setTeam n rid { s.team n rid with sent := ((s.team n rid).sent + k) % 2 ^ 64 }

def State.countRecv (s : State) (n : Nat) (rid : W16) (k : Nat) : State :=
  s.setTeam n rid { s.team n rid with recv := ((s.team n rid).recv + k) % 2 ^ 64 }

/-- The spawn count of R307. -/
def State.addSpc (s : State) (n : Nat) (rid : W16) (k : Int) : State :=
  s.setTeam n rid { s.team n rid with spc := (s.team n rid).spc + k }

/-- Numbers of the ones of a mask, ascending. -/
def bitsOf {w : Nat} (m : BitVec w) : List Nat := (List.range w).filter fun k => m.getLsbD k

/-- Chiplets with a team of a region, ascending. -/
def State.teamChips (s : State) (rid : W16) : List Nat :=
  (s.chips.filter fun x => (KV.get ⟨0, 0, 0, 0⟩ x.2.teams rid.toNat : Team).mask != 0).map (·.1)

/-- The lowest-numbered core of the region's team on the lowest-numbered chiplet holding one (R434). -/
def State.lowestCore (s : State) (rid : W16) : Option Nat :=
  match s.teamChips rid with
  | [] => none
  | n :: _ => ((bitsOf (s.team n rid).mask).head?).map fun k => 64 * n + k

/-- A handler-table entry that is not empty (R293). -/
structure Entry where
  pc : W64
  sup : Bool
  nmsk : BitVec 14
  deriving DecidableEq, Repr

/-- A named region of a region: offset and size in bytes; none where absent. -/
def Region.named (r : Region) (j : Nat) : Option (Nat × Nat) :=
  match r.nr[j]? with
  | some (o, n) => if n = 0 then none else some (64 * o, 64 * n)
  | none => none

/-- Entry i of a region's handler table as dispatch reads it; none where i ≥ HTLEN or the entry is empty (R293,
R294). A table that does not translate or holds an uncorrectable error gives an empty entry (DEDUCED, log 10). The entry's PC is taken as it stands, its bits
5:3 with it (DESIGN CHOICE, log 97). -/
def State.handler (s : State) (n : Nat) (r : Region) (i : Nat) : Option Entry :=
  if r.htlen ≤ i then none
  else match s.placesAs n r.asid false (r.htab + BitVec.ofNat 64 (16 * i)) 16 .nothing false with
    | .error _ => none
    | .ok l =>
      let w := leNat (s.bytesAt l)
      let lo : W64 := BitVec.ofNat 64 w
      let nm : BitVec 14 := lo.extractLsb' 34 14
      if !lo.getLsbD 63 || lo.extractLsb' 48 14 != 0 || lo.extractLsb' 0 34 != 0 ||
          (bitsOf nm).any (fun j => (r.named j).isNone) then none
      else some ⟨BitVec.ofNat 64 (w / 2 ^ 64), lo.getLsbD 62, nm⟩

/-! ### Gangs -/

/-- Global core numbers of a core's gang, ascending (R338). -/
def State.gangCores (s : State) (g : Nat) : List Nat :=
  let c := s.core g
  let base := 64 * (g / 64) + g % 64 / 16 * 16
  (bitsOf (c.gmask.extractLsb' 0 16)).map fun j => base + j

/-- The cores that share the running activation of a core: itself, or the gang's members that run it (R309). -/
def State.actCores (s : State) (g : Nat) : List Nat :=
  match (s.core g).act with
  | some a => if a.gang then (s.gangCores g).filter fun k =>
      match (s.core k).act with
      | some b => b.gang
      | none => false
    else [g]
  | none => []

/-- The running activation of a core is irrevocable; a gang's is when any member's is (R302, R309). -/
def State.irrevocable (s : State) (g : Nat) : Bool :=
  (s.actCores g).any fun k => match (s.core k).act with
    | some a => a.irrev
    | none => false

/-- A member that becomes irrevocable makes its whole gang so, and every journal of it is discarded (R302, R309). -/
def State.makeIrrev (s : State) (g : Nat) : State := (s.actCores g).foldl (fun t k => t.modCore k Core.makeIrrev) s

/-! ### The phase log (R202 to R208) -/

/-- Two entries of one run (R204). -/
def sameRun (a b : LogEntry) : Bool :=
  a.addr == b.addr && a.key == b.key && a.lcn == b.lcn && a.rid == b.rid &&
    match a.body, b.body with
    | .store _ _, .store _ _ => true
    | .merge f t e _, .merge f' t' e' _ => f == f' && t == t' && e == e'
    | _, _ => false

/-- The latest entry of an entry's activation at its doubleword, among earlier entries (latest first). -/
def latestAt (l : List LogEntry) (e : LogEntry) : Option LogEntry :=
  l.find? fun x => x.addr == e.addr && x.key == e.key && x.lcn == e.lcn && x.rid == e.rid

/-- The count of R207: entries that extend no run, the log given latest first. -/
def runCount : List LogEntry → Nat
  | [] => 0
  | e :: l =>
    match latestAt l e with
    | some x => if sameRun x e then runCount l else runCount l + 1
    | none => runCount l + 1

/-- Entries held (ENT of R207); the log is kept in execution order. -/
def Core.logCount (c : Core) : Nat := runCount c.log.reverse

/-- An uncommitted entry of an activation (R208). -/
def ownEntry (a : Act) (e : LogEntry) : Bool := !e.committed && e.key == a.key && e.lcn == a.lcn && e.rid == a.rid

/-- The record of a phase group. -/
def State.pgroup (s : State) (phg : W16) : PGroup := KV.get ⟨0, false, [], []⟩ s.groups phg.toNat

def State.setGroup (s : State) (phg : W16) (x : PGroup) : State := { s with groups := KV.put phg.toNat x s.groups }

/-! ### Waiting queues (R349) -/

/-- A boundary of a group is in progress at a core: from its start there until the core's own acquire (R199, R228). -/
def State.boundaryHere (s : State) (g : Nat) (phg : W16) : Bool :=
  ((s.pgroup phg).started && (s.pgroup phg).heard.contains g) || (s.core g).owed.contains phg

/-- A message whose target is the gang that the core leads: it names a gang, and the core leads one of its region (R308,
R319, R322). -/
def Core.gangHead (c : Core) (p : Packet) : Bool :=
  tgtKind p.tgt == 1 && c.st.getLsbD 18 && c.gangRid == tgtRid p.tgt

/-- A core runs an activation of a region. -/
def State.runsRegion (s : State) (k : Nat) (rid : W16) : Bool := (s.core k).act.any fun a => a.rid == rid

/-- A core runs an activation of a region or holds a suspended one, which is to end first (R308, R315; DEDUCED, log 51). -/
def State.engaged (s : State) (k : Nat) (rid : W16) : Bool :=
  s.runsRegion k rid || ((s.core k).recOf rid).any fun i => ((s.core k).rq i).image.isSome

/-- A head that waits for its gang: some member is engaged in the region (R308). -/
def State.gangHeld (s : State) (g : Nat) (p : Packet) : Bool :=
  (s.core g).gangHead p && (s.gangCores g).any fun k => s.engaged k (tgtRid p.tgt)

/-- Record i of a core waits: a suspended activation it may resume, or a head ready for dispatch (R296, R349). -/
def State.waitingRec (s : State) (g i : Nat) : Bool :=
  let c := s.core g
  let q := c.rq i
  let r := c.brec.getD i 0
  recV r && !(c.act.any fun a => a.brec == i) &&
    match q.image with
    | some _ => !c.brkStop.contains i
    | none => (!q.reports.isEmpty || (match q.msgs with
        | p :: _ => !s.gangHeld g p
        | [] => false)) && !s.boundaryHere g (recPhg r)

/-- Messages that wait in the activation queue of record i: the trigger of its activation takes none of the 32 places (R295,
R497). -/
def Core.queueLen (c : Core) (i : Nat) : Nat := (c.rq i).msgs.length

/-- An overflow record of a region on a chiplet is free again (R304). -/
def State.freeRecord (s : State) (n rid k : Nat) : State :=
  s.modChip n fun h => { h with ovfUse := KV.putD [] rid ((KV.get [] h.ovfUse rid).filter (· != k)) h.ovfUse }

/-- Spilled records of record i move back into its queue while it has a free place, the oldest first (R304). -/
def State.unspill (s : State) (g i : Nat) : State :=
  let c := s.core g
  let q := c.rq i
  let k := 32 - c.queueLen i
  (q.spilled.take k).foldl (fun t x => t.freeRecord (g / 64) (recRid (c.brec.getD i 0)).toNat x.1)
    (s.setCore g (c.setRec i { q with msgs := q.msgs ++ (q.spilled.take k).map (·.2), spilled := q.spilled.drop k }))

/-- A core has no running or suspended activation and its queues are empty (R372). -/
def Core.idle (c : Core) : Bool :=
  c.act.isNone && c.recq.toList.all fun q => q.image.isNone && q.msgs.isEmpty && q.spilled.isEmpty && q.reports.isEmpty

/-- The break-even hold begins when a core becomes idle, and ends with work; with PWRCAP.GATE the core gates at once
(R372, R405, R406). -/
def Core.noteIdle (c : Core) (now : Nat) : Core :=
  match c.gate with
  | .running =>
    if !c.idle then c
    else if c.pwrcap.getLsbD 8 then { c with gate := .gated, pwrcap := putField c.pwrcap 8 1 0 }
    else { c with gate := .holding now }
  | .holding _ => if c.idle then c else { c with gate := .running }
  | _ => c

/-- The four clock sources (R363). -/
def clockSource (f : Nat) : Bool := [940, 705, 470, 235].contains f

def Core.fclk (c : Core) : Nat := (c.pwrst.extractLsb' 16 10).toNat

def Core.setFclk (c : Core) (f : Nat) : Core := { c with pwrst := putField c.pwrst 16 10 f }
def Core.setDuty (c : Core) (d : Nat) : Core := { c with pwrst := putField c.pwrst 0 5 d }

/-- A core's clock source changes by a hop, its duty at once (R364, R366). -/
def State.setClock (s : State) (g f d : Nat) : State :=
  if !clockSource f || d = 0 || 16 < d then s
  else
    let s := s.modCore g fun c => c.setDuty d
    s.modChip (g / 64) fun k =>
      let rest := k.hops.filter fun h => h.1 != g
      { k with hops := if (s.core g).fclk = f then rest else rest ++ [(g, f)] }

/-- THERM or REL is in force for a cluster (R373, R381). -/
def ClusterPwr.heldSlow (p : ClusterPwr) : Bool := p.thrrsn.getLsbD 8 || p.thrrsn.getLsbD 12

/-- A waiting queue of another record has such a level, shed or not (R337, R349, R351). -/
def State.othersWait (s : State) (g : Nat) (p : Nat → Bool) : Bool :=
  (List.range 8).any fun i => s.waitingRec g i && p (recLvl ((s.core g).brec.getD i 0))

/-- A core that is to stop runs at 940 MHz and full duty, its cluster's engines with it, unless the cluster must stay slow
(R351, R363, R381). -/
def State.fullClock (s : State) (g : Nat) : State :=
  let m := clusterOfCore g
  if (s.pwr m).heldSlow then s else (s.setClock g 940 16).setPwr m { s.pwr m with engClk := 940 }

/-- The core holds a pre-emption request: a queue of another record waits below the level of its activation (R351). -/
def State.preempted (s : State) (g : Nat) : Bool :=
  match (s.core g).act with
  | none => false
  | some a => s.othersWait g fun l => decide (l < a.lr)

/-- Spilled messages move back where they can; note the moment each queue of a core began to wait, at its base level (R304,
R349), and whether the core is idle (R372). -/
def State.noteQueues (s0 : State) (g : Nat) : State :=
  let s := (List.range 8).foldl (fun t i => if ((t.core g).rq i).spilled.isEmpty then t else t.unspill g i) s0
  let c := s.core g
  let c := c.noteIdle s.now
  s.setCore g { c with
    brec := Vector.ofFn fun i =>
      let r := c.brec.getD i.val 0
      if s.waitingRec g i.val && (c.rq i.val).since.isNone then putField r 53 3 (recBase r) else r
    recq := Vector.ofFn fun i => { c.rq i.val with
      since := if s.waitingRec g i.val then some ((c.rq i.val).since.getD s.now) else none } }

/-- The waiting queues of a core are noted, and a pre-emption request held from then on raises the core's clock (R351). -/
def State.noteOne (s : State) (g : Nat) : State :=
  let t := s.noteQueues g
  if t.preempted g then t.fullClock g else t

/-- What follows a change of a core's queues or of what it runs: they are noted there and at the members of its gang, whose
heads may wait for it (R308, R349). -/
def State.noteWaits (s : State) (g : Nat) : State := ((s.gangCores g).filter (· != g)).foldl State.noteOne (s.noteOne g)

/-! ### Discarding, stray messages and reports -/

/-- Read fields of a ring descriptor (R157): base, log2 of the entries, head, tail. -/
structure Ring where
  base : W64
  log2n : Nat
  head : W32
  tail : W32
  drops : Nat
  deriving DecidableEq, Repr

/-- A ring descriptor in an IMMEDIATE page with R and W, and its places; none where it does not translate so. -/
def State.ring (s : State) (n : Nat) (asid : W16) (va : W64) : Option (List Loc × Ring) :=
  match s.placesAs n asid false va 64 .rw true with
  | .error _ => none
  | .ok l =>
    let b := s.bytesAt l
    some (l, ⟨BitVec.ofNat 64 (fieldOf b 0 8), fieldOf b 8 1, BitVec.ofNat 32 (fieldOf b 16 4),
      BitVec.ofNat 32 (fieldOf b 20 4), fieldOf b 9 1⟩)

/-- Records waiting in a ring. -/
def Ring.used (r : Ring) : Nat := (r.tail - r.head).toNat

/-- The ring's counts agree with its size (R158). -/
def Ring.consistent (r : Ring) : Bool := decide (r.log2n ≤ 16) && decide (r.used ≤ 2 ^ r.log2n)

/-- Firmware stores bytes at places for an address space (R438). -/
def State.storeAt (s : State) (asid : W16) (l : List Loc) (b : List Byte) : State := s.storeHome asid (l.zip b)

/-- Store a message in its region's stray ring; the index it took, or none where it is discarded (R297). -/
def State.strayStore (s : State) (n : Nat) (r : Region) (p : Packet) : Option Nat × State :=
  match s.ring n r.asid r.stray with
  | none => (none, s)
  | some (d, q) =>
    if !q.consistent then (none, s)
    else if q.used = 2 ^ q.log2n then
      (none, s.storeAt r.asid (d.drop 9) [BitVec.ofNat 8 (min 255 (q.drops + 1))])
    else
      let k := q.tail.toNat % 2 ^ q.log2n
      match s.placesAs n r.asid false (q.base + BitVec.ofNat 64 (640 * k)) 640 .rw true with
      | .error _ => (none, s)
      | .ok l => (some q.tail.toNat, (s.storeAt r.asid l (packetRecord p)).storeAt r.asid (d.drop 20) (leBytes 4 (q.tail + 1).toNat))

/-- What a report says (R433). -/
structure Report where
  kind : Nat
  code : Byte
  pc : W64
  addr : W64
  key : BitVec 48
  lcn : W16
  sidx : W32
  ent : Nat
  msg : Nat
  nrd : Bool
  tries : Nat
  erec : List W32
  deriving DecidableEq, Repr

/-- A report with every field zero but its kind and code. -/
def Report.of (kind : Nat) (code : Byte) : Report := ⟨kind, code, 0, 0, 0, 0, 0xFFFFFFFF, 0, 0, false, 0, []⟩

/-- The 32 payload words of a report from core g of region rid (R433). -/
def reportWords (g : Nat) (rid : W16) (fdom lost : Nat) (r : Report) : List W32 :=
  let lo (x : W64) : W32 := x.extractLsb' 0 32
  let hi (x : W64) : W32 := x.extractLsb' 32 32
  let k : W64 := r.lcn ++ r.key
  [r.code.zeroExtend 32 ||| BitVec.ofNat 32 (r.kind * 2 ^ 8 + min 255 r.tries * 2 ^ 16 + min 255 lost * 2 ^ 24),
    BitVec.ofNat 32 (rid.toNat + fdom % 2 ^ 16 * 2 ^ 16), lo r.pc, hi r.pc, lo r.addr, hi r.addr, lo k, hi k, r.sidx,
    BitVec.ofNat 32 (r.ent % 2 ^ 15 + r.msg % 2 ^ 7 * 2 ^ 16 + (if r.nrd then 2 ^ 31 else 0)),
    BitVec.ofNat 32 (g / 64 % 1024 + g % 64 * 1024)] ++ List.replicate 5 0 ++
    (r.erec ++ List.replicate 8 0).take 8 ++ List.replicate 8 0

/-- Queue a report of a region's core (R433, R434). `g`: where the fault arose; a region not bound there gets it at
the core R434 names for the kinds that name none (DEDUCED, log 11). -/
def State.report (s : State) (g : Nat) (rid : W16) (r : Report) : State :=
  match s.region rid with
  | none => s
  | some rg =>
    match (if ((s.core g).recOf rid).isSome then some g else s.lowestCore rid) with
    | none => s
    | some d =>
      let c := s.core d
      match c.recOf rid with
      | none => s
      | some i =>
        let q := c.rq i
        let counted (t : State) : State := t.modCore g fun c => { c with reports := c.reports + 1 }
        if 16 ≤ q.reports.length then counted (s.setCore d (c.setRec i { q with lost := q.lost + 1 }))
        else
          let p : Packet := { Packet.zero with dch := d / 64, sch := g / 64, dep := d % 64, sep := g % 64, cls := 7
                                               plen := 128, asid := rg.asid
                                               key := mkKey 0xFFFD (BitVec.ofNat 32 (s.core g).reports)
                                               tgt := mkTarget 0 (BitVec.ofNat 10 (d / 64)) (BitVec.ofNat 6 (d % 64))
                                                 false false (BitVec.ofNat 12 rg.fhix) 0 rid
                                               words := (reportWords g rid rg.fdom q.lost r).map fun w => ⟨w, true⟩ }
          (((counted s).modCore d fun c =>
            c.setRec i { c.rq i with reports := (c.rq i).reports ++ [p], lost := 0 }).countSent (d / 64) rid 1).noteWaits d

/-- The activation of a core is over: queues discarded, no activation (R318). -/
def Core.endAct (c : Core) : Core :=
  { c with act := none, q := Vector.replicate 8 [], msgs := [], journal := [], wait := .none, safe := none, gpath := []
           st := putField c.st 16 2 0, pend := [], trapWait := none, async := [], stopReq := false, deadline := false }

/-- Discard an activation's messages and uncommitted entries; how many of each (R301, R428). -/
def Core.discard (c : Core) : Core × Nat × Nat :=
  match c.act with
  | none => (c, 0, 0)
  | some a =>
    ({ c with msgs := [], log := c.log.filter fun e => !ownEntry a e }, c.msgs.length,
      runCount (c.log.filter (ownEntry a)).reverse)

/-! ### Kill (R436, R437) -/

/-- Chiplets that hold any state, where a kill must be carried out. -/
def State.liveChips (s : State) : List Nat :=
  (KV.keys s.chips ++ (KV.keys s.cores).map (· / 64)).eraseDups

/-- The event record of R411: the first 24 bytes of its 32, the rest zero. -/
def State.event (s : State) (kind : Nat) (code : Byte) (asid : W16) (ch core rid n acnt vector : Nat) : State :=
  let b := leBytes 1 kind ++ [code] ++ leBytes 2 asid.toNat ++ leBytes 2 ch ++ leBytes 1 core ++ [0] ++ leBytes 2 rid ++
    leBytes 2 n ++ leBytes 4 acnt ++ leBytes 8 (s.now / 1500) ++ List.replicate 8 0
  let head := s.evhead
  let tail := (s.port 0).evtail
  { s with evring := KV.put (head.toNat % 64) b s.evring
           evhead := head + 1
           evlost := if 64 ≤ (head - tail).toNat then (if s.evlost = 0xFFFFFFFF then s.evlost else s.evlost + 1)
             else s.evlost
           ports := s.ports.map fun p => { p with msix := vector :: p.msix } }

/-- The kill is complete at every chiplet: its event (R437). -/
def State.killDone (s : State) (asid : W16) : State :=
  match KV.find s.spaces asid.toNat with
  | some r => if r.killed && r.killing.isEmpty then s.event 1 r.code asid 0 0 0 0 0 2 else s
  | none => s

/-- Mark an address space killed, with its cause as R436 numbers it; the chiplets carry the kill out (R437). -/
def State.kill (s : State) (asid : W16) (cause : Nat) (code : Byte) : State :=
  match KV.find s.spaces asid.toNat with
  | none => s
  | some r =>
    if r.killed then s
    else ({ s with spaces := KV.put asid.toNat { r with killed := true, cause := cause, code := code
                                                        killing := s.liveChips } s.spaces }).killDone asid

/-- The address space of a core's running activation is killed. -/
def State.isKilled (s : State) (asid : W16) : Bool :=
  match KV.find s.spaces asid.toNat with
  | some r => r.killed
  | none => false

/-! ### The three steps (R426) -/

/-- Redeliver the trigger at the head of its queue (R301). -/
def Core.redeliver (c : Core) (a : Act) : Core :=
  let q := c.rq a.brec
  if a.report then c.setRec a.brec { q with reports := a.trig :: q.reports, rtries := a.tries + 1 }
  else c.setRec a.brec { q with msgs := a.trig :: q.msgs, tries := a.tries + 1 }

/-- The trigger leaves its queue. -/
def Core.leave (c : Core) (a : Act) : Core :=
  let q := c.rq a.brec
  if a.report then c.setRec a.brec { q with rtries := 0 } else c.setRec a.brec { q with tries := 0 }

/-- The faults after which a re-run fetches its code again: SIGM, CFV, IILL and an ECCU met in fetch (R427). -/
def refetches (code : FCode) (fetched : Bool) : Bool :=
  match code with
  | .sigm | .cfv | .iill => true
  | .eccu => fetched
  | _ => false

/-- The lines of a failed activation leave the fetch buffer and L1 before its trigger is redelivered; L1 does not tell which
lines it fetched, so all go (R427; DEDUCED, log 121). -/
def Core.dropLines (c : Core) : Core := { c with fetch := [], refetch := none, l1 := [] }

/-- Undo one core's part of an activation (R301). -/
def Core.undo (c : Core) : Core := (c.discard.1.restoreJournal).endAct

/-- The core whose queue holds the trigger: a gang's leader (R308). -/
def State.trigCore (s : State) (g : Nat) : Nat :=
  ((s.actCores g).find? fun k => match (s.core k).act with
    | some a => a.leader || !a.gang
    | none => false).getD g

/-- Step 1: rollback (R301, R309, R435). `fetched`: the fault was met in fetch (R427). -/
def State.rollback (s : State) (g : Nat) (code : FCode) (pcf addr : W64) (fetched : Bool := false) : State :=
  match (s.core g).act with
  | none => s
  | some a =>
    let home := s.trigCore g
    let b := (s.core home).act.getD a
    let nm := ((s.actCores g).map fun k => (s.core k).discard.2.1).sum
    let ne := ((s.actCores g).map fun k => (s.core k).discard.2.2).sum
    let s1 := (s.actCores g).foldl (fun t k => t.modCore k fun c => { c.undo with tsinf := c.tsinf &&& ~~~0x10000 }) s
    let noted (t : State) : State := (s.actCores g).foldl (fun u k => u.noteWaits k) t
    let tries := a.tries + 1
    if code = .logfull ∨ code = .spawn ∨ 4 ≤ tries then
      let s2 := noted (s1.modCore home fun c => c.leave b)
      if a.report then s2.kill (recAsid ((s.core g).curRec)) 3 code.code
      else
        match s.region a.rid with
        | none => s2
        | some r =>
          let st := s2.strayStore (g / 64) r a.trig
          let rep := { Report.of 1 code.code with
                       pc := pcf, addr := addr, key := a.key, lcn := a.lcn, ent := ne, msg := nm, tries := tries
                       sidx := match st.1 with
                         | some k => BitVec.ofNat 32 k
                         | none => 0xFFFFFFFF }
          ((st.2.addSpc (home / 64) a.rid (-1)).countRecv (home / 64) a.rid 1).report g a.rid rep
    else
      let s2 := if refetches code fetched then (s.actCores g).foldl (fun t k => t.modCore k Core.dropLines) s1 else s1
      noted (s2.modCore home fun c => c.redeliver b)

/-- Write the trap registers: the saved slot `resume` with the CRC of its block, the trap number or fault code, the
address (R402, R428). -/
def Core.saveTrap (c : Core) (resume addr : W64) (crc : W16) (tnum : BitVec 12) (code : Byte) : Core :=
  let inf : W64 := crc ++ 0#8 ++ tnum ++ 0#11 ++ 1#1 ++ 0#8 ++ code
  { (c.setPp false).setPl 1 with tspc := resume, tsst := c.st, tspx := c.px, tsadr := addr, tsinf := inf }

/-- A wait that a trap entry leaves standing: PHASE has arrived, BARR has arrived with its generation (R240). -/
def Wait.stands (w : Wait) : Bool :=
  match w with
  | .phase => true
  | .acquired => true
  | .barrier _ _ _ => true
  | .broken _ => true
  | _ => false

/-- A wait in which the core may be taken; the others end with their instruction (R240, R336). -/
def Wait.yields (w : Wait) : Bool :=
  match w with
  | .tlbinv _ => false
  | .clgrp _ _ _ => false
  | .wstat _ _ => false
  | .sp _ => false
  | _ => true

/-- Write the trap registers and enter the handler of entry e (R402, R428); an arrival made stands (R240). -/
def Core.enterTrap (c : Core) (e : Entry) (resume src addr : W64) (crc : W16) (tnum : BitVec 12) (code : Byte) : Core :=
  { c.saveTrap resume addr crc tnum code with
    pc := e.pc, entered := .checked src, crc := 0xFFFF, wait := .none, safe := none
    trapWait := if c.wait.stands then some (c.pc, c.wait) else none }

/-- Step 2: escalation by trap (R428). `resume`: TSPC; `pcf`: FLTPC; `crc`: SCRC. -/
def State.escalate (s : State) (g : Nat) (code : FCode) (resume pcf addr : W64) (crc : W16) : State :=
  match (s.core g).act with
  | none => s
  | some a =>
    let d := (s.core g).discard
    let s1 := s.setCore g { d.1 with
      fltpc := pcf, fltdis := BitVec.ofNat 32 (d.2.2 % 2 ^ 15 + d.2.1 % 2 ^ 7 * 2 ^ 16) }
    match s.region a.rid with
    | none => s1
    | some r =>
      let saved := s1.modCore g fun c => c.saveTrap resume addr crc 0 code.code
      match s1.handler (g / 64) r r.fhix with
      | none => saved.kill (s.core g).asid 2 FCode.hempty.code
      | some e =>
        if !e.sup then saved.kill (s.core g).asid 2 FCode.priv.code
        else s1.modCore g fun c => c.enterTrap e resume pcf addr crc 0 code.code

/-- Taking a fault of the running activation: the first row of R426 that applies. -/
def State.fault (s : State) (g : Nat) (code : FCode) (resume pcf addr : W64) (crc : W16) (fetched : Bool := false) : State :=
  let c := s.core g
  match c.act with
  | none => s
  | some a =>
    if !s.irrevocable g then s.rollback g code pcf addr fetched
    else if !c.trapActive then s.escalate g code resume pcf addr crc
    else s.kill c.asid (if a.report then 3 else 1) code.code

/-- A fault of the instruction at PC, which ends a wait of its own. After a CFV, FLTPC names the transferring slot and SCRC is
that of a new block (R428). -/
def State.faultAt (s : State) (g : Nat) (code : FCode) (addr : W64) (fetched : Bool := false) : State :=
  let c := s.core g
  let t := s.modCore g fun c => { c with wait := .none }
  match code, c.entered with
  | .cfv, .checked src => t.fault g .cfv c.pc src c.pc 0xFFFF
  | _, _ => t.fault g code c.pc c.pc addr c.crc fetched

/-! ### Slots (R32) -/

/-- Sequential flow: slot k to k + 1, slot 4 to slot 0 of the next line (R32). -/
def nextSlot (pc : W64) : W64 :=
  if (pc.extractLsb' 0 3).toNat < 4 then pc + 1 else ((pc >>> 6) + 1) <<< 6

/-- The slot at a signed offset from a slot (R32). -/
def slotPlus (pc : W64) (d : W32) : W64 :=
  let n : Int := ((pc.toNat / 64 * 5 + pc.toNat % 8 : Nat) : Int) + d.toInt
  BitVec.ofInt 64 (n / 5 * 64 + n % 5)

/-- A register-held slot address that names a slot (R32). -/
def slotOk (pc : W64) : Bool := pc.extractLsb' 3 3 == 0 && decide ((pc.extractLsb' 0 3).toNat ≤ 4)

/-- Address of the line of a slot. -/
def lineOf (pc : W64) : W64 := (pc >>> 6) <<< 6

/-- A line in the fetch buffer (R334). -/
def Core.line (c : Core) (pc : W64) : Option (BitVec 512) := (c.fetch.find? fun x => x.1 == lineOf pc).map (·.2)

/-- The slot at PC is the second of a pair whose first has just completed (R35). -/
def Core.secondSlot (c : Core) : Bool :=
  c.entered == .seq && match c.line c.pc with
    | some l => (pairsOf ((lineWord l).extractLsb' 5 4).toNat).any fun p => p.1 + 1 == (c.pc.extractLsb' 0 3).toNat
    | none => false

/-- The opcode of a row and whether it names a queue as an operand. -/
def namesQueue (i : Instr) : Bool :=
  let q (o : Operand) : Bool := match o with
    | .queue _ => true
    | _ => false
  match i.form with
  | .m3 _ f => q f.od || q f.oa || q f.ob || q f.oc
  | .mi _ f => q f.od || q f.oa
  | _ => false

/-- A stalled instruction in whose wait the core may be taken: a queue read or write, WSTAT's among them, HEND, REJOIN
(R336), CTRWAIT and FENCE (R240), MXWAIT (R141), BRK (R446), and a full outbound buffer (R324). -/
def waitTakeable (i : Instr) : Bool :=
  namesQueue i || match i with
  | .hend _ => true
  | .migr _ => true
  | .ctrwait _ => true
  | .fence _ => true
  | .mxwait _ => true
  | .send _ => true
  | .sendr _ => true
  | .rejoin _ => true
  | .brk _ => true
  | _ => false

/-- The instruction in the slot at PC, where its line is held. -/
def Core.instr? (c : Core) : Option Instr :=
  match c.line c.pc with
  | none => none
  | some l => match decode (lineSlot l (c.pc.extractLsb' 0 3).toNat) with
    | .ok i => some i
    | .error _ => none

/-- The core stands within an issue group: the second instruction of a pair has still to issue. A stall of it belongs to the
group, but for the waits in which the core may be taken (R35, R89, R336). -/
def Core.midPair (c : Core) : Bool :=
  c.secondSlot && (c.wait == .none || (c.wait == .again && !(c.pend.isEmpty && c.instr?.any waitTakeable)))

/-- The target bit of a slot whose line is held; slots 5 to 7 of a line do not exist and are no target (R30, R32, R50). -/
def Core.targetBit (c : Core) (pc : W64) : Bool :=
  match c.line pc with
  | some l => decide ((pc.extractLsb' 0 3).toNat ≤ 4) && (lineWord l).getLsbD (pc.extractLsb' 0 3).toNat
  | none => false

/-- The LIVE mask after an SP = 1 instruction: IILL where the next slot is no LIVE word (R48, R49). -/
def Core.liveAfter (c : Core) (pc : W64) : Except Exn (BitVec 18) :=
  let n := nextSlot pc
  match c.line n with
  | none => .error .stall
  | some l =>
    match liveMask? (lineSlot l (n.extractLsb' 0 3).toNat) with
    | some m => .ok m
    | none => .error (.flt .iill 0)

/-! ### Interlock (R91, R219) -/

/-- Registers and places an instruction reads or writes, as the interlock sees them. -/
structure Uses where
  acc : Bool
  spad : Bool
  regs : List (BitVec 3)
  queues : List (BitVec 3)
  deriving DecidableEq, Repr

def Uses.none : Uses := ⟨false, false, [], []⟩

def Uses.add (u : Uses) (o : Operand) : Uses :=
  match o with
  | .mem n _ => { u with spad := true, regs := n :: u.regs }
  | .inc n _ => { u with spad := true, regs := n :: u.regs }
  | .off n _ => { u with spad := true, regs := n :: u.regs }
  | .incReg n m => { u with spad := true, regs := n :: m :: u.regs }
  | .acc => { u with acc := true }
  | .queue n => { u with queues := n :: u.queues }
  | .imm _ => u
  | .reg n _ => { u with regs := n :: u.regs }

def usesOf (l : List Operand) : Uses := l.foldl Uses.add Uses.none

/-- A result on its way conflicts with an instruction that touches its destination (R91, R219). -/
def Uses.clash (u : Uses) (d : Dest) : Bool :=
  match d with
  | .none => false
  | .acc => u.acc
  | .reg n => u.regs.contains n
  | .queue n => u.queues.contains n
  | .spad _ => u.spad

def Pend.dest (p : Pend) : Dest :=
  match p.kind with
  | .load _ d _ _ => d
  | .store _ => .none
  | .amo _ _ _ _ _ d => d

/-! ### Issue -/

/-- A weight stream in RUN or WAIT holds the cores of its cluster (R149, R167). -/
def State.streamHolds (s : State) (g : Nat) : Bool :=
  match (s.mxe (clusterOfCore g)).stream with
  | some t => t.state == 1 || t.state == 2
  | none => false

/-- A core that issues its next instruction: it runs an activation whose part has not ended, its clock runs (R365), no fault
waits to be taken (R429), its address space lives (R437) and its cluster's stream does not hold it (R167); of these, the last
three stop no issue group in flight (R35, R89). -/
def State.issues (s : State) (g : Nat) : Bool :=
  let c := s.core g
  match c.act with
  | none => false
  | some a => !a.ended && s.clockRuns g && (c.midPair || (c.async.isEmpty && !s.isKilled c.asid && !s.streamHolds g))

/-- The fault of entering the slot at PC before its instruction is looked at: CFV (R50, R53 row 4). -/
def Core.entryFault (c : Core) : Option FCode :=
  match c.entered with
  | .checked _ => if c.targetBit c.pc then none else some .cfv
  | _ => none

/-- SIGM of sequential flow into a marked slot (R51). -/
def Core.seqFault (c : Core) : Bool :=
  match c.entered with
  | .seq => c.targetBit c.pc
  | _ => false

/-- Registers after an instruction that completes: the CRC, the prefix, the next slot, the safe point. -/
def Core.retire (c : Core) (i : Instr) (br uses : Bool) (live : Option (BitVec 18)) : Core :=
  let n := nextSlot c.pc
  let c := if uses then c.setPp false else c
  { c with
    pc := if live.isSome then nextSlot n else n
    crc := if br then 0xFFFF else foldInstr c.crc i
    entered := if br then .afterBr else .seq
    wait := .none
    safe := live }

/-- What an instruction declares of itself before it issues. -/
structure Shape where
  /-- SP of its word -/
  sp : Bool
  /-- it uses a prefix (R81) -/
  uses : Bool
  /-- its fields are legal (R37) -/
  legal : Bool
  touches : Uses
  deriving DecidableEq, Repr

/-! ### Charge buckets (R369, R370) -/

/-- The bucket of cluster m holds what an operation of class j takes. -/
def State.chargeOk (s : State) (m j : Nat) : Bool :=
  decide (((s.pwr m).cbwt.extractLsb' (8 * j) 8).toNat ≤ (s.pwr m).bucket)

/-- An issue of class j takes its units; one that must wait sets CUR (R369, R373). -/
def State.charge (s : State) (m j : Nat) : State :=
  s.setPwr m { s.pwr m with bucket := (s.pwr m).bucket - ((s.pwr m).cbwt.extractLsb' (8 * j) 8).toNat }

def State.chargeWait (s : State) (m : Nat) : State :=
  s.setPwr m { s.pwr m with thrrsn := (s.pwr m).thrrsn ||| 0x202 }

/-- The class of charge of an instruction (R370): W3 global accesses, W2 the slow floating instructions, W1 the other
floating ones, W0 the other X-class ones; none for C-class. -/
def chargeClass (i : Instr) : Option Nat :=
  let of (op : Byte) : Option Nat :=
    let n := op.toNat
    if [0x45, 0x46, 0x50, 0x51, 0x55, 0x56].contains n then some 2
    else if 0x40 ≤ n ∧ n ≤ 0x5F then some 1
    else if [0x80, 0x81, 0x82, 0x88, 0x89].contains n then some 3
    else if n ≤ 0x2C ∨ (0x60 ≤ n ∧ n ≤ 0x69) then some 0
    else none
  match i.form with
  | .m3 op _ => of op
  | .mi op _ => of op
  | _ => none

/-- The bucket lets an instruction of a core issue. -/
def State.chargeFits (s : State) (g : Nat) (i : Instr) : Bool :=
  match chargeClass i with
  | some j => s.chargeOk (clusterOfCore g) j
  | none => true

/-- The units an instruction takes as it issues. -/
def State.chargeFor (s : State) (g : Nat) (i : Instr) : State :=
  match chargeClass i with
  | some j => s.charge (clusterOfCore g) j
  | none => s

/-- Issue of an instruction of a core: the checks of R53 in their order, then its effect, then retirement. The SIGM of
sequential flow (R51), which R53 does not place, stands with that of row 7 (DESIGN CHOICE, log 95). -/
def issue (i : Instr) (h : Core → Shape) (body : State → Except Exn Res) (s : State) : State :=
  let g := s.self
  let c := s.core g
  let sh := h c
  if !s.issues g then s
  else if c.pend.any (fun p => sh.touches.clash p.dest) then s.modCore g fun c => { c with wait := .again }
  else match c.entryFault with
  | some f => s.faultAt g f 0
  | none =>
    match (if sh.sp then (c.liveAfter c.pc).map some else .ok none) with
    | .error (.flt f a) => s.faultAt g f a
    | .error .stall => s
    | .ok live =>
      if !sh.legal || (sh.uses && !c.pp) then s.faultAt g .iill 0
      else if c.pp && !sh.uses then (s.modCore g fun c => c.setPp false).faultAt g .pfxuse 0
      else if c.seqFault then s.faultAt g .sigm 0
      else if !s.chargeFits g i then s.chargeWait (clusterOfCore g)
      else match body s with
        | .error (.flt f a) => s.faultAt g f a
        | .error .stall => s.modCore g fun c => { c with wait := if c.wait = .none then .again else c.wait }
        | .ok (.done t) => (t.chargeFor g i).modCore g fun c => c.retire i false sh.uses live
        | .ok (.hold t) => t
        | .ok (.gone t) => t

/-- A core instruction's row: its core must exist. -/
def coreRow (i : Instr) (h : Core → Shape) (body : State → Except Exn Res) (s : State) : Out :=
  onCore s.self s (issue i h body)

/-! ### Transfers (R50, R51, R331 to R333, R341) -/

/-- A transfer to a target from the slot at PC, checked on entry. -/
def Core.jump (c : Core) (target : W64) : Core :=
  { c with pc := target, entered := .checked c.pc, crc := 0xFFFF, wait := .none, safe := none }

/-- The signature of the block that the instruction ends agrees with SIG. Both directions' comparisons are one, as
the two direction bytes differ only in bit 0 (R51, R333). -/
def Core.sigOk (c : Core) (i : Instr) (sig : BitVec 16) : Bool := crc16 (foldInstr c.crc i) [0x01] == sig

/-- The attached members a gang leader forwards to (R310). -/
def State.followers (s : State) (g : Nat) : List Nat :=
  match (s.core g).act with
  | some a => if a.gang && a.leader then (s.actCores g).filter fun k =>
      match (s.core k).act with
      | some b => !b.leader && !b.detached && !b.ended
      | none => false
    else []
  | none => []

/-- The leader of a gang activation still runs it. -/
def State.leaderRuns (s : State) (g : Nat) : Bool :=
  (s.actCores g).any fun k => match (s.core k).act with
    | some a => a.leader && !a.ended
    | none => false

/-- The core is an attached member under its leader's fetch: it fetches nothing of its own (R310, R341). A trap handler of a
member is outside the gang (DEDUCED, log 115). -/
def State.follows (s : State) (g : Nat) : Bool :=
  match (s.core g).act with
  | some a => a.gang && !a.leader && !a.detached && !a.ended && !(s.core g).trapActive && s.leaderRuns g
  | none => false

/-- Lines that a leader forwards; a member keeps them as long as it follows (R310). -/
def Core.takeLines (c : Core) (l : List (W64 × BitVec 512)) : Core :=
  { c with fetch := l ++ c.fetch.filter fun x => !l.any fun y => y.1 == x.1 }

/-- A member detaches (R341), with the most recent lines it holds. -/
def Core.detach (c : Core) : Core :=
  match c.act with
  | some a => { c with act := some { a with detached := true }, st := putField c.st 17 1 1, gpath := [], fetch := c.fetch.take 4 }
  | none => c

/-- The next PC of a BR-format instruction in a gang: the leader records it for its attached members; an attached member that
differs from the leader's path detaches, and waits while the leader has not come so far (R341). The branches of a trap handler
are outside the gang (DEDUCED, log 115). -/
def State.gangStep (s : State) (g : Nat) (next : W64) : Except Exn State :=
  match (s.core g).act with
  | none => .ok s
  | some a =>
    if !a.gang || (s.core g).trapActive then .ok s
    else if a.leader then
      .ok ((s.followers g).foldl (fun t k => t.modCore k fun c => { c with gpath := c.gpath ++ [next] }) s)
    else if a.detached then .ok s
    else match (s.core g).gpath with
      | [] => if s.leaderRuns g then .error .stall else .ok (s.modCore g Core.detach)
      | p :: l =>
        if p = next then .ok (s.modCore g fun c => { c with gpath := l }) else .ok (s.modCore g Core.detach)

/-- Issue of a branch: signature first, then the condition (R333); `cond` gives the state with the branch's own
register effects and the target where it transfers. -/
def issueBr (i : Instr) (f : BR) (legal : Bool) (cond : State → Except Exn (State × Option W64)) (s : State) : State :=
  issue i (fun _ => ⟨false, false, legal, usesOf [f.co, f.ax]⟩) (fun s =>
    let g := s.self
    if !(s.core g).sigOk i f.sig then .error (.flt .sigm 0)
    else do
      let (t, target) ← cond s
      let next := target.getD (nextSlot (s.core g).pc)
      let t ← t.gangStep g next
      match target with
      | some x => .ok (.gone (t.modCore g fun c => c.jump x))
      | none => .ok (.gone (t.modCore g fun c => c.retire i true false none))) s

def brRow2 (i : Instr) (f : BR) (legal : Bool) (cond : State → Except Exn (State × Option W64)) (s : State) : Out :=
  onCore s.self s (issueBr i f legal cond)

end Sys2Proof.Machine
end

