-- ==== Sys2Proof/Machine/Flags.lean ====
section
/-! DEFINITION. Modes and flags of an instruction: the effective rounding mode, saturation, the generator, and the
flags a list of results sets (R63 to R66, R69, R70, R88). -/

namespace Sys2Proof.Machine
open Sys2Proof.Machine.Num

/-- The mode of an RM code 1 … 6 (R63). -/
def modeOf (n : Nat) : RMode :=
  match n with
  | 1 => .rne | 2 => .rtz | 3 => .rdn | 4 => .rup | 5 => .rna | _ => .sr

/-- FM.RND (R78). -/
def Core.rnd (c : Core) : RMode := modeOf (c.fm.extractLsb' 0 3).toNat

/-- The mode an RM field names, before FM.SRE is looked at (R65). -/
def Core.namedMode (c : Core) (r : Rm) : RMode :=
  match r with
  | .fm => c.rnd | .rne => .rne | .rtz => .rtz | .rdn => .rdn | .rup => .rup | .rna => .rna | .sr => .sr

/-- The instruction rounds stochastically: SR with FM.SRE = 1 (R65, R70). -/
def Core.stochastic (c : Core) (r : Rm) : Bool := c.namedMode r == .sr && c.fm.getLsbD 4

/-- effrm: SR rounds as RNE while FM.SRE = 0 (R65). -/
def Core.effrm (c : Core) (r : Rm) : RMode :=
  if c.namedMode r = .sr ∧ !c.fm.getLsbD 4 then .rne else c.namedMode r

/-- effsat (R65). -/
def Core.effsat (c : Core) (uses : Bool) : Bool := c.fm.getLsbD 3 || (uses && c.px.getLsbD 4)

/-- `n` calls of srnext() where the instruction rounds stochastically, else zeros (R69, R70). -/
def Core.randoms (c : Core) (on : Bool) (n : Nat) : List W32 × Core :=
  if on then
    let d := draws n c.srseed
    (d.1, { c with srseed := d.2 })
  else (List.replicate n 0, c)

/-- An element: its bits and validity. -/
structure El where
  b : Nat
  v : Bool
  deriving DecidableEq, Repr

/-- The union of the flags of the valid results (R66). -/
def flagsOf (l : List (El × Flags)) : Flags := l.foldl (fun a x => if x.1.v then a ||| x.2 else a) fNone

/-- A source element as a validity policy reads it: bits and validity (R86). E8M0 has no zero: an invalid element of it under
VP = 0b10 is read as its bits 0, that is 2^-127 (DESIGN CHOICE, log 134). -/
def El.read (vp : Vp) (e : El) : El :=
  match vp with
  | .propagate => e
  | .ignore => { e with v := true }
  | .allValid => ⟨if e.v then e.b else 0, true⟩

/-- One result from its sources: nothing is computed and no flag set where a source is invalid (R86). -/
def combine (vp : Vp) (srcs : List El) (op : List Nat → Nat × Flags) : El × Flags :=
  let l := srcs.map (El.read vp)
  if l.all (·.v) then let r := op (l.map (·.b)); (⟨r.1, true⟩, r.2) else (⟨0, false⟩, fNone)

end Sys2Proof.Machine
end

