-- ==== Sys2Proof/Machine/Outstanding.lean ====
section
/-! DEFINITION. Engine commands issued and not yet completed, as the cores and the regions count them (R133, R141,
R313, R317, R318). -/

namespace Sys2Proof.Machine

/-- What an outstanding command owes, and to whom: its opcode, its issuing core and activation, its CP. -/
structure Outst where
  op : Nat
  core : Nat
  rid : W16
  key : BitVec 48
  lcn : W16
  cp : Cp
  deriving DecidableEq, Repr

def MxCmd.outst (c : MxCmd) : Outst := ⟨c.op, c.core, c.rid, c.key, c.lcn, c.cp⟩

/-- A copy, and the follow-on it carries (R141, R145). -/
def CopyCmd.outst1 (c : CopyCmd) : Outst := ⟨c.op, c.core, c.rid, c.key, c.lcn, c.cp⟩

def CopyCmd.outst (c : CopyCmd) : List Outst := c.outst1 :: c.fol.toList.map MxCmd.outst

def CollCmd.outst (c : CollCmd) : Outst := ⟨0xAF, c.core, c.rid, c.key, c.lcn, c.cp⟩

/-- A stream in RUN, WAIT or STOPPED owes its exit record (R149, R171). -/
def Stream.outst (t : Stream) : List Outst :=
  if t.state = 1 ∨ t.state = 2 ∨ t.state = 3 then [t.via.outst] else []

/-- Commands in an engine's inboxes, running or suspended (R135). -/
def Mxe.cmds (x : Mxe) : List MxCmd := (x.inbox.flatMap (·.2)) ++ (x.run.toList.map (·.cmd)) ++ x.susp.map (·.cmd)

/-- A follow-on whose copy is over no longer rides with it: the copies of a chiplet that still carry theirs. -/
def Chip.copies (c : Chip) : List CopyCmd :=
  (c.ceIn.toList.flatMap id) ++ c.ceRun.map (·.cmd)

/-- Every outstanding command of a chiplet. -/
def Chip.outstanding (c : Chip) : List Outst :=
  (c.mxe.toList.flatMap fun x => x.cmds.map MxCmd.outst ++ (match x.stream with
    | some t => t.outst
    | none => [])) ++ c.copies.flatMap CopyCmd.outst ++ c.clIn.map CollCmd.outst

/-- Outstanding commands that a core issued. -/
def State.outst (s : State) (g : Nat) : List Outst := (s.chip (g / 64)).outstanding.filter fun o => o.core == g

/-- A matrix command, WSTART or WRESUME (R133, R166). -/
def isMatrixOp (op : Nat) : Bool := (decide (0xA9 ≤ op) && decide (op ≤ 0xAD)) || op == 0xB3 || op == 0xB5

/-- The core's count of outstanding matrix commands (R133, R141). -/
def State.mxCount (s : State) (g : Nat) : Nat := ((s.outst g).filter fun o => isMatrixOp o.op).length

/-- A command was issued by the running activation. -/
def Act.issued (a : Act) (o : Outst) : Bool := a.rid == o.rid && a.key == o.key && a.lcn == o.lcn

/-- A record is owed to a queue of the running activation: to Qn, or to any (R317, R318). -/
def State.queueOwed (s : State) (g : Nat) (n : Option Nat) : Bool :=
  match (s.core g).act with
  | none => false
  | some a => (s.outst g).any fun o => a.issued o && match o.cp with
    | .queue k => n.isNone || n == some k.toNat
    | _ => false

/-- A PUBL of the core whose PEND is not yet set (R284). -/
def State.publOpen (s : State) (g : Nat) : Bool :=
  (s.chip (g / 64)).ceRun.any fun r => r.cmd.op == 0xB2 && r.cmd.core == g && !r.pubs.isEmpty

/-- Commands of an engine that have still to read operands or to store: not those that only wait to deliver their record, nor
those that will complete with ABORT (R135, R143). -/
def Mxe.working (x : Mxe) : List MxCmd :=
  ((x.inbox.flatMap (·.2)).filter fun c => !c.abort) ++ (x.run.toList.filter fun r => r.sts.isNone).map (·.cmd) ++
    x.susp.map (·.cmd)

/-- Matrix commands of a core not yet completed or halted, those still riding with a copy too (R145, R178). -/
def State.mxPending (s : State) (g : Nat) : List MxCmd :=
  ((s.mxe (clusterOfCore g)).cmds ++ (s.chip (g / 64)).copies.filterMap (·.fol)).filter fun m => m.core == g

/-- Matrix commands of a core whose reads and stores are not done (R135), those still riding with a copy too (R145). -/
def State.mxOpen (s : State) (g : Nat) : List MxCmd :=
  ((s.mxe (clusterOfCore g)).working ++ (s.chip (g / 64)).copies.filterMap (·.fol)).filter fun m => m.core == g

/-- Activations on a core, running and suspended, with their records. -/
def Core.activations (c : Core) : List Act :=
  c.act.toList ++ c.recq.toList.filterMap fun q => q.image.map (·.act)

/-- Activations of a group on a core. -/
def Core.actsOf (c : Core) (phg : W16) : List Act :=
  c.activations.filter fun a => recPhg (c.brec.getD a.brec 0) == phg && recV (c.brec.getD a.brec 0)

/-- The core has arrived at the boundary of a group in progress at it (R199). -/
def State.arrived (s : State) (phg : W16) (g : Nat) : Bool :=
  (s.pgroup phg).heard.contains g && ((s.core g).actsOf phg).all (·.phased)

/-- Engine commands of a region outstanding on a chiplet (R313). -/
def State.regionBusy (s : State) (n : Nat) (rid : W16) : Bool := (s.chip n).outstanding.any fun o => o.rid == rid

end Sys2Proof.Machine
end

