-- ==== Sys2Proof/Machine/Operands.lean ====
section
/-! DEFINITION. Operand forms (R41 to R46, R86): addresses, post-increments, reading sources, writing
destinations, and the field rules common to the formats (R37 to R39). -/

namespace Sys2Proof.Machine
open Sys2Proof.Machine.Num

/-! ### Field rules -/

/-- The type an instruction works on: TY, or PX.PTY for code 0xF (R40). -/
def Core.ty (c : Core) (t : Ty) : Ty := if t = .px then Ty.ofCode (c.px.extractLsb' 0 4) else t

/-- PX.PSTY (R79). -/
def Core.psty (c : Core) : Ty := Ty.ofCode (c.px.extractLsb' 8 4)

/-- LN is odd for 64-bit types (R39). -/
def lnOk (t : Ty) (ln : BitVec 4) : Bool := width t != 64 || ln.getLsbD 0

/-- The BITS class: every type but E2M1 and the prefix code (R85). -/
def isBits (t : Ty) : Bool := t != .e2m1 && t != .px

/-- A memory mode (R41). -/
def isMem : Operand → Bool
  | .mem _ _ => true | .inc _ _ => true | .off _ _ => true | .incReg _ _ => true | _ => false

def isRegOp : Operand → Bool
  | .reg _ _ => true | _ => false

def isImmOp : Operand → Bool
  | .imm _ => true | _ => false

def isAccOp : Operand → Bool
  | .acc => true | _ => false

/-- A source operand: any mode, but no queue against its direction (R46). -/
def srcForm : Operand → Bool
  | .queue n => n != 1
  | _ => true

/-- Exactly one element fits: LN = 0, or 1 for 64-bit types (R45). -/
def oneElem (t : Ty) (ln : BitVec 4) : Bool := if width t = 64 then ln == 1 else ln == 0

/-- A destination: no immediate, queues Q1 to Q3, Pn only for a single element or where `pany` (R44, R45, R46). -/
def dstForm (o : Operand) (t : Ty) (ln : BitVec 4) (pany : Bool) : Bool :=
  match o with
  | .imm _ => false
  | .queue n => n == 1 || n == 2 || n == 3
  | .reg _ _ => pany || oneElem t ln
  | _ => true

/-- Register number of an operand. -/
def regOf : Operand → BitVec 3
  | .reg n _ => n
  | _ => 0

/-- The register a post-increment mode changes (R41). -/
def incsOf : Operand → Option (BitVec 3)
  | .inc n _ => some n
  | .incReg n _ => some n
  | _ => none

/-- Pn is both a register-direct destination and post-incremented elsewhere (R43). -/
def incClash (d : Operand) (l : List Operand) : Bool :=
  match d with
  | .reg n _ => l.any fun o => incsOf o == some n
  | _ => false

/-- Number of elements: (LN + 1) × 32 ÷ width, or (LN + 1) ÷ 2 (R84). -/
def elemCount (t : Ty) (ln : BitVec 4) : Nat := (ln.toNat + 1) * 32 / width t

/-- Elements of an instruction with destination `d`: one for a Pn destination (R45, R84). -/
def elemsFor (d : Operand) (t : Ty) (ln : BitVec 4) : Nat := if isRegOp d then 1 else elemCount t ln

/-- The footprint of an instruction (R41). -/
def fpOf (ln : BitVec 4) : Nat := (ln.toNat + 1) * 4

/-- Lanes that `n` elements of a type cover. -/
def lanesFor (t : Ty) (n : Nat) : Nat := (n * width t + 31) / 32

/-! ### Addresses and post-increments -/

/-- Address of a memory operand from the P registers (R41). -/
def Core.opAddr (c : Core) (fp : Nat) (o : Operand) : W64 :=
  match o with
  | .mem n ds => c.preg n + ds.signExtend 64 * BitVec.ofNat 64 fp
  | .inc n _ => c.preg n
  | .off n ds => c.preg n + ds.signExtend 64
  | .incReg n _ => c.preg n
  | _ => 0

/-- The post-increment of one operand (R41). -/
def Core.opInc (c : Core) (fp : Nat) (o : Operand) : Core :=
  match o with
  | .inc n ds => c.setP n (c.preg n + ds.signExtend 64 * BitVec.ofNat 64 fp)
  | .incReg n m => c.setP n (c.preg n + c.preg m)
  | _ => c

/-- Post-increments in operand order (R43). An increment by Pm takes Pm as the instruction has left it by then: a compute
instruction has written its destination, a load has not (DESIGN CHOICE, log 96). -/
def Core.opIncs (c : Core) (fp : Nat) (l : List Operand) : Core := l.foldl (fun c o => c.opInc fp o) c

/-- A local operand's demand: operand, bytes, alignment. -/
abbrev Local := Operand × Nat × Nat

/-- Checks of the local operands in operand order (R53 row 8). -/
def Core.checkLocals (c : Core) (fp : Nat) : List Local → Except Exn Unit
  | [] => .ok ()
  | (o, n, al) :: l =>
    if isMem o then
      match c.checkLocal (c.opAddr fp o) n al with
      | .error e => .error e
      | .ok _ => c.checkLocals fp l
    else c.checkLocals fp l

/-! ### Sources -/

/-- An entry of 16 invalid lanes (R317). -/
def emptyEntry : QEntry := Vector.replicate 16 ⟨0, false⟩

/-- The flags that a completion record carries, by the opcode in its lane 0: those of a copy or collective in lane 6, of a stream
in lane 5, of a matrix command in lane 2 (R134, R171, R277). -/
def recordFlags (e : QEntry) : Flags :=
  let lane (k : Nat) : Flags := (e.toList.getD k ⟨0, false⟩).w.extractLsb' 0 8
  match ((e.toList.getD 0 ⟨0, false⟩).w.extractLsb' 8 8).toNat with
  | 0xA9 | 0xAA | 0xAB | 0xAC | 0xAD => lane 2
  | 0xB3 | 0xB5 => lane 5
  | 0xA8 | 0xB2 => lane 6
  | _ => fNone

/-- The activation was started by the completion message of a command that its own core issued (R132, R203). -/
def Act.completion (a : Act) : Bool :=
  a.trig.cls == 6 && a.trig.key.extractLsb' 30 2 == 0b10#2 && a.trig.score == a.lcn.toNat

/-- The core reads an entry: a completion record from Q4 to Q7, or a completion message, brings its flags into ST (R74, R134;
DEDUCED, log 116). -/
def Core.takeFlags (c : Core) (n : BitVec 3) (e : QEntry) : Core :=
  if 4 ≤ n.toNat ∨ (n = 0 ∧ c.act.any Act.completion) then c.orFlags (recordFlags e) else c

/-- Lanes 0 … nl − 1 of a source that holds lanes; a queue source takes its head entry (R45, R46, R317). `fill`:
some producer can still fill the queue. -/
def Core.readLanes (c : Core) (fill : BitVec 3 → Bool) (fp : Nat) (o : Operand) (nl : Nat) :
    Except Exn (Core × List Lane) :=
  match o with
  | .acc => .ok (c, (List.range nl).map fun k => ⟨(c.alane k).w, (c.alane k).v⟩)
  | .queue n =>
    match c.queue n with
    | e :: l => .ok ((c.setQ n l).takeFlags n e, e.toList.take nl)
    | [] => if fill n then .error .stall else .ok (c, List.replicate nl ⟨0, false⟩)
  | .imm v => .ok (c, List.replicate nl ⟨v.signExtend 32, true⟩)
  | .reg n _ => .ok (c, (List.range nl).map fun k => ⟨(c.preg n).extractLsb' (32 * (k % 2)) 32, true⟩)
  | _ =>
    let off := (c.opAddr fp o).toNat
    match c.readable off (4 * nl) with
    | .error e => .error e
    | .ok _ => .ok (c.wakeBanks off (4 * nl), c.spWords off nl)

/-- Element `e` of lanes (R39, R84): its bits, valid when every lane that holds a bit of it is. -/
def elemAt (t : Ty) (l : List Lane) (e : Nat) : El :=
  let z : Lane := ⟨0, false⟩
  if width t = 64 then
    let lo := l.getD (2 * e) z
    let hi := l.getD (2 * e + 1) z
    ⟨lo.w.toNat + 2 ^ 32 * hi.w.toNat, lo.v && hi.v⟩
  else
    let per := 32 / width t
    let x := l.getD (e / per) z
    ⟨x.w.toNat / 2 ^ (e % per * width t) % 2 ^ width t, x.v⟩

/-- The elements of lanes. -/
def elemsOf (t : Ty) (l : List Lane) (n : Nat) : List El := (List.range n).map (elemAt t l)

/-- An immediate as an element, with the flags of its conversion to a floating type, which saturates as the
instruction's conversions do (R44, R65). -/
def immElem (t : Ty) (sat : Bool) (v : BitVec 13) : El × Flags :=
  if isInt t then (⟨wrap (width t) v.toInt, true⟩, fNone)
  else let r := convert .i64 t .rne sat 0 (wrap 64 v.toInt); (⟨r.1, true⟩, r.2)

/-- `n` elements of a source operand (R44, R45, R46), with an immediate's flags. A prefix is pending in the body of an
instruction exactly where it uses one (R81), so PX.PSAT counts then. -/
def Core.readElems (c : Core) (fill : BitVec 3 → Bool) (fp : Nat) (o : Operand) (t : Ty) (n : Nat) :
    Except Exn (Core × List El × Flags) :=
  match o with
  | .imm v =>
    let x := immElem t (c.effsat c.pp) v
    .ok (c, List.replicate n x.1, x.2)
  | .reg r _ => .ok (c, List.replicate n ⟨(c.preg r).toNat % 2 ^ width t, true⟩, fNone)
  | _ =>
    match c.readLanes fill fp o (lanesFor t n) with
    | .error e => .error e
    | .ok (c', l) => .ok (c', elemsOf t l n, fNone)

/-- The elements of several sources in operand order; one queue named twice gives successive entries (R46). -/
def Core.readAll (c : Core) (fill : BitVec 3 → Bool) (fp : Nat) (t : Ty) (n : Nat) :
    List Operand → Except Exn (Core × List (List El) × Flags)
  | [] => .ok (c, [], fNone)
  | o :: l =>
    match c.readElems fill fp o t n with
    | .error e => .error e
    | .ok (c1, x, fl) =>
      match c1.readAll fill fp t n l with
      | .error e => .error e
      | .ok (c2, xs, fl2) => .ok (c2, x :: xs, fl ||| fl2)

/-! ### Destinations (R45, R46, R86) -/

/-- One lane of a result: the bits written, their mask, its validity. -/
structure LaneOut where
  w : W32
  m : W32
  v : Bool
  deriving DecidableEq, Repr

/-- Lane `k` of a list of result elements (R86). -/
def laneOut (t : Ty) (els : List El) (k : Nat) : LaneOut :=
  if width t = 64 then
    match els[k / 2]? with
    | some e => ⟨BitVec.ofNat 32 (e.b / 2 ^ (32 * (k % 2))), if e.v then BitVec.allOnes 32 else 0, e.v⟩
    | none => ⟨0, 0, true⟩
  else
    let w := width t
    let per := 32 / w
    (List.range per).foldl (fun a j =>
      match els[k * per + j]? with
      | some e => ⟨a.w ||| BitVec.ofNat 32 (e.b % 2 ^ w * 2 ^ (j * w)),
          if e.v then a.m ||| BitVec.ofNat 32 ((2 ^ w - 1) * 2 ^ (j * w)) else a.m, a.v && e.v⟩
      | none => a) ⟨0, 0, true⟩

/-- Every lane of a result. -/
def lanesOut (t : Ty) (els : List El) : List LaneOut := (List.range (lanesFor t els.length)).map (laneOut t els)

/-- A lane written over old bits. -/
def LaneOut.over (x : LaneOut) (old : W32) : W32 := (old &&& ~~~x.m) ||| (x.w &&& x.m)

/-- An element extended to a P register (R45). -/
def extElem (t : Ty) (b : Nat) : W64 :=
  if isSigned t then BitVec.ofInt 64 (toInt true (width t) b) else BitVec.ofNat 64 (b % 2 ^ width t)

/-- A queue entry a core pushes. -/
abbrev Push := Option (BitVec 3 × QEntry)

/-- The entry of given lanes: the other lanes invalid (R46). -/
def entryOf (l : List Lane) : QEntry := Vector.ofFn fun i => l.getD i.val ⟨0, false⟩

/-- Write lanes to a destination that holds lanes; a queue destination yields an entry (R46, R86, R87). -/
def Core.writeLanes (c : Core) (fp : Nat) (o : Operand) (l : List LaneOut) : Core × Push :=
  match o with
  | .acc => (l.zipIdx.foldl (fun c x => c.setA x.2 (x.1.over (c.alane x.2).w) x.1.v) c, none)
  | .queue n => (c, some (n, entryOf (l.map fun x => ⟨x.over 0, x.v⟩)))
  | .imm _ => (c, none)
  | .reg _ _ => (c, none)
  | _ =>
    let off := (c.opAddr fp o).toNat
    (c.spWrite off (l.zipIdx.map fun x => ⟨x.1.over (c.spGet (off + 4 * x.2)).w, x.1.v⟩), none)

/-- Write result elements to a destination; an invalid single result leaves Pn as it was (R45). -/
def Core.writeElems (c : Core) (fp : Nat) (o : Operand) (t : Ty) (els : List El) : Core × Push :=
  match o with
  | .reg n _ =>
    match els with
    | e :: _ => (if e.v then c.setP n (extElem t e.b) else c, none)
    | [] => (c, none)
  | _ => c.writeLanes fp o (lanesOut t els)

/-! ### Queues between cores (R317, R341) -/

/-- Position of a core in its gang and the gang's size. -/
def State.neighbour (s : State) (g : Nat) (next : Bool) : Option Nat :=
  let l := s.gangCores g
  match l.idxOf? g with
  | none => none
  | some i => if next then l[(i + 1) % l.length]? else l[(i + l.length - 1) % l.length]?

/-- A core still runs its part of a gang activation. -/
def State.runsGang (s : State) (g : Nat) : Bool :=
  match (s.core g).act with
  | some a => a.gang && !a.ended
  | none => false

/-- Some producer can still fill a queue of the core (R317). -/
def State.canFill (s : State) (g : Nat) (n : BitVec 3) : Bool :=
  match n.toNat with
  | 0 => false
  | 1 => false
  | 2 => s.runsGang g && match s.neighbour g false with
      | some k => s.runsGang k
      | none => false
  | 3 => s.runsGang g && match s.neighbour g true with
      | some k => s.runsGang k
      | none => false
  | k => s.queueOwed g (some k)

/-- Append an entry that the core writes to Q1, Q2 or Q3; the address of QOVF is the queue's number (R317, R341; DEDUCED, log
110). -/
def State.pushQ (s : State) (g : Nat) (n : BitVec 3) (e : QEntry) : Except Exn State :=
  let own (s : State) : Except Exn State :=
    if qDepth n ≤ ((s.core g).queue n).length then .error (.flt .qovf (n.zeroExtend 64))
    else .ok (s.modCore g fun c => c.setQ n (c.queue n ++ [e]))
  if n = 1 || !s.runsGang g then own s
  else match s.neighbour g (n == 2) with
    | none => own s
    | some k =>
      if !s.runsGang k then .ok s
      else if qDepth n ≤ ((s.core k).queue n).length then .error .stall
      else .ok (s.modCore k fun c => c.setQ n (c.queue n ++ [e]))

/-- What a computation of one core does to its core, and the entry it pushes. -/
abbrev Work := Core → (BitVec 3 → Bool) → Except Exn (Core × Push)

/-- An instruction that works on its own core's registers and scratchpad. -/
def onOwnCore (w : Work) (s : State) : Except Exn Res :=
  match w (s.core s.self) (s.canFill s.self) with
  | .error e => .error e
  | .ok (c, none) => .ok (.done (s.setCore s.self c))
  | .ok (c, some (n, e)) =>
    match (s.setCore s.self c).pushQ s.self n e with
    | .error x => .error x
    | .ok t => .ok (.done t)

/-! ### Whole vector instructions -/

/-- Field rules of an M3 compute instruction with `k` sources (R37, R85). -/
def legalM3 (f : M3) (t : Ty) (tyOk rounds fnOk : Bool) (k : Nat) (pany : Bool) : Bool :=
  let srcs := [f.oa, f.ob, f.oc].take k
  tyOk && lnOk t f.ln && (rounds || f.rm == .fm) && fnOk && dstForm f.od t f.ln pany && srcs.all srcForm &&
    ([f.oa, f.ob, f.oc].drop k).all (· == Operand.zero) && !incClash f.od srcs

/-- The shape of an M3 instruction whose fields pass `legal` for its resolved type. -/
def shapeM3 (f : M3) (legal : Ty → Bool) (c : Core) : Shape :=
  ⟨f.sp, f.ty == .px, legal (c.ty f.ty), usesOf [f.od, f.oa, f.ob, f.oc]⟩

/-- The per-element computation of an instruction: mode, random word, source elements to result and flags. -/
abbrev ElemOp := RMode → W32 → List Nat → Nat × Flags

/-- An element-wise instruction over sources of its own type (R84, R86, R88). `quiet`: the instruction's own rule gives it
no other flag, so an immediate's conversion sets none (R60, R92, R104, R106; DEDUCED, log 98). -/
def lanewiseFlags (quiet : Bool) (f : M3) (srcs : List Operand) (rounds : Bool) (op : Ty → ElemOp) : Work := fun c fill => do
  let t := c.ty f.ty
  let fp := fpOf f.ln
  let n := elemsFor f.od t f.ln
  let by4 := 4 * lanesFor t n
  c.checkLocals fp ((f.od, by4, 4) :: srcs.map fun o => (o, by4, 4))
  let m := c.effrm f.rm
  let (c1, xs, ifl) ← c.readAll fill fp t n srcs
  let (rs, c2) := c1.randoms (rounds && c.stochastic f.rm) n
  let res := (List.range n).map fun e =>
    combine f.vp (xs.map fun x => x.getD e ⟨0, false⟩) (op t m (rs.getD e 0))
  let fl := flagsOf res ||| (if !quiet && res.any (·.1.v) then ifl else fNone)
  let (c3, p) := c2.writeElems fp f.od t (res.map (·.1))
  return ((c3.opIncs fp (f.od :: srcs)).orFlags fl, p)

/-- An element-wise instruction whose immediates set flags (R44). -/
def lanewise (f : M3) (srcs : List Operand) (rounds : Bool) (op : Ty → ElemOp) : Work :=
  lanewiseFlags false f srcs rounds op

/-- An M3 element-wise row. -/
def vecRow (i : Instr) (f : M3) (k : Nat) (tyOk : Ty → Bool) (rounds fnOk : Bool) (op : Ty → ElemOp) (s : State) : Out :=
  coreRow i (shapeM3 f fun t => legalM3 f t (tyOk t) rounds fnOk k false)
    (onOwnCore (lanewise f ([f.oa, f.ob, f.oc].take k) rounds op)) s

/-- An M3 element-wise row that rounds nothing and sets no flag but its operation's own (R60, R92, R104, R106). -/
def quietRow (i : Instr) (f : M3) (k : Nat) (tyOk : Ty → Bool) (fnOk : Bool) (op : Ty → ElemOp) (s : State) : Out :=
  coreRow i (shapeM3 f fun t => legalM3 f t (tyOk t) false fnOk k false)
    (onOwnCore (lanewiseFlags true f ([f.oa, f.ob, f.oc].take k) false op)) s

/-- The M3 view of an MI instruction: OB and OC absent. -/
def miAsM3 (f : MI) : M3 := ⟨f.sp, f.ty, f.ln, f.vp, f.rm, f.fn, f.od, f.oa, .zero, .zero⟩

/-- An MI element-wise row with one source and a constant element given by IMM32 with its flags (R97, R113). -/
def immRow (i : Instr) (f : MI) (tyOk : Ty → Bool) (rounds : Bool) (k : Ty → Nat × Flags) (op : Ty → ElemOp)
    (s : State) : Out :=
  coreRow i (shapeM3 (miAsM3 f) fun t => legalM3 (miAsM3 f) t (tyOk t) rounds (f.fn == 0) 1 false)
    (onOwnCore (lanewise (miAsM3 f) [f.oa] rounds fun t m r l =>
      let o := op t m r (l ++ [(k t).1]); (o.1, o.2 ||| (k t).2))) s

/-- The value of Pn or of a 13-bit immediate, sign-extended (R41). -/
def Core.pOrImm (c : Core) (o : Operand) : W64 :=
  match o with
  | .reg n _ => c.preg n
  | .imm v => v.signExtend 64
  | _ => 0

/-- Write one valid U32 to Pn, a local operand or A; nothing where the operand is absent. -/
def Core.writeU32 (c : Core) (fp : Nat) (o : Operand) (v : Nat) : Core :=
  if o = .zero then c else (c.writeElems fp o .u32 [⟨v % 2 ^ 32, true⟩]).1

/-- Write one valid U64 to Pn, a local operand or A. -/
def Core.writeU64 (c : Core) (fp : Nat) (o : Operand) (v : Nat) : Core :=
  (c.writeElems fp o .u64 [⟨v % 2 ^ 64, true⟩]).1

end Sys2Proof.Machine
end

