-- ==== Sys2Proof/Machine/Tiers.lean ====
section
/-! DEFINITION. The tiers a global access goes through: the scratchpad window (R180), the retention registers and
sets of L2 (R186 to R193), L1, the core's phase log (R200 to R208), host memory behind a port (R414). -/

namespace Sys2Proof.Machine
open Sys2Proof.Machine.Num

/-! ### Pieces of a global access (R217) -/

/-- [va, va + n) cut at 4 KiB boundaries. -/
def chunks : Nat → W64 → Nat → List (W64 × Nat)
  | 0, _, _ => []
  | fuel + 1, va, n =>
    if n = 0 then []
    else
      let k := min n (4096 - va.toNat % 4096)
      (va, k) :: chunks fuel (va + BitVec.ofNat 64 k) (n - k)

/-- A part of a global access: own scratchpad, or a stretch of a page. -/
inductive Piece where
  | win (off len : Nat)
  | glob (x : Seg)
  deriving DecidableEq, Repr

/-- The stretch of a piece that lies in memory. -/
def Piece.seg? : Piece → Option Seg
  | .win _ _ => none
  | .glob x => some x

/-- The stretches in memory of some pieces. -/
def segsOf (l : List Piece) : List Seg := l.filterMap Piece.seg?

/-- The pieces of chunks: a window offset at SPSIZE or above has no translation (R180, R217). -/
def State.piecesOf (s : State) (g : Nat) (need : Need) : List (W64 × Nat) → Except FCode (List Piece)
  | [] => .ok []
  | (va, n) :: l =>
    let c := s.core g
    match (if inWindow va then
        if windowOff va + n ≤ c.spsize then Except.ok (Piece.win (windowOff va) n) else .error .txnp
      else (s.seg (.core g) (g / 64) (some g) c.asid c.user va n need .current).map Piece.glob) with
    | .error f => .error f
    | .ok p => match s.piecesOf g need l with
      | .error f => .error f
      | .ok ps => .ok (p :: ps)

/-- A global operand of the core at `va`: ALIGN, BANKOFF of a window bank, then translation (R217). -/
def State.globalAccess (s : State) (g : Nat) (va : W64) (n align : Nat) (need : Need) : Except Exn (List Piece) :=
  let c := s.core g
  let cs := chunks (n / 4096 + 2) va n
  if va.toNat % align ≠ 0 then .error (.flt .align va)
  else if cs.any (fun x => inWindow x.1 && c.bankOff (windowOff x.1) (min x.2 (c.spsize - windowOff x.1))) then
    .error (.flt .bankoff va)
  else match s.piecesOf g need cs with
    | .error f => .error (.flt f va)
    | .ok l => .ok l

/-- Fill the translation caches with what an access used (R393). -/
def State.fillAll (s : State) (g : Cache) (n : Nat) (l : List Seg) : State :=
  l.foldl (fun t x => t.fillTlb g n x.entry) s

/-- Alignment of a global operand by type (R217). -/
def globalAlign (t : Ty) : Nat := if width t = 64 then 8 else 4

/-! ### Retention and L2 sets (R188 to R193) -/

/-- V, ASID and WAYS of L2RCTL (R192). -/
def retV (r : W64) : Bool := r.getLsbD 63
def retAsid (r : W64) : W16 := r.extractLsb' 16 16
def retWays (r : W64) : W16 := r.extractLsb' 0 16

/-- The retention register whose range holds a request; of several, the lowest-numbered (R191; DESIGN CHOICE, log 125). -/
def Chip.retReg (c : Chip) (asid : W16) (va : W64) : Option Nat :=
  (List.range 8).find? fun i => retV (c.rctl.getD i 0) && retAsid (c.rctl.getD i 0) == asid &&
    decide ((va - c.rbase.getD i 0).toNat < (c.rlen.getD i 0).toNat)

/-- The tag of a fill: 2^57 × ASID + virtual line. -/
def fillTag (asid : W16) (va : W64) : Nat := asid.toNat * 2 ^ 57 + va.toNat / 128

/-- A tag in the range of a retention register. -/
def Chip.tagIn (c : Chip) (i tag : Nat) : Bool :=
  c.retReg (BitVec.ofNat 16 (tag / 2 ^ 57)) (BitVec.ofNat 64 (tag % 2 ^ 57 * 128)) == some i

/-- The ways no valid register reserves. -/
def Chip.openWays (c : Chip) : List Nat :=
  (List.range 16).filter fun w => (List.range 8).all fun i =>
    !(retV (c.rctl.getD i 0) && (retWays (c.rctl.getD i 0)).getLsbD w)

/-- The way a fill takes among some: an empty one, else the least recent (R188). -/
def L2Set.victim (x : L2Set) (ways : List Nat) : Option Nat :=
  match ways.find? fun w => !(x.ways.any fun p => p.1 == w) with
  | some w => some w
  | none => (x.order.reverse).find? fun w => ways.contains w

/-- Put a line into a way; evict-first leaves it least recent (R189). -/
def L2Set.fill (x : L2Set) (w line tag : Nat) (ef home : Bool) : L2Set :=
  ⟨KV.put w line x.ways, if ef then x.order.filter (· != w) ++ [w] else w :: x.order.filter (· != w), KV.put w tag x.tag,
    if home then w :: x.home.filter (· != w) else x.home.filter (· != w), x.log⟩

/-- Lines of a core's log segment: 8 entries of 16 bytes each of those that have spilled (R190, R207). -/
def Core.segLines (c : Core) : Nat := (runCount (c.log.filter fun e => !e.inL1).reverse + 7) / 8

/-- Log lines in a set of a slice: the four segments of a slice lie over its sets one after another, 2,048 lines each (R190;
DESIGN CHOICE, log 16). -/
def State.logLines (s : State) (n sl set : Nat) : Nat :=
  ((List.range 4).filter fun j => set / 2048 == j % 2 && decide (set % 2048 < (s.core (64 * n + 16 * j + sl)).segLines)).length

/-- One more log line displaces the line that R188 chooses among the ways given. -/
def L2Set.logFill (x : L2Set) (ways : List Nat) : L2Set :=
  match x.victim (ways.filter fun w => !x.log.contains w) with
  | some w => { x with
      ways := KV.del w x.ways, order := x.order.filter (· != w), home := x.home.filter (· != w), log := x.log ++ [w] }
  | none => x

/-- A set with k log lines: those it held before stay in their ways, more take places among the ways that no register reserves
(R188, R190; DESIGN CHOICE, log 16). -/
def L2Set.logged (x : L2Set) (c : Chip) (k : Nat) : L2Set :=
  iter (fun x => x.logFill c.openWays) (k - x.log.length) { x with log := x.log.take k }

/-- A request for a line at slice `sl` of a chiplet: hit, or fill by R188 and R191, and the counters. The set is
bits 22:11 of the address (DESIGN CHOICE, log 16). `home`: the slice is the line's home; `lg`: log lines in the set. -/
def Chip.l2Touch (c : Chip) (sl : Nat) (asid : W16) (va : W64) (pa : Nat) (ef home : Bool) (lg : Nat) : Chip :=
  let key := 4096 * sl + pa / 2048 % 4096
  let x := (KV.get ⟨[], [], [], [], []⟩ c.l2 key).logged c lg
  let line := pa / 128
  match x.ways.find? fun p => p.2 == line with
  | some (w, _) =>
    let c := { c with rhit := Vector.ofFn fun i => if retV (c.rctl.getD i.val 0) && (retWays (c.rctl.getD i.val 0)).getLsbD w
      then c.rhit.getD i.val 0 + 1 else c.rhit.getD i.val 0 }
    if ef then c else { c with l2 := KV.put key { x with order := w :: x.order.filter (· != w) } c.l2 }
  | none =>
    let tag := fillTag asid va
    let own := match c.retReg asid va with
      | none => none
      | some i =>
        x.victim ((bitsOf (retWays (c.rctl.getD i 0))).filter fun w => !x.log.contains w && match KV.find x.tag w with
          | some t => !((x.ways.any fun p => p.1 == w) && c.tagIn i t)
          | none => true)
    match own with
    | some w => { c with l2 := KV.put key (x.fill w line tag ef home) c.l2 }
    | none =>
      let c := match c.retReg asid va with
        | some i => { c with rovf := c.rovf.set! i (c.rovf.getD i 0 + 1) }
        | none => c
      match x.victim (c.openWays.filter fun w => !x.log.contains w) with
      | some w => { c with l2 := KV.put key (x.fill w line tag ef home) c.l2 }
      | none => c

/-- The slices a request for a line of a stretch passes: the home slice of a slice-homed page, the requester's own
slice for a PHASED line of a memory chiplet (R186). `n`: the requester's chiplet. -/
def State.l2Request (s : State) (n : Nat) (asid : W16) (leaf va : W64) (pa : Nat) (ef : Bool) : State :=
  if hkOf leaf = 1 then
    let h := Config.computeOfIndex (hselOf leaf / 16)
    s.modChip h fun c => c.l2Touch (hselOf leaf % 16) asid va pa ef true (s.logLines h (hselOf leaf % 16) (pa / 2048 % 4096))
  else if hkOf leaf = 2 || leaf.getLsbD 5 || !Config.isCompute n then s
  else s.modChip n fun c => c.l2Touch (pa / 128 % 16) asid va pa ef false (s.logLines n (pa / 128 % 16) (pa / 2048 % 4096))

/-- The lines a stretch in physical memory touches, each with its virtual address. -/
def Seg.lines (x : Seg) : List (Nat × W64) :=
  match x.base with
  | .host _ _ _ => []
  | .pa a => if x.len = 0 then [] else
      (List.range ((a + x.len - 1) / 128 + 1 - a / 128)).map fun k =>
        ((a / 128 + k) * 128, BitVec.ofNat 64 ((x.va.toNat / 128 + k) * 128))

/-- Every line of some stretches requested by an agent of chiplet `n` that fills no L1 (R186). -/
def State.l2Segs (s : State) (n : Nat) (asid : W16) (l : List Seg) (ef : Bool) : State :=
  l.foldl (fun t x => x.lines.foldl (fun t y => t.l2Request n asid x.leaf y.2 y.1 (ef || x.leaf.getLsbD 7)) t) s

/-- What an access of core g to IMMEDIATE pages does before its homes perform it: the translation caches keep what it used, and
a slice that is home takes note of it (R188, R393). -/
def State.useSegs (s : State) (g : Nat) (l : List Seg) : State :=
  (s.fillAll (.core g) (g / 64) l).l2Segs (g / 64) (s.core g).asid (l.filter Seg.imm) false

/-! ### L1 (R186, R188) -/

/-- Lines L1 holds at most: 256 per 32 KiB, in one order of use (log 9). -/
def Core.l1Cap (c : Core) : Nat := (c.spcfg.extractLsb' 0 3).toNat * 256

def Core.l1Find (c : Core) (line : Nat) : Option L1Line := c.l1.find? fun x => x.line == line

/-- Bring a line of a PHASED stretch into L1. -/
def State.l1Ensure (s : State) (g : Nat) (x : Seg) (pa : Nat) (va : W64) (ef : Bool) : State :=
  let c := s.core g
  match c.l1Find (pa / 128) with
  | some e => if ef then s else s.setCore g { c with l1 := e :: c.l1.filter fun y => y.line != pa / 128 }
  | none =>
    let s := s.l2Request (g / 64) c.asid x.leaf va pa ef
    if c.l1Cap = 0 ∨ s.poisonedAt (.pa pa) then s
    else
      let e : L1Line := ⟨pa / 128, va.toNat / 128, s.bytesAt (Loc.span (.pa (pa / 128 * 128)) 128)⟩
      s.modCore g fun c => { c with l1 := if ef then c.l1.take (c.l1Cap - 1) ++ [e] else (e :: c.l1).take c.l1Cap }

/-- Bring every line of a PHASED stretch into L1. -/
def State.l1Lines (s : State) (g : Nat) (x : Seg) (ef : Bool) : State :=
  x.lines.foldl (fun t y => t.l1Ensure g x y.1 y.2 (ef || x.leaf.getLsbD 7)) s

/-! ### The phase log (R200, R202, R207, R208) -/

/-- A PHASED byte of the core's own plain stores of the phase: entries of its committed activations and of the
running one, latest first (R200). -/
def Core.ownByte (c : Core) (pa : Nat) : Option Byte :=
  c.log.reverse.findSome? fun e =>
    if e.addr = pa / 8 * 8 ∧ some e.phg = c.group ∧ (e.committed || c.act.any fun a => ownEntry a e) then
      match e.body with
      | .store m v => if m.getLsbD (pa % 8) then some (v.extractLsb' (8 * (pa % 8)) 8) else none
      | .merge _ _ _ _ => none
    else none

/-- The byte a PHASED load returns (R200): the own store, else the copy in L1, else the home's. -/
def State.phasedByte (s : State) (g pa : Nat) : Byte :=
  let c := s.core g
  match c.ownByte pa with
  | some b => b
  | none =>
    match c.l1Find (pa / 128) with
    | some x => x.data.getD (pa % 128) 0
    | none => s.byteAt (.pa pa)

/-- Enter an entry at its program-order position; it lies in L1 with the run it extends, or while fewer than 1,024
are held and L1 has room (R202, R207). -/
def Core.addEntry (c : Core) (e : LogEntry) : Core :=
  let before := c.log.takeWhile fun x => x.pos ≤ e.pos
  let room := decide (c.l1Cap ≠ 0) && decide (c.logCount < 1024)
  let inL1 := match latestAt before.reverse e with
    | some x => if sameRun x e then x.inL1 else room
    | none => room
  { c with log := before ++ [{ e with inL1 := inL1 }] ++ c.log.drop before.length, spill := c.spill || !inL1 }

/-- Enter entries, all or none: none where the count would pass 16,384 (R207). -/
def Core.addEntries (c : Core) (l : List LogEntry) : Option Core :=
  let d := l.foldl Core.addEntry c
  if 16384 < d.logCount ∧ c.logCount < d.logCount then none else some { d with pos := d.pos + 1 }

/-- An entry of the running activation. -/
def Core.newEntry (c : Core) (addr : Nat) (body : LogBody) : LogEntry :=
  let a : Act := c.act.getD ⟨0, 0, 0, 0, Packet.zero, 0, false, false, 0, 0, false, false, false, false, false, []⟩
  ⟨addr, body, a.lcn, a.key, c.asid, recPhg c.curRec, false, false, c.pos, a.rid⟩

/-- The plain-store bodies of bytes at rising physical addresses, one per doubleword touched (R202, R223). -/
def storeBodies (l : List (Nat × Byte)) : List (Nat × LogBody) :=
  ((l.map fun x => x.1 / 8).eraseDups).map fun d =>
    let at8 := l.filter fun x => x.1 / 8 == d
    (8 * d, .store (at8.foldl (fun (m : BitVec 8) x => m ||| BitVec.ofNat 8 (2 ^ (x.1 % 8))) 0)
      (at8.foldl (fun (v : W64) x => v ||| BitVec.ofNat 64 (x.2.toNat * 256 ^ (x.1 % 8))) 0))

/-- The plain-store entries of the running activation. -/
def Core.storeEntries (c : Core) (l : List (Nat × Byte)) : List LogEntry :=
  (storeBodies l).map fun x => c.newEntry x.1 x.2

/-! ### Homes (R213, R414) -/

/-- What stops an access at its homes: a translation the host refuses, an uncorrectable error where it reads. -/
def State.homeFault (s : State) (l : List Loc) (reads : Bool) : Option FCode :=
  if !l.all s.hostOk then some .txnp
  else if reads && s.anyPoison l then some .eccu
  else none

/-- An access of a core must follow an earlier one to the same home (R213). -/
def homesClash (l : List Pend) (homes : List Nat) : Bool := l.any fun p => p.homes.any fun h => homes.contains h

/-! ### Scratchpad counters (R232, R233) -/

/-- dec of R233 on the two words of a counter. -/
def ctrDecWords (lo hi : W32) (k : Nat) (sts flags : Byte) : W32 × W32 :=
  let und := decide (lo.toNat < k)
  let s0 : Byte := hi.extractLsb' 24 8
  let f0 : Byte := hi.extractLsb' 16 8
  (if und then 0 else lo - BitVec.ofNat 32 k,
    (if sts = 0 ∨ sts.toNat ≤ s0.toNat then s0 else sts) ++ (f0 ||| flags) ++ (0 : BitVec 15) ++
      bit1 (und || hi.getLsbD 0))

/-- A counter update by an engine or the network interface at an offset inside SPSIZE (R233). -/
def Core.ctrDec (c : Core) (off k : Nat) (sts flags : Byte) : Core :=
  let x := ctrDecWords (c.spGet off).w (c.spGet (off + 4)).w k sts flags
  (c.wakeBanks off 8).spStore off [⟨x.1, true⟩, ⟨x.2, true⟩]

/-! ### What loads deliver (R222) -/

/-- `n` unconstrained words. -/
def State.drawWords (s : State) : Nat → List W32 × State
  | 0 => ([], s)
  | n + 1 => let d := s.draw; let r := d.2.drawWords n; (d.1.extractLsb' 0 32 :: r.1, r.2)

/-! ### Reaching another site (R253, R255) -/

/-- Network-select entry of a site for a destination (R253). -/
def State.nselOf (s : State) (n d : Nat) : W16 := KV.get 0 (s.chip n).nsel d

def nselV (e : W16) : Bool := e.getLsbD 15
/-- Key of a flow at one end: the other end's chiplet and the class. -/
def flowKey (ch cls : Nat) : Nat := 8 * ch + cls

def State.outFlow (s : State) (n d cls : Nat) : OutFlow := KV.get ⟨0, [], 0, false⟩ (s.chip n).outf (flowKey d cls)

/-- An engine of a chiplet can send to a home: its own chiplet's, or one whose select entry is valid (R255). -/
def State.reaches (s : State) (n home : Nat) : Bool := homeSite home == n || nselV (s.nselOf n (homeSite home))

end Sys2Proof.Machine
end

