-- ==== Sys2Proof/Machine/Memory.lean ====
section
/-! DEFINITION. Memory, atomic, merge-log and counter instructions (R217 to R240), and the steps that perform what
they leave in flight (R213, R220, R222, R230). -/

namespace Sys2Proof.Machine
open Sys2Proof.Machine.Num

/-! ### Fields -/

/-- VP, RM, TY and LN of an instruction that accepts one code of TY and one length; the prefix's code is another (R37; log 15).
-/
def fixedM3 (f : M3) (t ty : Ty) (ln : BitVec 4) : Bool := f.ty != .px && t == ty && f.ln == ln && f.vp == .propagate && f.rm == .fm

/-- Operands that must be absent. -/
def absent (l : List Operand) : Bool := l.all (· == Operand.zero)

/-- Pn or an immediate. -/
def regOrImm (o : Operand) : Bool := isRegOp o || isImmOp o

/-- Pn, a local operand or A: a single-element destination (R45). -/
def oneDst (o : Operand) : Bool := isRegOp o || isMem o || isAccOp o

/-- The queues an instruction of this range reads. -/
def readQueue : Operand → Bool
  | .queue n => n != 1
  | _ => false

/-! ### Loads (R222) -/

/-- Where a destination's lanes go. -/
def Core.destOf (c : Core) (fp : Nat) (o : Operand) : Dest :=
  match o with
  | .acc => .acc
  | .reg n _ => .reg n
  | .queue n => .queue n
  | .imm _ => .none
  | _ => .spad (c.opAddr fp o).toNat

/-- Write lanes to a destination, with the type of a single element (R45, R46, R87, R222). -/
def State.deliver (s : State) (g : Nat) (d : Dest) (t : Ty) (l : List Lane) : Except Exn State :=
  match d with
  | .none => .ok s
  | .acc => .ok (s.modCore g fun c => l.zipIdx.foldl (fun c x => c.setA x.2 x.1.w x.1.v) c)
  | .reg n =>
    let e := elemAt t l 0
    .ok (if e.v then s.modCore g fun c => c.setP n (extElem t e.b) else s)
  | .queue n => s.pushQ g n (entryOf l)
  | .spad off => .ok (s.modCore g fun c => c.spWrite off l)

/-- The lanes of a load, piece by piece: window words as stored, PHASED bytes taken now, IMMEDIATE bytes and bytes of
a poisoned line left to the home (R200, R213, R222). -/
def State.takeLanes (s : State) (g : Nat) (ef : Bool) : List Piece → List LaneSrc × State
  | [] => ([], s)
  | .win off n :: l =>
    let x := (s.core g).spWords off (n / 4)
    let r := (s.modCore g fun c => c.wakeBanks off n).takeLanes g ef l
    (x.map .taken ++ r.1, r.2)
  | .glob x :: l =>
    let s := if x.imm then s.l2Segs (g / 64) (s.core g).asid [x] ef else s.l1Lines g x ef
    let x4 := (List.range (x.len / 4)).map fun k => match x.base.plus (4 * k) with
      | .host p d i => LaneSrc.home (.host p d i)
      | .pa a =>
        if x.imm || (s.poisonedAt (.pa a) && ((s.core g).l1Find (a / 128)).isNone) then .home (.pa a)
        else .taken ⟨BitVec.ofNat 32 (leNat ((List.range 4).map fun j => s.phasedByte g (a + j))), true⟩
    let r := s.takeLanes g ef l
    (x4 ++ r.1, r.2)

/-- Loads and other accesses of a core in flight (R219). -/
def Core.loadsOut (c : Core) : Nat := (c.pend.filter fun p => match p.kind with | .load _ _ _ _ => true | _ => false).length
def Core.othersOut (c : Core) : Nat := c.pend.length - c.loadsOut

/-- The lane of a load once its home answers. -/
def State.laneNow (s : State) (x : LaneSrc) : Lane :=
  match x with
  | .taken y => y
  | .home l => ⟨BitVec.ofNat 32 (leNat (s.bytesAt (l.span 4))), true⟩

/-- The places a load reads at homes. -/
def homePlaces (l : List LaneSrc) : List Loc := l.flatMap fun x => match x with
  | .taken _ => []
  | .home p => p.span 4

/-- The window pieces of a load hold no uncorrectable error. -/
def Core.readablePieces (c : Core) : List Piece → Except Exn Unit
  | [] => .ok ()
  | .glob _ :: l => c.readablePieces l
  | .win off n :: l =>
    match c.readable off n with
    | .error e => .error e
    | .ok _ => c.readablePieces l

/-- LD and LDEF (R222). -/
def ldBody (f : M3) (ef : Bool) (s : State) : Except Exn Res := do
  let g := s.self
  let c := s.core g
  let t := c.ty f.ty
  let fp := fpOf f.ln
  c.checkLocals fp [(f.od, fp, 4)]
  let va := c.opAddr fp f.oa
  let ps ← s.globalAccess g va fp (globalAlign t) .r
  let dest := c.destOf fp f.od
  match dest with
  | .queue n => discard (s.pushQ g n emptyEntry)
  | _ => pure ()
  let sg := segsOf ps
  if !sg.isEmpty && decide (16 ≤ c.loadsOut) then throw .stall
  c.readablePieces ps
  let (lanes, s1) := (s.fillAll (.core g) (g / 64) sg).takeLanes g ef ps
  let s2 := s1.modCore g fun c => (match dest with
    | .spad off => c.wakeBanks off fp
    | _ => c).opIncs fp [f.od, f.oa]
  if sg.isEmpty then return .done (← s2.deliver g dest t (lanes.map s2.laneNow))
  else return .done (s2.modCore g fun d => { d with pend := d.pend ++
    [⟨.load lanes dest t f.ln, (sg.filter Seg.imm).map (·.home), c.pc, va, c.asid⟩] })

/-- Field rules of LD and LDEF (R218). -/
def ldLegal (f : M3) (t : Ty) : Bool :=
  legalM3 f t (isBits t) false (f.fn == 0) 1 false && f.vp == .propagate && isMem f.oa

/-- LD. -/
def execLd (f : M3) (s : State) : Out := coreRow (.ld f) (shapeM3 f (ldLegal f)) (ldBody f false) s

/-- LDEF. -/
def execLdef (f : M3) (s : State) : Out := coreRow (.ldef f) (shapeM3 f (ldLegal f)) (ldBody f true) s

/-! ### Stores (R223) -/

/-- Where one lane of a global access lies. -/
inductive LanePlace where
  | win (off : Nat)
  | phased (pa : Nat)
  | home (l : Loc)
  deriving DecidableEq, Repr

/-- The place at a byte of a piece. -/
def Piece.placeAt (p : Piece) (k : Nat) : LanePlace :=
  match p with
  | .win off _ => .win (off + k)
  | .glob x => match x.base.plus k with
    | .pa a => if x.imm then .home (.pa a) else .phased a
    | .host p d i => .home (.host p d i)

/-- The places of the lanes of a global access, in order. -/
def lanePlaces (l : List Piece) : List LanePlace := l.flatMap fun p =>
  let n := match p with
    | .win _ n => n
    | .glob x => x.len
  (List.range (n / 4)).map fun k => p.placeAt (4 * k)

/-- The lanes of a store's source (R44, R45, R46, R223). -/
def Core.storeLanes (c : Core) (fill : BitVec 3 → Bool) (fp : Nat) (o : Operand) (t : Ty) (ln : BitVec 4) :
    Except Exn (Core × List Lane) :=
  if regOrImm o then do
    let (c1, xs, _) ← c.readElems fill fp o t (elemCount t ln)
    return (c1, (lanesOut t xs).map fun x => ⟨x.w, true⟩)
  else c.readLanes fill fp o (ln.toNat + 1)

/-- A word as a store takes it: none where it is suppressed (R223). -/
def storeWord (vp : Vp) (x : Lane) : Option W32 :=
  match vp with
  | .propagate => if x.v then some x.w else none
  | .ignore => some x.w
  | .allValid => some (if x.v then x.w else 0)

/-- The word a store leaves in the scratchpad window (R223). -/
def windowWord (vp : Vp) (x : Lane) : Lane :=
  match vp with
  | .propagate => x
  | .ignore => ⟨x.w, true⟩
  | .allValid => ⟨if x.v then x.w else 0, true⟩

/-- The bytes a store puts at PHASED addresses. -/
def phasedBytes (l : List (LanePlace × Option W32)) : List (Nat × Byte) := l.flatMap fun x => match x with
  | (.phased a, some w) => (List.range 4).map fun j => (a + j, w.extractLsb' (8 * j) 8)
  | _ => []

/-- The bytes a store puts at IMMEDIATE places. -/
def homeBytes (l : List (LanePlace × Option W32)) : List (Loc × Byte) := l.flatMap fun x => match x with
  | (.home p, some w) => (List.range 4).map fun j => (p.plus j, w.extractLsb' (8 * j) 8)
  | _ => []

/-- ST: homes of which it stores no byte see no access (R223). -/
def stBody (f : M3) (s : State) : Except Exn Res := do
  let g := s.self
  let c := s.core g
  let t := c.ty f.ty
  let fp := fpOf f.ln
  let va := c.opAddr fp f.od
  let ps ← s.globalAccess g va fp (globalAlign t) .w
  c.checkLocals fp [(f.oa, fp, 4)]
  let (c1, lanes) ← c.storeLanes (s.canFill g) fp f.oa t f.ln
  let places := lanePlaces ps
  let words := places.zip (lanes.map (storeWord f.vp))
  let here := homeBytes words
  if here ≠ [] ∧ 16 ≤ c.othersOut then throw .stall
  match c1.addEntries (c1.storeEntries (phasedBytes words)) with
  | none => throw (.flt .logfull va)
  | some c2 =>
    let c3 := (places.zip lanes).foldl (fun c x => match x.1 with
      | .win off => c.spWrite off [windowWord f.vp x.2]
      | _ => c) c2
    let c4 := if here = [] then c3 else
      { c3.makeIrrev with pend := c3.pend ++ [⟨.store here, ((segsOf ps).filter Seg.imm).map (·.home), c.pc, va, c.asid⟩] }
    return .done (((s.setCore g (c4.opIncs fp [f.od, f.oa])).fillAll (.core g) (g / 64) (segsOf ps)).l2Segs (g / 64) c.asid
      ((segsOf ps).filter fun x => x.imm && here.any fun y => x.places.contains y.1) false)

/-- A source of ST or LLOG (R218). -/
def storeSrc (o : Operand) : Bool := isMem o || isAccOp o || regOrImm o || readQueue o

/-- ST. -/
def execSt (f : M3) (s : State) : Out :=
  coreRow (.st f) (shapeM3 f fun t => isBits t && lnOk t f.ln && f.rm == .fm && f.fn == 0 && isMem f.od && storeSrc f.oa &&
    absent [f.ob, f.oc]) (stBody f) s

/-! ### PF, PIN, UNPIN (R224 to R226) -/

/-- PF (R224). -/
def pfBody (f : M3) (s : State) : Except Exn Res :=
  let g := s.self
  let c := s.core g
  let va := c.opAddr 4 f.oa
  let after (s : State) := Except.ok (Res.done (s.modCore g fun c => c.opIncs 4 [f.oa]))
  if inWindow va then after s
  else match s.seg (.core g) (g / 64) (some g) c.asid c.user va 1 .r .current with
    | .error _ => after s
    | .ok x =>
      if x.imm then after s
      else
        let s := s.fillTlb (.core g) (g / 64) x.entry
        let ef := f.fn == 1
        if f.fn = 2 then after (if hkOf x.leaf = 0 then s.l2Segs (g / 64) c.asid [x] ef else s)
        else after (s.l1Lines g x ef)

/-- PF. -/
def execPf (f : M3) (s : State) : Out :=
  coreRow (.pf f) (shapeM3 f fun t => fixedM3 f t .i8 0 && decide (f.fn.toNat ≤ 2) && isMem f.oa &&
    absent [f.od, f.ob, f.oc]) (pfBody f) s

/-- The status of PIN of register n by an address space (R225). -/
def Chip.pinStatus (c : Chip) (n : Nat) (asid : W16) (b l w : W64) : Nat :=
  let others := (List.range 8).filter fun i => i != n && retV (c.rctl.getD i 0)
  let ways : W16 := w.extractLsb' 0 16
  let used := others.foldl (fun m i => m ||| retWays (c.rctl.getD i 0)) (0 : W16)
  if retV (c.rctl.getD n 0) && retAsid (c.rctl.getD n 0) != asid then 1
  else if used &&& ways ≠ 0 then 2
  else if 12 < (bitsOf (used ||| ways)).length then 3
  else if ways = 0 ∨ w.extractLsb' 16 48 ≠ 0 ∨ b.toNat % 4096 ≠ 0 ∨ l.toNat % 4096 ≠ 0 ∨ l.toNat < 4096 ∨
      !canonical b ∨ !canonical (b + l - 1) then 4
  else 0

/-- PIN (R225). -/
def pinBody (f : M3) (s : State) : Except Exn Res :=
  let g := s.self
  let c := s.core g
  let n := f.fn.toNat
  let b := c.preg (regOf f.oa)
  let l := c.preg (regOf f.ob)
  let w := c.preg (regOf f.oc)
  let st := (s.chip (g / 64)).pinStatus n c.asid b l w
  let s := if st = 0 then s.modChip (g / 64) fun k => { k with
      rctl := k.rctl.set! n (1#1 ++ 0#31 ++ c.asid ++ w.extractLsb' 0 16), rbase := k.rbase.set! n b
      rlen := k.rlen.set! n l, rhit := k.rhit.set! n 0, rovf := k.rovf.set! n 0 } else s
  .ok (.done (s.modCore g fun c => c.setP (regOf f.od) (BitVec.ofNat 64 st)))

/-- PIN. -/
def execPin (f : M3) (s : State) : Out :=
  coreRow (.pin f) (shapeM3 f fun t => fixedM3 f t .u64 1 && decide (f.fn.toNat ≤ 7) &&
    [f.od, f.oa, f.ob, f.oc].all isRegOp) (pinBody f) s

/-- UNPIN (R226). -/
def unpinBody (f : M3) (s : State) : Except Exn Res :=
  let g := s.self
  let c := s.core g
  let n := f.fn.toNat
  let r := (s.chip (g / 64)).rctl.getD n 0
  let st := if !retV r then 2 else if retAsid r != c.asid && c.user then 1 else 0
  let s := if st = 0 then s.modChip (g / 64) fun k => { k with rctl := k.rctl.set! n (r &&& 0x7FFFFFFFFFFFFFFF) } else s
  .ok (.done (s.modCore g fun c => c.setP (regOf f.od) (BitVec.ofNat 64 st)))

/-- UNPIN. -/
def execUnpin (f : M3) (s : State) : Out :=
  coreRow (.unpin f) (shapeM3 f fun t => fixedM3 f t .u64 1 && decide (f.fn.toNat ≤ 7) && isRegOp f.od &&
    absent [f.oa, f.ob, f.oc]) (unpinBody f) s

/-! ### Scopes (R195) -/

/-- A home among the observers of a scope (R195, R229). -/
def inScope (fn : BitVec 10) (chip home : Nat) : Bool :=
  if fn = 0 then false
  else if fn = 1 then
    decide (1000 ≤ home) && decide (home < 10000) && Config.computeOfIndex ((home - 1000) / 16) == chip
  else true

/-! ### AMO (R230) -/

/-- The value an atomic writes, none where a compare fails (R230). -/
def amoNew (fn : BitVec 10) (t : Ty) (m b c : Nat) : Option Nat :=
  let w := width t
  let less (x y : Nat) : Bool := if isSigned t then decide (toInt true w x < toInt true w y) else decide (x < y)
  match fn.toNat with
  | 0 => some ((m + b) % 2 ^ w)
  | 1 => some (m &&& b)
  | 2 => some (m ||| b)
  | 3 => some (m ^^^ b)
  | 4 => some (if less b m then b else m)
  | 5 => some (if less m b then b else m)
  | 6 => some b
  | _ => if m = c then some b else none

/-- The lanes of one element. -/
def elemLanes (t : Ty) (v : Nat) (valid : Bool) : List Lane := (lanesOut t [⟨v, true⟩]).map fun x => ⟨x.w, valid⟩

/-- A destination whose element is invalid keeps its bits and loses validity; Pn keeps its value (R45, R230). -/
def State.invalidate (s : State) (g : Nat) (d : Dest) (n : Nat) : Except Exn State :=
  match d with
  | .none => .ok s
  | .reg _ => .ok s
  | .acc => .ok (s.modCore g fun c => (List.range n).foldl (fun c k => c.setA k (c.alane k).w false) c)
  | .queue q => s.pushQ g q emptyEntry
  | .spad off => .ok (s.modCore g fun c => c.spWrite off ((c.spWords off n).map fun x => { x with v := false }))

/-- The stretches of an IMMEDIATE object in memory: a PHASED page, a host page and the window raise TXPERM (R194, R230,
R237, R414; the window for barriers DEDUCED, log 17). -/
def immediateObject (l : List Piece) (va : W64) : Except Exn (List Seg) :=
  if l.all fun p => match p with
      | .glob x => x.imm && hkOf x.leaf != 2
      | .win _ _ => false then .ok (segsOf l)
  else .error (.flt .txperm va)

/-- AMO (R230). -/
def amoBody (f : M3) (s : State) : Except Exn Res := do
  let g := s.self
  let c := s.core g
  let t := c.ty f.ty
  let fp := fpOf f.ln
  let present := f.od != .zero
  if present then c.checkLocals fp [(f.od, fp, 4)]
  let va := c.opAddr fp f.oa
  let ps ← s.globalAccess g va fp fp .rw
  let sg ← immediateObject ps va
  let srcs := if f.fn = 7 then [f.ob, f.oc] else [f.ob]
  c.checkLocals fp (srcs.map fun o => (o, fp, 4))
  let (c1, xs, _) ← c.readAll (s.canFill g) fp t 1 srcs
  let b := (xs.getD 0 []).getD 0 ⟨0, false⟩
  let m := (xs.getD 1 []).getD 0 ⟨0, true⟩
  let dest := if present then c.destOf fp f.od else .none
  match dest with
  | .queue n => discard (s.pushQ g n emptyEntry)
  | _ => pure ()
  let incs := fun c : Core => c.opIncs fp [f.od, f.oa, f.ob, f.oc]
  if !b.v || !m.v then
    return .done ((← (s.setCore g c1).invalidate g dest (lanesFor t 1)).modCore g incs)
  else if 16 ≤ c.othersOut then throw .stall
  else
    let s1 := (s.setCore g c1).fillAll (.core g) (g / 64) sg
    return .done ((s1.l2Segs (g / 64) c.asid sg false).modCore g fun d => { (incs d).makeIrrev with
      pend := d.pend ++ [⟨.amo f.fn t (sg.flatMap Seg.places) (BitVec.ofNat 64 b.b) (BitVec.ofNat 64 m.b) dest,
        sg.map (·.home), c.pc, va, c.asid⟩] })

/-- A destination of AMO (R218). -/
def amoDst (o : Operand) : Bool := oneDst o || o == .queue 2 || o == .queue 3

/-- A value operand of AMO (R218). -/
def amoSrc (o : Operand) : Bool := regOrImm o || isAccOp o || isMem o

/-- Integers of 32 and 64 bits. -/
def wordInt (t : Ty) : Bool := t == .i32 || t == .u32 || t == .i64 || t == .u64

/-- AMO. -/
def execAmo (f : M3) (s : State) : Out :=
  coreRow (.amo f) (shapeM3 f fun t => wordInt t && oneElem t f.ln && f.vp == .propagate && f.rm == .fm &&
      decide (f.fn.toNat ≤ 7) && amoDst f.od && isMem f.oa && amoSrc f.ob &&
      (if f.fn = 7 then amoSrc f.oc else f.oc == .zero) && !incClash f.od [f.oa, f.ob, f.oc]) (amoBody f) s

/-! ### LLOG (R231) -/

/-- The entries of LLOG: one for each valid element (R231). -/
def Core.mergeEntries (c : Core) (fn : Nat) (t : Ty) (ps : List Piece) (va : W64) (els : List El) : List LogEntry :=
  els.zipIdx.filterMap fun x =>
    let off := x.2 * (width t / 8)
    let at0 (p : Piece) : Option Nat := match p with
      | .win _ _ => none
      | .glob y =>
        let k := (va + BitVec.ofNat 64 off - y.va).toNat
        if k < y.len then (match y.base with
          | .pa a => some (a + k)
          | .host _ _ _ => none) else none
    match x.1.v, ps.findSome? at0 with
    | true, some a => some (c.newEntry (a / 8 * 8) (.merge fn t (a % 8) [BitVec.ofNat 64 x.1.b]))
    | _, _ => none

/-- LLOG (R231). -/
def llogBody (f : M3) (s : State) : Except Exn Res := do
  let g := s.self
  let c := s.core g
  let t := c.ty f.ty
  let fp := fpOf f.ln
  let va := c.opAddr fp f.od
  let ps ← s.globalAccess g va fp (globalAlign t) .w
  if ps.any (fun p => match p with
      | .glob x => x.imm
      | .win _ _ => true) then throw (.flt .txperm va)
  c.checkLocals fp [(f.oa, fp, 4)]
  let (c1, els, _) ← c.readElems (s.canFill g) fp f.oa t (elemCount t f.ln)
  match c1.addEntries (c1.mergeEntries f.fn.toNat t ps va els) with
  | none => throw (.flt .logfull va)
  | some c2 =>
    let nv := f.fn == 1 && els.any fun e => e.v && isSnan t e.b
    return .done ((s.setCore g ((c2.opIncs fp [f.od, f.oa]).orFlags (if nv then fNV else fNone))).fillAll (.core g)
      (g / 64) (segsOf ps))

/-- Functions and types of LLOG (R231). -/
def llogTy (fn : BitVec 10) (t : Ty) : Bool :=
  match fn.toNat with
  | 0 => wordInt t | 1 => isVF t | 2 => wordInt t | 3 => wordInt t
  | 4 => t == .u32 || t == .u64
  | 5 => t == .u32 || t == .u64
  | _ => false

/-- LLOG. -/
def execLlog (f : M3) (s : State) : Out :=
  coreRow (.llog f) (shapeM3 f fun t => llogTy f.fn t && lnOk t f.ln && f.vp == .propagate && f.rm == .fm && isMem f.od &&
    storeSrc f.oa && absent [f.ob, f.oc]) (llogBody f) s

/-! ### Barriers (R236 to R238) -/

/-- A barrier object: EXP, ARR, GEN, BRK, and its reserved bits. -/
structure BarrObj where
  exp : W32
  arr : W32
  gen : W32
  brk : Bool
  rsv : Bool
  deriving DecidableEq, Repr

def State.barrAt (s : State) (l : List Loc) : BarrObj :=
  let v : BitVec 128 := BitVec.ofNat 128 (leNat (s.bytesAt l))
  ⟨v.extractLsb' 0 32, v.extractLsb' 32 32, v.extractLsb' 64 32, v.getLsbD 96, v.extractLsb' 97 31 != 0⟩

/-- Write a barrier object at its home. -/
def State.putBarr (s : State) (asid : W16) (l : List Loc) (b : BarrObj) : State :=
  s.storeHome asid (l.zip (leBytes 16 (((0 : BitVec 31) ++ bit1 b.brk ++ b.gen ++ b.arr ++ b.exp : BitVec 128)).toNat))

/-- A member's exit: EXP falls, and the barrier opens where every other member has arrived (R237, R238). -/
def BarrObj.exit (b : BarrObj) : BarrObj :=
  let e := if b.exp = 0 then 0 else b.exp - 1
  if b.arr ≠ 0 ∧ e ≤ b.arr then { b with exp := e, arr := 0, gen := b.gen + 1 } else { b with exp := e }

/-- The object a BARR names and its checks (R217, R219, R236, R237). `init` does not look at BRK. -/
def State.barrOperand (s : State) (o : Operand) (init : Bool) : Except Exn (W64 × List Loc × List Seg) := do
  let g := s.self
  let c := s.core g
  let va := c.opAddr 4 o
  let ps ← s.globalAccess g va 16 16 .rw
  let sg ← immediateObject ps va
  let l := sg.flatMap Seg.places
  if homesClash c.pend (sg.map (·.home)) || decide (16 ≤ c.othersOut) then throw .stall
  if s.anyPoison l then throw (.flt .eccu va)
  let b := s.barrAt l
  if b.rsv then throw (.flt .align va)
  if b.brk && !init then throw (.flt .broken va)
  return (va, l, sg)

/-- BARR.init (R237). -/
def barrInitBody (f : M3) (s : State) : Except Exn Res := do
  let (_, l, sg) ← s.barrOperand f.oa true
  let g := s.self
  let c := s.core g
  let b := s.barrAt l
  let s1 := (s.putBarr c.asid l { b with exp := (c.pOrImm f.ob).extractLsb' 0 32, arr := 0, brk := false }).useSegs g sg
  return .done (s1.modCore g fun c => (c.opIncs 4 [f.oa]).makeIrrev)

/-- Field rules of BARR. -/
def barrLegal (f : M3) (t : Ty) (fn : BitVec 10) : Bool :=
  fixedM3 f t .u32 0 && f.fn == fn && isMem f.oa && absent [f.od, f.oc] &&
    (if fn = 1 then regOrImm f.ob else f.ob == .zero)

/-- BARR_INIT. -/
def execBarrInit (f : M3) (s : State) : Out :=
  coreRow (.barrInit f) (shapeM3 f fun t => barrLegal f t 1) (barrInitBody f) s

/-- The core's membership table: eight addresses, each kept with the binding that entered it (R236, R238; DEDUCED, log 34). -/
def Core.barrTable (c : Core) : List (W64 × List Loc) := c.recq.toList.flatMap (·.barr)

/-- A membership of the running activation's binding. -/
def Core.joinBarr (c : Core) (va : W64) (l : List Loc) : Core :=
  match c.act with
  | some a => if c.barrTable.any fun x => x.1 == va then c
    else c.setRec a.brec { c.rq a.brec with barr := (c.rq a.brec).barr ++ [(va, l)] }
  | none => c

/-- A membership ends. -/
def Core.quitBarr (c : Core) (va : W64) : Core :=
  { c with recq := c.recq.map fun q => { q with barr := q.barr.filter fun x => x.1 != va } }

/-- BARR, the wait (R237). -/
def barrWaitBody (f : M3) (s : State) : Except Exn Res :=
  let g := s.self
  match (s.core g).wait with
  | .barrier va l gen =>
    let b := s.barrAt l
    if b.gen ≠ gen then .ok (.done (s.modCore g fun c => c.opIncs 4 [f.oa]))
    else if b.brk then .error (.flt .broken va)
    else .error .stall
  | .broken va => .error (.flt .broken va)
  | _ => do
    let (va, l, sg) ← s.barrOperand f.oa false
    let c := s.core g
    if !(c.barrTable.any fun x => x.1 == va) && decide (8 ≤ c.barrTable.length) then throw (.flt .priv va)
    let b := s.barrAt l
    let opens := b.exp ≤ b.arr + 1
    let s1 := (s.putBarr c.asid l (if opens then { b with arr := 0, gen := b.gen + 1 } else { b with arr := b.arr + 1 })).useSegs g sg
    let s2 := s1.modCore g fun c => c.makeIrrev.joinBarr va l
    if opens then return .done (s2.modCore g fun c => c.opIncs 4 [f.oa])
    else return .hold (s2.modCore g fun c => { c with wait := .barrier va l b.gen })

/-- BARR_WAIT. -/
def execBarrWait (f : M3) (s : State) : Out :=
  coreRow (.barrWait f) (shapeM3 f fun t => barrLegal f t 0) (barrWaitBody f) s

/-- BARR.exit (R237). -/
def barrExitBody (f : M3) (s : State) : Except Exn Res := do
  let (va, l, sg) ← s.barrOperand f.oa false
  let g := s.self
  let c := s.core g
  let s1 := (s.putBarr c.asid l (s.barrAt l).exit).useSegs g sg
  return .done (s1.modCore g fun c => (c.opIncs 4 [f.oa]).makeIrrev.quitBarr va)

/-- BARR_EXIT. -/
def execBarrExit (f : M3) (s : State) : Out :=
  coreRow (.barrExit f) (shapeM3 f fun t => barrLegal f t 2) (barrExitBody f) s

/-- The exit step for every barrier of a binding that ends; its table is cleared (R236, R238). -/
def State.leaveBarriers (s : State) (g i : Nat) : State :=
  let c := s.core g
  let asid := recAsid (c.brec.getD i 0)
  ((c.rq i).barr.foldl (fun t x => t.putBarr asid x.2 (t.barrAt x.2).exit) s).modCore g fun c =>
    c.setRec i { c.rq i with barr := [] }

/-! ### Counter instructions (R232 to R235) -/

/-- The counter operand's offset, checked (R217). -/
def Core.counterOff (c : Core) (o : Operand) : Except Exn Nat := do
  c.checkLocals 4 [(o, 8, 8)]
  return (c.opAddr 4 o).toNat

/-- CTRSET (R234). -/
def ctrsetWork (f : M3) : Work := fun c _ => do
  let off ← c.counterOff f.oa
  return ((c.spWrite off [⟨(c.pOrImm f.ob).extractLsb' 0 32, true⟩, ⟨0, true⟩]).opIncs 4 [f.oa], none)

/-- Field rules of CTRSET and CTRDEC. -/
def ctrLegal (f : M3) (t : Ty) : Bool :=
  fixedM3 f t .u32 0 && f.fn == 0 && isMem f.oa && regOrImm f.ob && absent [f.od, f.oc]

/-- CTRSET. -/
def execCtrset (f : M3) (s : State) : Out :=
  coreRow (.ctrset f) (shapeM3 f (ctrLegal f)) (onOwnCore (ctrsetWork f)) s

/-- CTRDEC (R233, R234). -/
def ctrdecWork (f : M3) : Work := fun c _ => do
  let off ← c.counterOff f.oa
  c.readable off 8
  let x := ctrDecWords (c.spGet off).w (c.spGet (off + 4)).w ((c.pOrImm f.ob).extractLsb' 0 32).toNat 0 0
  return ((c.spWrite off [⟨x.1, true⟩, ⟨x.2, true⟩]).opIncs 4 [f.oa], none)

/-- CTRDEC. -/
def execCtrdec (f : M3) (s : State) : Out :=
  coreRow (.ctrdec f) (shapeM3 f (ctrLegal f)) (onOwnCore (ctrdecWork f)) s

/-- CTRWAIT (R234); the read that finds it must wait has woken its bank (R183). -/
def ctrwaitBody (f : M3) (s : State) : Except Exn Res := do
  let g := s.self
  let c := s.core g
  if f.fn = 1 then c.checkLocals 4 [(f.od, 4, 4)]
  let off ← c.counterOff f.oa
  c.readable off 8
  let lo := (c.spGet off).w
  let hi := (c.spGet (off + 4)).w
  if (c.pOrImm f.ob).extractLsb' 0 32 < lo then
    return .hold (s.setCore g { c.wakeBanks off 8 with wait := .again })
  let c1 := (c.spWrite off [⟨lo, true⟩, ⟨0, true⟩]).orFlags (hi.extractLsb' 16 8)
  let v := (hi.extractLsb' 24 8).toNat + (if hi.getLsbD 0 then 256 else 0)
  let c2 := if f.fn = 1 then (c1.writeElems 4 f.od .u32 [⟨v, true⟩]).1 else c1
  return .done (s.setCore g (c2.opIncs 4 [f.od, f.oa]))

/-- CTRWAIT. -/
def execCtrwait (f : M3) (s : State) : Out :=
  coreRow (.ctrwait f) (shapeM3 f fun t => fixedM3 f t .u32 0 && decide (f.fn.toNat ≤ 1) && isMem f.oa && regOrImm f.ob &&
      f.oc == .zero && (if f.fn = 1 then oneDst f.od else f.od == .zero) && !incClash f.od [f.oa])
    (ctrwaitBody f) s

/-! ### L1 maintenance (R239) -/

/-- Move the log entries L1 holds to the segment (R239). -/
def Core.cleanL1 (c : Core) : Core :=
  { c with log := c.log.map fun e => { e with inL1 := false }, spill := c.spill || c.log.any (·.inL1) }

/-- L1CLN. -/
def execL1cln (f : M3) (s : State) : Out :=
  coreRow (.l1cln f) (shapeM3 f fun t => fixedM3 f t .i8 0 && f.fn == 0 && absent [f.od, f.oa, f.ob, f.oc])
    (onOwnCore fun c _ => .ok (c.cleanL1, none)) s

/-- L1INV Pb, Pl: the lines that overlap a virtual range (R239). -/
def l1invWork (f : M3) : Work := fun c _ =>
  let b := (c.preg (regOf f.oa)).toNat
  let n := (c.preg (regOf f.ob)).toNat
  .ok ({ c with l1 := c.l1.filter fun x => !(decide (0 < n) && decide (x.vline * 128 < b + n) &&
    decide (b < x.vline * 128 + 128)) }, none)

/-- The range of L1INV does not wrap; one that does raises IILL (R239). -/
def Core.rangeOk (c : Core) (f : M3) : Bool := decide ((c.preg (regOf f.oa)).toNat + (c.preg (regOf f.ob)).toNat ≤ 2 ^ 64)

/-- L1INV. -/
def execL1inv (f : M3) (s : State) : Out :=
  coreRow (.l1inv f) (fun c => shapeM3 f (fun t => fixedM3 f t .i8 0 && f.fn == 0 && isRegOp f.oa && isRegOp f.ob &&
    absent [f.od, f.oc] && c.rangeOk f) c) (onOwnCore (l1invWork f)) s

/-- L1INV_ALL. -/
def execL1invAll (f : M3) (s : State) : Out :=
  coreRow (.l1invAll f) (shapeM3 f fun t => fixedM3 f t .i8 0 && f.fn == 1 && absent [f.od, f.oa, f.ob, f.oc])
    (onOwnCore fun c _ => .ok ({ c with l1 := [] }, none)) s

/-! ### Accesses in flight (R213, R220, R222, R230, R429) -/

/-- An access in flight that no earlier one to its homes holds back. -/
def Core.pendReady (c : Core) (i : Nat) : Option Pend :=
  match c.pend[i]? with
  | none => none
  | some p => if homesClash (c.pend.take i) p.homes then none else some p

/-- A fault found at a home: the destination becomes invalid, its bits unconstrained, and the core takes the fault
before its next issue group (R220, R429). -/
def State.lateFault (s : State) (g : Nat) (p : Pend) (lanes : Nat) (code : FCode) : State :=
  let d := s.drawWords lanes
  let s := match p.dest with
    | .reg _ => s
    | .none => s
    | x => match d.2.deliver g x .u32 (d.1.map fun w => ⟨w, false⟩) with
      | .ok t => t
      | .error _ => d.2
  s.modCore g fun c => { c with async := c.async ++ [(code, p.pc, p.va)] }

/-- The access leaves the list. -/
def Core.dropPend (c : Core) (i : Nat) : Core := { c with pend := listDel c.pend i }

/-- The load at place i is performed and its destination written. -/
def State.returnLoad (s : State) (g i : Nat) : State :=
  match (s.core g).pendReady i with
  | some ⟨.load src dest t ln, homes, pc, va, asid⟩ =>
    let p : Pend := ⟨.load src dest t ln, homes, pc, va, asid⟩
    let l := homePlaces src
    match s.homeFault l true with
    | some f => (s.lateFault g p src.length f).modCore g fun c => c.dropPend i
    | none =>
      match (l.foldl State.hostFill s).deliver g dest t (src.map s.laneNow) with
      | .ok s1 => s1.modCore g fun c => c.dropPend i
      | .error .stall => s
      | .error (.flt f _) => (s.lateFault g { p with kind := .load src .none t ln } 0 f).modCore g fun c => c.dropPend i
  | _ => s

/-- LOAD_RETURN. -/
def execLoadReturn (g i : Nat) (s : State) : Out := onCore g s fun s => s.returnLoad g i

/-- The store or atomic at place i is performed at its home. -/
def State.performAt (s : State) (g i : Nat) : State :=
  match (s.core g).pendReady i with
  | some ⟨.store bytes, homes, pc, va, asid⟩ =>
    (match s.homeFault (bytes.map Prod.fst) true with
      | some f => s.lateFault g ⟨.store bytes, homes, pc, va, asid⟩ 0 f
      | none => s.storeHome asid bytes).modCore g fun c => c.dropPend i
  | some ⟨.amo fn t place b m dest, homes, pc, va, asid⟩ =>
    let p : Pend := ⟨.amo fn t place b m dest, homes, pc, va, asid⟩
    match s.homeFault place true with
    | some f => (s.lateFault g p (lanesFor t 1) f).modCore g fun c => c.dropPend i
    | none =>
      let old := leNat (s.bytesAt place)
      match s.deliver g dest t (elemLanes t old true) with
      | .error .stall => s
      | .error (.flt f _) => (s.lateFault g { p with kind := .amo fn t place b m .none } 0 f).modCore g fun c => c.dropPend i
      | .ok s1 =>
        (match amoNew fn t old b.toNat m.toNat with
          | some v => s1.storeHome asid (place.zip (leBytes place.length v))
          | none => s1).modCore g fun c => c.dropPend i
  | _ => s

/-- IMMEDIATE_PERFORM. -/
def execImmediatePerform (g i : Nat) (s : State) : Out := onCore g s fun s => s.performAt g i

end Sys2Proof.Machine
end

