-- ==== Sys2Proof/Machine/Control.lean ====
section
/-! DEFINITION. Control transfers, messages, queues, the end of an activation and gangs (R316 to R343). -/

namespace Sys2Proof.Machine
open Sys2Proof.Machine.Num

/-! ### PHASE (R227) -/

/-- PHASE: release waits, then arrival at the boundary; it completes once the core's acquire has (R198, R199, R227). With no
valid bind record there is no group, and it completes at once. -/
def phaseBody (s : State) : Except Exn Res :=
  let g := s.self
  let c := s.core g
  match c.wait with
  | .acquired => .ok (.done s)
  | .phase => .error .stall
  | _ =>
    match c.group with
    | none => .ok (.done (s.makeIrrev g))
    | some phg =>
      if !c.pend.isEmpty || s.publOpen g || (s.mxOpen g).any (fun m => decide (0xA9 ≤ m.op) && decide (m.op ≤ 0xAD)) then
        .error .stall
      else
        let x := s.pgroup phg
        let s := s.setGroup phg { x with started := true, heard := if x.heard.contains g then x.heard else g :: x.heard }
        .ok (.hold ((s.modCore g fun c => { c.makeIrrev with
          wait := .phase, act := c.makeIrrev.act.map fun a => { a with phased := true } }).noteWaits g))

/-- PHASE. -/
def execPhase (f : M3) (s : State) : Out :=
  coreRow (.phase f) (shapeM3 f fun t => fixedM3 f t .i8 0 && f.fn == 0 && absent [f.od, f.oa, f.ob, f.oc]) phaseBody s

/-! ### Messages (R319 to R324) -/

/-- The checks of a target at issue (R321); a flow once refused stays so (R255). -/
def State.checkTarget (s : State) (g : Nat) (t : W64) : Except Exn Unit :=
  if 2 ≤ tgtKind t || (tgtDmod t != 0 && !tgtRmt t) then .error (.flt .relay t)
  else if tgtRmt t then .ok ()
  else if !Config.isCompute (tgtCh t) || (s.chip (tgtCh t)).peal != 6 ||
      !nselV (s.nselOf (g / 64) (tgtCh t)) || (s.outFlow (g / 64) (tgtCh t) (if tgtOrd t then 3 else 2)).refused then
    .error (.flt .relay t)
  else match s.region (tgtRid t) with
    | some r => if r.asid = (s.core g).asid then .ok () else .error (.flt .priv t)
    | none => .error (.flt .priv t)

/-- Buffer a message of the running activation: QOVF at 64, a stall while the outbound buffer of 128 is full (R324). -/
def Core.bufferMsg (c : Core) (m : OutMsg) : Except Exn Core :=
  if 64 ≤ c.msgs.length then .error (.flt .qovf 0)
  else if 128 ≤ c.msgs.length + c.outbox.length then .error .stall
  else .ok { c with msgs := c.msgs ++ [m] }

/-- PLEN is a multiple of 4 from 0 to 512. -/
def plenOk (n : Nat) : Bool := n % 4 == 0 && decide (n ≤ 512)

/-- Field rules of SEND and SENDR (R323). -/
def sendLegal (f : M3) (t : Ty) (r : Bool) : Bool :=
  fixedM3 f t .u32 0 && f.fn == 0 && isRegOp f.od && f.oc == .zero && (if r then isMem f.oa else f.oa == .zero) &&
    match f.ob with
    | .reg _ _ => true
    | .imm v => plenOk v.toNat
    | _ => false

/-- The payload length, ALIGN where Pn gives a wrong one (R323). -/
def Core.plen (c : Core) (o : Operand) : Except Exn Nat :=
  if plenOk (c.pOrImm o).toNat then .ok (c.pOrImm o).toNat else .error (.flt .align (c.pOrImm o))

/-- SEND (R323, R324). -/
def sendBody (f : M3) (s : State) : Except Exn Res := do
  let g := s.self
  let c := s.core g
  let n ← c.plen f.ob
  let t := c.preg (regOf f.od)
  s.checkTarget g t
  let q := c.queue 1
  let k := (n + 63) / 64
  let words := (((q.take k).flatMap fun (e : QEntry) => e.toList) ++ List.replicate 128 (⟨0, false⟩ : Lane)).take (n / 4)
  let c1 ← (c.setQ 1 (q.drop k)).bufferMsg ⟨t, n, words, false⟩
  return .done (s.setCore g c1)

/-- SEND: it reads Q1 (R91, R323). -/
def execSend (f : M3) (s : State) : Out :=
  coreRow (.send f) (fun c => { shapeM3 f (fun t => sendLegal f t false) c with
    touches := usesOf [f.od, f.oa, f.ob, f.oc, .queue 1] }) (sendBody f) s

/-- SENDR: OA is checked before the length in OB (R53, R323, R324). -/
def sendrBody (f : M3) (s : State) : Except Exn Res := do
  let g := s.self
  let c := s.core g
  c.checkLocals 4 [(f.oa, (c.pOrImm f.ob).toNat, 4)]
  let n ← c.plen f.ob
  let t := c.preg (regOf f.od)
  s.checkTarget g t
  let off := (c.opAddr 4 f.oa).toNat
  c.readable off n
  let c1 ← (c.wakeBanks off n).bufferMsg ⟨t, n, c.spWords off (n / 4), false⟩
  return .done (s.setCore g (c1.opIncs 4 [f.oa]))

/-- SENDR. -/
def execSendr (f : M3) (s : State) : Out := coreRow (.sendr f) (shapeM3 f fun t => sendLegal f t true) (sendrBody f) s

/-- A key for a destination logical core, one for each module. -/
def destKey (t : W64) : Nat :=
  (if tgtRmt t then (tgtDmod t).toNat + 1 else 0) * 2 ^ 16 + tgtCh t * 64 + tgtCore t

/-- Release one message of an activation: its key (R203), its class (R244), its counts (R313, R322, R517). It waits in
the core's outbound buffer for its first send. -/
def State.release (s : State) (g : Nat) (a : Act) (m : OutMsg) : State :=
  let dest := destKey m.tgt
  let org := s.core a.lcn.toNat
  let total := KV.get 0 org.sent dest
  let seq := total - KV.get 0 org.sentBase (a.rid.toNat * 2 ^ 40 + dest)
  let s := s.modCore a.lcn.toNat fun c => { c with sent := KV.put dest (total + 1) c.sent }
  let p : Packet := { Packet.zero with
    dch := tgtCh m.tgt, sch := g / 64, dep := tgtCore m.tgt, sep := g % 64, cls := if tgtOrd m.tgt then 3 else 2
    eom := true, plen := m.plen, asid := (s.core g).asid, key := mkKey a.lcn (BitVec.ofNat 32 (seq % 2 ^ 31))
    tgt := m.tgt, words := m.words, cont := m.cont, srid := a.rid, score := g
    hx := if tgtRmt m.tgt then some ⟨tgtDmod m.tgt, BitVec.ofNat 10 (tgtCh m.tgt), BitVec.ofNat 7 (tgtCore m.tgt), 0⟩
      else none }
  (s.modCore g fun c => { c with outbox := c.outbox ++ [p] }).countSent (g / 64)
    (if tgtRmt m.tgt then a.rid else tgtRid m.tgt) 1

/-! ### The end of an activation (R301, R307, R325 to R327) -/

/-- The messages of a core's activation that count in n of R307. -/
def Core.spawned (c : Core) : Nat :=
  match c.act with
  | none => 0
  | some a => (c.msgs.filter fun m => !tgtRmt m.tgt && tgtRid m.tgt == a.rid).length

/-- One core's part of a commit: messages released in program order, entries committed (R301). -/
def State.commitCore (s : State) (g : Nat) : State :=
  let c := s.core g
  match c.act with
  | none => s
  | some a =>
    (c.msgs.foldl (fun t m => t.release g a m) s).modCore g fun c => { c with
      log := c.log.map fun e => if ownEntry a e then { e with committed := true } else e }

/-- A core's activation is over, its trap with it (R431). -/
def Core.finish (c : Core) : Core := { c.endAct with tsinf := c.tsinf &&& ~~~0x10000 }

/-- The commit of an activation with n spawned messages (R301, R307, R309). -/
def State.commitAll (s : State) (g n : Nat) : State :=
  match (s.core g).act with
  | none => s
  | some a =>
    let cores := s.actCores g
    let home := s.trigCore g
    let s := ((cores.foldl State.commitCore s).addSpc (g / 64) a.rid ((n : Int) - 1)).countRecv (g / 64) a.rid 1
    let s := s.modCore home fun c => match c.act with
      | some b => c.leave b
      | none => c
    cores.foldl (fun t k => (t.modCore k Core.finish).noteWaits k) s

/-- A member of a gang other than g has not ended its part. -/
def State.othersRun (s : State) (g : Nat) : Bool :=
  (s.actCores g).any fun k => k != g && (match (s.core k).act with
    | some b => !b.ended
    | none => false)

/-- The core ends its part of the activation; the last part commits it (R309, R318, R325). -/
def State.hend (s : State) (g : Nat) : Except Exn Res :=
  let c := s.core g
  match c.act with
  | none => .ok (.gone s)
  | some a =>
    if !c.pend.isEmpty || s.queueOwed g none then .error .stall
    else if a.gang && s.othersRun g then
      .ok (.gone (s.setCore g { c with act := some { a with ended := true }, wait := .none, safe := none }))
    else
      let n := ((s.actCores g).map fun k => (s.core k).spawned).sum
      let limit := match s.region a.rid with
        | some r => r.spwn
        | none => 0
      if (limit : Int) < (s.team (g / 64) a.rid).spc + n - 1 then .error (.flt .spawn 0)
      else .ok (.gone (s.commitAll g n))

/-- Issue of an instruction that ends the activation: signature, its own preparation, the end (R325, R333). -/
def endRow (i : Instr) (f : BR) (legal : Bool) (pre : State → Except Exn State) (s : State) : Out :=
  coreRow i (fun _ => ⟨false, false, legal, usesOf [f.co, f.ax]⟩) (fun s =>
    if !(s.core s.self).sigOk i f.sig then .error (.flt .sigm 0)
    else match pre s with
      | .error e => .error e
      | .ok t => t.hend s.self) s

/-- HEND. -/
def execHend (f : BR) (s : State) : Out :=
  endRow (.hend f) f (f.cnd == 0 && absent [f.co, f.ax] && f.off == 0) (fun s => .ok s) s

/-- The owner core of a global address, for a page homed on an L2 slice (R326). -/
def State.ownerCore (s : State) (g : Nat) (va : W64) : Except Exn Nat :=
  let c := s.core g
  if inWindow va then .error (.flt .txperm va)
  else match s.seg (.core g) (g / 64) (some g) c.asid c.user va 1 .nothing .current with
    | .error f => .error (.flt f va)
    | .ok x =>
      if hkOf x.leaf = 1 then
        .ok (64 * Config.computeOfIndex (hselOf x.leaf / 16) + 4 * (hselOf x.leaf % 16) + (va.extractLsb' 12 2).toNat)
      else .error (.flt .txperm va)

/-- The 32 words of a continuation (R327). -/
def Core.contWords (c : Core) : List Lane :=
  ((List.range 16).map fun k => ⟨(c.alane k).w, (c.alane k).v⟩) ++
    (List.range 8).flatMap fun j => [⟨(c.preg (BitVec.ofNat 3 j)).extractLsb' 0 32, true⟩,
      ⟨(c.preg (BitVec.ofNat 3 j)).extractLsb' 32 32, true⟩]

/-- MIGR buffers the continuation (R326, R327). -/
def migrPre (f : BR) (s : State) : Except Exn State := do
  let g := s.self
  let c := s.core g
  let o ← s.ownerCore g (c.preg (regOf f.co))
  let h := (c.pOrImm f.ax).toNat
  if 4095 < h then throw (.flt .align (c.pOrImm f.ax))
  let t := mkTarget 0 (BitVec.ofNat 10 (o / 64)) (BitVec.ofNat 6 (o % 64)) (f.cnd.getLsbD 0) false (BitVec.ofNat 12 h) 0
    (match c.act with
      | some a => a.rid
      | none => 0)
  s.checkTarget g t
  let c1 ← c.bufferMsg ⟨t, 128, c.contWords, true⟩
  return s.setCore g c1

/-- MIGR. -/
def execMigr (f : BR) (s : State) : Out :=
  endRow (.migr f) f (f.cnd.extractLsb' 1 5 == 0 && isRegOp f.co && f.off == 0 && (match f.ax with
    | .reg _ _ => true
    | .imm v => !v.msb
    | _ => false)) (migrPre f) s

/-! ### Queue and table instructions (R328 to R330) -/

/-- QCNT (R328). -/
def qcntWork (f : M3) : Work := fun c _ => do
  c.checkLocals 4 [(f.od, 4, 4)]
  let n := if f.fn = 0 then (match f.oa with
      | .queue q => (c.queue q).length
      | _ => 0)
    else match c.act with
      | some a => (c.rq a.brec).msgs.length + (c.rq a.brec).spilled.length
      | none => 0
  return ((c.writeElems 4 f.od .u32 [⟨n, true⟩]).1.opIncs 4 [f.od], none)

/-- QCNT. -/
def execQcnt (f : M3) (s : State) : Out :=
  coreRow (.qcnt f) (shapeM3 f fun t => fixedM3 f t .u32 0 && decide (f.fn.toNat ≤ 1) && oneDst f.od && absent [f.ob, f.oc] &&
    (if f.fn = 0 then (match f.oa with
      | .queue _ => true
      | _ => false) else f.oa == .zero)) (onOwnCore (qcntWork f)) s

/-- The queues a WAITQ mask names (R329). -/
def waitMask (c : Core) (o : Operand) : BitVec 8 :=
  match o with
  | .imm v => v.extractLsb' 0 8
  | o => (c.pOrImm o).extractLsb' 0 8 &&& 0xFD

/-- The masked queues that hold an entry. -/
def Core.held (c : Core) (m : BitVec 8) : BitVec 8 :=
  (bitsOf m).foldl (fun r k => if (c.queue (BitVec.ofNat 3 k)).isEmpty then r else r ||| BitVec.ofNat 8 (2 ^ k)) 0

/-- WAITQ (R329). -/
def waitqBody (f : M3) (s : State) : Except Exn Res := do
  let g := s.self
  let c := s.core g
  let present := f.od != .zero
  if present then c.checkLocals 4 [(f.od, 4, 4)]
  let m := waitMask c f.oa
  let h := c.held m
  let till := match c.wait with
    | .waitq x _ => x
    | _ => if (c.pOrImm f.ob) = 0 then none else some (s.now + (c.pOrImm f.ob).toNat * 1500)
  let out := match c.wait with
    | .waitq _ b => b
    | _ => false
  let timed := out || (match till with
    | some t => decide (t ≤ s.now)
    | none => false)
  if m = 0 || (if f.fn = 0 then h != 0 else h == m) || timed then
    let c1 := (c.writeU32 4 f.od h.toNat).opIncs 4 [f.od]
    return .done (s.setCore g (if present then c1 else c))
  else return .hold (s.modCore g fun c => { c with wait := .waitq till false })

/-- Field rules of WAITQ (R329). -/
def waitqLegal (f : M3) (t : Ty) : Bool :=
  fixedM3 f t .u32 0 && decide (f.fn.toNat ≤ 1) && f.oc == .zero &&
    (oneDst f.od || f.od == .zero) && !incClash f.od [f.oa, f.ob] && (match f.oa with
      | .reg _ _ => true
      | .imm v => !v.getLsbD 1 && v.extractLsb' 8 5 == 0 && v.extractLsb' 0 8 != 0
      | _ => false) && (match f.ob with
      | .reg _ _ => true
      | .imm v => !v.msb
      | _ => false)

/-- WAITQ: it reads the queues of its mask (R91). -/
def execWaitq (f : M3) (s : State) : Out :=
  coreRow (.waitq f) (fun c => { shapeM3 f (waitqLegal f) c with touches := usesOf ([f.od, f.oa, f.ob, f.oc] ++
    (bitsOf (waitMask c f.oa)).map fun k => .queue (BitVec.ofNat 3 k)) }) (waitqBody f) s


/-- WAITQ_TIMEOUT: the timeout of the waiting WAITQ has elapsed (R329). -/
def execWaitqTimeout (g : Nat) (s : State) : Out :=
  onCore g s fun s => match (s.core g).wait with
    | .waitq (some t) _ => if t ≤ s.now then s.modCore g fun c => { c with wait := .waitq (some t) true } else s
    | _ => s

/-- HTSET (R330). -/
def htsetBody (f : M3) (s : State) : Except Exn Res := do
  let g := s.self
  let c := s.core g
  c.checkLocals 16 [(f.ob, 16, 16)]
  let off := (c.opAddr 16 f.ob).toNat
  c.readable off 16
  let words := c.spWords off 4
  let after (c : Core) : Core := (c.wakeBanks off 16).opIncs 16 [f.ob]
  if words.any (fun x => !x.v) then return .done (s.modCore g after)
  let i := (c.pOrImm f.oa).toNat
  match c.act.bind (fun a => s.region a.rid) with
  | none => throw (.flt .priv 0)
  | some r =>
    if r.htlen ≤ i then throw (.flt .priv 0)
    if i = r.fhix ∧ c.user then throw (.flt .priv 0)
    if ((words.getD 1 ⟨0, false⟩).w.getLsbD 30) && c.user then throw (.flt .priv 0)
    let va := r.htab + BitVec.ofNat 64 (16 * i)
    match s.seg (.core g) (g / 64) (some g) c.asid c.user va 16 .w .current with
    | .error e => throw (.flt e va)
    | .ok x =>
      if !x.imm then throw (.flt .txperm va)
      if !x.places.all s.hostOk then throw (.flt .txnp va)
      if homesClash c.pend [x.home] then throw .stall
      let s1 := (s.storeHome c.asid (x.places.zip (bytesOf (words.map (·.w))))).useSegs g [x]
      return .done (s1.modCore g fun c => (after c).makeIrrev)

/-- HTSET. -/
def execHtset (f : M3) (s : State) : Out :=
  coreRow (.htset f) (shapeM3 f fun t => fixedM3 f t .u32 3 && f.fn == 0 && regOrImm f.oa && isMem f.ob &&
    absent [f.od, f.oc]) (htsetBody f) s

/-! ### Branches (R331, R332) -/

/-- A direct branch's target (R32). -/
def Core.branchTo (c : Core) (f : BR) : W64 := slotPlus c.pc f.off

/-- The word a branch tests: its value and validity (R331). -/
def Core.testWord (c : Core) (f : BR) : Except Exn (Nat × Bool) :=
  match f.co with
  | .reg n _ => .ok ((c.preg n).toNat, true)
  | .acc => .ok ((c.alane (f.cnd.extractLsb' 0 4).toNat).w.toNat, (c.alane (f.cnd.extractLsb' 0 4).toNat).v)
  | o => match c.checkLocal (c.opAddr 4 o) 4 4 with
    | .error e => .error e
    | .ok _ => match c.readable (c.opAddr 4 o).toNat 4 with
      | .error e => .error e
      | .ok _ => .ok ((c.spGet (c.opAddr 4 o).toNat).w.toNat, (c.spGet (c.opAddr 4 o).toNat).v)

/-- A local word in mode 0b000 or 0b010 (R331). -/
def branchLocal : Operand → Bool
  | .mem _ _ => true
  | .off _ _ => true
  | _ => false

/-- Field rules of a conditional branch on a word (R331). -/
def testLegal (f : BR) (pn : Bool) : Bool :=
  f.ax == .zero && match f.co with
  | .acc => f.cnd.extractLsb' 4 2 == 0
  | .reg _ _ => pn && f.cnd == 0
  | o => branchLocal o && f.cnd == 0

/-- A conditional branch on a word: the bank of a local word wakes. -/
def testBranch (f : BR) (p : Nat → Bool → Bool) (s : State) : Except Exn (State × Option W64) :=
  let c := s.core s.self
  match c.testWord f with
  | .error e => .error e
  | .ok (w, v) =>
    let s := if branchLocal f.co then s.modCore s.self fun c => c.wakeBanks (c.opAddr 4 f.co).toNat 4 else s
    .ok (s, if p w v then some (c.branchTo f) else none)

/-- B. -/
def execBr (f : BR) (s : State) : Out :=
  brRow2 (.br f) f (f.cnd == 0 && absent [f.co, f.ax]) (fun s => .ok (s, some ((s.core s.self).branchTo f))) s

/-- BZ. -/
def execBz (f : BR) (s : State) : Out := brRow2 (.bz f) f (testLegal f true) (testBranch f fun w v => v && w == 0) s

/-- BNZ. -/
def execBnz (f : BR) (s : State) : Out := brRow2 (.bnz f) f (testLegal f true) (testBranch f fun w v => v && w != 0) s

/-- BV. -/
def execBv (f : BR) (s : State) : Out := brRow2 (.bv f) f (testLegal f false) (testBranch f fun _ v => v) s

/-- BNV. -/
def execBnv (f : BR) (s : State) : Out := brRow2 (.bnv f) f (testLegal f false) (testBranch f fun _ v => !v) s

/-- A branch on a queue, which never stalls (R331). -/
def queueBranch (f : BR) (empty : Bool) (s : State) : Except Exn (State × Option W64) :=
  let c := s.core s.self
  match f.co with
  | .queue n => .ok (s, if (c.queue n).isEmpty == empty then some (c.branchTo f) else none)
  | _ => .ok (s, none)

def queueLegal (f : BR) : Bool := f.cnd == 0 && f.ax == .zero && match f.co with
  | .queue _ => true
  | _ => false

/-- BQE. -/
def execBqe (f : BR) (s : State) : Out := brRow2 (.bqe f) f (queueLegal f) (queueBranch f true) s

/-- BQNE. -/
def execBqne (f : BR) (s : State) : Out := brRow2 (.bqne f) f (queueLegal f) (queueBranch f false) s

/-- LOOP (R332). -/
def execLoop (f : BR) (s : State) : Out :=
  brRow2 (.loop f) f (f.cnd == 0 && isRegOp f.co && f.ax == .zero) (fun s =>
    let c := s.core s.self
    let v := c.preg (regOf f.co) - 1
    .ok (s.modCore s.self fun c => c.setP (regOf f.co) v, if v = 0 then none else some (c.branchTo f))) s

/-- CALL (R332). -/
def execCall (f : BR) (s : State) : Out :=
  brRow2 (.call f) f (f.cnd == 0 && absent [f.co, f.ax]) (fun s =>
    let c := s.core s.self
    .ok (s.modCore s.self fun c => { c with lk := nextSlot c.pc }, some (c.branchTo f))) s

/-- CALLI (R332). -/
def execCalli (f : BR) (s : State) : Out :=
  brRow2 (.calli f) f (f.cnd == 0 && isRegOp f.co && f.ax == .zero && f.off == 0) (fun s =>
    let t := (s.core s.self).preg (regOf f.co)
    if slotOk t then .ok (s.modCore s.self fun c => { c with lk := nextSlot c.pc }, some t)
    else .error (.flt .align t)) s

/-- RET (R332). -/
def execRet (f : BR) (s : State) : Out :=
  brRow2 (.ret f) f (f.cnd == 0 && absent [f.co, f.ax] && f.off == 0) (fun s =>
    let t := (s.core s.self).lk
    if slotOk t then .ok (s, some t) else .error (.flt .align t)) s

/-! ### YIELD and gangs (R337 to R343) -/

/-- YIELD (R337). -/
def yieldBody (s : State) : Except Exn Res :=
  let g := s.self
  match (s.core g).act with
  | none => .ok (.done s)
  | some a =>
    let may := !(s.core g).trapActive && (!a.gang || (a.leader && (s.actCores g).all fun k => match (s.core k).act with
      | some b => b.leader || !b.detached
      | none => true))
    .ok (.done (if may && s.othersWait g (fun l => decide (l ≤ a.lr)) then
      s.modCore g fun c => { c with stopReq := true } else s))

/-- YIELD. -/
def execYield (f : M3) (s : State) : Out :=
  coreRow (.yield f) (shapeM3 f fun t => f.sp && fixedM3 f t .i8 0 && f.fn == 0 && absent [f.od, f.oa, f.ob, f.oc]) yieldBody s

/-- The GANG status of a mask, for a core of a region (R340). -/
def State.gangStatus (s : State) (g : Nat) (m : W64) (rid : W16) : Nat :=
  let l := bitsOf (m.extractLsb' 0 16)
  let base := 64 * (g / 64) + g % 64 / 16 * 16
  let lo := l.headD 0
  if m.extractLsb' 16 48 ≠ 0 || decide (l.length < 2) || l != (List.range l.length).map (lo + ·) || base + lo != g then 3
  else if l.any (fun j => ((s.core (base + j)).recOf rid).isNone) then 2
  else if l.any (fun j => (s.core (base + j)).gmask.extractLsb' 0 16 != 0) then 1
  else 0

/-- Set a core's gang fields (R338). -/
def Core.joinGang (c : Core) (mask : BitVec 16) (lead : Nat) (isLead : Bool) (rid : W16) : Core :=
  { c with
    gmask := 0#10 ++ BitVec.ofNat 6 lead ++ mask
    gangRid := rid
    st := putField c.st 18 2 (if isLead then 3 else 2) }

/-- The core leaves its gang. -/
def Core.leaveGang (c : Core) : Core := { c with gmask := 0, gangRid := 0, st := putField c.st 18 2 0 }

/-- Dissolve the gang of a core (R340). -/
def State.dissolve (s : State) (g : Nat) : State := (s.gangCores g).foldl (fun t k => t.modCore k Core.leaveGang) s

/-- The region of the running activation. -/
def Core.actRid (c : Core) : W16 :=
  match c.act with
  | some a => a.rid
  | none => 0

/-- The gang of a core has an activation that is stopped: it has not ended (R343). -/
def State.gangSuspended (s : State) (g : Nat) : Bool :=
  (s.gangCores g).any fun k => (s.core k).recq.toList.any fun q => q.image.any fun m => m.act.gang

/-- GANG (R340). -/
def gangBody (f : M3) (s : State) : Except Exn Res := do
  let g := s.self
  let c := s.core g
  if f.od != .zero then c.checkLocals 4 [(f.od, 4, 4)]
  let m := c.pOrImm f.oa
  let st := s.gangStatus g m c.actRid
  let base := 64 * (g / 64) + g % 64 / 16 * 16
  let s1 := if st = 0 then (bitsOf (m.extractLsb' 0 16)).foldl (fun t j => t.modCore (base + j) fun c =>
      c.joinGang (m.extractLsb' 0 16) (g % 64) (base + j == g) (s.core g).actRid) s else s
  return .done (s1.modCore g fun c => ((c.writeU32 4 f.od st).opIncs 4 [f.od]).makeIrrev)

/-- Field rules of the gang instructions (R339). -/
def gangLegal (f : M3) (t : Ty) : Bool := fixedM3 f t .u32 0 && f.fn == 0 && absent [f.ob, f.oc]

/-- GANG. -/
def execGang (f : M3) (s : State) : Out :=
  coreRow (.gang f) (shapeM3 f fun t => gangLegal f t && (oneDst f.od || f.od == .zero) && regOrImm f.oa) (gangBody f) s

/-- UNGANG (R340); a gang activation that is stopped has not ended (DEDUCED, log 51). -/
def ungangBody (f : M3) (s : State) : Except Exn Res := do
  let g := s.self
  let c := s.core g
  if f.od != .zero then c.checkLocals 4 [(f.od, 4, 4)]
  let inGang := match c.act with
    | some a => a.gang
    | none => false
  let st := if !c.st.getLsbD 18 then 1 else if inGang || s.gangSuspended g then 2 else 0
  let s1 := if st = 0 then s.dissolve g else s
  return .done (s1.modCore g fun c => ((c.writeU32 4 f.od st).opIncs 4 [f.od]).makeIrrev)

/-- UNGANG. -/
def execUngang (f : M3) (s : State) : Out :=
  coreRow (.ungang f) (shapeM3 f fun t => gangLegal f t && (oneDst f.od || f.od == .zero) && f.oa == .zero) (ungangBody f) s

/-- The member waits at a REJOIN: at slot x, or at any. -/
def Core.atRejoin (c : Core) (x : Option W64) : Bool :=
  match c.wait with
  | .rejoin y => x.isNone || x == some y
  | _ => false

/-- A member is attached again, with the lines its leader holds (R310, R342). -/
def Core.attach (c : Core) (l : List (W64 × BitVec 512)) : Core :=
  { c with act := c.act.map fun a => { a with detached := false }, st := putField c.st 17 1 0, gpath := [], wait := .again, fetch := l }

/-- REJOIN (R342). The leader waits too while an attached member has branches of its path still to take, at which it may detach.
-/
def rejoinBody (s : State) : Except Exn Res :=
  let g := s.self
  let c := s.core g
  match c.act with
  | none => .ok (.done s)
  | some a =>
    if !a.gang then .ok (.done s)
    else if a.leader then
      let out := (s.actCores g).filter fun k => match (s.core k).act with
        | some b => b.detached && !b.ended
        | none => false
      if (out.all fun k => (s.core k).atRejoin none) && (s.followers g).all fun k => (s.core k).gpath.isEmpty then
        .ok (.done ((out.filter fun k => (s.core k).atRejoin (some c.pc)).foldl (fun t k => t.modCore k fun d => d.attach c.fetch) s))
      else .error .stall
    else if !a.detached then .ok (.done s)
    else if !s.leaderRuns g then .ok (.done s)
    else .ok (.hold (s.modCore g fun c => { c with wait := .rejoin c.pc }))

/-- REJOIN. -/
def execRejoin (f : M3) (s : State) : Out :=
  coreRow (.rejoin f) (shapeM3 f fun t => gangLegal f t && absent [f.od, f.oa]) rejoinBody s

end Sys2Proof.Machine
end

