-- ==== Sys2Proof/Machine/Engine.lean ====
section
/-! DEFINITION. What the engines share: the fields of an engine instruction and what it captures at issue (R83, R131 to
R133), the delivery of completion records (R134, R233, R317, R358), and an engine's access to memory (R135, R271). -/

namespace Sys2Proof.Machine
open Sys2Proof.Machine.Num

/-! ### Issue (R131 to R133) -/

/-- A CP operand (R132). -/
def cpForm : Operand → Bool
  | .mem _ _ => true
  | .inc _ _ => true
  | .off _ _ => true
  | .incReg _ _ => true
  | .acc => false
  | .queue n => decide (4 ≤ n.toNat)
  | .imm v => v == 0
  | .reg _ _ => true

/-- The target of CP from the registers at issue; a handler target of zero is absent (R132, R319). -/
def Core.cpOf (c : Core) (o : Operand) : Cp :=
  match o with
  | .queue n => .queue n
  | .reg n _ => if c.preg n = 0 then .none else .handler (c.preg n)
  | .imm _ => .none
  | .acc => .none
  | _ => .counter (c.opAddr 4 o).toNat

/-- The checks of CP at issue: a counter operand at a multiple of 8 below SPSIZE (R217), a handler target (R321). -/
def State.checkCp (s : State) (g : Nat) (o : Operand) : Except Exn Cp :=
  let c := s.core g
  match c.cpOf o with
  | .counter off =>
    if off % 8 ≠ 0 then .error (.flt .align (c.opAddr 4 o))
    else if c.spsize < off + 8 then .error (.flt .align (BitVec.ofNat 64 (max off c.spsize)))
    else .ok (.counter off)
  | .handler t => match s.checkTarget g t with
    | .error e => .error e
    | .ok _ => .ok (.handler t)
  | x => .ok x

/-- A command whose CP names a handler counts one SENT at issue (R313, R322, R517). -/
def State.countCp (s : State) (g : Nat) (cp : Cp) : State :=
  match cp with
  | .handler t => s.countSent (g / 64) (if tgtRmt t then (match (s.core g).act with
      | some a => a.rid
      | none => 0) else tgtRid t) 1
  | _ => s

/-- A local command block of n bytes at a multiple of 64 (R132, R267). -/
def Core.readBlock (c : Core) (o : Operand) (n : Nat) : Except Exn (Core × List Lane) :=
  match c.checkLocals 4 [(o, n, 64)] with
  | .error e => .error e
  | .ok _ =>
    let off := (c.opAddr 4 o).toNat
    match c.readable off n with
    | .error e => .error e
    | .ok _ => .ok (c.wakeBanks off n, c.spWords off (n / 4))

/-- The next command sequence number is taken (R133). -/
def Core.takeSeq (c : Core) : Core := { c with cseq := c.cseq + 1 }

/-- The seed an engine command captures (R83): one srnext() where it rounds stochastically. -/
def Core.takeSeed (c : Core) (rounds : Bool) : W32 × Core :=
  if rounds && c.stochastic .fm then let x := xorshift c.srseed; (x, { c with srseed := x }) else (0, c)

/-- The shape of an EN instruction: which modes use a prefix, its fields, its operands. -/
def shapeEn (f : EN) (uses legal : Core → Bool) (c : Core) : Shape :=
  ⟨f.sp, uses c, legal c, usesOf [f.cb, f.cp]⟩

/-- The running activation's key and logical core number. -/
def Core.actKey (c : Core) : BitVec 48 × W16 :=
  match c.act with
  | some a => (a.key, a.lcn)
  | none => (0, 0)

/-! ### Completion (R134, R233, R317, R358) -/

/-- A completion record: lanes, status, flags. -/
structure Record where
  lanes : List W32
  sts : Byte
  flags : Byte
  deriving DecidableEq, Repr

/-- An engine's message waits for its first send. -/
def State.engineMsg (s : State) (n sep cls : Nat) (t : W64) (key : BitVec 48) (asid srid : W16) (score : Nat)
    (l : List Lane) : State :=
  let p : Packet := { Packet.zero with
    dch := tgtCh t, sch := n, dep := tgtCore t, sep := sep, cls := cls, eom := true, plen := 4 * l.length
    asid := asid, key := key, tgt := t, words := l, srid := srid, score := score
    hx := if tgtRmt t then some ⟨tgtDmod t, BitVec.ofNat 10 (tgtCh t), BitVec.ofNat 7 (tgtCore t), 0⟩ else none }
  s.modChip n fun c => { c with sendq := c.sendq ++ [p] }

/-- A counter update by an engine or the network interface; one lost to an off bank or a moved SPSIZE is reported (R233), and so
is one that meets an uncorrectable error (R444; DEDUCED, log 114). -/
def State.counterUpdate (s : State) (g off k : Nat) (rid : W16) (r : Record) : State :=
  let c := s.core g
  let lost (f : FCode) : State :=
    s.report g rid { Report.of 6 f.code with addr := BitVec.ofNat 64 off, erec := r.lanes }
  if c.spsize < off + 8 then lost .align
  else if c.bankOff off 8 then lost .bankoff
  else if !c.sound off 8 then lost .eccu
  else s.modCore g fun c => c.ctrDec off k r.sts r.flags

/-- The entry of a record: its lanes valid, the others invalid (R134). -/
def recordEntry (l : List W32) : QEntry := entryOf (l.map fun w => ⟨w, true⟩)

/-- Append a record to a queue of the activation that issued its command, running or suspended (R318, R358); none
where the queue is full. -/
def State.queueRecord (s : State) (o : Outst) (n : BitVec 3) (l : List W32) : Option State :=
  let c := s.core o.core
  if c.act.any fun a => a.issued o then
    if qDepth n ≤ (c.queue n).length then none
    else some (s.modCore o.core fun c => c.setQ n (c.queue n ++ [recordEntry l]))
  else
    match (List.range 8).find? fun i => match (c.rq i).image with
        | some m => m.act.issued o
        | none => false with
    | none => some s
    | some i => match (c.rq i).image with
      | none => some s
      | some m =>
        let q := m.q.getD n.toNat []
        if qDepth n ≤ q.length then none
        else some (s.modCore o.core fun c => c.setRec i { c.rq i with
          image := some { m with q := m.q.set! n.toNat (q ++ [recordEntry l]) } })

/-- Deliver a record to its CP; none while the engine must wait with it (R317). -/
def State.deliverRecord (s : State) (o : Outst) (seq : W32) (asid : W16) (sep : Nat) (r : Record) : Option State :=
  match o.cp with
  | .none => some s
  | .counter off => some (s.counterUpdate o.core off 1 o.rid r)
  | .queue n => s.queueRecord o n r.lanes
  | .handler t => some (s.engineMsg (o.core / 64) sep 6 t (mkKey o.lcn (0b10#2 ++ seq.extractLsb' 0 30)) asid o.rid o.core
      (r.lanes.map fun w => ⟨w, true⟩))

/-- The flags and status of a matrix command for MXWAIT: the earliest issued status other than OK (R141). -/
def Core.noteMx (c : Core) (seq : W32) (r : Record) : Core :=
  { c with
    mxFlags := c.mxFlags ||| r.flags
    mxBad := if r.sts = 0 then c.mxBad else match c.mxBad with
      | some (q, x) => if (q - seq).toNat < 2 ^ 31 ∧ q ≠ seq then some (seq, r.sts) else some (q, x)
      | none => some (seq, r.sts) }

/-- The report of an engine halt (R143, R173, R278, R433). -/
def State.reportHalt (s : State) (o : Outst) (addr : W64) (r : Record) : State :=
  s.report o.core o.rid { Report.of 2 r.sts with addr := addr, erec := r.lanes }

/-! ### Memory as an engine sees it (R135, R148, R271, R392) -/

/-- Who an engine works for: its chiplet, the issuing core, address space, privilege at issue; the unit's own translation
cache (R393) and the number of the command. -/
structure EngFor where
  n : Nat
  core : Nat
  asid : W16
  user : Bool
  cache : Cache
  cmd : Nat
  deriving DecidableEq, Repr

/-- The number of a command: its core and its sequence number there (R133). -/
def cmdId (core : Nat) (seq : W32) : Nat := core * 2 ^ 32 + seq.toNat

/-- What stops an engine's access: the fault and its address. -/
abbrev EngErr := FCode × W64

/-- One chunk of an engine's access, within a 4 KiB frame: the issuing core's scratchpad, or a page. -/
def State.engPiece (s : State) (x : EngFor) (need : Need) (fr : Frame) (va : W64) (n : Nat) : Except EngErr Piece :=
  if inWindow va then
    let c := s.core x.core
    if c.spsize < windowOff va + n then .error (.txnp, va)
    else if c.bankOff (windowOff va) n then .error (.bankoff, va)
    else .ok (.win (windowOff va) n)
  else match s.seg x.cache x.n (some x.core) x.asid x.user va n need fr with
    | .error f => .error (f, va)
    | .ok y => .ok (.glob y)

/-- The pieces of some chunks. -/
def State.engPieces (s : State) (x : EngFor) (need : Need) (fr : Frame) : List (W64 × Nat) → Except EngErr (List Piece)
  | [] => .ok []
  | (va, n) :: l => do
    let p ← s.engPiece x need fr va n
    let ps ← s.engPieces x need fr l
    return p :: ps

/-- The bytes of a window range with the validity of their words. -/
def Core.windowBytes (c : Core) (off n : Nat) : List (Byte × Bool) :=
  (List.range n).map fun k =>
    let w := c.spGet ((off + k) / 4 * 4)
    (w.w.extractLsb' (8 * ((off + k) % 4)) 8, w.v)

/-- What an engine reads of a stretch: PHASED memory as it stands, each IMMEDIATE line once in the life of the command (R135,
R271). -/
def State.engTake (s : State) (x : EngFor) (y : Seg) : List Byte × State :=
  if !y.imm then (s.bytesAt y.places, s)
  else
    let t := y.places.foldl (fun t l => if l = y.base ∨ l.key % 128 = 0 then t.readLine x.n x.cmd l else t) s
    let buf := t.linesOf x.n x.cmd
    (y.places.map fun l => (KV.get [] buf l.line).getD (l.key % 128) 0, t)

/-- Read a piece. -/
def State.engReadPiece (s : State) (x : EngFor) (ef : Bool) (p : Piece) : Except EngErr (List (Byte × Bool) × State) :=
  match p with
  | .win off n =>
    if (s.core x.core).sound off n then .ok ((s.core x.core).windowBytes off n, s.modCore x.core fun c => c.wakeBanks off n)
    else .error (.eccu, BitVec.ofNat 64 (windowBase + off))
  | .glob y =>
    match s.homeFault y.places true with
    | some f => .error (f, y.va)
    | none =>
      let r := s.engTake x y
      .ok (r.1.map fun b => (b, true),
        (y.places.foldl State.hostFill (r.2.fillTlb x.cache x.n y.entry)).l2Segs x.n x.asid [y] ef)

/-- Read pieces in order. -/
def State.engReadAll (s : State) (x : EngFor) (ef : Bool) : List Piece → Except EngErr (List (Byte × Bool) × State)
  | [] => .ok ([], s)
  | p :: l => do
    let (b, s1) ← s.engReadPiece x ef p
    let (bs, s2) ← s1.engReadAll x ef l
    return (b ++ bs, s2)

/-- Read [va, va + n), each byte with its validity. -/
def State.engRead (s : State) (x : EngFor) (need : Need) (ef : Bool) (va : W64) (n : Nat) :
    Except EngErr (List (Byte × Bool) × State) := do
  let ps ← s.engPieces x need .current (chunks (n / 4096 + 2) va n)
  s.engReadAll x ef ps

/-- Read bytes, an invalid word as zero bits (R135). -/
def State.engBytes (s : State) (x : EngFor) (need : Need) (ef : Bool) (va : W64) (n : Nat) :
    Except EngErr (List Byte × State) := do
  let (b, s1) ← s.engRead x need ef va n
  return (b.map fun y => if y.2 then y.1 else 0, s1)

/-- A command sends bytes to a core's scratchpad, whole words valid (R90, R135). -/
def Core.windowStore (c : Core) (cmd off : Nat) (b : List Byte) : Core :=
  let first := off / 4
  let words := (off + b.length + 3) / 4 - first
  (c.wakeBanks off b.length).spSend cmd (4 * first) ((List.range words).map fun k =>
    let old := (c.spAhead (4 * (first + k))).w
    ⟨(List.range 4).foldl (fun w j =>
      let a := 4 * (first + k) + j
      if off ≤ a ∧ a < off + b.length then putField w (8 * j) 8 (b.getD (a - off) 0).toNat else w) old, true⟩)

/-- The activation that issued a command still runs or is suspended. -/
def Core.actLives (c : Core) (o : Outst) : Bool :=
  c.act.any (fun a => a.issued o) || (List.range 8).any fun i => match (c.rq i).image with
    | some m => m.act.issued o
    | none => false

/-- Plain stores of a command enter its core's phase log at the command's program-order position (R135), all or none: none
where the log would pass 16,384 entries (R207). -/
def State.logStores (s : State) (cmd : MxCmd) (l : List (Nat × Byte)) : Option State :=
  let c := s.core cmd.core
  let d := ((storeBodies l).map fun x =>
    (⟨x.1, x.2, cmd.lcn, cmd.key, cmd.asid, cmd.phg, !c.actLives cmd.outst, false, cmd.pos, cmd.rid⟩ : LogEntry)).foldl Core.addEntry c
  if 16384 < d.logCount ∧ c.logCount < d.logCount then none else some (s.setCore cmd.core d)

/-- Write a piece for a matrix command: scratchpad, IMMEDIATE page at its home, PHASED page in the log, which stops the
command with LOGFULL where it has no room (DEDUCED, log 19). -/
def State.engWritePiece (s : State) (x : EngFor) (cmd : MxCmd) (ef : Bool) (p : Piece) (b : List Byte) : Except EngErr State :=
  match p with
  | .win off _ => .ok (s.modCore x.core fun c => c.windowStore x.cmd off b)
  | .glob y =>
    match s.homeFault y.places false with
    | some f => .error (f, y.va)
    | none =>
      let s := s.fillTlb x.cache x.n y.entry
      if y.imm then .ok ((s.storeHome x.asid (y.places.zip b)).l2Segs x.n x.asid [y] ef)
      else match s.logStores cmd ((y.places.zip b).filterMap fun z => match z.1 with
        | .pa a => some (a, z.2)
        | .host _ _ _ => none) with
        | some t => .ok t
        | none => .error (.logfull, y.va)

/-- Write bytes for a matrix command, piece by piece. -/
def State.engWriteAll (s : State) (x : EngFor) (cmd : MxCmd) (ef : Bool) : List Piece → List Byte → Except EngErr State
  | [], _ => .ok s
  | p :: l, b => do
    let n := match p with
      | .win _ n => n
      | .glob y => y.len
    let s1 ← s.engWritePiece x cmd ef p (b.take n)
    s1.engWriteAll x cmd ef l (b.drop n)

/-- Write [va, va + length) for a matrix command. -/
def State.engWrite (s : State) (x : EngFor) (cmd : MxCmd) (ef : Bool) (va : W64) (b : List Byte) : Except EngErr State := do
  let ps ← s.engPieces x .w .current (chunks (b.length / 4096 + 2) va b.length)
  s.engWriteAll x cmd ef ps b

end Sys2Proof.Machine
end

