-- ==== Sys2Proof/Machine/Context.lean ====
section
/-! DEFINITION. The start of an activation (R296 to R298, R308, R434), choosing a queue (R350), and the saved context:
stopping, its image and its restore (R335, R336, R343, R351, R356 to R359). -/

namespace Sys2Proof.Machine

/-! ### The start of an activation -/

/-- A lane of a payload as its receiver holds it: an invalid word has no data (R245). -/
def Lane.arrived (x : Lane) : Lane := if x.v then x else ⟨0, false⟩

/-- The entries of a payload in Q0: sixteen words each, the lanes past the payload invalid (R245, R298). -/
def payloadEntries : Nat → List Lane → List QEntry
  | 0, _ => []
  | n + 1, l => entryOf (l.take 16) :: payloadEntries n (l.drop 16)

/-- A, P, Q and LK at the start of an activation with this trigger and these named regions (R298, R327). -/
def Core.startRegs (c : Core) (p : Packet) (named : List (Nat × Nat)) : Core :=
  let l := p.words.map Lane.arrived
  let w (k : Nat) : Lane := l.getD k ⟨0, false⟩
  if p.cont then
    { c with
      a := Vector.ofFn fun k => ⟨(w k.val).w, (w k.val).v, if (w k.val).v then tagOf (w k.val).w else 3⟩
      p := Vector.ofFn fun j => (w (16 + 2 * j.val + 1)).w ++ (w (16 + 2 * j.val)).w
      q := Vector.replicate 8 []
      lk := 0 }
  else
    { c with
      a := Vector.replicate 16 ALane.start
      p := Vector.ofFn fun j => match j.val with
        | 0 => p.key.zeroExtend 64
        | 1 => BitVec.ofNat 64 p.plen
        | k + 2 => BitVec.ofNat 64 (named.getD k (0, 0)).1
      q := (Vector.replicate 8 []).set! 0 (payloadEntries ((p.plen + 63) / 64) l)
      lk := 0 }

/-- The logical core number of a trigger's activation: that of the core the message was for, wherever its team has moved
(R203, R361); the dispatching core's where the target names none. -/
def lcnOf (g : Nat) (p : Packet) : W16 :=
  if Config.isCompute (tgtCh p.tgt) && tgtKind p.tgt == 0 then BitVec.ofNat 16 (64 * tgtCh p.tgt + tgtCore p.tgt)
  else BitVec.ofNat 16 g

/-- The named regions a handler binds, in ascending number (R293, R298). -/
def boundRegions (r : Region) (nmsk : BitVec 14) : List (Nat × Nat) := (bitsOf nmsk).filterMap r.named

/-- Set a bank to run; the words of one that was off are data zero, validity 0, since it went off (R183). -/
def Core.runBank (c : Core) (b : Nat) : Core := { c with sppwr := putField c.sppwr (2 * b) 2 0 }

/-- Every bank that holds a named region runs (R183, R296). -/
def Core.runNamed (c : Core) (l : List (Nat × Nat)) : Core :=
  (l.flatMap fun r => banksOf r.1 r.2).foldl Core.runBank c

/-- An activation starts on a core at an entry (R296, R298, R405, R76). -/
def Core.start (c : Core) (a : Act) (e : Entry) : Core :=
  { (c.startRegs a.trig a.named).runNamed a.named with
    act := some a
    pc := e.pc
    st := (c.st &&& 0xC0000) ||| (if a.gang then 0x10000 else 0) ||| (if e.sup then 0x4000 else 0)
    fm := 1, px := 0, srseed := 1, pwrcap := 16
    crc := 0xFFFF, entered := .checked e.pc
    fetch := [], refetch := none, safe := none, wait := .none
    journal := [], msgs := [], gpath := [], async := [], stopReq := false, deadline := false }

/-- The head of record i: its oldest report, before its oldest message (R434); its tries. -/
def RecQ.head? (q : RecQ) : Option (Packet × Bool × Nat) :=
  match q.reports with
  | p :: _ => some (p, true, q.rtries)
  | [] => match q.msgs with
    | p :: _ => some (p, false, q.tries)
    | [] => none

/-- The head leaves the list; it is the activation's trigger until the activation ends (R296). -/
def RecQ.pop (q : RecQ) : RecQ :=
  match q.reports with
  | _ :: l => { q with reports := l }
  | [] => { q with msgs := q.msgs.tail }

/-- Serving record b at level L: last served there, its level back at BASE (R349, R350). -/
def Core.serve (c : Core) (b lvl : Nat) : Core :=
  let r := c.brec.getD b 0
  { c with
    served := c.served.set! lvl (some b)
    brec := c.brec.set! b (putField r 53 3 (recBase r))
    recq := c.recq.set! b { c.rq b with since := none } }

/-- The activation of a trigger on core g. -/
def newAct (g i : Nat) (r : Region) (rid : W16) (h : Packet × Bool × Nat) (e : Entry) (lr : Nat) (gang leader : Bool) : Act where
  rid := rid
  brec := i
  key := h.1.key
  lcn := lcnOf g h.1
  trig := h.1
  tries := h.2.2
  irrev := false
  report := h.2.1
  nmsk := e.nmsk
  lr := lr
  gang := gang
  detached := false
  leader := leader
  phased := false
  ended := false
  named := boundRegions r e.nmsk

/-- A member's bind record of a region. -/
def State.memberRec (s : State) (k : Nat) (rid : W16) : Nat := ((s.core k).recOf rid).getD 0

/-- Record i of core g waits for its gang: its leader's head names the gang and no member runs an activation of the
region or holds a suspended one, so members dispatch nothing else of the region (R308). -/
def State.gangReserved (s : State) (g i : Nat) : Bool :=
  let c := s.core g
  let rid := recRid (c.brec.getD i 0)
  let l := 64 * (g / 64) + (c.gmask.extractLsb' 16 6).toNat
  c.gmask.extractLsb' 0 16 != 0 && l != g &&
    (match ((s.core l).rq (s.memberRec l rid)).head? with
      | some (p, rep, _) => !rep && (s.core l).gangHead p && (s.gangCores l).all fun k => !s.engaged k rid
      | none => false)

/-- The image a record of a core holds. -/
def Core.imageOf (c : Core) (i : Nat) : Option Image := (c.rq i).image

/-- The cores of a suspended gang: the members of g's gang with an image of the same trigger. -/
def State.imageCores (s : State) (g i : Nat) (m : Image) : List (Nat × Nat) :=
  if m.act.gang then (s.gangCores g).filterMap fun k =>
    let j := s.memberRec k m.act.rid
    match (s.core k).imageOf j with
    | some x => if x.act.gang && x.act.key == m.act.key then some (k, j) else none
    | none => none
  else [(g, i)]

/-- Every member of a gang may start together: a gang's head, or its image, waits until all are free, a head until no
boundary of its group is in progress at any of them (R199, R308, R343). -/
def State.gangMay (s : State) (g i : Nat) : Bool :=
  match (s.core g).imageOf i with
  | some m => (s.imageCores g i m).all fun x => (s.core x.1).act.isNone && !(s.core x.1).brkStop.contains x.2
  | none => match ((s.core g).rq i).head? with
    | some (p, rep, _) => rep || !(s.core g).gangHead p || (s.gangCores g).all fun k =>
        (s.core k).act.isNone && !s.engaged k (tgtRid p.tgt) && !s.boundaryHere k (recPhg ((s.core g).brec.getD i 0))
    | none => true

/-- Record i may be chosen now (R350). -/
def State.ready (s : State) (g i : Nat) : Bool :=
  let r := (s.core g).brec.getD i 0
  s.waitingRec g i && !recShd r && !s.isKilled (recAsid r) && !s.gangReserved g i && s.gangMay g i

/-- choose() of R350: the level and the record. -/
def State.choose (s : State) (g : Nat) : Option (Nat × Nat) :=
  let c := s.core g
  let lvl (i : Nat) := recLvl (c.brec.getD i 0)
  let l := (List.range 8).filter (s.ready g)
  match (l.map lvl).min? with
  | none => none
  | some m =>
    let last := ((c.served.getD m none).map (· + 1)).getD 0
    (((List.range 8).map fun k => (last + k) % 8).find? fun i => l.contains i && lvl i == m).map fun b => (m, b)

/-- A head that names an empty entry: a message goes to the stray queue with its report, a report kills (R297, R434). -/
def State.emptyHead (s : State) (g i : Nat) (r : Region) (rid : W16) (p : Packet) (rep : Bool) : State :=
  let s := s.modCore g fun c => c.setRec i { (c.rq i).pop with tries := 0, rtries := 0 }
  if rep then s.kill r.asid 2 FCode.hempty.code
  else
    let st := s.strayStore (g / 64) r p
    (st.2.countRecv (g / 64) rid 1).report g rid { Report.of 3 FCode.hempty.code with
      addr := BitVec.ofNat 64 (tgtHix p.tgt), key := p.key, lcn := lcnOf g p
      sidx := match st.1 with
        | some k => BitVec.ofNat 32 k
        | none => 0xFFFFFFFF }

/-- Start an activation on one core of record i. -/
def State.startOn (s : State) (g i lvl : Nat) (r : Region) (rid : W16) (h : Packet × Bool × Nat) (e : Entry)
    (gang leader : Bool) : State :=
  s.modCore g fun c => c.start (newAct g i r rid h e lvl gang leader) e

/-- DISPATCH of the head of record b at level L (R296, R308, R434). A gang starts when every member is free; a message of a
gang dissolved since it was queued is stray (R340; DEDUCED, log 51). -/
def State.dispatchHead (s : State) (g lvl b : Nat) : State :=
  let c := s.core g
  let rid := recRid (c.brec.getD b 0)
  match (c.rq b).head?, s.region rid with
  | some (p, rep, n), some r =>
    match s.handler (g / 64) r (if rep then r.fhix else tgtHix p.tgt) with
    | none => (s.emptyHead g b r rid p rep).modCore g fun c => c.serve b lvl
    | some e =>
      let pop (t : State) := t.modCore g fun c => (c.setRec b (c.rq b).pop).serve b lvl
      if !rep && tgtKind p.tgt == 1 then
        let l := s.gangCores g
        if !c.gangHead p then (s.emptyHead g b r rid p rep).modCore g fun c => c.serve b lvl
        else if l.all fun k => (s.core k).act.isNone && !s.engaged k rid then
          l.foldl (fun t k => t.startOn k (s.memberRec k rid) lvl r rid (p, rep, n) e true (k == g)) (pop s)
        else s
      else (pop s).startOn g b lvl r rid (p, rep, n) e false false
  | _, _ => s

/-! ### The saved context -/

/-- The mask of a stop in a wait: every register live (R336, R356). -/
def allLive : BitVec 18 := BitVec.allOnes 18

/-- The image of a running activation (R356, R357). -/
def Core.image (c : Core) (a : Act) (pc : W64) (live : BitVec 18) (wait : BitVec 8) (crc : W16) : Image where
  pc := pc
  act := a
  st := c.st
  fm := c.fm
  px := c.px
  srseed := c.srseed
  lk := if live.getLsbD 9 then c.lk else 0
  live := live
  wait := wait
  badd := match c.wait with
    | .barrier va _ _ => va
    | _ => 0
  bplace := match c.wait with
    | .barrier _ l _ => l
    | _ => []
  bgen := match c.wait with
    | .barrier _ _ g => g
    | _ => 0
  sppwr := c.sppwr &&& 0x3F
  pwrcap := c.pwrcap
  scrc := crc
  a := if live.getLsbD 0 then c.a else Vector.replicate 16 ALane.start
  p := Vector.ofFn fun j => if live.getLsbD (1 + j.val) then c.p.getD j.val 0 else 0
  q := Vector.ofFn fun j => if live.getLsbD (10 + j.val) || decide (4 ≤ j.val) then c.q.getD j.val [] else []
  journal := c.journal
  msgs := c.msgs

/-- The core's activation leaves it with an image in its record's slot. -/
def Core.suspend (c : Core) (pc : W64) (live : BitVec 18) (wait : BitVec 8) (crc : W16) : Core :=
  match c.act with
  | none => c
  | some a => c.endAct.setRec a.brec { c.endAct.rq a.brec with image := some (c.image a pc live wait crc) }

/-- How a core that may be stopped now would be saved: slot, mask, WAIT, running CRC (R335, R336, R356). -/
def Core.stopPoint (c : Core) : Option (W64 × BitVec 18 × BitVec 8 × W16) :=
  if !c.pend.isEmpty || !c.async.isEmpty || c.trapActive then none
  else
    match c.wait, c.safe with
    | .none, some m => some (c.pc, m, 0, c.crc)
    | .again, some m => if c.instr?.any waitTakeable then some (c.pc, allLive, 3, c.crc) else some (c.pc, m, 0, c.crc)
    | .phase, _ => some (c.pc, allLive, 1, c.crc)
    | .barrier _ _ _, _ => some (c.pc, allLive, 2, c.crc)
    | .waitq _ _, _ => some (c.pc, allLive, 3, c.crc)
    | .rejoin _, _ => some (c.pc, allLive, 3, c.crc)
    | .again, none => match c.instr? with
      | some i => if waitTakeable i then some (c.pc, allLive, 3, c.crc) else none
      | none => none
    | _, _ => none

/-- A PHASE that has completed its acquire, of a shed region: saved after the PHASE (R381). -/
def Core.phaseStop (c : Core) : Option (W64 × BitVec 18 × BitVec 8 × W16) :=
  match c.wait, c.instr? with
  | .acquired, some i =>
    if !c.pend.isEmpty || !c.async.isEmpty || c.trapActive then none
    else
      let n := nextSlot c.pc
      let sp := match i with
        | .phase f => f.sp
        | _ => false
      some (if sp then nextSlot n else n, allLive, 3, foldInstr c.crc i)
  | _, _ => none

/-- The region of the running activation is shed on its core (R348, R381). -/
def Core.shedNow (c : Core) : Bool := recShd c.curRec && recV c.curRec

/-- DL in 0.1 ms; values outside 5 … 200 store 20 (R376). -/
def shcDl (w : W64) : Nat := let d := (w.extractLsb' 16 8).toNat; if 5 ≤ d ∧ d ≤ 200 then d else 20

/-- The deadline of the shed class of the running activation has passed, counted from the notice that shed it (R381). -/
def State.deadlinePast (s : State) (g : Nat) : Bool :=
  let c := s.core g
  match c.act with
  | none => false
  | some a =>
    let k := c.shedClass a.brec
    c.shedNow && decide ((s.chip (g / 64)).shedAt.getD k 0 + shcDl (s.bell.shc.getD k 0) * 150000 ≤ s.now)

/-- The core holds a stop request: a queue of another record waits below LR, firmware asks (R351), or the region is shed
and the core waits, has completed PHASE, or has passed the deadline (R381). -/
def State.stopAsked (s : State) (g : Nat) : Bool :=
  let c := s.core g
  match c.act with
  | none => false
  | some _ => c.stopReq || c.deadline || s.deadlinePast g || s.preempted g ||
      (c.shedNow && match c.wait with
        | .none => false
        | .again => c.instr?.any waitTakeable
        | _ => true)

/-- How core g's part of its activation would be saved. -/
def State.partStop (s : State) (g : Nat) : Option (W64 × BitVec 18 × BitVec 8 × W16) :=
  let c := s.core g
  match c.act with
  | none => none
  | some a =>
    if a.ended then some (c.pc, allLive, 3, c.crc)
    else match c.stopPoint with
      | some x => some x
      | none => if c.shedNow then c.phaseStop else none

/-- A gang may stop: the leader and every attached member at one safe point of the leader's path, every detached one at a safe
point or in a wait (R343). -/
def State.gangStops (s : State) (g : Nat) : Bool :=
  let l := s.actCores g
  let part (k : Nat) : Option (Bool × Bool) := (s.core k).act.map fun a => (a.leader || !a.detached, a.ended)
  let att := l.filter fun k => part k == some (true, false)
  l.all (fun k => (s.partStop k).isSome) && att.all (fun k => (s.core k).safe.isSome) &&
    ((att.map fun k => (s.core k).pc).eraseDups).length ≤ 1 && att.all fun k => (s.core k).gpath.isEmpty

/-- The activation of core g may be stopped now. -/
def State.mayStop (s : State) (g : Nat) : Bool :=
  match (s.core g).act with
  | none => false
  | some a => if a.gang then s.gangStops g else (s.partStop g).isSome

/-- Save every part of the activation of core g (R343, R356); one irrevocable part makes them all so (R309). -/
def State.saveAll (s : State) (g : Nat) : State :=
  (s.actCores g).foldl (fun t k => match s.partStop k with
    | some (pc, m, w, crc) => (t.modCore k fun c => c.suspend pc m w crc).noteWaits k
    | none => t) (if s.irrevocable g then s.makeIrrev g else s)

/-- Firmware asks for a stop of the activation of core g (R351). -/
def State.askStop (s : State) (g : Nat) : State :=
  (s.actCores g).foldl (fun t k => (t.modCore k fun c => { c with stopReq := true }).fullClock k) s

/-- ACTIVATION_STOP: a request is honoured; one that no longer holds lapses (R351). `ask`: firmware asks for it. -/
def State.activationStop (s : State) (g : Nat) (ask : Bool) : State :=
  let s := if ask then s.askStop g else s
  if (s.actCores g).any s.stopAsked && s.mayStop g then s.saveAll g else s

/-- The core's next step is to honour a stop request. -/
def State.stopsNow (s : State) (g : Nat) : Bool := s.stopAsked g && s.mayStop g

/-! ### Restore (R359) -/

/-- SPPWR takes a saved value: a bank that goes off loses its words (R183, R359). -/
def Core.setBanks (c : Core) (v : W32) : Core :=
  let off := (List.range 3).filter fun b => (v.extractLsb' (2 * b) 2).toNat == 2 && c.bankState b != 2
  { c with
    sppwr := (c.sppwr &&& ~~~0x3F) ||| (v &&& 0x3F)
    spad := c.spad.filter fun x => !off.contains (x.1 * 4 / 64 % 3)
    spBad := c.spBad.filter fun w => !off.contains (w * 4 / 64 % 3) }

/-- The acquire steps that belong to a core: its L1, its copies of CUR, translations marked for it (R198, R211, R216). -/
def Core.acquire (c : Core) : Core := { c with l1 := [], cur := [], tlb := c.tlb.filter fun e => !e.stale }

/-- An acquire left to the restore of a suspended PHASE of a group is made now where no such image is left on the core (R228). -/
def Core.settleOwed (c : Core) : Core :=
  let due (phg : W16) : Bool := (List.range 8).any fun i => recPhg (c.brec.getD i 0) == phg && match (c.rq i).image with
    | some m => m.wait == 1 && !m.act.phased
    | none => false
  if c.owed.all due then c else { c.acquire with owed := c.owed.filter due }

/-- The wait a restored activation goes on with (R359). -/
def Image.waitAs (m : Image) : Wait :=
  if m.wait = 1 then (if m.act.phased then .phase else .acquired)
  else if m.wait = 2 then .barrier m.badd m.bplace m.bgen
  else .none

/-- One core takes back the image of its record i, at level L; ST.GIN and ST.GLD show the gang as it is now (R338). -/
def Core.restore (c : Core) (i lvl : Nat) (m : Image) : Core :=
  let b := (c.setBanks m.sppwr).startRegs m.act.trig m.act.named
  let c := { b with
    act := some { m.act with lr := lvl }
    pc := m.pc
    st := (m.st &&& ~~~0xC0000) ||| (c.st &&& 0xC0000), fm := m.fm, px := m.px, srseed := m.srseed, pwrcap := m.pwrcap
    lk := if m.live.getLsbD 9 then m.lk else b.lk
    a := if m.live.getLsbD 0 then m.a else b.a
    p := Vector.ofFn fun j => if m.live.getLsbD (1 + j.val) then m.p.getD j.val 0 else b.p.getD j.val 0
    q := m.q
    journal := m.journal, msgs := m.msgs
    crc := m.scrc, entered := .resumed, wait := m.waitAs
    fetch := [], refetch := none, safe := none, gpath := [], pend := [], async := [], stopReq := false, deadline := false }
  let c := (c.setRec i { c.rq i with image := none }).serve i lvl
  if m.waitAs = .acquired then { c.acquire with owed := c.owed.filter (· != recPhg (c.brec.getD i 0)) } else c

/-- CONTEXT_RESTORE of record i at level L; a gang comes back as a whole, when every member is free (R343, R359). -/
def State.restoreRec (s : State) (g lvl i : Nat) : State :=
  match (s.core g).imageOf i with
  | none => s
  | some m =>
    let l := s.imageCores g i m
    if l.all (fun x => (s.core x.1).act.isNone && !(s.core x.1).brkStop.contains x.2) then
      l.foldl (fun t x => match (s.core x.1).imageOf x.2 with
        | some y => (t.modCore x.1 fun c => c.restore x.2 lvl y).noteWaits x.1
        | none => t) s
    else s

/-- The core may begin something: it runs nothing and is not gated (R350, R372). -/
def Core.free (c : Core) : Bool := c.act.isNone && match c.gate with
  | .running => true
  | .holding _ => true
  | _ => false

/-- DISPATCH: a core that runs nothing serves the record it chooses, unless a stream holds its cluster (R167, R296, R350). -/
def State.dispatchNext (s : State) (g : Nat) : State :=
  if !(s.core g).free || !s.clockRuns g || s.streamHolds g then s
  else match s.choose g with
    | none => s
    | some (lvl, b) =>
      let t := if ((s.core g).imageOf b).isSome then s.restoreRec g lvl b else s.dispatchHead g lvl b
      (t.modCore g fun c => { c with gate := .running }).noteWaits g

end Sys2Proof.Machine
end

