-- ==== Sys2Proof/Machine/Activation.lean ====
section
/-! DEFINITION. The steps of a core's slot table: dispatch (R296, R350), stopping and restoring (R351, R356, R359), ageing
(R349) and faults found late (R429). -/

namespace Sys2Proof.Machine

/-- DISPATCH (R296, R350). -/
def execDispatch (g : Nat) (s : State) : Out := onCore g s fun s => s.dispatchNext g

/-- ACTIVATION_STOP (R351). -/
def execActivationStop (g : Nat) (ask : Bool) (s : State) : Out := onCore g s fun s => s.activationStop g ask

/-- CONTEXT_RESTORE: record `rec` is the one chosen and holds an image; no stream holds the cluster (R167, R350, R359). -/
def execContextRestore (g rec : Nat) (s : State) : Out :=
  onCore g s fun s =>
    if !(s.core g).free || s.streamHolds g then s
    else match s.choose g with
      | none => s
      | some (lvl, b) => if b = rec ∧ ((s.core g).imageOf b).isSome then (s.restoreRec g lvl b).noteWaits g else s

/-- QUEUE_AGEING: each full 64 µs of waiting lowers the level by one, to 1 at least (R349); a request held from then on raises
the core's clock (R351). -/
def State.ageQueue (s : State) (g i : Nat) : State :=
  let c := s.core g
  match (c.rq i).since with
  | none => s
  | some t =>
    if i < 8 ∧ s.waitingRec g i ∧ t + 96000 ≤ s.now then
      let r := c.brec.getD i 0
      let l := recLvl r
      (s.setCore g { c with
        recq := c.recq.set! i { c.rq i with since := some (t + 96000) }
        brec := if 1 < l then c.brec.set! i (putField r 53 3 (l - 1)) else c.brec }).noteWaits g
    else s

/-- QUEUE_AGEING. -/
def execQueueAgeing (g rec : Nat) (s : State) : Out := onCore g s fun s => s.ageQueue g rec

/-- The oldest fault found late is taken before the core's next issue group; an instruction in its wait that R240 does not let be taken
completes first (R240, R429). -/
def State.asyncFault (s : State) (g : Nat) : State :=
  let c := s.core g
  match c.async with
  | [] => s
  | (code, pcf, addr) :: l =>
    if !c.wait.yields || c.midPair then s else (s.modCore g fun c => { c with async := l }).fault g code c.pc pcf addr c.crc

/-- ASYNC_FAULT. -/
def execAsyncFault (g : Nat) (s : State) : Out := onCore g s fun s => s.asyncFault g

end Sys2Proof.Machine
end

