-- ==== Sys2Proof/Machine/Chunk.lean ====
section
/-! DEFINITION. Stored chunks, raw or ZMASK, as the weight-stream sequencer and the copy engine read and write them
(R154 to R156, R274). -/

namespace Sys2Proof.Machine

/-- The units of one group from their mask: the bytes, and what follows the group (R154). -/
def zUnits (unit mask : Nat) : Nat → Nat → List Byte → Option (List Byte × List Byte)
  | 0, _, l => some ([], l)
  | n + 1, b, l =>
    if mask.testBit b then
      if l.length < unit then none
      else (zUnits unit mask n (b + 1) (l.drop unit)).map fun r => (l.take unit ++ r.1, r.2)
    else (zUnits unit mask n (b + 1) l).map fun r => (List.replicate unit 0 ++ r.1, r.2)

/-- A ZMASK body of n units; none where it breaks R155. The first argument counts the groups. -/
def zDecode (unit : Nat) : Nat → Nat → List Byte → Option (List Byte)
  | 0, _, l => if l.isEmpty then some [] else none
  | f + 1, n, l =>
    let mask := leNat (l.take 8)
    let k := min 64 n
    if l.length < 8 ∨ mask / 2 ^ k ≠ 0 then none
    else match zUnits unit mask k 0 (l.drop 8) with
      | none => none
      | some (u, r) => (zDecode unit f (n - k) r).map (u ++ ·)

/-- Bytes of a body with its padding (R154). -/
def padded (n : Nat) : Nat := (n + 3) / 4 * 4

/-- Stored size of the chunk whose header is H (R154). -/
def chunkSize (h : Nat) : Nat := 8 + padded (h % 2 ^ 24)

/-- U_k of a stored chunk of `ulen` bytes, or DECODE or CKSUM (R155, R156). `zmask`: the packed form is allowed. -/
def chunkLoad (unit ulen : Nat) (zmask : Bool) (b : List Byte) : Except FCode (List Byte) :=
  let h := fieldOf b 0 4
  let n := h % 2 ^ 24
  let body := (b.drop 4).take n
  let raw := decide (2 ^ 31 ≤ h)
  if h / 2 ^ 24 % 128 ≠ 0 || ((b.drop (4 + n)).take (padded n - n)).any (· != 0) || (!raw && !zmask) then .error .decode
  else match (if raw then (if n = ulen then some body else none)
      else zDecode unit ((ulen / unit + 63) / 64) (ulen / unit) body) with
    | none => .error .decode
    | some u =>
      if (crc32Run 0xFFFFFFFF u ^^^ 0xFFFFFFFF).toNat = fieldOf b (4 + padded n) 4 then .ok u else .error .cksum

/-- Cut bytes into units. -/
def unitsOf (unit : Nat) (u : List Byte) : List (List Byte) :=
  (List.range (u.length / unit)).map fun k => (u.drop (unit * k)).take unit

/-- The ZMASK body of U (R154). -/
def zEncode (unit : Nat) (u : List Byte) : List Byte :=
  let us := unitsOf unit u
  (List.range ((us.length + 63) / 64)).flatMap fun g =>
    let l := (us.drop (64 * g)).take 64
    leBytes 8 (bitsNat (l.map fun x => x.any (· != 0))) ++ (l.filter fun x => x.any (· != 0)).flatMap id

/-- The stored chunk of U; raw where packing would not make it smaller (R154). -/
def chunkStore (unit : Nat) (u : List Byte) : List Byte :=
  let z := zEncode unit u
  let body := if z.length < u.length then z else u
  leBytes 4 (body.length + (if z.length < u.length then 0 else 2 ^ 31)) ++ body ++
    List.replicate (padded body.length - body.length) 0 ++ leBytes 4 (crc32Run 0xFFFFFFFF u ^^^ 0xFFFFFFFF).toNat

end Sys2Proof.Machine
end

