-- ==== Sys2Proof/Machine/IntAlu.lean ====
section
/-! DEFINITION. Integer instructions 0x01 to 0x2C and the pointer instructions (R92 to R102). -/

namespace Sys2Proof.Machine
open Sys2Proof.Machine.Num

/-! ### Element functions -/

/-- The integer an element stands for in its type (R58). -/
def iv (t : Ty) (b : Nat) : Int := toInt (isSigned t) (width t) b

/-- Source element `k` of a list. -/
def arg (l : List Nat) (k : Nat) : Nat := l.getD k 0

/-- wrap of an integer result, no flag (R92). -/
def wrapRes (t : Ty) (x : Int) : Nat × Flags := (wrap (width t) x, fNone)

/-- All ones where a relation holds, zero where it does not (R95). -/
def allOnesIf (t : Ty) (b : Bool) : Nat × Flags := (if b then 2 ^ width t - 1 else 0, fNone)

def addOp (t : Ty) : ElemOp := fun _ _ l => wrapRes t (iv t (arg l 0) + iv t (arg l 1))
def subOp (t : Ty) : ElemOp := fun _ _ l => wrapRes t (iv t (arg l 0) - iv t (arg l 1))
def mulOp (t : Ty) : ElemOp := fun _ _ l => wrapRes t (iv t (arg l 0) * iv t (arg l 1))
/-- ⌊a × b ÷ 2^w⌋ (R92). -/
def mulhOp (t : Ty) : ElemOp := fun _ _ l =>
  wrapRes t ((iv t (arg l 0) * iv t (arg l 1)) / ((2 ^ width t : Nat) : Int))
/-- DIV (R93). -/
def divOp (t : Ty) : ElemOp := fun _ _ l =>
  let a := iv t (arg l 0)
  let b := iv t (arg l 1)
  if b = 0 then (2 ^ width t - 1, fNone) else wrapRes t (Int.tdiv a b)
/-- REM (R93). -/
def remOp (t : Ty) : ElemOp := fun _ _ l =>
  let a := iv t (arg l 0)
  let b := iv t (arg l 1)
  if b = 0 then wrapRes t a else wrapRes t (Int.tmod a b)
def macOp (t : Ty) : ElemOp := fun _ _ l => wrapRes t (iv t (arg l 0) * iv t (arg l 1) + iv t (arg l 2))
def addsOp (t : Ty) : ElemOp := fun _ _ l => satInt (isSigned t) (width t) (iv t (arg l 0) + iv t (arg l 1))
def subsOp (t : Ty) : ElemOp := fun _ _ l => satInt (isSigned t) (width t) (iv t (arg l 0) - iv t (arg l 1))
def negOp (t : Ty) : ElemOp := fun _ _ l => wrapRes t (-iv t (arg l 0))
def absOp (t : Ty) : ElemOp := fun _ _ l => wrapRes t ((iv t (arg l 0)).natAbs : Int)
def minOp (t : Ty) : ElemOp := fun _ _ l => wrapRes t (min (iv t (arg l 0)) (iv t (arg l 1)))
def maxOp (t : Ty) : ElemOp := fun _ _ l => wrapRes t (max (iv t (arg l 0)) (iv t (arg l 1)))
def andOp (_ : Ty) : ElemOp := fun _ _ l => (arg l 0 &&& arg l 1, fNone)
def orOp (_ : Ty) : ElemOp := fun _ _ l => (arg l 0 ||| arg l 1, fNone)
def xorOp (_ : Ty) : ElemOp := fun _ _ l => (arg l 0 ^^^ arg l 1, fNone)
def notOp (t : Ty) : ElemOp := fun _ _ l => (2 ^ width t - 1 - arg l 0, fNone)
/-- The shift count: b mod w (R94). -/
def shCount (t : Ty) (b : Nat) : Nat := b % width t
def shlOp (t : Ty) : ElemOp := fun _ _ l => (arg l 0 * 2 ^ shCount t (arg l 1) % 2 ^ width t, fNone)
def shrOp (t : Ty) : ElemOp := fun _ _ l => (arg l 0 / 2 ^ shCount t (arg l 1), fNone)
def sraOp (t : Ty) : ElemOp := fun _ _ l =>
  wrapRes t (toInt true (width t) (arg l 0) / ((2 ^ shCount t (arg l 1) : Nat) : Int))
def rotOp (t : Ty) : ElemOp := fun _ _ l =>
  let k := shCount t (arg l 1)
  (arg l 0 * 2 ^ k % 2 ^ width t + arg l 0 / 2 ^ (width t - k), fNone)
def clzOp (t : Ty) : ElemOp := fun _ _ l =>
  (if arg l 0 = 0 then width t else width t - 1 - Nat.log2 (arg l 0), fNone)
def popcOp (t : Ty) : ElemOp := fun _ _ l => (((List.range (width t)).filter (arg l 0).testBit).length, fNone)
def movOp (_ : Ty) : ElemOp := fun _ _ l => (arg l 0, fNone)
def cmpeqOp (t : Ty) : ElemOp := fun _ _ l => allOnesIf t (decide (iv t (arg l 0) = iv t (arg l 1)))
def cmpneOp (t : Ty) : ElemOp := fun _ _ l => allOnesIf t (decide (iv t (arg l 0) ≠ iv t (arg l 1)))
def cmpltOp (t : Ty) : ElemOp := fun _ _ l => allOnesIf t (decide (iv t (arg l 0) < iv t (arg l 1)))
def cmpleOp (t : Ty) : ElemOp := fun _ _ l => allOnesIf t (decide (iv t (arg l 0) ≤ iv t (arg l 1)))
/-- SEL: a where c has any bit set, else b (R95). -/
def selOp (_ : Ty) : ElemOp := fun _ _ l => (if arg l 2 = 0 then arg l 1 else arg l 0, fNone)

/-- ABS takes the signed types only (R92). -/
def absTy (t : Ty) : Bool := isSigned t

/-! ### M3 forms (R92 to R95) -/

/-- ADD. -/
def execAdd (f : M3) (s : State) : Out := vecRow (.add f) f 2 isInt false (f.fn == 0) addOp s

/-- SUB. -/
def execSub (f : M3) (s : State) : Out := vecRow (.sub f) f 2 isInt false (f.fn == 0) subOp s

/-- MUL. -/
def execMul (f : M3) (s : State) : Out := vecRow (.mul f) f 2 isInt false (f.fn == 0) mulOp s

/-- MULH. -/
def execMulh (f : M3) (s : State) : Out := vecRow (.mulh f) f 2 isInt false (f.fn == 0) mulhOp s

/-- DIV. -/
def execDiv (f : M3) (s : State) : Out := vecRow (.div f) f 2 isInt false (f.fn == 0) divOp s

/-- REM. -/
def execRem (f : M3) (s : State) : Out := vecRow (.rem f) f 2 isInt false (f.fn == 0) remOp s

/-- MAC. -/
def execMac (f : M3) (s : State) : Out := vecRow (.mac f) f 3 isInt false (f.fn == 0) macOp s

/-- ADDS. -/
def execAdds (f : M3) (s : State) : Out := vecRow (.adds f) f 2 isInt false (f.fn == 0) addsOp s

/-- SUBS. -/
def execSubs (f : M3) (s : State) : Out := vecRow (.subs f) f 2 isInt false (f.fn == 0) subsOp s

/-- NEG. -/
def execNeg (f : M3) (s : State) : Out := vecRow (.neg f) f 1 isInt false (f.fn == 0) negOp s

/-- ABS. -/
def execAbsI (f : M3) (s : State) : Out := vecRow (.absI f) f 1 absTy false (f.fn == 0) absOp s

/-- MIN. -/
def execMinI (f : M3) (s : State) : Out := vecRow (.minI f) f 2 isInt false (f.fn == 0) minOp s

/-- MAX. -/
def execMaxI (f : M3) (s : State) : Out := vecRow (.maxI f) f 2 isInt false (f.fn == 0) maxOp s

/-- AND. -/
def execAndI (f : M3) (s : State) : Out := vecRow (.andI f) f 2 isInt false (f.fn == 0) andOp s

/-- OR. -/
def execOrI (f : M3) (s : State) : Out := vecRow (.orI f) f 2 isInt false (f.fn == 0) orOp s

/-- XOR. -/
def execXorI (f : M3) (s : State) : Out := vecRow (.xorI f) f 2 isInt false (f.fn == 0) xorOp s

/-- NOT. -/
def execNotI (f : M3) (s : State) : Out := vecRow (.notI f) f 1 isInt false (f.fn == 0) notOp s

/-- SHL. -/
def execShl (f : M3) (s : State) : Out := vecRow (.shl f) f 2 isInt false (f.fn == 0) shlOp s

/-- SHR. -/
def execShr (f : M3) (s : State) : Out := vecRow (.shr f) f 2 isInt false (f.fn == 0) shrOp s

/-- SRA. -/
def execSra (f : M3) (s : State) : Out := vecRow (.sra f) f 2 isInt false (f.fn == 0) sraOp s

/-- ROT. -/
def execRot (f : M3) (s : State) : Out := vecRow (.rot f) f 2 isInt false (f.fn == 0) rotOp s

/-- CLZ. -/
def execClz (f : M3) (s : State) : Out := vecRow (.clz f) f 1 isInt false (f.fn == 0) clzOp s

/-- POPC. -/
def execPopc (f : M3) (s : State) : Out := vecRow (.popc f) f 1 isInt false (f.fn == 0) popcOp s

/-- MOV. -/
def execMov (f : M3) (s : State) : Out := quietRow (.mov f) f 1 isBits (f.fn == 0) movOp s

/-- CMPEQ. -/
def execCmpeq (f : M3) (s : State) : Out := vecRow (.cmpeq f) f 2 isInt false (f.fn == 0) cmpeqOp s

/-- CMPNE. -/
def execCmpne (f : M3) (s : State) : Out := vecRow (.cmpne f) f 2 isInt false (f.fn == 0) cmpneOp s

/-- CMPLT. -/
def execCmplt (f : M3) (s : State) : Out := vecRow (.cmplt f) f 2 isInt false (f.fn == 0) cmpltOp s

/-- CMPLE. -/
def execCmple (f : M3) (s : State) : Out := vecRow (.cmple f) f 2 isInt false (f.fn == 0) cmpleOp s

/-- SEL. -/
def execSel (f : M3) (s : State) : Out := quietRow (.sel f) f 3 isBits (f.fn == 0) selOp s

/-! ### DOT4 and TAGS (R96, R98) -/

/-- The signed or unsigned bytes of a lane for DOT4 (R96). -/
def dotByte (signed : Bool) (x j : Nat) : Int := toInt signed 8 (x / 2 ^ (8 * j))

/-- DOT4 on one lane (R96). -/
def dot4Op (fn : BitVec 10) : ElemOp := fun _ _ l =>
  let sa := fn != 1
  let sb := fn == 0
  let sum := (List.range 4).foldl (fun a j => a + dotByte sa (arg l 0) j * dotByte sb (arg l 1) j) (0 : Int)
  (wrap 32 (toInt true 32 (arg l 2) + sum), fNone)

/-- A lane's sources of DOT4: an immediate or Pn source of 8-bit elements supplies its byte to each (R44, R45). -/
def Core.dot4Lanes (c : Core) (fill : BitVec 3 → Bool) (fp : Nat) (o : Operand) (n : Nat) :
    Except Exn (Core × List El) :=
  match o with
  | .imm v => .ok (c, List.replicate n ⟨wrap 8 v.toInt * 0x01010101, true⟩)
  | .reg r _ => .ok (c, List.replicate n ⟨(c.preg r).toNat % 256 * 0x01010101, true⟩)
  | _ =>
    match c.readLanes fill fp o n with
    | .error e => .error e
    | .ok (c', l) => .ok (c', elemsOf .u32 l n)

/-- DOT4 (R96). -/
def dot4Work (f : M3) : Work := fun c fill => do
  let t := c.ty f.ty
  let fp := fpOf f.ln
  let n := elemsFor f.od t f.ln
  c.checkLocals fp [(f.od, 4 * n, 4), (f.oa, 4 * n, 4), (f.ob, 4 * n, 4), (f.oc, 4 * n, 4)]
  let (c1, a) ← c.dot4Lanes fill fp f.oa n
  let (c2, b) ← c1.dot4Lanes fill fp f.ob n
  let (c3, d, _) ← c2.readElems fill fp f.oc t n
  let res := (List.range n).map fun e =>
    combine f.vp [a.getD e ⟨0, false⟩, b.getD e ⟨0, false⟩, d.getD e ⟨0, false⟩] (dot4Op f.fn .rne 0)
  let (c4, p) := c3.writeElems fp f.od t (res.map (·.1))
  return (c4.opIncs fp [f.od, f.oa, f.ob, f.oc], p)

/-- DOT4. -/
def execDot4 (f : M3) (s : State) : Out :=
  coreRow (.dot4 f) (shapeM3 f fun t => legalM3 f t (t == .i32 || t == .u32) false (decide (f.fn.toNat ≤ 2)) 3 false)
    (onOwnCore (dot4Work f)) s

/-- TAGS: the tag codes of A's lanes, every result valid (R98). -/
def tagsWork (f : M3) : Work := fun c _ => do
  let fp := fpOf f.ln
  let n := elemsFor f.od .u32 f.ln
  c.checkLocals fp [(f.od, 4 * n, 4)]
  let (c1, p) := c.writeElems fp f.od .u32 ((List.range n).map fun k => ⟨(c.alane k).tag.toNat, true⟩)
  return (c1.opIncs fp [f.od], p)

/-- TAGS. -/
def execTags (f : M3) (s : State) : Out :=
  coreRow (.tags f) (shapeM3 f fun t =>
      legalM3 f t (t == .u32) false (f.fn == 0) 1 false && f.vp == .propagate && f.oa == .acc)
    (onOwnCore (tagsWork f)) s

/-! ### MI forms (R97) -/

/-- IMM32 sign-extended to 64 bits and truncated to the element width (R97). -/
def immInt (v : W32) (t : Ty) : Nat × Flags := (wrap (width t) v.toInt, fNone)

/-- The constant of LDI (R97). -/
def ldiConst (v : W32) (t : Ty) : Nat × Flags :=
  if t = .u64 then (v.toNat, fNone)
  else if isInt t then (wrap (width t) v.toInt, fNone)
  else if t = .f32 then (v.toNat, fNone)
  else convert .f32 t .rne false 0 v.toNat

/-- LDI: OA is zero, and the constant goes to every element (R97). -/
def execLdi (f : MI) (s : State) : Out :=
  coreRow (.ldi f) (shapeM3 (miAsM3 f) fun t =>
      legalM3 (miAsM3 f) t (isInt t || isVF t) false (f.fn == 0) 0 false)
    (onOwnCore (lanewise (miAsM3 f) [] false fun t _ _ _ => ldiConst f.imm t)) s

/-- ADD with IMM32. -/
def execAddImm (f : MI) (s : State) : Out := immRow (.addImm f) f isInt false (immInt f.imm) addOp s

/-- SUB with IMM32. -/
def execSubImm (f : MI) (s : State) : Out := immRow (.subImm f) f isInt false (immInt f.imm) subOp s

/-- MUL with IMM32. -/
def execMulImm (f : MI) (s : State) : Out := immRow (.mulImm f) f isInt false (immInt f.imm) mulOp s

/-- AND with IMM32. -/
def execAndImm (f : MI) (s : State) : Out := immRow (.andImm f) f isInt false (immInt f.imm) andOp s

/-- OR with IMM32. -/
def execOrImm (f : MI) (s : State) : Out := immRow (.orImm f) f isInt false (immInt f.imm) orOp s

/-- XOR with IMM32. -/
def execXorImm (f : MI) (s : State) : Out := immRow (.xorImm f) f isInt false (immInt f.imm) xorOp s

/-- MIN with IMM32. -/
def execMinImm (f : MI) (s : State) : Out := immRow (.minImm f) f isInt false (immInt f.imm) minOp s

/-- MAX with IMM32. -/
def execMaxImm (f : MI) (s : State) : Out := immRow (.maxImm f) f isInt false (immInt f.imm) maxOp s

/-- CMPEQ with IMM32. -/
def execCmpeqImm (f : MI) (s : State) : Out := immRow (.cmpeqImm f) f isInt false (immInt f.imm) cmpeqOp s

/-- CMPNE with IMM32. -/
def execCmpneImm (f : MI) (s : State) : Out := immRow (.cmpneImm f) f isInt false (immInt f.imm) cmpneOp s

/-- CMPLT with IMM32. -/
def execCmpltImm (f : MI) (s : State) : Out := immRow (.cmpltImm f) f isInt false (immInt f.imm) cmpltOp s

/-- CMPLE with IMM32. -/
def execCmpleImm (f : MI) (s : State) : Out := immRow (.cmpleImm f) f isInt false (immInt f.imm) cmpleOp s

/-! ### Pointer instructions (R99 to R102) -/

/-- Field rules of the pointer instructions (R99): TY = 0x3, LN = 1, VP = 0b00, RM = 0b000, OD register-direct. -/
def ptrLegal (t : Ty) (f : M3) (c : Core) : Bool :=
  c.ty t == .i64 && f.ln == 1 && f.vp == .propagate && f.rm == .fm && isRegOp f.od

/-- PSET: IMM32 sign-extended (R100). -/
def execPset (f : MI) (s : State) : Out :=
  coreRow (.pset f) (fun c => ⟨f.sp, f.ty == .px, ptrLegal f.ty (miAsM3 f) c && f.oa == .zero, usesOf [f.od]⟩)
    (onOwnCore fun c _ => .ok (c.setP (regOf f.od) (f.imm.signExtend 64), none)) s

/-- PSET.hi: bits 63:32 (R100). -/
def execPsetHi (f : MI) (s : State) : Out :=
  coreRow (.psetHi f) (fun c => ⟨f.sp, f.ty == .px, ptrLegal f.ty (miAsM3 f) c && f.oa == .zero, usesOf [f.od]⟩)
    (onOwnCore fun c _ =>
      .ok (c.setP (regOf f.od) (f.imm ++ (c.preg (regOf f.od)).extractLsb' 0 32), none)) s

/-- PADD's addend: Pn, an immediate, or A's lanes 1 and 0; none where a lane is invalid (R101). -/
def Core.paddArg (c : Core) (o : Operand) : Option W64 :=
  match o with
  | .acc => if (c.alane 0).v && (c.alane 1).v then some ((c.alane 1).w ++ (c.alane 0).w) else none
  | _ => some (c.pOrImm o)

/-- PADD (R101). -/
def execPadd (f : M3) (s : State) : Out :=
  coreRow (.padd f) (fun c => ⟨f.sp, f.ty == .px,
      ptrLegal f.ty f c && decide (f.fn.toNat ≤ 3) && isRegOp f.oa && (isRegOp f.ob || isImmOp f.ob || isAccOp f.ob) &&
        f.oc == .zero, usesOf [f.od, f.oa, f.ob]⟩)
    (onOwnCore fun c _ =>
      match c.paddArg f.ob with
      | some x => .ok (c.setP (regOf f.od) (c.preg (regOf f.oa) + x * BitVec.ofNat 64 (2 ^ f.fn.toNat)), none)
      | none => .ok (c, none)) s

/-- PADD with IMM32 (R101). -/
def execPaddImm (f : MI) (s : State) : Out :=
  coreRow (.paddImm f) (fun c => ⟨f.sp, f.ty == .px,
      ptrLegal f.ty (miAsM3 f) c && f.fn == 0 && isRegOp f.oa, usesOf [f.od, f.oa]⟩)
    (onOwnCore fun c _ => .ok (c.setP (regOf f.od) (c.preg (regOf f.oa) + f.imm.signExtend 64), none)) s

/-- The exponent of PMOD's ring (R102). -/
def pmodExp (o : Operand) : Option Nat :=
  match o with
  | .imm v => if v.toNat ≤ 63 then some v.toNat else none
  | _ => none

/-- PMOD (R102). -/
def execPmod (f : M3) (s : State) : Out :=
  coreRow (.pmod f) (fun c => ⟨f.sp, f.ty == .px,
      ptrLegal f.ty f c && f.fn == 0 && isRegOp f.oa && (isRegOp f.ob || isImmOp f.ob) && (pmodExp f.oc).isSome,
      usesOf [f.od, f.oa, f.ob]⟩)
    (onOwnCore fun c _ =>
      let mask : W64 := BitVec.ofNat 64 (2 ^ (pmodExp f.oc).getD 0 - 1)
      let a := c.preg (regOf f.oa)
      .ok (c.setP (regOf f.od) ((a &&& ~~~mask) ||| ((a + c.pOrImm f.ob) &&& mask)), none)) s

/-- NOP: only the next slot (R52). -/
def execNop (s : State) : Out :=
  coreRow .nop (fun _ => ⟨false, false, true, Uses.none⟩) (fun s => .ok (.done s)) s

end Sys2Proof.Machine
end

