-- ==== Sys2Proof/Machine/Float.lean ====
section
/-! DEFINITION. Floating instructions (R103 to R113). -/

namespace Sys2Proof.Machine
open Sys2Proof.Machine.Num

/-! ### Element functions -/

def faddOp (t : Ty) : ElemOp := fun m r l => fadd t m r (arg l 0) (arg l 1)
def fsubOp (t : Ty) : ElemOp := fun m r l => fsub t m r (arg l 0) (arg l 1)
def fmulOp (t : Ty) : ElemOp := fun m r l => fmul t m r (arg l 0) (arg l 1)
def fmaOp (t : Ty) : ElemOp := fun m r l => ffma t false m r (arg l 0) (arg l 1) (arg l 2)
def fnmaOp (t : Ty) : ElemOp := fun m r l => ffma t true m r (arg l 0) (arg l 1) (arg l 2)
def fdivOp (t : Ty) : ElemOp := fun m r l => fdiv t m r (arg l 0) (arg l 1)
def fsqrtOp (t : Ty) : ElemOp := fun m r l => fsqrt t m r (arg l 0)
def frcpOp (t : Ty) : ElemOp := fun _ _ l => frcp t (arg l 0)
def frsqOp (t : Ty) : ElemOp := fun _ _ l => frsq t (arg l 0)
def fminOp (t : Ty) : ElemOp := fun _ _ l => fminmax t false (arg l 0) (arg l 1)
def fmaxOp (t : Ty) : ElemOp := fun _ _ l => fminmax t true (arg l 0) (arg l 1)
def fabsOp (t : Ty) : ElemOp := fun _ _ l => fsign t false (arg l 0)
def fnegOp (t : Ty) : ElemOp := fun _ _ l => fsign t true (arg l 0)
def fclassOp (t : Ty) : ElemOp := fun _ _ l => (fclass t (arg l 0), fNone)
def frndiOp (t : Ty) : ElemOp := fun m r l => frndi t m r (arg l 0)
def fexp2fOp (_ : Ty) : ElemOp := fun _ _ l => fexp2f (arg l 0)
def flog2fOp (_ : Ty) : ElemOp := fun _ _ l => flog2f (arg l 0)
def fscaleOp (t : Ty) : ElemOp := fun m r l => fscale t m r (arg l 0) (arg l 1)
def fgetexpOp (t : Ty) : ElemOp := fun _ _ l => fgetexp t (arg l 0)
/-- FCMP by its function code (R105). -/
def fcmpOp (fn : BitVec 10) (t : Ty) : ElemOp := fun _ _ l =>
  ((allOnesIf t (fcmpHolds t fn.toNat (arg l 0) (arg l 1))).1, fcmpFlags t (fn == 2 || fn == 3) (arg l 0) (arg l 1))

/-- FP32 only. -/
def isF32 (t : Ty) : Bool := t == .f32

/-! ### M3 forms (R103) -/

/-- FADD. -/
def execFadd (f : M3) (s : State) : Out := vecRow (.fadd f) f 2 isVF true (f.fn == 0) faddOp s

/-- FSUB. -/
def execFsub (f : M3) (s : State) : Out := vecRow (.fsub f) f 2 isVF true (f.fn == 0) fsubOp s

/-- FMUL. -/
def execFmul (f : M3) (s : State) : Out := vecRow (.fmul f) f 2 isVF true (f.fn == 0) fmulOp s

/-- FMA. -/
def execFma (f : M3) (s : State) : Out := vecRow (.fma f) f 3 isVF true (f.fn == 0) fmaOp s

/-- FNMA. -/
def execFnma (f : M3) (s : State) : Out := vecRow (.fnma f) f 3 isVF true (f.fn == 0) fnmaOp s

/-- FDIV. -/
def execFdiv (f : M3) (s : State) : Out := vecRow (.fdiv f) f 2 isVF true (f.fn == 0) fdivOp s

/-- FSQRT. -/
def execFsqrt (f : M3) (s : State) : Out := vecRow (.fsqrt f) f 1 isVF true (f.fn == 0) fsqrtOp s

/-- FRCP. -/
def execFrcp (f : M3) (s : State) : Out := vecRow (.frcp f) f 1 isVF false (f.fn == 0) frcpOp s

/-- FRSQ. -/
def execFrsq (f : M3) (s : State) : Out := vecRow (.frsq f) f 1 isVF false (f.fn == 0) frsqOp s

/-- FMIN. -/
def execFmin (f : M3) (s : State) : Out := quietRow (.fmin f) f 2 isVF (f.fn == 0) fminOp s

/-- FMAX. -/
def execFmax (f : M3) (s : State) : Out := quietRow (.fmax f) f 2 isVF (f.fn == 0) fmaxOp s

/-- FABS. -/
def execFabs (f : M3) (s : State) : Out := vecRow (.fabs f) f 1 isVF false (f.fn == 0) fabsOp s

/-- FNEG. -/
def execFneg (f : M3) (s : State) : Out := vecRow (.fneg f) f 1 isVF false (f.fn == 0) fnegOp s

/-- FCLASS. -/
def execFclass (f : M3) (s : State) : Out := quietRow (.fclass f) f 1 isVF (f.fn == 0) fclassOp s

/-- FRNDI. -/
def execFrndi (f : M3) (s : State) : Out := vecRow (.frndi f) f 1 isVF true (f.fn == 0) frndiOp s

/-- FEXP2F. -/
def execFexp2f (f : M3) (s : State) : Out := vecRow (.fexp2f f) f 1 isF32 false (f.fn == 0) fexp2fOp s

/-- FLOG2F. -/
def execFlog2f (f : M3) (s : State) : Out := vecRow (.flog2f f) f 1 isF32 false (f.fn == 0) flog2fOp s

/-- FSCALE. -/
def execFscale (f : M3) (s : State) : Out := vecRow (.fscale f) f 2 isVF true (f.fn == 0) fscaleOp s

/-- FGETEXP. -/
def execFgetexp (f : M3) (s : State) : Out := vecRow (.fgetexp f) f 1 isVF false (f.fn == 0) fgetexpOp s

/-- FCMP. -/
def execFcmp (f : M3) (s : State) : Out :=
  vecRow (.fcmp f) f 2 isVF false (decide (f.fn.toNat ≤ 5)) (fcmpOp f.fn) s

/-! ### MI forms (R113) -/

/-- The constant k of an MI floating form (R113). -/
def immFloat (v : W32) (t : Ty) : Nat × Flags :=
  if t = .f32 then (v.toNat, fNone) else convert .f32 t .rne false 0 v.toNat

/-- FADD with IMM32. -/
def execFaddImm (f : MI) (s : State) : Out := immRow (.faddImm f) f isVF true (immFloat f.imm) faddOp s

/-- FMUL with IMM32. -/
def execFmulImm (f : MI) (s : State) : Out := immRow (.fmulImm f) f isVF true (immFloat f.imm) fmulOp s

/-- FSUB with IMM32. -/
def execFsubImm (f : MI) (s : State) : Out := immRow (.fsubImm f) f isVF true (immFloat f.imm) fsubOp s

/-! ### FSUM and FDOT (R112) -/

/-- Elements as a validity policy reads them; none where the result is invalid. -/
def readValid (vp : Vp) (l : List El) : Option (List Nat) :=
  let l := l.map (El.read vp)
  if l.all (·.v) then some (l.map (·.b)) else none

/-- A fold's single result written to element 0 of OD. -/
def Core.finishFold (c : Core) (f : M3) (fp : Nat) (t : Ty) (srcs : List Operand) (r : Option (Nat × Flags)) (ifl : Flags) :
    Core × Push :=
  let e : El := match r with
    | some x => ⟨x.1, true⟩
    | none => ⟨0, false⟩
  let fl := match r with
    | some x => x.2 ||| ifl
    | none => fNone
  let w := c.writeElems fp f.od t [e]
  ((w.1.opIncs fp (f.od :: srcs)).orFlags fl, w.2)

/-- FSUM: a left fold over the elements, the generator stepping N − 1 times (R73, R112). -/
def fsumWork (f : M3) : Work := fun c fill => do
  let t := c.ty f.ty
  let fp := fpOf f.ln
  let n := elemCount t f.ln
  c.checkLocals fp [(f.od, 4, 4), (f.oa, fp, 4)]
  let m := c.effrm f.rm
  let (c1, a, ifl) ← c.readElems fill fp f.oa t n
  let (rs, c2) := c1.randoms (c.stochastic f.rm) (n - 1)
  let r := (readValid f.vp a).map fun l => foldAdd t m (foldStart t (arg l 0)) ((l.drop 1).zip rs)
  return c2.finishFold f fp t [f.oa] r ifl

/-- FSUM. -/
def execFsum (f : M3) (s : State) : Out :=
  coreRow (.fsum f) (shapeM3 f fun t => legalM3 f t (isVF t) true (f.fn == 0) 1 true) (onOwnCore (fsumWork f)) s

/-- FDOT: one rounding per step, the generator stepping N times (R73, R112). -/
def fdotWork (f : M3) : Work := fun c fill => do
  let t := c.ty f.ty
  let fp := fpOf f.ln
  let n := elemCount t f.ln
  c.checkLocals fp [(f.od, 4, 4), (f.oa, fp, 4), (f.ob, fp, 4)]
  let m := c.effrm f.rm
  let (c1, xs, ifl) ← c.readAll fill fp t n [f.oa, f.ob]
  let (rs, c2) := c1.randoms (c.stochastic f.rm) n
  let a := readValid f.vp (xs.getD 0 [])
  let b := readValid f.vp (xs.getD 1 [])
  let r : Option (Nat × Flags) := match a, b with
    | some la, some lb =>
      let x0 := fmul t m (rs.getD 0 0) (arg la 0) (arg lb 0)
      some (foldDot t m x0 (((la.drop 1).zip ((lb.drop 1).zip (rs.drop 1)))))
    | _, _ => none
  return c2.finishFold f fp t [f.oa, f.ob] r ifl

/-- FDOT. -/
def execFdot (f : M3) (s : State) : Out :=
  coreRow (.fdot f) (shapeM3 f fun t => legalM3 f t (isVF t) true (f.fn == 0) 2 true) (onOwnCore (fdotWork f)) s

/-! ### FCVT (R111) -/

/-- Source type and upper half that a function code names; 0x00F takes PX.PSTY (R111). -/
def Core.cvtSource (c : Core) (fn : BitVec 10) : Option (Ty × Bool) :=
  if fn = 0x01D then some (.e2m1, true)
  else if fn = 0x00F then some (c.psty, false)
  else if fn.toNat ≤ 0x00E then some (Ty.ofCode (fn.extractLsb' 0 4), false)
  else none

/-- Number of elements of an FCVT (R111). -/
def cvtCount (f : M3) (t : Ty) : Nat := if t = .e2m1 then 32 else elemsFor f.od t f.ln

/-- Bytes `n` elements of a type cover; a block of E2M1 covers its five lanes (R111). -/
def cvtBytes (t : Ty) (n : Nat) : Nat := if t = .e2m1 then 20 else (n * width t + 7) / 8

/-- An FCVT operand has room: 128 bytes in scratchpad, 64 in A or a queue (R111). -/
def cvtRoom (o : Operand) (b : Nat) : Bool :=
  match o with
  | .acc => decide (b ≤ 64)
  | .queue _ => decide (b ≤ 64)
  | .imm _ => true
  | .reg _ _ => true
  | _ => decide (b ≤ 128)

/-- Field rules of FCVT (R111). A block source named through PX.PSTY by FN 0x00F is none of the combinations R111 lists,
0x00D and 0x01D (DEDUCED, log 99). -/
def cvtLegal (f : M3) (c : Core) : Bool :=
  let t := c.ty f.ty
  match c.cvtSource f.fn with
  | none => false
  | some (s, up) =>
    let n := cvtCount f t
    let one := isRegOp f.od
    (t != .px) && s != .px && s != t && lnOk t f.ln && srcForm f.oa && dstForm f.od t f.ln false &&
      f.ob == .zero && f.oc == .zero && !incClash f.od [f.oa] &&
      (if t = .e2m1 then f.ln == 4 && !one else true) &&
      (if s = .e2m1 then width t != 64 &&
          ((n == 32 && !up) || (n == 16 && width t == 32)) && f.fn != 0x00F else true) &&
      cvtRoom f.oa (cvtBytes s n) && cvtRoom f.od (cvtBytes t n)

/-- FCVT uses a prefix through TY or through PSTY (R81, R111); with none pending, either raises IILL (R40; for PSTY DESIGN
CHOICE, log 100). The effective saturation of any other FCVT is no use of the prefix (DESIGN CHOICE, log 133). -/
def cvtUses (f : M3) : Bool := f.ty == .px || f.fn == 0x00F

/-- Byte `k` of lanes. -/
def laneByte (l : List Lane) (k : Nat) : Nat := (l.getD (k / 4) ⟨0, false⟩).w.toNat / 2 ^ (8 * (k % 4)) % 256

/-- Element code `j` of an E2M1 block in lanes (R61). -/
def blockCode (l : List Lane) (j : Nat) : Nat := laneByte l (2 + j / 2) / 2 ^ (4 * (j % 2)) % 16

/-- Lanes a source operand of `b` bytes takes. -/
def cvtLanes (b : Nat) : Nat := (b + 3) / 4

/-- Elements of an E2M1 block without lanes, and the flags of reading it: an immediate is 32 elements of its value,
converted by R68 with RNE (R44); a P register supplies its low four bits to every element, under a scale that the spec
does not state (R45; log 12). -/
def Core.scalarBlock (c : Core) (o : Operand) (n : Nat) : List (El × Val) × Flags :=
  match o with
  | .imm v =>
    let x := valAny .i64 (wrap 64 v.toInt)
    let b := toBlock .rne (List.replicate 32 x) (List.replicate 32 0)
    let code := b.2.1.getD 0 0
    (List.replicate n (⟨code, true⟩, valBlock b.1 0 code), b.2.2)
  | _ =>
    let p := c.preg (regOf o)
    let sc := Config.pnScale p
    let code := p.toNat % 16
    (List.replicate n (⟨code, true⟩, valBlock (sc.extractLsb' 0 8).toNat (sc.extractLsb' 8 8).toNat code), fNone)

/-- The exact values of the source elements with their validity and the flags of reading them. -/
def Core.cvtRead (c : Core) (fill : BitVec 3 → Bool) (f : M3) (fp : Nat) (s : Ty) (up : Bool) (n : Nat) :
    Except Exn (Core × List (El × Val) × Flags) :=
  if s = .e2m1 ∧ (isRegOp f.oa || isImmOp f.oa) then
    let b := c.scalarBlock f.oa n
    .ok (c, b.1, b.2)
  else if s = .e2m1 then
    match c.readLanes fill fp f.oa 5 with
    | .error e => .error e
    | .ok (c1, l) =>
      let v := l.all (·.v)
      .ok (c1, (List.range n).map fun j =>
        let code := blockCode l (if up then j + 16 else j)
        (⟨code, v⟩, match f.vp with
          | .allValid => if v then valBlock (laneByte l 0) (laneByte l 1) code else .fin false 0 0
          | _ => valBlock (laneByte l 0) (laneByte l 1) code), fNone)
  else
    match c.readElems fill fp f.oa s n with
    | .error e => .error e
    | .ok (c1, l, fl) => .ok (c1, l.map fun e => (e, valAny s (El.read f.vp e).b), fl)

/-- One element's conversion to a type that is not E2M1 (R111). -/
def cvtElem (s t : Ty) (m : RMode) (sat : Bool) (r : W32) (b : Nat) (v : Val) : Nat × Flags :=
  if s = .e2m1 then
    if t = .e8m0 then toE8M0 v else if isInt t then rint t m r v else rnd t m sat r v
  else convert s t m sat r b

/-- The five lanes of a block of E2M1 elements, bytes 18 and 19 zero (R61, R111). -/
def blockLanes (sc : Nat) (codes : List Nat) : List W32 :=
  let b : List Byte := [BitVec.ofNat 8 sc, 0] ++ ((List.range 16).map fun k =>
    BitVec.ofNat 8 (codes.getD (2 * k) 0 + 16 * codes.getD (2 * k + 1) 0)) ++ [0, 0]
  wordsOf b

/-- FCVT. -/
def fcvtWork (f : M3) : Work := fun c fill => do
  let t := c.ty f.ty
  let fp := fpOf f.ln
  let (s, up) := (c.cvtSource f.fn).getD (.px, false)
  let n := cvtCount f t
  c.checkLocals fp [(f.od, 4 * cvtLanes (cvtBytes t n), 4), (f.oa, 4 * cvtLanes (cvtBytes s n), 4)]
  let m := c.effrm f.rm
  let sat := c.effsat (cvtUses f)
  let (c1, xs, ifl) ← c.cvtRead fill f fp s up n
  let (rs, c2) := c1.randoms (c.stochastic f.rm) n
  if t = .e2m1 then
    let ok := xs.all fun x => (El.read f.vp x.1).v
    let o := toBlock m (xs.map (·.2)) rs
    let sn := if isFloat s then (xs.map fun x => snanFlags s [(El.read f.vp x.1).b]).foldl (· ||| ·) fNone else fNone
    let ws := blockLanes o.1 o.2.1
    let w := c2.writeLanes fp f.od (ws.map fun x => ⟨x, if ok then BitVec.allOnes 32 else 0, ok⟩)
    return ((w.1.opIncs fp [f.od, f.oa]).orFlags (if ok then o.2.2 ||| sn ||| ifl else fNone), w.2)
  else
    let res := (List.range n).map fun e =>
      let x := xs.getD e (⟨0, false⟩, .nan)
      combine f.vp [x.1] fun l => cvtElem s t m sat (rs.getD e 0) (arg l 0) x.2
    let fl := flagsOf res ||| (if res.any (·.1.v) then ifl else fNone)
    let w := c2.writeElems fp f.od t (res.map (·.1))
    return ((w.1.opIncs fp [f.od, f.oa]).orFlags fl, w.2)

/-- FCVT. -/
def execFcvt (f : M3) (s : State) : Out :=
  coreRow (.fcvt f) (fun c => ⟨f.sp, cvtUses f, cvtLegal f c, usesOf [f.od, f.oa]⟩) (onOwnCore (fcvtWork f)) s

end Sys2Proof.Machine
end

