-- ==== Sys2Proof/Machine/Matrix.lean ====
section
/-! DEFINITION. The matrix engine: descriptors (R129, R130), issue of its commands and MXWAIT (R131 to R133, R141), the
slot table (R126, R127), and the run, completion and halt of a command (R72, R122 to R124, R134 to R143). -/

namespace Sys2Proof.Machine
open Sys2Proof.Machine.Num

/-! ### Tiles (R123, R124) -/

def Tile.get (t : Tile) (i j : Nat) : Nat := (KV.get (0 : W32) t.data (128 * i + j)).toNat

def Tile.put (t : Tile) (i j v : Nat) : Tile := { t with data := KV.putD (0 : W32) (128 * i + j) (BitVec.ofNat 32 v) t.data }

/-- The active elements, row-major (R123). -/
def Tile.active (t : Tile) : List (Nat × Nat) :=
  (List.range t.tm).flatMap fun i => (List.range t.tn).map fun j => (i, j)

/-- Write every active element and clear its poison (R444). -/
def Tile.fillWith (t : Tile) (f : Nat → Nat → Nat) : Tile :=
  { t.active.foldl (fun t p => t.put p.1 p.2 (f p.1 p.2)) t with
    poison := t.poison.filter fun k => !(decide (k / 128 < t.tm) && decide (k % 128 < t.tn)) }

/-- An active element is poisoned (R444). -/
def Tile.poisoned (t : Tile) : Bool := t.poison.any fun k => decide (k / 128 < t.tm) && decide (k % 128 < t.tn)

def Mxe.tile (x : Mxe) (k : BitVec 2) : Tile := x.tiles.getD k.toNat Tile.reset

def Mxe.setTile (x : Mxe) (k : BitVec 2) (t : Tile) : Mxe := { x with tiles := x.tiles.set! k.toNat t }

/-! ### Binds and MXRP (R125, R142) -/

def bindV (w : W32) : Bool := w.getLsbD 31
def bindMask (w : W32) : BitVec 4 := w.extractLsb' 16 4
def bindAsid (w : W32) : W16 := w.extractLsb' 0 16

/-- The bind a region holds. -/
def Mxe.bindOf (x : Mxe) (rid : W16) : Option Nat :=
  (List.range 16).find? fun b => bindV (x.bind.getD b 0) && x.rid.getD b 0 == rid

/-- The bind owns a tile. -/
def Mxe.owns (x : Mxe) (b : Nat) (k : BitVec 2) : Bool := (bindMask (x.bind.getD b 0)).getLsbD k.toNat

def Mxe.mxrp (x : Mxe) (b : Nat) : W32 := KV.get 0 x.rp b
def Mxe.rows (x : Mxe) (b : Nat) : Nat := ((x.mxrp b).extractLsb' 0 16).toNat
def Mxe.hlt (x : Mxe) (b : Nat) : Bool := (x.mxrp b).getLsbD 31
def Mxe.setRp (x : Mxe) (b : Nat) (v : W32) : Mxe := { x with rp := KV.putD 0 b v x.rp }
def Mxe.setRows (x : Mxe) (b k : Nat) : Mxe := x.setRp b (putField (x.mxrp b) 0 16 k)
def Mxe.setAt (x : Mxe) (b : Nat) (k : BitVec 2) : Mxe := x.setRp b (putField (x.mxrp b) 16 2 k.toNat)
def Mxe.setHlt (x : Mxe) (b : Nat) (v : Bool) : Mxe := x.setRp b (putField (x.mxrp b) 31 1 v.toNat)

/-- Commands queued for a bind, oldest first. -/
def Mxe.queued (x : Mxe) (b : Nat) : List MxCmd := KV.get [] x.inbox b

def Mxe.setQueued (x : Mxe) (b : Nat) (l : List MxCmd) : Mxe := { x with inbox := KV.putD [] b l x.inbox }

/-- Writing 1 to HLT discards the halted command, or the halted stream, and clears ROWS (R143, R173). -/
def Mxe.discardHalted (x : Mxe) (b : Nat) : Mxe :=
  if x.hlt b then
    let x := (x.setHlt b false).setRows b 0
    { x with
      halted := KV.del b x.halted
      stream := match x.stream with
        | some t => if t.bind = b ∧ t.state = 4 then some { t with state := 0 } else some t
        | none => none }
  else x

/-! ### Operand descriptors (R129, R130) -/

structure Desc where
  base : W64
  rstr : Nat
  rows : Nat
  cols : Nat
  trn : Bool
  evf : Bool
  deriving DecidableEq, Repr

/-- Bytes of an element in memory; a column of E2M1 blocks is aligned to 2 (R130). -/
def esz (t : Ty) : Nat := if t = .e2m1 then 2 else width t / 8

/-- Bytes of n elements of a memory row. -/
def rowBytes (t : Ty) (n : Nat) : Nat := if t = .e2m1 then 18 * ((n + 31) / 32) else esz t * n

/-- The descriptor in 16 captured words; none where malformed. `e2`: TRN an E2M1 operand must have in its role. -/
def descOf (l : List Lane) (t : Ty) (e2 dest : Bool) : Option Desc :=
  let w (i : Nat) : W32 := (l.getD i ⟨0, false⟩).w
  let d : Desc := ⟨w 1 ++ w 0, (w 2).toNat, ((w 3).extractLsb' 0 16).toNat, ((w 3).extractLsb' 16 16).toNat,
    (w 4).getLsbD 0, (w 4).getLsbD 1⟩
  if (l.take 16).any (fun x => !x.v) || l.length < 16 || (w 4).extractLsb' 2 30 != 0 ||
      ((l.take 16).drop 5).any (fun x => x.w != 0) || d.rstr == 0 || d.rows == 0 || d.cols == 0 ||
      !canonical d.base || d.base.toNat % esz t != 0 || d.rstr % esz t != 0 ||
      (t == .e2m1 && (d.trn != e2 || decide (d.rstr < rowBytes t d.cols))) ||
      (dest && decide (d.rstr < rowBytes t d.cols)) then none
  else some d

/-- Logical rows and columns (R129). -/
def Desc.lr (d : Desc) : Nat := if d.trn then d.cols else d.rows
def Desc.lc (d : Desc) : Nat := if d.trn then d.rows else d.cols

/-- Address of byte k of a memory row. -/
def Desc.at (d : Desc) (row k : Nat) : W64 := d.base + BitVec.ofNat 64 (row * d.rstr + k)

/-- Bytes of the first n elements of E2M1 blocks: of a last block that is not full, its scale and the codes in use (R61,
R129). -/
def blockBytes (n : Nat) : Nat := 18 * (n / 32) + if n % 32 = 0 then 0 else 2 + (n % 32 + 1) / 2

/-- Place and length, within a memory row, of the bytes that hold columns c0 … c1 − 1. -/
def rowSpan (t : Ty) (c0 c1 : Nat) : Nat × Nat :=
  if t = .e2m1 then (18 * (c0 / 32), blockBytes (c1 - c0 / 32 * 32)) else (esz t * c0, esz t * (c1 - c0))

/-- Bytes as elements of `n` bytes each. -/
def patsOf (n : Nat) (b : List Byte) : List Nat := (List.range (b.length / n)).map fun k => fieldOf b (n * k) n

/-- The 32 values of a block of 18 bytes (R61). -/
def blockVals (b : List Byte) : List Val :=
  (List.range 32).map fun j =>
    let c := (b.getD (2 + j / 2) 0).toNat / (if j % 2 = 0 then 1 else 16) % 16
    valBlock (b.getD 0 0).toNat (b.getD 1 0).toNat c

/-- The values of columns c0 … c1 − 1 from their bytes. -/
def rowVals (t : Ty) (c0 c1 : Nat) (b : List Byte) : List Val :=
  if t = .e2m1 then
    (((List.range ((b.length + 17) / 18)).flatMap fun k => blockVals ((b.drop (18 * k)).take 18)).drop (c0 % 32)).take (c1 - c0)
  else (patsOf (esz t) b).map (val t)

/-- Read the same columns of several memory rows. -/
def State.readRows (s : State) (x : EngFor) (t : Ty) (d : Desc) (ef : Bool) (c0 c1 : Nat) :
    List Nat → Except EngErr (List (List Byte) × State)
  | [] => .ok ([], s)
  | r :: l => do
    let (b, s1) ← s.engBytes x .r ef (d.at r (rowSpan t c0 c1).1) (rowSpan t c0 c1).2
    let (bs, s2) ← s1.readRows x t d ef c0 c1 l
    return (b :: bs, s2)

/-- Transpose rows of n elements. -/
def transpose {α : Type} (z : α) (n : Nat) (l : List (List α)) : List (List α) :=
  (List.range n).map fun j => l.map fun r => r.getD j z

/-- Logical rows [r0, r1), columns [c0, c1) as values, by rows. -/
def State.readGrid (s : State) (x : EngFor) (t : Ty) (d : Desc) (r0 r1 c0 c1 : Nat) :
    Except EngErr (List (List Val) × State) := do
  if d.trn then
    let (b, s1) ← s.readRows x t d d.evf r0 r1 ((List.range (c1 - c0)).map (c0 + ·))
    return (transpose .nan (r1 - r0) (b.map (rowVals t r0 r1)), s1)
  else
    let (b, s1) ← s.readRows x t d d.evf c0 c1 ((List.range (r1 - r0)).map (r0 + ·))
    return (b.map (rowVals t c0 c1), s1)

/-! ### Chunks (R72, R122) -/

/-- Elements of K in one chunk (R72). -/
def chunkOf (t : Ty) : Nat :=
  match t with
  | .e2m1 => 128
  | .e4m3 => 64
  | .e5m2 => 64
  | _ => 32

/-- Operand pairs of R136. -/
def mmaPair (a b : Ty) : Bool :=
  (a == .bf16 && b == .bf16) || (a == .f16 && b == .f16) ||
  ((a == .e4m3 || a == .e5m2) && (b == .e4m3 || b == .e5m2)) || (a == .e2m1 && b == .e2m1)

/-- One chunk applied to every active element: `a` by rows, `b` by columns (R72, R122). -/
def Tile.chunk (t : Tile) (a b : List (List Val)) : Tile × Flags :=
  t.active.foldl (fun r p =>
    let sum := sumProducts (List.zipWith mulV (a.getD p.1 []) (b.getD p.2 []))
    let o := accadd (t.get p.1 p.2) sum.1
    (r.1.put p.1 p.2 o.1, r.2 ||| o.2 ||| sum.2)) (t, fNone)

/-! ### The epilogue (R139, R140) -/

/-- A row of FP32 patterns quantized to a type with the generator's state (R139): bytes, flags, state. A signalling NaN that
is rounded to another floating type sets NV (R60, R66). -/
def quantizeRow (t : Ty) (m : RMode) (sat sr : Bool) (seed : W32) (row : List Nat) : List Byte × Flags × W32 :=
  let n := if t = .e2m1 then 32 * ((row.length + 31) / 32) else row.length
  let (rs, seed1) := if sr then draws n seed else (List.replicate n 0, seed)
  if t = .f32 then (row.flatMap (leBytes 4), fNone, seed1)
  else if t = .e2m1 then
    let o := (List.range (n / 32)).map fun k =>
      let vs := (((row.drop (32 * k)).take 32).map (val .f32) ++ List.replicate 32 (Val.fin false 0 0 : Val)).take 32
      let z := toBlock m vs ((rs.drop (32 * k)).take 32)
      let live := min 32 (row.length - 32 * k)
      let codes := (z.2.1.take live ++ List.replicate 32 0).take 32
      ([BitVec.ofNat 8 z.1, (0 : Byte)] ++ (List.range 16).map (fun j =>
        BitVec.ofNat 8 (codes.getD (2 * j) 0 + 16 * codes.getD (2 * j + 1) 0)), z.2.2)
    (o.flatMap (·.1), o.foldl (fun f x => f ||| x.2) fNone, seed1)
  else
    let o := (row.zip rs).map fun x =>
      if isInt t then rint t m x.2 (val .f32 x.1)
      else let y := rnd t m sat x.2 (val .f32 x.1); (y.1, y.2 ||| snanFlags .f32 [x.1])
    (o.flatMap fun y => leBytes (esz t) y.1, o.foldl (fun f y => f ||| y.2) fNone, seed1)

/-- Several rows in order. -/
def quantizeRows (t : Ty) (m : RMode) (sat sr : Bool) : W32 → List (List Nat) → List (List Byte) × Flags × W32
  | seed, [] => ([], fNone, seed)
  | seed, r :: l =>
    let a := quantizeRow t m sat sr seed r
    let b := quantizeRows t m sat sr a.2.2 l
    (a.1 :: b.1, a.2.1 ||| b.2.1, b.2.2)

/-- Scale and bias of one element (R139). -/
def epilogueStep (v : Nat) (sc b : Option Nat) : Nat × Flags :=
  match sc, b with
  | some x, some y => ffma .f32 false .rne 0 v x y
  | some x, none => fmul .f32 .rne 0 v x
  | none, some y => fadd .f32 .rne 0 v y
  | none, none => (v, fNone)

/-! ### Entitlement to a slot (R126, R127, R144, R167) -/

/-- Slot of a moment: 4 µs of 6,000 rc, 16 to a frame (R126). -/
def slotAt (now : Nat) : Nat := now / 6000 % 16

def slotUsed (w : W32) : Bool := w.getLsbD 4
def slotStrict (w : W32) : Bool := w.getLsbD 5
def slotBind (w : W32) : Nat := (w.extractLsb' 0 4).toNat

/-- A region is shed on a chiplet (R380, R381). -/
def State.shedOn (s : State) (n : Nat) (rid : W16) : Bool :=
  match s.region rid with
  | some r => decide (r.shc ≠ 0) && (s.chip n).notice.shm.getLsbD r.shc
  | none => false

/-- The bind's stream is in RUN or WAIT (R167). -/
def Mxe.streaming (x : Mxe) (b : Nat) : Bool :=
  match x.stream with
  | some t => t.bind == b && (t.state == 1 || t.state == 2)
  | none => false

/-- A command of the weight-stream sequencer (R166, R169). -/
def isStreamOp (op : Nat) : Bool := op == 0xB3 || op == 0xB5

/-- A stopped stream of the bind lets only a stream command pass (R166, R167). -/
def Mxe.stopped (x : Mxe) (b : Nat) : Bool :=
  (match x.stream with
  | some t => t.bind == b && t.state == 3
  | none => false) && (match x.queued b with
  | c :: _ => !isStreamOp c.op
  | [] => true)

/-- A bind has a command it may run: its region is not shed nor its slots withdrawn (R144, R354), no stream of its own holds it
back (R127, R144, R167). -/
def State.runnable (s : State) (m b : Nat) : Bool :=
  let x := s.mxe m
  bindV (x.bind.getD b 0) && !x.held.getLsbD b && !x.streaming b && !x.stopped b && !s.shedOn (m / 4) (x.rid.getD b 0) &&
    (!(x.queued b).isEmpty || x.susp.any (fun r => r.bind == b) || match x.run with
      | some r => r.bind == b
      | none => false)

/-- The current slot lets a bind run: its own, a free one, or one whose owner is idle and lends it; once the slot has ended
nothing more starts in it (R127). -/
def State.entitled (s : State) (m b : Nat) : Bool :=
  let x := s.mxe m
  let w := x.slot.getD (slotAt s.now) 0
  slotAt s.now == x.curSlot && s.runnable m b && (!slotUsed w || slotBind w == b ||
    (!slotStrict w && !s.runnable m (slotBind w) && !x.streaming (slotBind w)))

/-- The bind whose command runs next: the owner, or round robin after the bind last lent to (R127). -/
def State.nextBind (s : State) (m : Nat) : Option Nat :=
  let x := s.mxe m
  let w := x.slot.getD (slotAt s.now) 0
  if slotUsed w && s.entitled m (slotBind w) then some (slotBind w)
  else ((List.range 16).map fun k => (x.lastLent + 1 + k) % 16).find? (s.entitled m)

/-- Note a bind to which a slot is lent (R127). -/
def State.noteLent (s : State) (m b : Nat) : State :=
  let x := s.mxe m
  let w := x.slot.getD (slotAt s.now) 0
  if slotUsed w && slotBind w == b then s else s.setMxe m { x with lastLent := b }

/-! ### Start (R136 to R139, R143) -/

/-- Statuses of a matrix command (R134). -/
def stsDesc : Byte := 0x40
def stsShape : Byte := 0x41
def stsOwner : Byte := 0x42
def stsAbort : Byte := 0x43

/-- A status that halts its bind. -/
def stsHalts (b : Byte) : Bool := b == 0x05 || b == 0x08 || b == 0x09 || b == 0x0B || b == 0x10

/-- For whom a command works: through pipe 0, pipe 1 or the sequencer (2) of engine m (R121, R147). -/
def MxCmd.for (c : MxCmd) (m pipe : Nat) : EngFor :=
  ⟨m / 4, c.core, c.asid, c.user, .unit (3 * (m % 4) + pipe), cmdId c.core c.seq⟩

def MxCmd.first (c : MxCmd) : List Lane := c.block.take 16
def MxCmd.second (c : MxCmd) : List Lane := c.block.drop 16

/-- The epilogue record of ASTORE (R139): ACT, BIA, SCL, BVA, SVA; none where malformed. An invalid captured word counts as
malformed here and in the reserved bytes of ALOAD, as R130 has it for descriptors (DESIGN CHOICE, log 103). -/
def epilogueOf (l : List Lane) : Option (Nat × Option W64 × Option W64) :=
  let w (i : Nat) : W32 := (l.getD i ⟨0, false⟩).w
  let act := ((w 4).extractLsb' 2 3).toNat
  let bva : W64 := w 3 ++ w 2
  let sva : W64 := w 1 ++ w 0
  let bia := (w 4).getLsbD 1
  let scl := (w 4).getLsbD 0
  if (l.take 16).any (fun x => !x.v) || (w 4).extractLsb' 5 27 != 0 || ((l.take 16).drop 5).any (fun x => x.w != 0) ||
      decide (3 < act) || (bia && bva.toNat % 4 != 0) || (scl && sva.toNat % 4 != 0) then none
  else some (act, if bia then some bva else none, if scl then some sva else none)

/-- The shape a command demands or sets; none where its block is malformed (R130, R136, R137, R139). -/
def MxCmd.shape (c : MxCmd) : Option (Nat × Nat) :=
  if c.op = 0xA9 ∨ c.op = 0xAA then
    match descOf c.first c.ty false false, descOf c.second c.tb true false with
    | some a, some b => if a.lc = b.lr ∧ a.lr ≤ 128 ∧ b.lc ≤ 128 then some (a.lr, b.lc) else none
    | _, _ => none
  else if c.op = 0xAB then
    match descOf c.first c.ty false false with
    | some a => if a.lr ≤ 128 ∧ a.lc ≤ 128 ∧ c.second.all (fun x => x.v && x.w == 0) then some (a.lr, a.lc) else none
    | none => none
  else if c.op = 0xAC then
    match descOf c.first c.ty false true, epilogueOf c.second with
    | some a, some _ => some (a.lr, a.lc)
    | _, _ => none
  else some ((c.pn.extractLsb' 0 7).toNat + 1, (c.pn.extractLsb' 8 7).toNat + 1)

/-- A command taken from its inbox becomes the command in hand, its checks made (R136 to R139). -/
def Mxe.begin (x : Mxe) (b : Nat) (c : MxCmd) : Mxe :=
  let ends (x : Mxe) (f : Byte) : Mxe := { x with run := some ⟨c, b, 0, 0, some f, 0⟩ }
  match c.shape with
  | none => ends x stsDesc
  | some (tm, tn) =>
    if !x.owns b c.tile then ends x stsOwner
    else
      let t := x.tile c.tile
      let shaped : Tile := { t with tm := tm, tn := tn }
      let x1 := x.setAt b c.tile
      if c.op = 0xAD then ends (x1.setTile c.tile (shaped.fillWith fun _ _ => 0)) 0
      else if c.op = 0xAB then { x1 with run := some ⟨c, b, 0, 0, none, 0⟩ }
      else if c.op = 0xAA ∧ !c.rs then
        { (x1.setTile c.tile (shaped.fillWith fun _ _ => 0)).setRows b 0 with run := some ⟨c, b, 0, 0, none, 0⟩ }
      else if (tm, tn) ≠ (t.tm, t.tn) then ends x stsShape
      else if c.op = 0xA9 ∧ !c.rs then { x1.setRows b 0 with run := some ⟨c, b, 0, 0, none, 0⟩ }
      else { x1 with run := some ⟨c, b, if c.op = 0xAC then 0 else x.rows b, 0, none, 0⟩ }

/-- Take the head of a bind's inbox (R143). A resumed command keeps what the halted one captured and works for the core
that resumes it (DEDUCED, log 20). -/
def Mxe.take (x : Mxe) (b : Nat) (c : MxCmd) : Mxe :=
  let ends (x : Mxe) (f : Byte) : Mxe := { x with run := some ⟨c, b, 0, 0, some f, 0⟩ }
  if c.abort then ends x stsAbort
  else if c.rs then
    match x.hlt b, KV.find x.halted b with
    | true, some h =>
      if h.cmd.op = c.op ∧ h.cmd.tile = c.tile ∧ h.cmd.ty = c.ty ∧ h.cmd.tb = c.tb then
        { x.setHlt b false with halted := KV.del b x.halted }.begin b
          { c with
            user := h.cmd.user, block := h.cmd.block, pn := h.cmd.pn, mode := h.cmd.mode, sat := h.cmd.sat, seed := h.cmd.seed }
      else ends x stsDesc
    | _, _ => ends x stsDesc
  else if x.hlt b then ends x stsAbort
  else x.begin b c

/-- MXE_COMMAND_START: a suspended command goes on, or the head of the inbox starts (R127, R128). -/
def State.mxeStart (s : State) (m : Nat) : State :=
  let x := s.mxe m
  if x.run.isSome then s
  else match s.nextBind m with
    | none => s
    | some b =>
      match x.susp.find? fun r => r.bind == b with
      | some r => (s.setMxe m { x with run := some r, susp := x.susp.filter fun q => q.bind != b }).noteLent m b
      | none => match x.queued b with
        | [] => s
        | c :: l =>
          if isStreamOp c.op && !c.abort then s
          else (s.setMxe m ((x.setQueued b l).take b c)).noteLent m b

/-- MXE_COMMAND_START. -/
def execMxeCommandStart (m : Nat) (s : State) : Out := onEngine m s fun s => s.mxeStart m

/-! ### Chunks and whole transfers -/

/-- One chunk of MMA or MMAZ (R136): the engine with the chunk applied, the flags, and whether K is done. -/
def State.mmaChunk (s : State) (m : Nat) (r : MxRun) : Except EngErr (State × Flags × Nat × Bool) := do
  match descOf r.cmd.first r.cmd.ty false false, descOf r.cmd.second r.cmd.tb true false with
  | some a, some b =>
    let kend := min (r.k + chunkOf r.cmd.ty) a.lc
    let (av, s1) ← s.readGrid (r.cmd.for m 0) r.cmd.ty a 0 a.lr r.k kend
    let (bv, s2) ← s1.readGrid (r.cmd.for m 1) r.cmd.tb b r.k kend 0 b.lc
    let t := (s2.mxe m).tile r.cmd.tile
    if t.poisoned then throw (.eccu, 0)
    let o := t.chunk av (transpose .nan b.lc bv)
    return (s2.setMxe m (((s2.mxe m).setTile r.cmd.tile o.1).setRows r.bind kend), o.2, kend, decide (a.lc ≤ kend))
  | _, _ => return (s, fNone, r.k, true)

/-- The elements of one memory row of an ALOAD enter the tile: BF16 in the upper half (R137). -/
def Tile.loadRow (t : Tile) (ty : Ty) (d : Desc) (row : Nat) (l : List Nat) : Tile :=
  let places := l.zipIdx.map fun x => ((if d.trn then (x.2, row) else (row, x.2)), x.1 * if ty = .bf16 then 2 ^ 16 else 1)
  { places.foldl (fun t p => t.put p.1.1 p.1.2 p.2) t with
    poison := t.poison.filter fun k => !places.any fun p => 128 * p.1.1 + p.1.2 == k }

/-- ALOAD, one memory row after another: a fault stops it where it stands (R137, R143). -/
def State.aloadRows (s : State) (m : Nat) (r : MxRun) (d : Desc) : List Nat → State × Option EngErr
  | [] => (s, none)
  | k :: l =>
    match s.engBytes (r.cmd.for m 0) .r d.evf (d.at k 0) (rowBytes r.cmd.ty d.cols) with
    | .error e => (s, some e)
    | .ok (b, s1) =>
      (s1.setMxe m ((s1.mxe m).setTile r.cmd.tile
        (((s1.mxe m).tile r.cmd.tile).loadRow r.cmd.ty d k (patsOf (esz r.cmd.ty) b)))).aloadRows m r d l

/-- ALOAD: the shape, then the rows (R137). -/
def State.aloadRun (s : State) (m : Nat) (r : MxRun) : State × Option EngErr :=
  match descOf r.cmd.first r.cmd.ty false false with
  | none => (s, none)
  | some d =>
    (s.setMxe m ((s.mxe m).setTile r.cmd.tile { (s.mxe m).tile r.cmd.tile with tm := d.lr, tn := d.lc })).aloadRows m r d
      (List.range d.rows)

/-- A vector of FP32 patterns of the epilogue, where present. -/
def State.readVec (s : State) (x : EngFor) (a : Option W64) (n : Nat) : Except EngErr (Option (List Nat) × State) :=
  match a with
  | none => .ok (none, s)
  | some va => do
    let (b, s1) ← s.engBytes x .r false va (4 * n)
    return (some (patsOf 4 b), s1)

/-- Store rows of bytes at a destination descriptor, in ascending address; a fault stops the stores where they stand (R135,
R143). -/
def State.writeRows (s : State) (x : EngFor) (cmd : MxCmd) (d : Desc) : List (Nat × List Byte) → State × Option EngErr
  | [] => (s, none)
  | (r, b) :: l =>
    match s.engWrite x cmd d.evf (d.at r 0) b with
    | .error e => (s, some e)
    | .ok s1 => s1.writeRows x cmd d l

/-- Scale, bias and activation of a tile by rows (R139, R140); with no step, the tile's own patterns. -/
def epilogueRows (t : Tile) (act : Nat) (sv bv : Option (List Nat)) : List (List Nat) × Flags :=
  let rows := (List.range t.tm).map fun i => (List.range t.tn).map fun j =>
    epilogueStep (t.get i j) (sv.map fun l => l.getD j 0) (bv.map fun l => l.getD j 0)
  (rows.map fun r => r.map fun x => if act = 0 then x.1 else actF act x.1, rows.foldl (fun f r => r.foldl (fun f x => f ||| x.2) f) fNone)

/-- The scale and bias vectors of an ASTORE, from a tile whose elements are sound (R139, R444). -/
def State.astoreVecs (s : State) (m : Nat) (r : MxRun) (bva sva : Option W64) :
    Except EngErr ((Option (List Nat) × Option (List Nat)) × State) := do
  let t := (s.mxe m).tile r.cmd.tile
  if t.poisoned then throw (.eccu, 0)
  let (sv, s1) ← s.readVec (r.cmd.for m 1) sva t.tn
  let (bv, s2) ← s1.readVec (r.cmd.for m 1) bva t.tn
  return ((sv, bv), s2)

/-- ASTORE (R139): the state, the flags, and the fault that stops it. -/
def State.astoreRun (s : State) (m : Nat) (r : MxRun) : State × Flags × Option EngErr :=
  match descOf r.cmd.first r.cmd.ty false true, epilogueOf r.cmd.second with
  | some d, some (act, bva, sva) =>
    let t := (s.mxe m).tile r.cmd.tile
    match s.astoreVecs m r bva sva with
    | .error e => (s, fNone, some e)
    | .ok ((sv, bv), s2) =>
    let e := epilogueRows t act sv bv
    let q := quantizeRows r.cmd.ty r.cmd.mode r.cmd.sat (r.cmd.mode == .sr) r.cmd.seed e.1
    let rows := if d.trn then
        let n := esz r.cmd.ty
        (List.range t.tn).map fun j => q.1.flatMap fun row => (row.drop (n * j)).take n
      else q.1
    let w := s2.writeRows (r.cmd.for m 0) r.cmd d (rows.zipIdx.map fun y => (y.2, y.1))
    (w.1, e.2 ||| q.2.1, w.2)
  | _, _ => (s, fNone, none)

/-- The class of charge of a chunk of the engine (R370). -/
def chunkClass (t : Ty) : Nat :=
  match t with
  | .e2m1 => 6
  | .e4m3 => 5
  | .e5m2 => 5
  | _ => 4

/-- The ramp limiter lets a chunk of 32 cycles start in this window (R146). -/
def Mxe.rampOk (x : Mxe) : Bool := decide (x.act + 32 ≤ x.actPrev + (x.ramp.extractLsb' 0 10).toNat)

/-- The command in hand is changed. -/
def State.setRun (s : State) (m : Nat) (r : MxRun) : State := s.setMxe m { s.mxe m with run := some r }

/-- The power rules of a chunk of the engine: charge and ramp, then the work; a chunk held back shows why (R146, R369,
R373). -/
def State.powered (s : State) (m cls : Nat) (work : State → State) : State :=
  if !(s.mxe m).rampOk then s.setPwr m { s.pwr m with thrrsn := (s.pwr m).thrrsn ||| 0x404 }
  else if !s.chargeOk m cls then s.chargeWait m
  else work ((s.charge m cls).setMxe m { s.mxe m with act := (s.mxe m).act + 32 })

/-- A command in hand: one chunk, or a whole ALOAD or ASTORE. A fault leaves the chunk unapplied, and stops ALOAD and ASTORE
where they stand (R122, R143). -/
def State.mxeChunk (s : State) (m : Nat) : State :=
  match (s.mxe m).run with
  | none => s
  | some r =>
    if r.sts.isSome || !s.entitled m r.bind then s
    else
      let stop (s : State) (e : EngErr) : State := s.setRun m { r with sts := some e.1.code, addr := e.2 }
      if r.cmd.op = 0xAB then
        match s.aloadRun m r with
        | (s1, some e) => stop s1 e
        | (s1, none) => s1.setRun m { r with sts := some 0 }
      else if r.cmd.op = 0xAC then
        match s.astoreRun m r with
        | (s1, _, some e) => stop s1 e
        | (s1, f, none) => s1.setRun m { r with sts := some 0, flags := r.flags ||| f }
      else s.powered m (chunkClass r.cmd.ty) fun s =>
        match s.mmaChunk m r with
        | .error e => stop s e
        | .ok (s1, f, k, fin) => s1.setRun m { r with k := k, flags := r.flags ||| f, sts := if fin then some 0 else none }

/-! ### Completion and halt (R134, R143) -/

/-- The record of a matrix command (R134). -/
def MxRun.record (r : MxRun) (rows : Nat) (sts : Byte) : Record :=
  ⟨[BitVec.ofNat 32 ((if r.cmd.rs then 2 ^ 18 else 0) + r.cmd.tile.toNat * 2 ^ 16 + r.cmd.op * 2 ^ 8 + sts.toNat),
    BitVec.ofNat 32 rows, r.flags.zeroExtend 32, r.cmd.seq], sts, r.flags⟩

/-- A command of an engine of chiplet n has ended: its words have landed and are written at their homes, its lines are
forgotten (R90, R135, R271, R272). -/
def State.endCmd (s : State) (n core : Nat) (seq : W32) : State :=
  ((s.modCore core fun c => c.landCmd (cmdId core seq)).landWrites (cmdId core seq)).dropLines n (cmdId core seq)

/-- Deliver a matrix command's record and note it for MXWAIT (R134, R141). -/
def State.mxDeliver (s : State) (m : Nat) (r : MxRun) (sts : Byte) : Option State :=
  let rcd := r.record ((s.mxe m).rows r.bind) sts
  ((s.endCmd (m / 4) r.cmd.core r.cmd.seq).deliverRecord r.cmd.outst r.cmd.seq r.cmd.asid (0x54 + m % 4) rcd).map fun t =>
    t.modCore r.cmd.core fun c => c.noteMx r.cmd.seq rcd

/-- MXE_COMPLETE. -/
def State.mxeFinish (s : State) (m : Nat) : State :=
  match (s.mxe m).run with
  | none => s
  | some r => match r.sts with
    | none => s
    | some f => if stsHalts f then s else match s.mxDeliver m r f with
      | none => s
      | some t => t.setMxe m { t.mxe m with run := none }

/-- MXE_COMPLETE. -/
def execMxeComplete (m : Nat) (s : State) : Out := onEngine m s fun s => s.mxeFinish m

/-- The commands then queued for a bind complete with ABORT (R143). -/
def Mxe.abortQueued (x : Mxe) (b : Nat) : Mxe := x.setQueued b ((x.queued b).map fun c => { c with abort := true })

/-- MXE_HALT (R143). -/
def State.mxeStop (s : State) (m : Nat) : State :=
  match (s.mxe m).run with
  | none => s
  | some r => match r.sts with
    | none => s
    | some f => if !stsHalts f then s else match s.mxDeliver m r f with
      | none => s
      | some t =>
        let x := ((t.mxe m).setHlt r.bind true).abortQueued r.bind
        (t.setMxe m { x with run := none, halted := KV.put r.bind { r with sts := none } x.halted }).reportHalt r.cmd.outst
          r.addr (r.record ((s.mxe m).rows r.bind) f)

/-- MXE_HALT. -/
def execMxeHalt (m : Nat) (s : State) : Out := onEngine m s fun s => s.mxeStop m

/-- MXE_SLOT_BOUNDARY: with its slot ended, and where it may run no longer, a command is kept suspended (R127, R144). -/
def State.mxeSlot (s : State) (m : Nat) : State :=
  let ended := slotAt s.now != (s.mxe m).curSlot
  let s := s.setMxe m { s.mxe m with curSlot := slotAt s.now }
  let x := s.mxe m
  match x.run with
  | none => s
  | some r =>
    if r.sts.isSome || (!ended && s.entitled m r.bind) then s
    else s.setMxe m { x with run := none, susp := x.susp ++ [r] }

/-- MXE_SLOT_BOUNDARY. -/
def execMxeSlotBoundary (m : Nat) (s : State) : Out := onEngine m s fun s => s.mxeSlot m

/-! ### The instructions (R131 to R133, R141) -/

/-- FN[3:0] as a type; code 0xF takes PX.PSTY (R133). -/
def Core.fnTy (c : Core) (fn : BitVec 10) : Ty :=
  if fn.extractLsb' 0 4 = 0xF then c.psty else Ty.ofCode (fn.extractLsb' 0 4)

/-- The opcode of a matrix instruction uses FN as a type. -/
def fnIsType (op : Nat) : Bool := op == 0xA9 || op == 0xAA

/-- A matrix instruction uses a prefix (R81, R133). -/
def mxUses (op : Nat) (f : EN) : Bool := f.ty == .px || (fnIsType op && f.fn.extractLsb' 0 4 == 0xF)

/-- Types ASTORE puts out (R139). -/
def outTy (t : Ty) : Bool :=
  t == .f32 || t == .bf16 || t == .f16 || t == .e4m3 || t == .e5m2 || t == .e2m1 || t == .i8

/-- Field rules of a matrix instruction (R131, R132, R136 to R139). -/
def mxLegal (op : Nat) (f : EN) (c : Core) : Bool :=
  let t := c.ty f.ty
  let rs := f.opt.getLsbD 2
  f.opt.extractLsb' 3 13 == 0 && f.sel == 0 && cpForm f.cp &&
    (if op = 0xAD then isRegOp f.cb && !rs else if rs then f.cb == .imm 0 else isMem f.cb) &&
    (if fnIsType op then f.fn.extractLsb' 4 6 == 0 && mmaPair t (c.fnTy f.fn) else f.fn == 0) &&
    (if op = 0xAB then t == .f32 || t == .bf16 else if op = 0xAC then outTy t else if op = 0xAD then t == .i8 else true)

/-- Put a command into the inbox of its region's bind: PRIV without one, a stall while it is full (R128, R133). -/
def State.enterBind (s : State) (g : Nat) (c : MxCmd) : Except Exn State :=
  let m := clusterOfCore g
  let x := s.mxe m
  match x.bindOf c.rid with
  | none => .error (.flt .priv 0)
  | some b =>
    if 16 ≤ (x.queued b).length then .error .stall
    else .ok (s.setMxe m (x.setQueued b (x.queued b ++ [c])))

/-- A command of the running activation with the parts that differ between opcodes zero. -/
def Core.mxCmd (c : Core) (g op : Nat) (cp : Cp) : MxCmd where
  op := op
  core := g
  rid := c.actRid
  asid := c.asid
  user := c.user
  ty := .i8
  tb := .i8
  tile := 0
  rs := false
  block := []
  pn := 0
  cp := cp
  mode := c.effrm .fm
  sat := c.effsat false
  seed := 0
  seq := c.cseq
  key := c.actKey.1
  lcn := c.actKey.2
  phg := recPhg c.curRec
  pos := c.pos
  abort := false

/-- What issue leaves in the core: the generator stepped, post-increments, the sequence number, one program-order
position taken, irrevocable (R83, R133). -/
def Core.issued (c : Core) (l : List Operand) : Core := { ((c.opIncs 4 l).takeSeq).makeIrrev with pos := c.pos + 1 }

/-- Issue of MMA, MMAZ, ALOAD, ASTORE and ACLR (R133). -/
def mxBody (op : Nat) (f : EN) (s : State) : Except Exn Res := do
  let g := s.self
  let c := s.core g
  let (c1, block) ← if isMem f.cb then c.readBlock f.cb 128 else .ok (c, [])
  let cp ← s.checkCp g f.cp
  let (seed, c2) := c1.takeSeed (op == 0xAC)
  let cmd := { c.mxCmd g op cp with
    ty := c.ty f.ty, tb := if fnIsType op then c.fnTy f.fn else .i8, tile := f.opt.extractLsb' 0 2
    rs := f.opt.getLsbD 2, block := block, pn := if op = 0xAD then c.preg (regOf f.cb) else 0
    sat := c.effsat (mxUses op f), seed := seed }
  let s1 ← s.enterBind g cmd
  return .done ((s1.countCp g cp).modCore g fun _ => c2.issued [f.cb, f.cp])

/-- A matrix row. -/
def mxRow (i : Instr) (op : Nat) (f : EN) (s : State) : Out :=
  coreRow i (shapeEn f (fun _ => mxUses op f) (mxLegal op f)) (mxBody op f) s

/-- MMA. -/
def execMma (f : EN) (s : State) : Out := mxRow (.mma f) 0xA9 f s

/-- MMAZ. -/
def execMmaz (f : EN) (s : State) : Out := mxRow (.mmaz f) 0xAA f s

/-- ALOAD. -/
def execAload (f : EN) (s : State) : Out := mxRow (.aload f) 0xAB f s

/-- ASTORE. -/
def execAstore (f : EN) (s : State) : Out := mxRow (.astore f) 0xAC f s

/-- ACLR. -/
def execAclr (f : EN) (s : State) : Out := mxRow (.aclr f) 0xAD f s

/-- MXWAIT (R141). -/
def mxwaitBody (f : M3) (s : State) : Except Exn Res := do
  let g := s.self
  let c := s.core g
  if f.fn = 1 then c.checkLocals 4 [(f.od, 4, 4)]
  if s.mxCount g ≠ 0 then throw .stall
  let sts := match c.mxBad with
    | some x => x.2.toNat
    | none => 0
  let c1 := c.orFlags c.mxFlags
  let c2 := if f.fn = 1 then ((c1.writeElems 4 f.od .u32 [⟨sts, true⟩]).1).opIncs 4 [f.od] else c1
  return .done (s.setCore g { c2 with mxFlags := 0, mxBad := none })

/-- MXWAIT. -/
def execMxwait (f : M3) (s : State) : Out :=
  coreRow (.mxwait f) (shapeM3 f fun t => fixedM3 f t .u32 0 && decide (f.fn.toNat ≤ 1) && absent [f.oa, f.ob, f.oc] &&
    (if f.fn = 1 then oneDst f.od else f.od == .zero)) (mxwaitBody f) s

/-! ### FENCE (R229) -/

/-- The block of a command that has not started: one that resumes takes the halted command's (R143). -/
def State.blockOf (s : State) (m : MxCmd) : List Lane :=
  let x := s.mxe (clusterOfCore m.core)
  match m.rs && m.block.isEmpty, (x.bindOf m.rid).bind (KV.find x.halted) with
  | true, some h => h.cmd.block
  | _, _ => m.block

/-- Homes of the IMMEDIATE bytes an ASTORE whose stores are not done is to store to. -/
def State.astoreHomes (s : State) (m : MxCmd) : List Nat :=
  match m.op, descOf ((s.blockOf m).take 16) m.ty false true with
  | 0xAC, some d => (List.range d.rows).flatMap fun r =>
    match s.engPieces (m.for (clusterOfCore m.core) 0) .w .current (chunks 64 (d.at r 0) (rowBytes m.ty d.cols)) with
    | .ok l => (segsOf l).filterMap fun x => if x.imm then some x.home else none
    | .error _ => []
  | _, _ => []

/-- FENCE: waits for accesses and ASTORE stores to IMMEDIATE pages within the scope (R229). -/
def fenceBody (f : M3) (s : State) : Except Exn Res :=
  let g := s.self
  if (s.core g).pend.any (fun p => p.homes.any (inScope f.fn (g / 64))) ||
      (s.mxOpen g).any (fun m => (s.astoreHomes m).any (inScope f.fn (g / 64))) then .error .stall
  else .ok (.done s)

/-- FENCE. -/
def execFence (f : M3) (s : State) : Out :=
  coreRow (.fence f) (shapeM3 f fun t => fixedM3 f t .i8 0 && decide (f.fn.toNat ≤ 3) && absent [f.od, f.oa, f.ob, f.oc])
    (fenceBody f) s

end Sys2Proof.Machine
end

