-- ==== Sys2Proof/Machine/Copy.lean ====
section
/-! DEFINITION. The copy engine (R266 to R284): command blocks, source streams and destinations, transforms, distribution,
completion, follow-ons and publication. -/

namespace Sys2Proof.Machine
open Sys2Proof.Machine.Num

/-! ### The command block (R268) -/

structure CopyHead where
  sva : W64
  dva : W64
  x0 : Nat
  n1 : Nat
  n2 : Nat
  n3 : Nat
  lrh : Nat
  ss1 : Int
  ss2 : Int
  ss3 : Int
  ds1 : Int
  ds2 : Int
  ds3 : Int
  xop : Nat
  xa : Nat
  cfl : W16
  foff : Nat
  dmod : W16
  skip : Nat
  deriving DecidableEq, Repr

/-- Bytes of captured lanes; an invalid word counts as zero bits (DEDUCED, log 21). -/
def CopyCmd.bytes (c : CopyCmd) : List Byte := payloadBytes c.block

/-- The fields of 64 bytes. -/
def CopyHead.of (b : List Byte) : CopyHead :=
  let f (k n : Nat) : Nat := fieldOf b k n
  let i (k : Nat) : Int := Num.toInt true 32 (f k 4)
  ⟨BitVec.ofNat 64 (f 0 8), BitVec.ofNat 64 (f 8 8), f 16 4, f 20 2, f 22 2, f 24 2, f 26 2, i 28, i 32, i 36, i 40, i 44,
    i 48, f 52 1, f 53 1, BitVec.ofNat 16 (f 54 2), f 56 2, BitVec.ofNat 16 (f 58 2), f 60 4⟩

def CopyCmd.head (c : CopyCmd) : CopyHead := CopyHead.of c.bytes

/-- CFL (R268). -/
def CopyHead.shd (h : CopyHead) : Bool := h.cfl.getLsbD 0
def CopyHead.pub (h : CopyHead) : Bool := h.cfl.getLsbD 1
def CopyHead.ord (h : CopyHead) : Bool := h.cfl.getLsbD 2
def CopyHead.evf (h : CopyHead) : Bool := h.cfl.getLsbD 3
def CopyHead.wantsFol (h : CopyHead) : Bool := h.cfl.getLsbD 4
def CopyHead.rmt (h : CopyHead) : Bool := h.cfl.getLsbD 5

/-- T (R269). -/
def CopyHead.total (h : CopyHead) : Nat := h.x0 * h.n1 * h.n2 * h.n3

/-- A layout record (R273): TW, TH, SWZ. -/
structure Layout where
  tw : Nat
  th : Nat
  swz : Bool
  deriving DecidableEq, Repr

/-- A power of two. -/
def isPow2 (n : Nat) : Bool := n != 0 && 2 ^ Nat.log2 n == n

/-- The layout record in 8 words; none where malformed. -/
def Layout.of (l : List Lane) : Option Layout :=
  let b := payloadBytes l
  let tw := fieldOf b 0 2
  let th := fieldOf b 2 2
  let sw := fieldOf b 4 1
  if l.length = 8 ∧ isPow2 tw ∧ 16 ≤ tw ∧ tw ≤ 4096 ∧ isPow2 th ∧ th ≤ 256 ∧ sw ≤ 1 ∧ fieldOf b 5 27 = 0 then
    some ⟨tw, th, sw == 1⟩
  else none

/-- Types of a format convert (R274). -/
def convTy (n : Nat) : Bool := decide (8 ≤ n) && decide (n ≤ 13)
def CopyHead.srcTy (h : CopyHead) : Ty := Ty.ofCode (BitVec.ofNat 4 (h.xa % 16))
def CopyHead.dstTy (h : CopyHead) : Ty := Ty.ofCode (BitVec.ofNat 4 (h.xa / 16))

/-- Bytes of `n` elements stored one after another. -/
def elemBytes (t : Ty) (n : Nat) : Nat := if t = .e2m1 then 18 * (n / 32) else n * width t / 8

/-- Elements converted together: 32 where either type is E2M1. -/
def CopyHead.group (h : CopyHead) : Nat := if h.srcTy = .e2m1 ∨ h.dstTy = .e2m1 then 32 else 1

/-- Source and destination bytes of such a group. -/
def CopyHead.su (h : CopyHead) : Nat := elemBytes h.srcTy h.group
def CopyHead.du (h : CopyHead) : Nat := elemBytes h.dstTy h.group

/-- Element size of a transpose. -/
def CopyHead.te (h : CopyHead) : Nat := 2 ^ (h.xa % 4)

/-- The destination run length X0′ (R273, R274). -/
def CopyHead.x0d (h : CopyHead) : Nat :=
  if h.xop = 1 then h.n1 * h.te else if h.xop = 4 then h.x0 / h.su * h.du else h.x0

/-- CEPAT (R275). -/
def patDoff (w : W64) : Nat := (w.extractLsb' 40 16).toNat * 64
def patBlk (w : W64) : Nat := (w.extractLsb' 24 8).toNat * 64
def patNt (w : W64) : Nat := (w.extractLsb' 16 4).toNat + 1
def patCst (w : W64) : Nat := (w.extractLsb' 8 6).toNat
def patC0 (w : W64) : Nat := (w.extractLsb' 0 6).toNat

/-- The step SKIP must be a multiple of (R274). -/
def CopyHead.step (h : CopyHead) (pat : W64) : Nat :=
  if h.xop = 0 then 4 else if h.xop = 1 ∨ h.xop = 4 then h.x0 else if h.xop = 5 then patBlk pat else 4096

/-- The constraints of the transforms (R274, R275). A conversion to E2M1 takes whole blocks of 32 source elements
(DEDUCED, log 26). -/
def CopyHead.xopOk (h : CopyHead) (pat : W64) : Bool :=
  let ds0 := h.ds1 == 0 && h.ds2 == 0 && h.ds3 == 0
  if h.xop = 0 then h.xa == 0
  else if h.xop = 1 then decide (h.xa < 4) && h.x0 % h.te == 0
  else if h.xop = 2 then decide (h.xa < 2) && ds0 && h.lrh == 0 && decide (h.total ≤ 65535 * 4096)
  else if h.xop = 3 then
    decide (h.xa < 2) && h.ss1 == 0 && h.ss2 == 0 && h.ss3 == 0 && decide (h.total ≤ 65535 * 4096)
  else if h.xop = 4 then
    convTy (h.xa % 16) && convTy (h.xa / 16) && h.xa % 16 != h.xa / 16 && h.x0 % h.su == 0
  else if h.xop = 5 then
    h.xa == 0 && h.dva == 0 && ds0 && h.lrh == 0 && !h.shd && !h.pub && patBlk pat != 0 && patCst pat != 0
  else false

/-- A command that R270 does not complete with DESC. `sp`: SPSIZE of the issuing core. -/
def CopyCmd.wellFormed (c : CopyCmd) (sp : Nat) : Bool :=
  let h := c.head
  decide (4 ≤ h.x0) && decide (h.x0 ≤ 2 ^ 24) && h.x0 % 4 == 0 && h.n1 != 0 && h.n2 != 0 && h.n3 != 0 &&
    canonical h.sva && canonical h.dva && h.cfl.extractLsb' 6 10 == 0 && (h.rmt || h.dmod == 0) &&
    decide (h.total ≤ 2 ^ 32 - 4) && decide (h.skip < h.total) && h.skip % h.step c.cepat == 0 &&
    !(h.pub && !h.shd) && !(h.wantsFol && (decide (sp < 64 * h.foff + 144) || c.folBad)) &&
    !(h.rmt && (h.shd || h.xop != 0)) && h.xopOk c.cepat &&
    (h.lrh == 0 || match Layout.of c.layout with
      | none => false
      | some l => h.x0d % l.tw == 0 && h.n1 % l.th == 0)

/-! ### Streams (R269, R273) -/

/-- Coordinates of run r: i1, i2, i3. -/
def CopyHead.coords (h : CopyHead) (r : Nat) : Nat × Nat × Nat := (r % h.n1, r / h.n1 % h.n2, r / (h.n1 * h.n2))

/-- The source address of stream position p. -/
def CopyHead.srcAt (h : CopyHead) (p : Nat) : W64 :=
  let (i1, i2, i3) := h.coords (p / h.x0)
  h.sva + BitVec.ofInt 64 (i3 * h.ss3 + i2 * h.ss2 + i1 * h.ss1 + (p % h.x0 : Nat))

/-- The source stretches of positions [p, q), each within a run. -/
def CopyHead.srcSegs (h : CopyHead) : Nat → Nat → Nat → List (W64 × Nat)
  | 0, _, _ => []
  | fuel + 1, p, q =>
    if q ≤ p then []
    else
      let n := min (q - p) (h.x0 - p % h.x0)
      (h.srcAt p, n) :: h.srcSegs fuel (p + n) q

/-- The destination address of byte `col` of row `row` of the plane (i2, i3). -/
def CopyHead.dstAt (h : CopyHead) (lay : Option Layout) (i2 i3 row col : Nat) : W64 :=
  let plane : Int := i3 * h.ds3 + i2 * h.ds2
  match lay with
  | none => h.dva + BitVec.ofInt 64 (plane + row * h.ds1 + col)
  | some l =>
    let tile := row / l.th * (h.x0d / l.tw) + col / l.tw
    let c := col % l.tw
    let c2 := if l.swz then c ^^^ (row % 8 * 16 % l.tw) else c
    h.dva + BitVec.ofInt 64 (plane + (tile * l.th * l.tw + row % l.th * l.tw + c2 : Nat))

/-- The destination addresses of the bytes that the source bytes at [p, p + n) produce, in stream order; p starts a group
of a conversion (R269, R274). -/
def CopyHead.dstOf (h : CopyHead) (lay : Option Layout) (p n : Nat) : List W64 :=
  let at_ (p : Nat) (row col : Nat → Nat) : W64 :=
    let (i1, i2, i3) := h.coords (p / h.x0)
    h.dstAt lay i2 i3 (row i1) (col i1)
  if h.xop = 1 then
    (List.range n).map fun k => at_ (p + k) (fun _ => (p + k) % h.x0 / h.te) fun i1 => i1 * h.te + (p + k) % h.te
  else if h.xop = 4 then
    (List.range (n / h.su)).flatMap fun u => (List.range h.du).map fun k =>
      at_ (p + u * h.su) (fun i1 => i1) fun _ => (p + u * h.su) % h.x0 / h.su * h.du + k
  else (List.range n).map fun k => at_ (p + k) (fun i1 => i1) fun _ => (p + k) % h.x0

/-- Bytes at addresses, joined into stretches that do not cross a 4 KiB boundary. -/
def joinBytes {α : Type} : List (W64 × α) → List (W64 × List α)
  | [] => []
  | (a, x) :: l =>
    match joinBytes l with
    | [] => [(a, [x])]
    | (b, xs) :: r => if b = a + 1 ∧ b.toNat % 4096 ≠ 0 then (a, x :: xs) :: r else (a, [x]) :: (b, xs) :: r

/-! ### Destinations (R272) -/

/-- For whom a copy works, through the cache of its inbox (R393). -/
def CopyCmd.for (c : CopyCmd) : EngFor :=
  ⟨c.core / 64, c.core, c.asid, c.user, .unit (12 + c.core % 64 / 16), cmdId c.core c.seq⟩

/-- What stops a copy: status and address. -/
abbrev CopyErr := Byte × W64

def copyErr (e : EngErr) : CopyErr := (e.1.code, e.2)

/-- One destination stretch: the issuing core's window, or a page of the class R272 asks for, whose home can be reached
(R255). A bank that is off stops the
write that reaches it (R183). -/
def State.dstPiece (s : State) (x : EngFor) (shd : Bool) (va : W64) (n : Nat) : Except CopyErr Piece :=
  if inWindow va then
    if shd then .error (0x40, va)
    else if (s.core x.core).spsize < windowOff va + n then .error (FCode.txnp.code, va)
    else .ok (.win (windowOff va) n)
  else match s.seg x.cache x.n none x.asid x.user va n .w (if shd then .shadow else .current) with
    | .error f => .error (f.code, va)
    | .ok y =>
      if !(if shd then y.leaf.getLsbD 6 else y.imm) then .error (0x40, va)
      else if !s.reaches x.n y.home then .error (FCode.relay.code, va)
      else .ok (.glob y)

def State.dstPieces (s : State) (x : EngFor) (shd : Bool) : List (W64 × Nat) → Except CopyErr (List Piece)
  | [] => .ok []
  | (va, n) :: l => do
    let p ← s.dstPiece x shd va n
    let ps ← s.dstPieces x shd l
    return p :: ps

/-- A command sends bytes with validity to a window: words whole, a word's validity that of the bytes that reach it (R90,
R272). -/
def Core.windowPut (c : Core) (cmd off : Nat) (b : List (Byte × Bool)) : Core :=
  let first := off / 4
  let words := (off + b.length + 3) / 4 - first
  (c.wakeBanks off b.length).spSend cmd (4 * first) ((List.range words).map fun k =>
    let old := (c.spAhead (4 * (first + k))).w
    (List.range 4).foldl (fun (w : Lane) j =>
      let a := 4 * (first + k) + j
      if off ≤ a ∧ a < off + b.length then
        let x := b.getD (a - off) (0, true)
        ⟨putField w.w (8 * j) 8 x.1.toNat, w.v && x.2⟩
      else w) ⟨old, true⟩)

/-- The select word of a twin page written through its shadow (R211, R280). -/
def State.selectOf (s : State) (x : EngFor) (y : Seg) : List Nat :=
  match s.selectPa x.cache x.n x.asid y.leaf with
  | .ok p => [p]
  | .error _ => []

/-- The bytes of a stretch with their places; an invalid byte bound for a page is suppressed (R272). -/
def Seg.puts (y : Seg) (b : List (Byte × Bool)) : List (Loc × Byte) :=
  (y.places.zip b).filterMap fun z => if z.2.2 then some (z.1, z.2.1) else none

/-- One stretch on its way: a window is sent its words; a page is reached, evict-first where `ef` says so (R189). The select
word of a shadow page comes along (R280). -/
def State.dstSend (s : State) (x : EngFor) (ef : Bool) (p : Piece) (b : List (Byte × Bool)) :
    Except CopyErr (State × List Nat) :=
  match p with
  | .win off n =>
    if (s.core x.core).bankOff off n then .error (FCode.bankoff.code, BitVec.ofNat 64 (windowBase + off))
    else .ok (s.modCore x.core fun c => c.windowPut x.cmd off b, [])
  | .glob y =>
    match s.homeFault y.places false with
    | some f => .error (f.code, y.va)
    | none => .ok ((s.fillTlb x.cache x.n y.entry).l2Segs x.n x.asid [y] ef, if y.leaf.getLsbD 6 then s.selectOf x y else [])

/-- Write one stretch: the bytes for a page are brought to its home. -/
def State.dstWrite (s : State) (x : EngFor) (ef : Bool) (p : Piece) (b : List (Byte × Bool)) :
    Except CopyErr (State × List Nat) := do
  let (t, u) ← s.dstSend x ef p b
  match p with
  | .win _ _ => return (t, u)
  | .glob y => return (t.bring x.n x.asid x.cmd (y.puts b), u)

def State.dstWriteAll (s : State) (x : EngFor) (ef : Bool) : List (Piece × List (Byte × Bool)) →
    Except CopyErr (State × List Nat)
  | [] => .ok (s, [])
  | (p, b) :: l => do
    let (s1, u) ← s.dstWrite x ef p b
    let (s2, v) ← s1.dstWriteAll x ef l
    return (s2, u ++ v)

/-- Write bytes at addresses; every stretch is translated before the first is written. -/
def State.copyWrite (s : State) (x : EngFor) (shd ef : Bool) (l : List (W64 × Byte × Bool)) :
    Except CopyErr (State × List Nat) := do
  let js := joinBytes l
  let ps ← s.dstPieces x shd (js.map fun j => (j.1, j.2.length))
  s.dstWriteAll x ef (ps.zip (js.map (·.2)))

/-! ### The packets of a copy inside the module (R244, R478) -/

/-- The endpoint of a home: an L2 slice, a memory chiplet's home, the gateway before a host port (R243, R478). -/
def homeEndpoint (home : Nat) : Nat :=
  if home < 1000 then 0x5A else if home < 10000 then 0x40 + (home - 1000) % 16 else 0x5B

/-- Cut the bytes of a stretch into payloads of 512 bytes at most, no aligned word apart (R272, R478). -/
def cutParts {α : Type} : Nat → W64 → List α → List (List α)
  | 0, _, _ => []
  | fuel + 1, va, l =>
    let n := 512 - va.toNat % 4
    if l.isEmpty then [] else l.take n :: cutParts fuel (va + BitVec.ofNat 64 n) (l.drop n)

/-- Bytes with validity as payload words; an invalid word is zero bits (R245). -/
def payloadOf (b : List (Byte × Bool)) : List Lane :=
  (List.range ((b.length + 3) / 4)).map fun k =>
    let w := (b.drop (4 * k)).take 4
    let v := w.all (·.2)
    ⟨if v then BitVec.ofNat 32 (leNat (w.map (·.1))) else 0, v⟩

/-- A packet of a copy: bytes at successive places of a page, each with the stream position that produced it. No rule gives the
payload of bytes that are no whole words: they are padded (DEDUCED, log 55). -/
def CopyCmd.packet (c : CopyCmd) (n inbox : Nat) (y : Seg) (first : Nat) (b : List (Nat × Byte × Bool)) : Packet :=
  let put := ((y.places.drop first).zip (b.map (·.2))).filterMap fun z => if z.2.2 then some (z.1.key, z.2.1) else none
  let words := payloadOf (b.map (·.2))
  { Packet.zero with
    dch := homeSite y.home, sch := n, dep := homeEndpoint y.home, sep := 0x50 + inbox, cls := if c.head.ord then 5 else 4
    plen := 4 * words.length, asid := c.asid, key := c.key, words := words, srid := c.rid, score := c.core
    eng := some ⟨cmdId c.core c.seq, (b.map (·.1)).foldl min (b.headD (0, 0, true)).1, put⟩ }

/-- The packets of one stretch. -/
def CopyCmd.packets (c : CopyCmd) (n inbox : Nat) (y : Seg) (b : List (Nat × Byte × Bool)) : List Packet :=
  let parts := cutParts (b.length / 500 + 2) y.va b
  parts.zipIdx.map fun x => c.packet n inbox y ((parts.take x.2).map (·.length)).sum x.1

/-- Stretches go their way: the state, what R280 publishes, the packets. -/
def State.copySendAll (s : State) (c : CopyCmd) (inbox : Nat) : List (Piece × List (Nat × Byte × Bool)) →
    Except CopyErr (State × List Nat × List Packet)
  | [] => .ok (s, [], [])
  | (p, b) :: l => do
    let (s1, u) ← s.dstSend c.for c.head.evf p (b.map (·.2))
    let (s2, v, k) ← s1.copySendAll c inbox l
    match p with
    | .win _ _ => return (s2, u ++ v, k)
    | .glob y => return (s2, u ++ v, c.packets (c.core / 64) inbox y b ++ k)

/-- The last packet of a transfer carries EOM (R242). -/
def markEom (last : Bool) : List Packet → List Packet
  | [] => []
  | [p] => [{ p with eom := last }]
  | p :: l => p :: markEom last l

/-- A copy sends bytes, each with its stream position, to addresses; every stretch is translated before the first is sent.
`last`: they end the stream. -/
def State.copySend (s : State) (c : CopyCmd) (inbox : Nat) (last : Bool) (l : List (W64 × Nat × Byte × Bool)) :
    Except CopyErr (State × List Nat × List Nat) := do
  let js := joinBytes l
  let ps ← s.dstPieces c.for c.head.shd (js.map fun j => (j.1, j.2.length))
  let (t, u, k) ← s.copySendAll c inbox (ps.zip (js.map (·.2)))
  return (t.modChip (c.core / 64) fun h => { h with sendq := h.sendq ++ markEom last k }, u,
    k.filterMap fun p => p.eng.map (·.pos))

/-- A byte as the CRCs count it: a suppressed byte is zero bits (R272, R277). -/
def countedByte (a : W64) (b : Byte × Bool) : Byte := if b.2 || inWindow a then b.1 else 0

/-! ### The start of a command (R266, R270, R272, R275) -/

/-- Region shed on the chiplet of a copy (R283). -/
def State.copyHeld (s : State) (n : Nat) (c : CopyCmd) : Bool := s.shedOn n c.rid

/-- Target cores of a distribution. -/
def CopyCmd.targets (c : CopyCmd) : List Nat :=
  (List.range (patNt c.cepat)).map fun j => c.core / 64 * 64 + (patC0 c.cepat + j * patCst c.cepat) % 64

/-- Where byte p of a distributed stream goes: core and offset (R275). -/
def CopyCmd.dealt (c : CopyCmd) (p : Nat) : Nat × Nat :=
  let b := p / patBlk c.cepat
  let nt := patNt c.cepat
  (c.core / 64 * 64 + (patC0 c.cepat + b % nt * patCst c.cepat) % 64,
    patDoff c.cepat + b / nt * patBlk c.cepat + p % patBlk c.cepat)

/-- Highest byte dealt to the j-th target, if any. -/
def CopyCmd.topOf (c : CopyCmd) (total j : Nat) : Option Nat :=
  let blk := patBlk c.cepat
  let nt := patNt c.cepat
  let blocks := (total + blk - 1) / blk
  if blocks ≤ j then none
  else
    let b := j + (blocks - 1 - j) / nt * nt
    some (patDoff c.cepat + b / nt * blk + min blk (total - b * blk) - 1)

/-- The checks of a distribution's targets (R275). -/
def State.dealCheck (s : State) (c : CopyCmd) : Option Byte :=
  if c.targets.any fun g => ((s.core g).recOf c.rid).isNone then some 0x45
  else if c.targets.zipIdx.any fun x => match c.topOf c.head.total x.2 with
      | some o => decide ((s.core x.1).spsize ≤ o)
      | none => false then some 0x40
  else none

/-- The destination stretches a command will write, in stream order (R272, R274). -/
def CopyCmd.dests (c : CopyCmd) : List (W64 × Nat) :=
  let h := c.head
  if h.xop = 2 then
    let n := h.total + 8 * ((h.total + 4095) / 4096)
    chunks (n / 4096 + 2) h.dva n
  else (joinBytes ((h.dstOf (Layout.of c.layout) 0 h.total).map fun a => (a, ()))).map fun j => (j.1, j.2.length)

/-- The GL link the peer table of a chiplet names for a module (R260). -/
def Chip.linkTo (c : Chip) (m : W16) : Option Nat := (c.peers.find? fun p => p.2.1 == m).map (·.2.2)

/-- The checks of a command as it starts (R270, R272, R275). -/
def State.copyCheck (s : State) (n : Nat) (c : CopyCmd) : Except CopyErr Unit :=
  let h := c.head
  if !c.wellFormed (s.core c.core).spsize then .error (0x40, 0)
  else if h.rmt then (if ((s.chip n).linkTo h.dmod).isSome then .ok () else .error (FCode.relay.code, h.dva))
  else if h.xop = 5 then (match s.dealCheck c with
    | some e => .error (e, 0)
    | none => .ok ())
  else match s.dstPieces c.for h.shd c.dests with
    | .error e => .error e
    | .ok _ => .ok ()

/-- A command begins with the positions below SKIP done; the generator has stepped over their elements (R274, R279). `ok`: its
block is well formed; one that is not has nothing done (R270; DEDUCED, log 46). -/
def CopyRun.start (c : CopyCmd) (inbox : Nat) (ok : Bool) (e : Except CopyErr Unit) : CopyRun :=
  let h := c.head
  let skip := if ok then h.skip else 0
  { cmd := c, inbox := inbox, bdone := skip, sent := skip, outs := [], cb0 := 0, cbytes := 0
    chunks := if h.xop = 2 ∨ h.xop = 3 then skip / 4096 else 0, failing := 0xFFFF
    scrc := 0xFFFFFFFF, dcrc := 0xFFFFFFFF
    gen := if ok ∧ h.xop = 4 ∧ c.mode = .sr then (draws (skip / h.su * h.group) c.seed).2 else c.seed
    flags := 0
    sts := match e with
      | .ok _ => none
      | .error (f, _) => some f
    addr := match e with
      | .ok _ => 0
      | .error (_, a) => a
    pubs := []
    foi := none }

/-- COPY_START (R266). -/
def State.copyStart (s : State) (n i : Nat) : State :=
  match (s.chip n).ceIn.getD (i % 4) [] with
  | [] => s
  | c :: l =>
    if s.copyHeld n c then s
    else s.modChip n fun k => { k with
      ceIn := k.ceIn.set! (i % 4) l, ceRun := k.ceRun ++ [CopyRun.start c (i % 4) (c.wellFormed (s.core c.core).spsize) (s.copyCheck n c)] }

/-- COPY_START. -/
def execCopyStart (n inbox : Nat) (s : State) : Out := onSite n s fun s => s.copyStart n inbox

/-! ### Progress (R274 to R276, R278, R508) -/

/-- Where one step of a command ends: at the next 4,096-position boundary (R283, R370), for a conversion at the last whole
group before one. -/
def CopyRun.stepEnd (r : CopyRun) : Nat :=
  let h := r.cmd.head
  let t := h.total
  if h.xop = 4 then min t ((r.sent + h.su + 4095) / 4096 * 4096 / h.su * h.su)
  else min t ((r.sent / 4096 + 1) * 4096)

/-- Source bytes of a copy or collective lie at a home that cannot be reached (R255, R278). -/
def State.farSource (s : State) (x : EngFor) (va : W64) (n : Nat) : Bool :=
  match s.engPieces x .r .current (chunks (n / 4096 + 2) va n) with
  | .ok l => (segsOf l).any fun y => !s.reaches x.n y.home
  | .error _ => false

/-- Read the source bytes of positions [p, q), each with its word's validity. -/
def State.readSegs (s : State) (x : EngFor) (ef : Bool) : List (W64 × Nat) →
    Except EngErr (List (Byte × Bool) × State)
  | [] => .ok ([], s)
  | (va, n) :: l => do
    if s.farSource x va n then throw (.relay, va)
    let (b, s1) ← s.engRead x .r ef va n
    let (bs, s2) ← s1.readSegs x ef l
    return (b ++ bs, s2)

def State.copyRead (s : State) (c : CopyCmd) (p q : Nat) : Except CopyErr (List (Byte × Bool) × State) :=
  (s.readSegs c.for c.head.evf (c.head.srcSegs ((q - p) / 4 + 2) p q)).mapError copyErr

/-- Invalid words as zero bits, valid. -/
def zeroInvalid (l : List (Byte × Bool)) : List (Byte × Bool) := l.map fun x => (if x.2 then x.1 else 0, true)

/-- One group of a conversion: source bytes to destination bytes, with flags (R68, R111, R274). -/
def convGroup (h : CopyHead) (m : RMode) (sat : Bool) (b : List Byte) (rs : List W32) : List Byte × Flags :=
  let src := h.srcTy
  let dst := h.dstTy
  let pats := if src = .e2m1 then List.replicate 32 0 else patsOf (width src / 8) b
  let vals := if src = .e2m1 then blockVals b else pats.map (val src)
  if dst = .e2m1 then
    let z := toBlock m vals rs
    ([BitVec.ofNat 8 z.1, 0] ++ (List.range 16).map (fun j =>
      BitVec.ofNat 8 (z.2.1.getD (2 * j) 0 + 16 * z.2.1.getD (2 * j + 1) 0)), z.2.2 ||| snanFlags src pats)
  else
    let o := (List.range vals.length).map fun j => cvtElem src dst m sat (rs.getD j 0) (pats.getD j 0) (vals.getD j .nan)
    (o.flatMap fun y => leBytes (width dst / 8) y.1, o.foldl (fun f y => f ||| y.2) fNone)

/-- Several groups in order, with the generator's state. -/
def convGroups (h : CopyHead) (m : RMode) (sat sr : Bool) : W32 → List (List Byte) → List Byte × Flags × W32
  | g, [] => ([], fNone, g)
  | g, b :: l =>
    let (rs, g1) := if sr then draws h.group g else (List.replicate h.group 0, g)
    let o := convGroup h m sat b rs
    let r := convGroups h m sat sr g1 l
    (o.1 ++ r.1, o.2 ||| r.2.1, r.2.2)

/-- Progress: every position below the packets on their way is done (R278). -/
def CopyRun.settle (r : CopyRun) : CopyRun := { r with bdone := r.outs.foldl min r.sent }

/-- What a step writes is on its way, `parts` the positions of its packets: CRCs and progress. -/
def CopyRun.advance (r : CopyRun) (q : Nat) (src dst : List Byte) (u parts : List Nat) : CopyRun :=
  { r with
    sent := q, outs := r.outs ++ parts, cb0 := r.cbytes, scrc := crc32Run r.scrc src, dcrc := crc32Run r.dcrc dst
    pubs := (r.pubs ++ u).eraseDups, sts := if r.cmd.head.total ≤ q then some 0 else none }.settle

/-- Destination bytes with their addresses and stream positions: `at_ k` the position that produced byte k. -/
def withPos (at_ : Nat → Nat) (ds : List W64) (b : List (Byte × Bool)) : List (W64 × Nat × Byte × Bool) :=
  (ds.zip b).zipIdx.map fun x => (x.1.1, at_ x.2, x.1.2)

/-- A step without a transform, or transposing (R269, R272, R274). -/
def State.plainStep (s : State) (r : CopyRun) (q : Nat) : Except CopyErr (State × CopyRun) := do
  let c := r.cmd
  let h := c.head
  let (b0, s1) ← s.copyRead c r.sent q
  let b := if h.xop = 1 then zeroInvalid b0 else b0
  let ds := h.dstOf (Layout.of c.layout) r.sent (q - r.sent)
  let (s2, u, o) ← s1.copySend c r.inbox (decide (h.total ≤ q)) (withPos (fun k => r.sent + k) ds b)
  let eff := (ds.zip b).map fun x => countedByte x.1 x.2
  return (s2, r.advance q eff eff u o)

/-- A step of a format convert. -/
def State.convStep (s : State) (r : CopyRun) (q : Nat) : Except CopyErr (State × CopyRun) := do
  let c := r.cmd
  let h := c.head
  let (b0, s1) ← s.copyRead c r.sent q
  let b := (zeroInvalid b0).map (·.1)
  let o := convGroups h c.mode c.sat (c.mode == .sr) r.gen (unitsOf h.su b)
  let ds := h.dstOf (Layout.of c.layout) r.sent (q - r.sent)
  let (s2, u, t) ← s1.copySend c r.inbox (decide (h.total ≤ q))
    (withPos (fun k => r.sent + k / h.du * h.su) ds (o.1.map fun x => (x, true)))
  return (s2, { r.advance q b o.1 u t with gen := o.2.2, flags := r.flags ||| o.2.1 })

/-- ZMASK unit of a compress or decompress: bit 0 of XA set for 2 bytes (DEDUCED, log 27). -/
def CopyHead.unit (h : CopyHead) : Nat := if h.xa % 2 = 1 then 2 else 1

/-- Compress one chunk. -/
def State.packStep (s : State) (r : CopyRun) (q : Nat) : Except CopyErr (State × CopyRun) := do
  let c := r.cmd
  let h := c.head
  let (b0, s1) ← s.copyRead c r.sent q
  let b := (zeroInvalid b0).map (·.1)
  let o := chunkStore h.unit b
  let l := o.zipIdx.map fun x => (h.dva + BitVec.ofNat 64 (r.cbytes + x.2), r.sent, x.1, true)
  let (s2, u, t) ← s1.copySend c r.inbox (decide (h.total ≤ q)) l
  return (s2, { r.advance q b o u t with cbytes := r.cbytes + o.length, chunks := r.chunks + 1 })

/-- Source bytes of a stored stream; a home that cannot be reached stops the engine (R255, R278). -/
def State.storedRead (s : State) (c : CopyCmd) (va : W64) (n : Nat) : Except CopyErr (List Byte × State) :=
  if s.farSource c.for va n then .error (FCode.relay.code, va) else (s.engBytes c.for .r c.head.evf va n).mapError copyErr

/-- Decompress one chunk; a header that cannot fit ends it before the body is read (R276). -/
def State.unpackStep (s : State) (r : CopyRun) (q : Nat) : Except CopyErr (State × CopyRun) := do
  let c := r.cmd
  let h := c.head
  let n := q - r.sent
  let va := h.sva + BitVec.ofNat 64 r.cbytes
  let (hb, s1) ← s.storedRead c va 4
  let hd := leNat hb
  let blen := hd % 2 ^ 24
  if (if 2 ^ 31 ≤ hd then blen ≠ n else (n / h.unit + 63) / 64 * 8 + n < blen) then throw (FCode.decode.code, va)
  let (tl, s2) ← s1.storedRead c (va + 4) (chunkSize hd - 4)
  let u ← (chunkLoad h.unit n true (hb ++ tl)).mapError fun f => (f.code, va)
  let ds := h.dstOf (Layout.of c.layout) r.sent n
  let (s3, w, t) ← s2.copySend c r.inbox (decide (h.total ≤ q)) (withPos (fun _ => r.sent) ds (u.map fun y => (y, true)))
  return (s3, { r.advance q (hb ++ tl) u w t with cbytes := r.cbytes + chunkSize hd, chunks := r.chunks + 1 })

/-- Deal part of a block; one that a split changed since the command's start puts past SPSIZE stops it with DESC (R178, R275;
DEDUCED, log 26). -/
def State.dealStep (s : State) (r : CopyRun) (q : Nat) : Except CopyErr (State × CopyRun) := do
  let c := r.cmd
  let (b, s1) ← s.copyRead c r.sent q
  let (g, off) := c.dealt r.sent
  if (s1.core g).spsize < off + b.length then throw (0x40, BitVec.ofNat 64 off)
  if (s1.core g).bankOff off b.length then throw (FCode.bankoff.code, BitVec.ofNat 64 off)
  return (s1.modCore g fun k => k.windowPut (cmdId c.core c.seq) off b, r.advance q (b.map (·.1)) (b.map (·.1)) [] [])

/-- The command works on a chunked stream. -/
def CopyRun.chunked (r : CopyRun) : Bool := r.cmd.head.xop == 2 || r.cmd.head.xop == 3

/-- A fault ends a command where it stands. -/
def CopyRun.failed (r : CopyRun) (e : CopyErr) : CopyRun :=
  { r with sts := some e.1, addr := e.2, failing := if r.chunked then r.chunks else 0xFFFF }

/-- Deal positions up to q block by block; the blocks before one that stops stand (R275). -/
def State.dealAll (q : Nat) : Nat → State → CopyRun → State × CopyRun
  | 0, s, r => (s, r)
  | fuel + 1, s, r =>
    if q ≤ r.sent then (s, r)
    else match s.dealStep r (min q ((r.sent / patBlk r.cmd.cepat + 1) * patBlk r.cmd.cepat)) with
      | .error e => (s, r.failed e)
      | .ok (s1, r1) => State.dealAll q fuel s1 r1

/-- The packets of positions sent to another module: 512 bytes each, ending too where the destination is not contiguous
(R508; DEDUCED, log 28). -/
def remoteParts : Nat → List (W64 × Byte × Bool) → List (W64 × List (Byte × Bool))
  | 0, _ => []
  | fuel + 1, l =>
    match l with
    | [] => []
    | (a, _) :: _ =>
      let k := (l.zipIdx.takeWhile fun x => decide (x.2 < 512) && x.1.1 == a + BitVec.ofNat 64 x.2).length
      (a, (l.take k).map (·.2)) :: remoteParts fuel (l.drop k)

/-- Where a step of a remote copy ends: past the next 4,096-position boundary, at a whole packet counted from its start
(R283, R508). -/
def CopyRun.remoteEnd (r : CopyRun) : Nat :=
  let h := r.cmd.head
  min h.total (h.skip + (((r.sent / 4096 + 1) * 4096 - h.skip) + 511) / 512 * 512)

/-- Send the next positions of a remote copy, no more than 65,536 past those acknowledged (R278, R508). -/
def State.remoteStep (s : State) (n : Nat) (r : CopyRun) : Except CopyErr (State × CopyRun) := do
  let c := r.cmd
  let h := c.head
  let q := r.remoteEnd
  let (b, s1) ← s.copyRead c r.sent q
  match (s1.chip n).linkTo h.dmod with
  | none => throw (FCode.relay.code, h.dva)
  | some l =>
    let ds := h.dstOf (Layout.of c.layout) r.sent (q - r.sent)
    let parts := remoteParts (q - r.sent) (ds.zip b)
    let at_ (k : Nat) : Nat := r.sent + ((parts.take k).map fun y => y.2.length).sum
    let pk := parts.zipIdx.map fun x => { Packet.zero with
      dch := Config.glChip l, sch := n, dep := 0x5B, sep := 0x50 + r.inbox, cls := if h.ord then 5 else 4
      eom := decide (q = h.total) && x.2 + 1 == parts.length, plen := x.1.2.length, asid := c.asid, key := c.key
      words := payloadOf x.1.2, hx := some ⟨h.dmod, 0x3FF, 0x5B, x.1.1⟩, srid := c.rid, score := c.core
      eng := some ⟨cmdId c.core c.seq, at_ x.2, []⟩ }
    return (s1.modChip n fun k => { k with sendq := k.sendq ++ pk },
      { r with
        sent := q, outs := r.outs ++ (List.range parts.length).map at_
        scrc := crc32Run r.scrc (b.map fun (x : Byte × Bool) => if x.2 then x.1 else 0) }.settle)

/-- An earlier remote copy still sends on the same flow, so this one waits: the packets of one copy are consecutive
(R508). -/
def Chip.flowBusy (k : Chip) (i : Nat) (r : CopyRun) : Bool :=
  (k.ceRun.take i).any fun q => q.cmd.head.rmt && q.sts.isNone && decide (q.sent < q.cmd.head.total) &&
    q.cmd.head.ord == r.cmd.head.ord && k.linkTo q.cmd.head.dmod == k.linkTo r.cmd.head.dmod

/-- The next step may begin: a remote copy has more to send and no copy before it on its flow; no position 65,536 past those done
is sent, and a chunk waits until the chunks before it are written (R276, R278). -/
def CopyRun.mayStep (r : CopyRun) (busy : Bool) : Bool :=
  if r.cmd.head.rmt then decide (r.sent < r.cmd.head.total) && decide (r.remoteEnd ≤ r.bdone + 65536) && !busy
  else if r.chunked then r.outs.isEmpty
  else decide (r.stepEnd ≤ r.bdone + 65536)

/-- One step of a command: up to 4,096 positions, for the units of class 7 (R370). A fault ends it where it stands. -/
def State.copyStep (s : State) (n i : Nat) : State :=
  let k := s.chip n
  match k.ceRun[i]? with
  | none => s
  | some r =>
    let h := r.cmd.head
    let m := 4 * n + r.inbox
    if r.cmd.op ≠ 0xA8 || r.sts.isSome || s.copyHeld n r.cmd || !r.mayStep (k.flowBusy i r) then s
    else if !s.chargeOk m 7 then s.chargeWait m
    else
      let s := s.charge m 7
      let put (s : State) (r : CopyRun) : State := s.modChip n fun k => { k with ceRun := listSet k.ceRun i r }
      let q := r.stepEnd
      match (if h.rmt then s.remoteStep n r
        else if h.xop = 2 then s.packStep r q
        else if h.xop = 3 then s.unpackStep r q
        else if h.xop = 4 then s.convStep r q
        else if h.xop = 5 then .ok (s.dealAll q 65 r)
        else s.plainStep r q) with
      | .error e => put s (r.failed e)
      | .ok (s1, r1) => put s1 r1

/-- COPY_CHUNK_DECODE: the next chunk of a stored stream, or the next 4,096 positions of another copy. -/
def execCopyChunkDecode (n i : Nat) (s : State) : Out := onSite n s fun s => s.copyStep n i

/-- Change the copies of an inbox with a command's number (DEDUCED, log 28). -/
def State.modCopy (s : State) (n inbox cmd : Nat) (f : CopyRun → CopyRun) : State :=
  s.modChip n fun k => { k with ceRun := k.ceRun.map fun r =>
    if r.inbox == inbox && cmdId r.cmd.core r.cmd.seq == cmd && r.cmd.op == 0xA8 then f r else r }

/-- The far end's answer to a remote copy: CRC, bytes written, status (R509). -/
def CopyRun.answered (r : CopyRun) (crc : W32) (count : Nat) (sts : Byte) : CopyRun :=
  if r.cmd.head.rmt && r.sts.isNone then
    { r with bdone := r.cmd.head.skip + count, outs := [], dcrc := crc ^^^ 0xFFFFFFFF, sts := some sts }
  else r

/-- A packet has been performed (R278). -/
def CopyRun.partDone (r : CopyRun) (pos : Nat) : CopyRun :=
  if r.outs.contains pos then { r with outs := r.outs.erase pos }.settle else r

/-- A packet will not be performed: the command stops with a status, its progress below the packet (R255, R278, R282). The chunk
it belongs to is not done. -/
def CopyRun.partLost (r : CopyRun) (pos : Nat) (sts : Byte) : CopyRun :=
  if !r.outs.contains pos then r
  else
    let t := { r with outs := r.outs.erase pos, sent := min r.sent pos }.settle
    if r.sts.isSome && r.sts != some 0 then t
    else if r.chunked then { t with sts := some sts, chunks := r.chunks - 1, failing := r.chunks - 1, cbytes := r.cb0 }
    else { t with sts := some sts }

/-! ### Completion (R277, R278, R280, R281) -/

/-- The record (R277). -/
def CopyRun.record (r : CopyRun) (sts : Byte) (pubs foi : Bool) : Record :=
  let xop := if r.cmd.op = 0xA8 then r.cmd.head.xop % 8 else 0
  ⟨[BitVec.ofNat 32 (pubs.toNat * 2 ^ 20 + foi.toNat * 2 ^ 19 + xop * 2 ^ 16 + r.cmd.op * 2 ^ 8 + sts.toNat),
    BitVec.ofNat 32 r.bdone, BitVec.ofNat 32 r.cbytes, BitVec.ofNat 32 (r.failing * 2 ^ 16 + r.chunks % 2 ^ 16),
    r.scrc ^^^ 0xFFFFFFFF, r.dcrc ^^^ 0xFFFFFFFF, r.flags.zeroExtend 32, r.cmd.seq], sts, r.flags⟩

/-- A follow-on that never enters its inbox completes with ABORT under its own CP (R145). -/
def State.folAbort (s : State) (m : Nat) (c : MxCmd) : Option State :=
  let r : MxRun := ⟨c, 0, 0, 0, none, 0⟩
  let x := s.mxe m
  let rcd := r.record (match x.bindOf c.rid with
    | some b => x.rows b
    | none => 0) stsAbort
  (s.deliverRecord c.outst c.seq c.asid (0x54 + m % 4) rcd).map fun t => t.modCore c.core fun k => k.noteMx c.seq rcd

/-- The follow-on enters its bind's inbox: none while that is full. Without a bind it completes with ABORT (DEDUCED,
log 29). The second component is FOI. -/
def State.folEnter (s : State) (c : MxCmd) : Option (State × Bool) :=
  let m := clusterOfCore c.core
  let x := s.mxe m
  match x.bindOf c.rid with
  | none => (s.folAbort m c).map fun t => (t, false)
  | some b =>
    if 16 ≤ (x.queued b).length then none
    else some (s.setMxe m (x.setQueued b (x.queued b ++ [c])), true)

/-- A publication by core g sets PEND at the home of a select word, for the next boundary of its group whose release begins
after it: the one in progress too, unless the core has arrived at it (R211, R284). -/
def State.publish (s : State) (phg : W16) (g sel : Nat) : State :=
  let b := s.byteAt (Loc.ofKey sel)
  if b.getLsbD 1 then s
  else
    let x := s.pgroup phg
    (s.putByte (Loc.ofKey sel) (b ||| 2)).setGroup phg { x with pubs := x.pubs ++ [(sel, s.arrived phg g)] }

/-- Statuses that no report accompanies (R278). -/
def quietSts (b : Byte) : Bool := [0x00, 0x40, 0x42, 0x45, 0x46, 0x47].contains b.toNat

/-- The run leaves the engine. -/
def State.dropCopy (s : State) (n i : Nat) : State := s.modChip n fun k => { k with ceRun := listDel k.ceRun i }

/-- The follow-on of a copy that ends: it enters its inbox, or is aborted; none while something is full. -/
def State.folEnd (s : State) (r : CopyRun) (ok : Bool) : Option (State × Bool) :=
  match r.cmd.fol with
  | none => some (s, false)
  | some c =>
    if ok then s.folEnter c else (s.folAbort (clusterOfCore c.core) c).map fun t => (t, false)

/-- The words of a copy that ends have landed at its core and at the targets it dealt to (R90, R275). -/
def State.copyLanded (s : State) (n : Nat) (c : CopyCmd) : State :=
  (if c.head.xop = 5 then c.targets.foldl (fun t g => t.modCore g fun k => k.landCmd (cmdId c.core c.seq)) s else s).endCmd n
    c.core c.seq

/-- Put a changed run back. -/
def State.putCopy (s : State) (n i : Nat) (r : CopyRun) : State := s.modChip n fun k => { k with ceRun := listSet k.ceRun i r }

/-- The follow-on is dealt with as soon as it can be, whatever becomes of the copy's own record; the run remembers FOI
(R145, R281). -/
def State.copyFol (s : State) (n i : Nat) (r : CopyRun) (ok : Bool) : State × CopyRun :=
  if r.foi.isSome then (s, r)
  else match s.folEnd r ok with
    | none => (s, r)
    | some (s1, foi) =>
      let r1 := { r with foi := some foi, cmd := { r.cmd with fol := none } }
      (s1.putCopy n i r1, r1)

/-- A copy ends with a status (R277, R280, R281): its words land and its publications are made; its follow-on enters; then its
record is delivered, or waits (R284). -/
def State.copyEnd (s : State) (n i : Nat) (r : CopyRun) (sts : Byte) : State :=
  let ok := sts == 0
  let pub := ok && (r.cmd.op == 0xB2 || r.cmd.head.pub)
  let s := s.copyLanded n r.cmd
  let r1 := { r with pubs := [] }
  let s := (if pub then r.pubs.foldl (fun t p => t.publish r.cmd.phg r.cmd.core p) s else s).putCopy n i r1
  let (s1, r2) := s.copyFol n i r1 ok
  match r2.foi with
  | none => s1
  | some foi =>
    let rcd := r.record sts pub foi
    match s1.deliverRecord r.cmd.outst1 r.cmd.seq r.cmd.asid (0x50 + r.inbox) rcd with
    | none => s1
    | some s2 =>
      let s3 := s2.dropCopy n i
      if quietSts sts then s3 else s3.reportHalt r.cmd.outst1 r.addr rcd

/-- The status of a copy that may end: its packets inside the module have all been performed or lost (R277). -/
def CopyRun.ends (r : CopyRun) : Option Byte := if r.cmd.head.rmt || r.outs.isEmpty then r.sts else none

/-- COPY_COMPLETE. -/
def execCopyComplete (n i : Nat) (s : State) : Out :=
  onSite n s fun s => match (s.chip n).ceRun[i]? with
    | some r => (match r.ends with
      | some f => if quietSts f then s.copyEnd n i r f else s
      | none => s)
    | none => s

/-- COPY_FAULT. -/
def execCopyFault (n i : Nat) (s : State) : Out :=
  onSite n s fun s => match (s.chip n).ceRun[i]? with
    | some r => (match r.ends with
      | some f => if quietSts f then s else s.copyEnd n i r f
      | none => s)
    | none => s

/-! ### The instructions (R267, R281, R284) -/

/-- A local area that the block names: none where it passes SPSIZE; BANKOFF where a bank of it is off. -/
def Core.readArea (c : Core) (off n : Nat) : Except Exn (Option (List Lane)) :=
  if c.spsize < off + n then .ok none
  else if c.bankOff off n then .error (.flt .bankoff (BitVec.ofNat 64 off))
  else match c.readable off n with
  | .error e => .error e
  | .ok _ => .ok (some (c.spWords off (n / 4)))

/-- The banks of an area that was read run (R183). -/
def Core.wokenArea (c : Core) (off n : Nat) (l : Option (List Lane)) : Core := if l.isSome then c.wakeBanks off n else c

/-- The follow-on in its captured area (R145, R281): its command, and the operand field of its CP; none where the area
holds anything else. -/
def State.folOf (s : State) (g : Nat) (l : List Lane) : Option (MxCmd × Cp) :=
  let c := s.core g
  let w (i : Nat) : W32 := (l.getD i ⟨0, false⟩).w
  let op := ((w 32).extractLsb' 0 8).toNat
  let tyc := (w 32).extractLsb' 8 8
  let fn := (w 32).extractLsb' 16 16
  let ctl := (w 33).extractLsb' 0 16
  if (l.drop 32).any (fun x => !x.v) || decide (op < 0xA9) || decide (0xAC < op) || tyc.extractLsb' 4 4 != 0 ||
      fn.extractLsb' 10 6 != 0 || ctl.extractLsb' 3 13 != 0 || w 34 != 0 || w 35 != 0 then none
  else match Operand.ofCode ((w 33).extractLsb' 16 16) with
    | none => none
    | some cp =>
      let rs := ctl.getLsbD 2
      let f : EN := ⟨false, Ty.ofCode (tyc.extractLsb' 0 4), fn.extractLsb' 0 10, if rs then .imm 0 else .zero, cp,
        0#13 ++ ctl.extractLsb' 0 3, 0⟩
      if !mxLegal op f c || mxUses op f then none
      else match s.checkCp g cp with
        | .error _ => none
        | .ok t => some ({ c.mxCmd g op t with
            ty := f.ty, tb := if fnIsType op then c.fnTy f.fn else .i8, tile := ctl.extractLsb' 0 2, rs := rs
            block := l.take 32, seq := c.cseq + 1 }, t)

/-- Copies of a cluster's inbox in flight (R266). -/
def Chip.ceCount (k : Chip) (i : Nat) : Nat :=
  (k.ceIn.getD i []).length + (k.ceRun.filter fun r => r.inbox == i && r.cmd.op == 0xA8).length

/-- A copy command of the running activation, its block captured. -/
def Core.copyCmd (c : Core) (g op : Nat) (cp : Cp) (block : List Lane) : CopyCmd where
  op := op
  core := g
  rid := c.actRid
  asid := c.asid
  user := c.user
  block := block
  layout := []
  cepat := c.cepat
  fol := none
  folBad := false
  cp := cp
  mode := c.effrm .fm
  sat := c.effsat false
  seed := 0
  seq := c.cseq
  key := c.actKey.1
  lcn := c.actKey.2
  phg := recPhg c.curRec

/-- ECOPY (R267). -/
def ecopyBody (f : EN) (s : State) : Except Exn Res := do
  let g := s.self
  let c := s.core g
  let (c1, block) ← c.readBlock f.cb 64
  let cp ← s.checkCp g f.cp
  let h := CopyHead.of (payloadBytes block)
  let lay ← if h.lrh = 0 then Except.ok none else c.readArea ((h.lrh - 1) * 32) 32
  let area ← if h.wantsFol then c.readArea (64 * h.foff) 144 else Except.ok none
  let (seed, c2) := ((c1.wokenArea ((h.lrh - 1) * 32) 32 lay).wokenArea (64 * h.foff) 144 area).takeSeed (h.xop == 4)
  let fol := area.bind (s.folOf g)
  let (fseed, c3) := c2.takeSeed (match fol with
    | some x => x.1.op == 0xAC
    | none => false)
  let k := clusterOfCore g % 4
  if 64 ≤ (s.chip (g / 64)).ceCount k then throw .stall
  let cmd := { c.copyCmd g 0xA8 cp block with
    layout := lay.getD [], seed := seed, fol := fol.map (fun x => { x.1 with seed := fseed })
    folBad := h.wantsFol && fol.isNone }
  let s1 := s.modChip (g / 64) fun n => { n with ceIn := n.ceIn.set! k (n.ceIn.getD k [] ++ [cmd]) }
  let s2 := match fol with
    | some x => (s1.countCp g cp).countCp g x.2
    | none => s1.countCp g cp
  return .done (s2.modCore g fun _ =>
    let c4 := c3.issued [f.cb, f.cp]
    if fol.isSome then c4.takeSeq else c4)

/-- Field rules of the commands of the copy and collective engines. -/
def copyLegal (f : EN) : Bool := f.ty == .i8 && f.opt == 0 && f.sel == 0 && cpForm f.cp

/-- ECOPY. -/
def execEcopy (f : EN) (s : State) : Out :=
  coreRow (.ecopy f) (shapeEn f (fun _ => false) fun _ => copyLegal f && f.fn == 0 && isMem f.cb) (ecopyBody f) s

/-- PUBL (R284). -/
def publBody (f : EN) (s : State) : Except Exn Res := do
  let g := s.self
  let c := s.core g
  let va := c.preg (regOf f.cb)
  if inWindow va then throw (.flt .txperm va)
  match s.seg (.core g) (g / 64) (some g) c.asid c.user va 1 .w .current with
  | .error e => throw (.flt e va)
  | .ok y =>
    if !y.leaf.getLsbD 6 then throw (.flt .txperm va)
    match s.selectPa (.core g) (g / 64) c.asid y.leaf with
    | .error e => throw (.flt e va)
    | .ok p =>
      let cp ← s.checkCp g f.cp
      let cmd := c.copyCmd g 0xB2 cp []
      let r := { CopyRun.start cmd (clusterOfCore g % 4) true (.ok ()) with bdone := 0, sent := 0, sts := some 0, pubs := [p] }
      let s1 := (s.fillTlb (.core g) (g / 64) y.entry).modChip (g / 64) fun k => { k with ceRun := k.ceRun ++ [r] }
      return .done ((s1.countCp g cp).modCore g fun c => c.issued [f.cp])

/-- PUBL. -/
def execPubl (f : EN) (s : State) : Out :=
  coreRow (.publ f) (shapeEn f (fun _ => false) fun _ => copyLegal f && f.fn == 0 && isRegOp f.cb) (publBody f) s

end Sys2Proof.Machine
end

