-- ==== Sys2Proof/Machine/Merge.lean ====
section
/-! DEFINITION. Combining values (R205) and applying phase-log entries at their homes (R204). -/

namespace Sys2Proof.Machine
open Sys2Proof.Machine.Num

/-- The function codes of LLOG (R231). -/
def combOk (fn : Nat) (t : Ty) : Bool :=
  match fn with
  | 1 => t == .f16 || t == .bf16 || t == .f32
  | 4 => t == .u32 || t == .u64
  | 5 => t == .u32 || t == .u64
  | n => decide (n ≤ 3) && (t == .i32 || t == .u32 || t == .i64 || t == .u64)

/-- comb of R205. -/
def comb (fn : Nat) (t : Ty) (x y : Nat) : Nat :=
  let w := width t
  let lt := decide (toInt (isSigned t) w x ≤ toInt (isSigned t) w y)
  match fn with
  | 0 => (x + y) % 2 ^ w
  | 1 => (fadd t .rne 0 x y).1
  | 2 => if lt then x else y
  | 3 => if lt then y else x
  | 4 => x ||| y
  | _ => x &&& y

/-- comb over the elements of two byte strings. -/
def combBytes (fn : Nat) (t : Ty) (a b : List Byte) : List Byte :=
  let n := width t / 8
  (List.range (a.length / n)).flatMap fun k => leBytes n (comb fn t (fieldOf a (n * k) n) (fieldOf b (n * k) n))

/-- The key order of R204: logical core number, ORIG, SEQ. -/
def mergeRank (e : LogEntry) : Nat := e.lcn.toNat * 2 ^ 48 + e.key.toNat

/-- One run applied at its doubleword: plain stores byte by byte, or the fold of a merge (R204). -/
def applyRun (m : Memory) : List LogEntry → Memory
  | [] => m
  | e :: l =>
    match e.body with
    | .store _ _ => (e :: l).foldl (fun m x => match x.body with
        | .store k v => (List.range 8).foldl (fun m j =>
            if k.getLsbD j then Memory.put m (x.addr + j) (v.extractLsb' (8 * j) 8) else m) m
        | .merge _ _ _ _ => m) m
    | .merge fn t el _ =>
      let ops := (e :: l).flatMap fun x => match x.body with
        | .store _ _ => []
        | .merge _ _ _ o => o.map (·.toNat)
      let n := width t / 8
      match ops with
      | [] => m
      | p :: ps =>
        let at0 := e.addr + el
        let v := comb fn t (leNat ((List.range n).map fun j => Memory.get m (at0 + j))) (ps.foldl (comb fn t) p)
        (leBytes n v).zipIdx.foldl (fun m x => Memory.put m (at0 + x.2) x.1) m

end Sys2Proof.Machine
end

