-- ==== Sys2Proof/Machine/Collective.lean ====
section
/-! DEFINITION. Collectives (R285 to R290): group ids, the tree of a group, ECOLL, CLGRP and CLFREE. -/

namespace Sys2Proof.Machine
open Sys2Proof.Machine.Num

/-! ### Groups and trees (R23, R285, R286) -/

def State.cgroup (s : State) (id : Nat) : CGroup := KV.get ⟨0, 0, 0, [], [], 0, []⟩ s.cgroups id

def State.setCgroup (s : State) (id : Nat) (x : CGroup) : State := { s with cgroups := KV.put id x s.cgroups }

/-- The parent of R23. -/
def plainParent (n : Nat) : Nat :=
  let x := Config.siteX n
  let y := Config.siteY n
  if y < 11 then Config.siteNo x (y + 1) else if 11 < y then Config.siteNo x (y - 1)
  else if x < 11 then Config.siteNo (x + 1) y else if 11 < x then Config.siteNo (x - 1) y else n

/-- The parent of a site in the Carillon tree, as firmware has it (R23, R453). -/
def State.parentOf (s : State) (n : Nat) : Nat :=
  match KV.find s.carillon n with
  | some p => p
  | none => plainParent n

/-- The sites from one up to the root of the tree. -/
def State.pathUp (s : State) : Nat → Nat → List Nat
  | 0, n => [n]
  | fuel + 1, n => if s.parentOf n = n then [n] else n :: s.pathUp fuel (s.parentOf n)

/-- The lowest common ancestor of some sites. -/
def State.treeRoot (s : State) (l : List Nat) : Nat :=
  match l with
  | [] => Config.carillonRoot
  | a :: r => ((s.pathUp 576 a).find? fun n => r.all fun b => (s.pathUp 576 b).contains n).getD Config.carillonRoot

/-- The sites of a group's tree. -/
def State.treeSites (s : State) (l : List Nat) : List Nat :=
  let root := s.treeRoot l
  (l.flatMap fun m => (s.pathUp 576 m).takeWhile (· != root) ++ [root]).eraseDups

/-- Children of a site within a tree, ascending. -/
def State.treeChildren (s : State) (l : List Nat) (n : Nat) : List Nat :=
  (List.range 576).filter fun c => c != n && (s.treeSites l).contains c && s.parentOf c == n && c != s.treeRoot l

/-! ### Commands (R289) -/

def CollCmd.field (c : CollCmd) (k n : Nat) : Nat := fieldOf (payloadBytes c.block) k n

def CollCmd.sva (c : CollCmd) : W64 := BitVec.ofNat 64 (c.field 0 8)
def CollCmd.dva (c : CollCmd) : W64 := BitVec.ofNat 64 (c.field 8 8)
def CollCmd.len (c : CollCmd) : Nat := c.field 16 4
def CollCmd.id (c : CollCmd) : Nat := c.field 20 2 % 64
def CollCmd.gen (c : CollCmd) : BitVec 4 := BitVec.ofNat 4 (c.field 20 2 / 64)
def CollCmd.root (c : CollCmd) : Nat := c.field 22 2
def CollCmd.opf (c : CollCmd) : Nat := c.field 24 1
def CollCmd.ty (c : CollCmd) : Ty := Ty.ofCode (BitVec.ofNat 4 (c.field 25 1))
def CollCmd.shd (c : CollCmd) : Bool := (c.field 26 1).testBit 0
def CollCmd.pub (c : CollCmd) : Bool := (c.field 26 1).testBit 1
def CollCmd.evf (c : CollCmd) : Bool := (c.field 26 1).testBit 2
def CollCmd.chip (c : CollCmd) : Nat := c.core / 64

/-- The member contributes bytes. -/
def CollCmd.gives (c : CollCmd) : Bool := c.fn != 0 || c.root == c.chip

/-- The member receives the result. -/
def CollCmd.takes (c : CollCmd) : Bool := c.fn != 1 || c.root == c.chip

/-- A block that keeps the rules of R289 whatever its group; whole elements (DEDUCED, log 30). -/
def CollCmd.ok (c : CollCmd) : Bool :=
  decide (4 ≤ c.len) && decide (c.len ≤ 2 ^ 24) && c.len % 4 == 0 && decide (c.field 20 2 < 1024) &&
    (c.fn != 2 || c.root == 0) &&
    (if c.fn = 0 then c.opf == 0 && c.field 25 1 == 0
      else decide (c.field 25 1 < 16) && combOk c.opf c.ty && c.len % (width c.ty / 8) == 0) &&
    decide (c.field 26 1 < 8) && c.field 27 37 == 0 && (c.gives || c.sva == 0) && (c.takes || c.dva == 0)

/-- The issuing chiplet and ROOT are members (R289; DEDUCED, log 30). -/
def CollCmd.among (c : CollCmd) (members : List Nat) : Bool :=
  members.contains c.chip && (c.fn == 2 || members.contains c.root)

/-- For whom a collective works: the engine has no translation cache of its own (R393). -/
def CollCmd.for (c : CollCmd) : EngFor := ⟨c.chip, c.core, c.asid, c.user, .shared, cmdId c.core c.seq⟩

/-- Status of a command found before it joins an operation (R290); its membership can be judged only in a group of its own
at its current generation. -/
def State.collStatus (s : State) (c : CollCmd) : Option Byte :=
  let x := s.cgroup c.id
  if !c.ok then some 0x40
  else if x.state != 0 && x.gen == c.gen && x.asid != c.asid then some 0x42
  else if x.state ≠ 1 ∨ x.gen ≠ c.gen then some 0x47
  else if !c.among x.members then some 0x40
  else none

/-- The parts of a command that every member must give alike (R290). -/
def CollCmd.shape (c : CollCmd) : List Nat := [c.fn, c.opf, c.field 25 1, c.len, c.root]

/-! ### Combining (R286, R290) -/

/-- The command of a member for operation k of a group's generation. -/
def State.collOf (s : State) (id k n : Nat) : Option CollCmd :=
  (s.chip n).clIn.find? fun c => c.id == id && c.gen == (s.cgroup id).gen && c.opn == k && c.sts.isNone && c.result.isNone

/-- Change the commands of an operation at a member. -/
def State.modColl (s : State) (id k n : Nat) (f : CollCmd → CollCmd) : State :=
  s.modChip n fun h => { h with clIn := h.clIn.map fun c =>
    if c.id == id && c.gen == (s.cgroup id).gen && c.opn == k && c.sts.isNone && c.result.isNone then f c else c }

/-- A member's region is shed, so the operation waits at every member (R290). -/
def State.collHeld (s : State) (id k : Nat) : Bool :=
  let x := s.cgroup id
  x.members.any fun n => (s.chip n).clIn.any fun c =>
    c.id == id && c.gen == x.gen && c.opn == k && c.sts.isNone && s.shedOn n c.rid

/-- A member reads its contribution: its bytes, or nothing; a fault stays with its command. -/
def State.contribute (s : State) (id k n : Nat) (c : CollCmd) : Option (List Byte) × State :=
  if !c.gives then (some [], s)
  else if s.farSource c.for c.sva c.len then
    (none, s.modColl id k n fun c => { c with sts := some FCode.relay.code, addr := c.sva })
  else match s.engBytes c.for .r c.evf c.sva c.len with
    | .error (f, a) => (none, s.modColl id k n fun c => { c with sts := some f.code, addr := a })
    | .ok (b, s1) => (some b, s1.modColl id k n fun c => { c with scrc := crc32Run 0xFFFFFFFF b })

/-- The left fold of a router's inputs, in ascending key: none where one carries a fault (R286). -/
def foldParts (fn : Nat) (t : Ty) : List (Option (List Byte)) → Option (List Byte)
  | [] => some []
  | none :: _ => none
  | some a :: l => l.foldl (fun r x => match r, x with
      | some u, some v => if u.isEmpty then some v else if v.isEmpty then some u else some (combBytes fn t u v)
      | _, _ => none) (some a)

/-- The root has every input: every member gets the result, or MISMATCH, or PEER beside the member that faulted (R290;
a difference is found before a fault, DEDUCED, log 31). -/
def State.collFinish (s : State) (id : Nat) (r : Option (List Byte)) : State :=
  let x := s.cgroup id
  let all := x.members.flatMap fun n => (s.chip n).clIn.filter fun c =>
    c.id == id && c.gen == x.gen && c.opn == x.cur && c.result.isNone
  let differ := match all with
    | [] => false
    | c :: l => l.any fun d => d.shape != c.shape
  let s1 := x.members.foldl (fun t n => t.modChip n fun h => { h with clIn := h.clIn.map fun c =>
    if c.id == id && c.gen == x.gen && c.opn == x.cur && c.result.isNone then
      if differ then { c with sts := some 0x46 }
      else match c.sts, r with
        | some _, _ => c
        | none, none => { c with sts := some 0x48 }
        | none, some b => { c with result := some b }
    else c }) s
  s1.setCgroup id { x with cur := x.cur + 1, parts := [] }

/-- COLLECTIVE_COMBINE at router n: once every input is there, fold and pass up; at the root, finish. -/
def State.collCombine (s : State) (id n : Nat) : State :=
  let x := s.cgroup id
  let kids := s.treeChildren x.members n
  let member := x.members.contains n
  if x.state = 0 || !(s.treeSites x.members).contains n || (KV.find x.parts n).isSome || s.collHeld id x.cur ||
      kids.any (fun k => (KV.find x.parts k).isNone) || (member && (s.collOf id x.cur n).isNone) then s
  else
    let (own, s1) := match s.collOf id x.cur n with
      | some c => let o := s.contribute id x.cur n c; ([(n, o.1)], o.2)
      | none => ([], s)
    let inputs := own.foldl (fun l p => KV.put p.1 p.2 l) (kids.foldl (fun l k =>
      KV.put k ((KV.find x.parts k).getD (some [])) l) [])
    let any := (x.members.findSome? fun m => (s.chip m).clIn.find? fun c => c.id == id && c.gen == x.gen && c.opn == x.cur)
    let r := foldParts (match any with
      | some c => c.opf
      | none => 0) (match any with
      | some c => c.ty
      | none => .i32) (inputs.map (·.2))
    if n = s.treeRoot x.members then s1.collFinish id r
    else s1.setCgroup id { x with parts := KV.put n r x.parts }

/-- COLLECTIVE_COMBINE. -/
def execCollectiveCombine (id n : Nat) (s : State) : Out := onSite n s fun s => s.collCombine (id % 64) n

/-! ### Completion (R290) -/

def CollCmd.outst1 (c : CollCmd) : Outst := c.outst

/-- The record of R277 with opcode 0xAF. -/
def CollCmd.record (c : CollCmd) (sts : Byte) (pubs : Bool) (out : List Byte) : Record :=
  ⟨[BitVec.ofNat 32 (pubs.toNat * 2 ^ 20 + 0xAF * 2 ^ 8 + sts.toNat), BitVec.ofNat 32 out.length, 0, 0xFFFF0000,
    c.scrc ^^^ 0xFFFFFFFF, crc32Run 0xFFFFFFFF out ^^^ 0xFFFFFFFF, 0, c.seq], sts, 0⟩

/-- Write a result at a member: the state, and what R280 publishes. -/
def State.collWrite (s : State) (c : CollCmd) (b : List Byte) : Except CopyErr (State × List Nat) :=
  if c.takes then s.copyWrite c.for c.shd c.evf (b.zipIdx.map fun x => (c.dva + BitVec.ofNat 64 x.2, x.1, true))
  else .ok (s, [])

/-- A member's command ends: its words have landed; its record is delivered and it leaves the engine, or waits; what stopped it is
reported as R278 gives. -/
def State.collEnd (s : State) (n i : Nat) (c : CollCmd) (sts : Byte) (pubs : Bool) (out : List Byte) (a : W64) : State :=
  let r := c.record sts pubs out
  let t := s.endCmd n c.core c.seq
  match t.deliverRecord c.outst c.seq c.asid 0x58 r with
  | none => t
  | some s1 =>
    let s2 := s1.modChip n fun h => { h with clIn := listDel h.clIn i }
    if quietSts sts then s2 else s2.reportHalt c.outst a r

/-- A member sends its result on its way, or cannot: the command waits for its completion (R90, R272, R290). -/
def State.collSend (s : State) (n i : Nat) (c : CollCmd) (b : List Byte) : State :=
  match s.collWrite c b with
  | .error (f, a) => s.modChip n fun h => { h with clIn := listSet h.clIn i { c with sts := some f, addr := a } }
  | .ok (t, u) => t.modChip n fun h => { h with clIn := listSet h.clIn i { c with sts := some 0, pubs := u.eraseDups } }

/-- A member whose result is written publishes, and completes (R280, R290). PUBS tells of a publication: the member wrote shadow
pages. -/
def State.collDone (s : State) (n i : Nat) (c : CollCmd) (b : List Byte) : State :=
  let t := if c.pub then c.pubs.foldl (fun t p => t.publish c.phg c.core p) (s.endCmd n c.core c.seq) else s
  let c1 := { c with pubs := [] }
  (t.modChip n fun h => { h with clIn := listSet h.clIn i c1 }).collEnd n i c1 0 (c.pub && c.shd && c.takes) (if c.takes then b else []) 0

/-- COLLECTIVE_COMPLETE: a refused command; a member whose result has come sends it, and completes once it is written. -/
def State.collComplete (s : State) (n i : Nat) : State :=
  match (s.chip n).clIn[i]? with
  | none => s
  | some c =>
    match c.sts, c.result with
    | some f, none => s.collEnd n i c f false [] c.addr
    | some f, some b => if f = 0 then s.collDone n i c b else s.collEnd n i c f false [] c.addr
    | none, none => s
    | none, some b => if s.shedOn n c.rid || s.collHeld c.id c.opn then s else s.collSend n i c b

/-- COLLECTIVE_COMPLETE. -/
def execCollectiveComplete (n i : Nat) (s : State) : Out := onSite n s fun s => s.collComplete n i

/-- A command refused before it joined an operation (R290). -/
def CollCmd.refused (c : CollCmd) : Bool := c.sts == some 0x40 || c.sts == some 0x42 || c.sts == some 0x47

/-- GROUP_DRAINED: a DRAINING id becomes FREE once no member holds a command of an operation of its generation (R288). -/
def State.groupDrained (s : State) (id : Nat) : State :=
  let x := s.cgroup id
  if x.state = 2 ∧ s.chips.all (fun h => h.2.clIn.all fun c => !(c.id == id && c.gen == x.gen) || c.refused) then
    s.setCgroup id { x with state := 0 }
  else s

/-- GROUP_DRAINED. -/
def execGroupDrained (id : Nat) (s : State) : Out := .next (s.groupDrained (id % 64))

/-! ### The instructions (R287 to R289) -/

/-- ECOLL (R289): the command enters the chiplet's engine of 16; its operation number is the member's count under the
handle (R290). -/
def ecollBody (f : EN) (s : State) : Except Exn Res := do
  let g := s.self
  let n := g / 64
  let c := s.core g
  let (c1, block) ← c.readBlock f.cb 64
  let cp ← s.checkCp g f.cp
  if 16 ≤ (s.chip n).clIn.length then throw .stall
  let cmd : CollCmd := { fn := f.fn.toNat, core := g, rid := c.actRid, asid := c.asid, user := c.user, block := block
                         cp := cp, seq := c.cseq, key := c.actKey.1, lcn := c.actKey.2, phg := recPhg c.curRec, opn := 0
                         result := none, scrc := 0xFFFFFFFF, sts := none, addr := 0, pubs := [] }
  let st := s.collStatus cmd
  let x := s.cgroup cmd.id
  let k := KV.get 0 x.issued n
  let s1 := s.modChip n fun h => { h with clIn := h.clIn ++ [{ cmd with opn := k, sts := st }] }
  let s2 := if st.isNone then s1.setCgroup cmd.id { x with issued := KV.put n (k + 1) x.issued } else s1
  return .done ((s2.countCp g cp).modCore g fun _ => c1.issued [f.cb, f.cp])

/-- ECOLL. -/
def execEcoll (f : EN) (s : State) : Out :=
  coreRow (.ecoll f) (shapeEn f (fun _ => false) fun _ => copyLegal f && decide (f.fn.toNat ≤ 2) && isMem f.cb) (ecollBody f) s

/-- The members a 72-byte mask names. -/
def maskMembers (l : List Lane) : List Nat :=
  let b := payloadBytes l
  (List.range 576).filter fun n => (b.getD (n / 8) 0).getLsbD (n % 8)

/-- CLGRP: it asks, waits for the result, and writes it (R287). -/
def clgrpBody (f : M3) (s : State) : Except Exn Res := do
  let g := s.self
  let c := s.core g
  c.checkLocals 4 [(f.od, 4, 4), (f.oa, 72, 4)]
  match c.wait with
  | .clgrp _ _ (some x) =>
    return .done (s.setCore g ((c.writeElems 4 f.od .u32 [⟨x.w.toNat, x.v⟩]).1.opIncs 4 [f.od, f.oa]))
  | .clgrp _ _ none => return .hold s
  | _ =>
    let off := (c.opAddr 4 f.oa).toNat
    c.readable off 72
    return .hold (s.modCore g fun c => { (c.wakeBanks off 72).makeIrrev with
      wait := .clgrp (c.pOrImm f.ob).toNat (maskMembers (c.spWords off 18)) none })

/-- CLGRP. -/
def execClgrp (f : M3) (s : State) : Out :=
  coreRow (.clgrp f) (shapeM3 f fun t => fixedM3 f t .u32 0 && f.fn == 0 && oneDst f.od && isMem f.oa && f.oc == .zero &&
    !incClash f.od [f.oa] && (match f.ob with
      | .reg _ _ => true
      | .imm v => decide (v.toNat ≤ 63)
      | _ => false)) (clgrpBody f) s

/-- A partial of a superseded generation that its parent's router has not combined is discarded and counted there when the
router's generation changes (R288). -/
def State.dropStale (s : State) (x : CGroup) : State :=
  (x.parts.filter fun p => (KV.find x.parts (s.parentOf p.1)).isNone).foldl (fun t p => match p.2 with
    | some b => t.modChip (s.parentOf p.1) fun h => { h with clstale := h.clstale + BitVec.ofNat 64 ((b.length + 511) / 512) }
    | none => t) s

/-- The result of a group installation (R287). An id past 63 is never free (DEDUCED, log 32). -/
def State.clgrpInstall (s : State) (id : Nat) (mask : List Nat) (asid : W16) : Lane × State :=
  let x := s.cgroup id
  if 63 < id ∨ x.state ≠ 0 then (⟨0, false⟩, s)
  else if mask.isEmpty || mask.any (fun n => !Config.isCompute n || (s.chip n).peal != 6) then (⟨0xFFFFFFFF, true⟩, s)
  else
    let gen := x.gen + 1
    (⟨BitVec.ofNat 32 (gen.toNat * 64 + id), true⟩, (s.dropStale x).setCgroup id ⟨1, gen, asid, mask, [], 0, []⟩)

/-- CLGRP_RESULT. -/
def State.clgrpAnswer (s : State) (g : Nat) : State :=
  match (s.core g).wait with
  | .clgrp id mask none =>
    let r := s.clgrpInstall id mask (s.core g).asid
    r.2.modCore g fun c => { c with wait := .clgrp id mask (some r.1) }
  | _ => s

/-- CLGRP_RESULT. -/
def execClgrpResult (g : Nat) (s : State) : Out := onCore g s fun s => s.clgrpAnswer g

/-- CLFREE (R288). -/
def clfreeBody (f : M3) (s : State) : Except Exn Res := do
  let g := s.self
  let c := s.core g
  if f.od != .zero then c.checkLocals 4 [(f.od, 4, 4)]
  let h := (c.pOrImm f.oa).toNat
  let x := s.cgroup (h % 64)
  let ok := decide (h < 1024) && x.state == 1 && x.asid == c.asid && x.gen == BitVec.ofNat 4 (h / 64)
  let s1 := if ok then s.setCgroup (h % 64) { x with state := 2 } else s
  return .done (s1.modCore g fun c => (c.writeU32 4 f.od (if ok then 0 else 1)).opIncs 4 [f.od])

/-- CLFREE. -/
def execClfree (f : M3) (s : State) : Out :=
  coreRow (.clfree f) (shapeM3 f fun t => fixedM3 f t .u32 0 && f.fn == 0 && regOrImm f.oa && absent [f.ob, f.oc] &&
    (oneDst f.od || f.od == .zero)) (clfreeBody f) s

end Sys2Proof.Machine
end

