-- ==== Sys2Proof/Machine/Coding.lean ====
section
/-! DEFINITION. The word code of compressing flows and GL links (R256 to R258). -/

namespace Sys2Proof.Machine

/-- One code: its bits, the first in bit 0, their number, and whether the table takes the word (R256, R258). -/
structure WordCode where
  bits : Nat
  len : Nat
  takes : Bool
  deriving DecidableEq, Repr

/-- The word is the sign-extension of its low `n` bits. -/
def fitsIn (w : W32) (n : Nat) : Bool := w == (w <<< (32 - n)).sshiftRight (32 - n)

/-- The code of a word (R256): the first row that applies, the lowest entry that matches. -/
def Coder.code (t : Coder) (x : Lane) : WordCode :=
  let w := x.w
  let low (n : Nat) : Nat := w.toNat % 2 ^ n
  if !x.v || w == 0 then ⟨0, 3, false⟩
  else if fitsIn w 4 then ⟨1 + 8 * low 4, 7, false⟩
  else match t.t.toList.findIdx? (· == w) with
    | some i => ⟨5 + 8 * i, 7, false⟩
    | none =>
      if fitsIn w 8 then ⟨2 + 8 * low 8, 11, false⟩
      else match t.t.toList.findIdx? (fun (e : W32) => e >>> 8 == w >>> 8) with
        | some i => ⟨6 + 8 * i + 128 * low 8, 15, true⟩
        | none =>
          if fitsIn w 16 then ⟨3 + 8 * low 16, 19, false⟩
          else if w >>> 16 == 0 then ⟨4 + 8 * low 16, 19, false⟩
          else ⟨7 + 8 * w.toNat, 35, true⟩

/-- The table takes a word (R258). -/
def Coder.take (t : Coder) (w : W32) : Coder := ⟨t.t.set! t.nxt w, (t.nxt + 1) % 16⟩

/-- The table after a payload, whether sent coded or not (R258). -/
def Coder.after (t : Coder) (l : List Lane) : Coder :=
  l.foldl (fun t x => if (t.code x).takes then t.take x.w else t) t

/-- The bit stream of a payload and its length (R257). -/
def Coder.stream : Coder → List Lane → Nat × Nat
  | _, [] => (0, 0)
  | t, x :: l =>
    let c := t.code x
    let r := (if c.takes then t.take x.w else t).stream l
    (c.bits + 2 ^ c.len * r.1, c.len + r.2)

/-- Stored bytes of a payload, where the code is shorter (R257). -/
def Coder.pack (t : Coder) (l : List Lane) : Option (List Byte) :=
  let r := t.stream l
  let n := (r.2 + 31) / 32 * 4
  if n < 4 * l.length then some (leBytes n r.1) else none

/-- The word of the code at the low end of a stream, and the code's length. -/
def Coder.word (t : Coder) (b : Nat) : W32 × Nat :=
  let f (k n : Nat) : Nat := b / 2 ^ k % 2 ^ n
  let sx (n : Nat) : W32 := ((BitVec.ofNat 32 (f 3 n)) <<< (32 - n)).sshiftRight (32 - n)
  match f 0 3 with
  | 0 => (0, 3)
  | 1 => (sx 4, 7)
  | 5 => (t.t.getD (f 3 4) 0, 7)
  | 2 => (sx 8, 11)
  | 6 => ((t.t.getD (f 3 4) 0 >>> 8) <<< 8 ||| BitVec.ofNat 32 (f 7 8), 15)
  | 3 => (sx 16, 19)
  | 4 => (BitVec.ofNat 32 (f 3 16), 19)
  | _ => (BitVec.ofNat 32 (f 3 32), 35)

/-- The words a stream of `bits` bits yields for words of the given validity: none where the codes do not yield them
exactly, or the padding is not zero (R257). -/
def Coder.unpack : Coder → Nat → Nat → List Bool → Option (List Lane × Coder)
  | t, b, bits, [] => if b = 0 ∧ bits < 32 then some ([], t) else none
  | t, b, bits, v :: l =>
    let r := t.word b
    if bits < r.2 then none
    else
      let t1 := if v && (b % 8 == 6 || b % 8 == 7) then t.take r.1 else t
      match t1.unpack (b / 2 ^ r.2) (bits - r.2) l with
      | none => none
      | some (ws, t2) => some (⟨if v then r.1 else 0, v⟩ :: ws, t2)

/-- Expand stored bytes (R257). -/
def Coder.expand (t : Coder) (stored : List Byte) (valid : List Bool) : Option (List Lane × Coder) :=
  t.unpack (leNat stored) (8 * stored.length) valid

end Sys2Proof.Machine
end

