-- ==== Sys2Proof/Machine/System.lean ====
section
/-! DEFINITION. System registers (R75 to R80, R142, R177 to R183, R192, R197, R207, R320, R338, R345, R348, R367, R373,
R378, R380, R385, R399 to R401, R405, R424, R430, R445, R454, R460), TRAP and ERET (R402, R403), TLBINV (R396), XLAT
(R404), PWRB (R406), SCRUB (R439), SIGCHK (R442), BRK (R446) and the page walk (R394). -/

namespace Sys2Proof.Machine
open Sys2Proof.Machine.Num

/-! ### Reading a register -/

/-- State codes of sixteen chiplets (R454). -/
def State.csmap (s : State) (k : Nat) : W64 :=
  (List.range 16).foldl (fun (v : W64) j => v ||| BitVec.ofNat 64 ((s.chip (16 * k + j)).peal % 16 * 2 ^ (4 * j))) 0

/-- GLSTAT of a link (R460). -/
def GlLink.stat (l : GlLink) : W64 :=
  l.lack ++ l.flm ++ BitVec.ofNat 8 l.nrt ++ 0#2 ++ BitVec.ofNat 2 l.wid ++ bit1 l.lost ++ BitVec.ofNat 3 l.state

/-- ALMST (R424). -/
def Security.almst (x : Security) : W64 :=
  x.acnt ++ 0#19 ++ x.almpol.extractLsb' 8 1 ++ x.almpol.extractLsb' 0 8 ++ x.lat

/-- BLSTAT (R378). -/
def Notice.stat (n : Notice) (stale : Bool) : W64 := n.shm ++ bit1 stale ++ 0#7 ++ n.tgt ++ 0#12 ++ n.fseq

/-- LOGUSE (R207). -/
def Core.loguse (c : Core) : W64 := BitVec.ofNat 64 (c.logCount % 2 ^ 15 + if c.spill then 2 ^ 16 else 0)

/-- MXRP of the bind a region holds on the core's cluster; zero where it holds none (R142). -/
def State.mxrpOf (s : State) (g : Nat) (rid : W16) : W32 :=
  let x := s.mxe (clusterOfCore g)
  match x.bindOf rid with
  | some b => x.mxrp b
  | none => 0

/-- The value of the system register with a number, zero-extended; none where no chapter assigns the number (R400). -/
def State.readSr (s : State) (g n : Nat) : Option W64 :=
  let c := s.core g
  let k := s.chip (g / 64)
  let of32 (x : W32) : Option W64 := some (x.zeroExtend 64)
  if 0x030 ≤ n ∧ n ≤ 0x037 then some (k.rctl.getD (n - 0x030) 0)
  else if 0x038 ≤ n ∧ n ≤ 0x03F then some (k.rbase.getD (n - 0x038) 0)
  else if 0x040 ≤ n ∧ n ≤ 0x047 then some (k.rlen.getD (n - 0x040) 0)
  else if 0x048 ≤ n ∧ n ≤ 0x04F then some (k.rhit.getD (n - 0x048) 0)
  else if 0x050 ≤ n ∧ n ≤ 0x057 then some (k.rovf.getD (n - 0x050) 0)
  else if 0x090 ≤ n ∧ n ≤ 0x097 then some (c.brec.getD (n - 0x090) 0)
  else if 0x0C8 ≤ n ∧ n ≤ 0x0CF then some (s.link (n - 0x0C8)).stat
  else if 0x100 ≤ n ∧ n ≤ 0x123 then some (s.csmap (n - 0x100))
  else match n with
  | 0x010 => of32 c.st
  | 0x011 => of32 c.fm
  | 0x012 => of32 c.px
  | 0x013 => of32 c.srseed
  | 0x020 => of32 (s.mxrpOf g c.actRid)
  | 0x021 => of32 c.spcfg
  | 0x022 => of32 c.sppwr
  | 0x023 => some (match c.group with
    | some q => (s.pgroup q).phase
    | none => 0)
  | 0x024 => some c.loguse
  | 0x060 => some k.nitx
  | 0x061 => some k.niretx
  | 0x062 => some k.ninack
  | 0x063 => some k.niaged
  | 0x064 => some k.clstale
  | 0x070 => some c.cepat
  | 0x080 => some (c.actRid.zeroExtend 64)
  | 0x081 => of32 c.gmask
  | 0x082 => some (BitVec.ofNat 64 c.mbx.length)
  | 0x098 => of32 c.brshc
  | 0x0A0 => of32 c.pwrst
  | 0x0A1 => of32 (s.pwr (clusterOfCore g)).thrrsn
  | 0x0A2 => of32 c.pwrcap
  | 0x0A8 => some (k.notice.stat s.bell.stale)
  | 0x0B0 => some (c.asid.zeroExtend 64)
  | 0x0B2 => some c.tspc
  | 0x0B3 => of32 c.tsst
  | 0x0B4 => of32 c.tspx
  | 0x0B5 => some c.tsinf
  | 0x0B6 => some c.tsadr
  | 0x0B7 => some c.fltpc
  | 0x0B8 => of32 c.fltdis
  | 0x0C0 => some s.sec.almst
  | 0x0C4 => some k.ecccor
  | 0x0C5 => some k.eccunc
  | 0x124 => some s.csgen
  | _ => none

/-- The trap registers (R401). -/
def isTrapSr (n : Nat) : Bool := decide (0x0B2 ≤ n) && decide (n ≤ 0x0B6)

/-- Registers that SRD reads above user privilege only (R345, R348, R380, R401, R430). -/
def srdSup (n : Nat) : Bool :=
  isTrapSr n || n == 0x082 || (decide (0x090 ≤ n) && decide (n ≤ 0x098)) || n == 0x0B7 || n == 0x0B8

/-- Field rules of SRD and SWR (R399, R400). -/
def srLegal (f : SY) (st : Bool) (s : State) : Bool :=
  f.ty == .u64 && f.ln == 1 && f.vp == .propagate && f.rm == .fm && f.fn == 0 && f.ob == .zero && f.oc == .zero &&
    (if st then regOrImm f.oa || isMem f.oa || isAccOp f.oa else oneDst f.oa) && (s.readSr s.self f.srn.toNat).isSome

/-- The row of SRD, SWR or one of SWR's own rows. -/
def srRow (i : Instr) (f : SY) (st : Bool) (body : State → Except Exn Res) (s : State) : Out :=
  coreRow i (fun _ => ⟨f.sp, false, srLegal f st s, usesOf [f.oa]⟩) body s

/-- SRD (R399, R400). -/
def srdBody (f : SY) (s : State) : Except Exn Res := do
  let g := s.self
  let c := s.core g
  c.checkLocals 8 [(f.oa, 8, 8)]
  if srdSup f.srn.toNat && c.user then throw (.flt .priv 0)
  let v := (s.readSr g f.srn.toNat).getD 0
  return .done (s.setCore g ((c.writeU64 8 f.oa v.toNat).opIncs 8 [f.oa]))

/-- SRD. -/
def execSrd (f : SY) (s : State) : Out := srRow (.srd f) f false (srdBody f) s

/-! ### Writing a register -/

/-- Registers SWR never writes: they raise PRIV at every privilege (R192, R197, R207, R320, R338, R367, R378, R385, R405,
R424, R445, R454, R460). -/
def swrNever (n : Nat) : Bool :=
  [0x023, 0x024, 0x060, 0x061, 0x062, 0x063, 0x064, 0x080, 0x081, 0x0A0, 0x0A2, 0x0A8, 0x0B0, 0x0C0, 0x0C4, 0x0C5].contains n ||
    (decide (0x0C8 ≤ n) && decide (n ≤ 0x0CF)) || (decide (0x100 ≤ n) && decide (n ≤ 0x123))

/-- Registers that only firmware writes, or whose every field is RO (R348, R380, R400, R430). -/
def swrFw (n : Nat) : Bool :=
  (decide (0x030 ≤ n) && decide (n ≤ 0x057)) || (decide (0x090 ≤ n) && decide (n ≤ 0x098)) || n == 0x0B7 || n == 0x0B8 ||
    n == 0x124

/-- Registers that SWR writes above user privilege only (R177, R345, R373, R401). -/
def swrSup (n : Nat) : Bool := isTrapSr n || n == 0x021 || n == 0x082 || n == 0x0A1

/-- SWR of a register raises PRIV. -/
def swrPriv (n : Nat) (c : Core) : Bool :=
  swrNever n || (swrFw n && decide (c.pl < 2)) || (swrSup n && c.user)

/-- Write the bits of a mask. -/
def maskPut {w : Nat} (old new m : BitVec w) : BitVec w := (old &&& ~~~m) ||| (new &&& m)

/-- FM after a write (R78). -/
def fmWrite (old v : W32) : W32 :=
  let r := (v.extractLsb' 0 3).toNat
  maskPut old v (if r = 0 ∨ r = 7 then 0x18 else 0x1F)

/-- PX after a write: a type code 0xF stores 0 (R79). -/
def pxWrite (v : W32) : W32 :=
  let t (k : Nat) : W32 := if v.extractLsb' k 4 = 0xF then 0 else (v >>> k) &&& 0xF
  (v &&& 0x10) ||| t 0 ||| (t 8 <<< 8)

/-- Registers of the core under their access codes (R6, R77 to R79, R275, R348, R380, R401). -/
def Core.swr (c : Core) (n : Nat) (v : W64) : Core :=
  let w : W32 := v.extractLsb' 0 32
  if 0x090 ≤ n ∧ n ≤ 0x097 then
    { c with brec := c.brec.set! (n - 0x090) (maskPut (c.brec.getD (n - 0x090) 0) v 0xE700FFFFFFFFFFFF) }
  else match n with
  | 0x010 => { c with st := c.st &&& ~~~(w &&& 0xDF) }
  | 0x011 => { c with fm := fmWrite c.fm w }
  | 0x012 => { c with px := pxWrite w }
  | 0x070 => { c with cepat := maskPut c.cepat v 0x00FFFF00FF0F3F3F }
  | 0x098 => { c with brshc := w &&& 0x77777777 }
  | 0x0B2 => { c with tspc := v }
  | 0x0B3 => { c with tsst := w &&& 0xFE0DF }
  | 0x0B4 => { c with tspx := pxWrite w }
  | 0x0B5 => { c with tsinf := maskPut c.tsinf v 0xFFFF00FFF00000FF }
  | 0x0B6 => { c with tsadr := v }
  | _ => c

/-- What SWR reads: the core with its source read, and the value where every lane is valid (R400). -/
def swrSource (f : SY) (s : State) : Except Exn (Core × Option W64) := do
  let g := s.self
  let c := s.core g
  c.checkLocals 8 [(f.oa, 8, 8)]
  let (c1, l, _) ← c.readElems (s.canFill g) 8 f.oa .u64 1
  let e := l.getD 0 ⟨0, false⟩
  return (c1, if e.v then some (BitVec.ofNat 64 e.b) else none)

/-- SWR of one register: nothing for an invalid source, PRIV, then its write (R400). -/
def swrWith (f : SY) (write : W64 → State → Except Exn Res) (s : State) : Except Exn Res := do
  let g := s.self
  let (c1, v) ← swrSource f s
  match v with
  | none => return .done (s.setCore g (c1.opIncs 8 [f.oa]))
  | some x =>
    if swrPriv f.srn.toNat c1 then throw (.flt .priv 0)
    match ← write x (s.setCore g c1) with
    | .done t => return .done (t.modCore g fun c => c.opIncs 8 [f.oa])
    | r => return r

/-- A mailbox request: its block in an IMMEDIATE page with R and W, at most four unanswered (R345). -/
def mbxWrite (v : W64) (s : State) : Except Exn Res := do
  let g := s.self
  let c := s.core g
  if v.extractLsb' 0 6 ≠ 0 then throw (.flt .align v)
  if inWindow v then throw (.flt .txperm v)
  match s.segs (.core g) (g / 64) (some g) c.asid c.user .rw .current 2 v 128 with
  | .error e => throw (.flt e v)
  | .ok l =>
    if !l.all Seg.imm then throw (.flt .txperm v)
    if 4 ≤ c.mbx.length then throw .stall
    return .done ((s.fillAll (.core g) (g / 64) l).modCore g fun c => { c.makeIrrev with mbx := c.mbx ++ [⟨v, c.actRid, c.asid⟩] })

/-- The write of a register that has no row of its own. -/
def plainWrite (n : Nat) (v : W64) (s : State) : Except Exn Res :=
  let g := s.self
  if n = 0x082 then mbxWrite v s
  else if n = 0x0A1 then
    let m := clusterOfCore g
    .ok (.done (s.setPwr m { s.pwr m with thrrsn := (s.pwr m).thrrsn &&& ~~~(v.extractLsb' 0 32 &&& 0x3F) }))
  else .ok (.done (s.modCore g fun c => c.swr n v))

/-- SWR. -/
def execSwr (f : SY) (s : State) : Out := srRow (.swr f) f true (swrWith f (plainWrite f.srn.toNat)) s

/-- WRITE_SRSEED: zero stores 1 (R71). -/
def execWriteSrseed (f : SY) (s : State) : Out :=
  srRow (.writeSrseed f) f true (swrWith f fun v s =>
    .ok (.done (s.modCore s.self fun c => { c with
      srseed := if v.extractLsb' 0 32 = 0 then 1 else v.extractLsb' 0 32 }))) s

/-- WRITE_MXRP_HLT: writing 1 to HLT discards what is halted (R142, R143, R173). -/
def execWriteMxrpHlt (f : SY) (s : State) : Out :=
  srRow (.writeMxrpHlt f) f true (swrWith f fun v s =>
    let m := clusterOfCore s.self
    let x := s.mxe m
    match x.bindOf (s.core s.self).actRid with
    | some b => .ok (.done (if v.getLsbD 31 && x.hlt b then s.setMxe m (x.discardHalted b) else s))
    | none => .ok (.done s)) s

/-- Addresses from lo up to hi meet the scratchpad window (R180). -/
def meetsWindow (lo hi : Int) : Bool := decide (lo < windowBase + 262144) && decide ((windowBase : Int) < hi)

/-- An operand, or a vector of an epilogue, meets the window. -/
def Desc.meets (d : Desc) (t : Ty) : Bool := meetsWindow d.base.toNat (d.base.toNat + (d.rows - 1) * d.rstr + rowBytes t d.cols)

def vecMeets (n : Nat) (a : Option W64) : Bool := a.any fun v => meetsWindow v.toNat (v.toNat + 4 * n)

/-- A CP that names a counter object of the scratchpad. -/
def Cp.inSpad : Cp → Bool
  | .counter _ => true
  | _ => false

/-- A matrix command reaches the scratchpad of its core (R178). A stream may come to read activation tiles and WSYNC counters
there as long as it lasts, so WSTART and WRESUME do (DEDUCED, log 113). -/
def MxCmd.inSpad (c : MxCmd) : Bool :=
  c.cp.inSpad || isStreamOp c.op ||
  (if c.op = 0xA9 ∨ c.op = 0xAA then (descOf c.first c.ty false false).any (·.meets c.ty) || (descOf c.second c.tb true false).any (·.meets c.tb)
  else if c.op = 0xAB then (descOf c.first c.ty false false).any (·.meets c.ty)
  else if c.op = 0xAC then (match descOf c.first c.ty false true, epilogueOf c.second with
    | some d, some e => d.meets c.ty || vecMeets d.lc e.2.1 || vecMeets d.lc e.2.2
    | _, _ => false)
  else false)

/-- Some run of `len` bytes, at the rows that counts and strides give from an address, meets the window. -/
def rowsMeet (len : Nat) : List (Nat × Int) → Int → Bool
  | [], a => meetsWindow a (a + len)
  | (n, s) :: l, a => (List.range n).any fun i => rowsMeet len l (a + i * s)

/-- Runs of `len` bytes at rows with strides from a base meet the window. -/
def runsMeet (base : W64) (len : Nat) (l : List (Nat × Int)) : Bool := rowsMeet len l base.toNat

/-- A copy reads or writes its core's window (R178, R269, R273); the stored chunks of a conversion to or from compressed form
take at most 16 bytes more for each 4,096 (R154). -/
def CopyCmd.inSpad (c : CopyCmd) : Bool :=
  let h := c.head
  let packed := h.total + 16 * (h.total / 4096 + 1)
  let rows := if h.xop = 1 then h.x0 / h.te else h.n1
  c.cp.inSpad ||
  runsMeet h.sva (if h.xop = 3 then packed else h.x0) [(h.n1, h.ss1), (h.n2, h.ss2), (h.n3, h.ss3)] ||
  (h.xop != 5 && !h.rmt &&
    (if h.xop = 2 then runsMeet h.dva packed []
    else if h.lrh = 0 then runsMeet h.dva h.x0d [(rows, h.ds1), (h.n2, h.ds2), (h.n3, h.ds3)]
    else runsMeet h.dva (h.x0d * rows) [(h.n2, h.ds2), (h.n3, h.ds3)])) ||
  c.fol.any MxCmd.inSpad

/-- A collective reads or writes its core's window (R178, R289). -/
def CollCmd.inSpad (c : CollCmd) : Bool :=
  c.cp.inSpad || runsMeet c.sva c.len [] || runsMeet c.dva c.len []

/-- A distribution has begun a block for core g and not ended it (R178, R275). -/
def CopyRun.dealsTo (r : CopyRun) (g : Nat) : Bool :=
  r.cmd.head.xop == 5 && r.sts.isNone && r.bdone % patBlk r.cmd.cepat != 0 && (r.cmd.dealt r.bdone).1 == g

/-- An access to the core's scratchpad is outstanding: by a command of its own, by a delivery that has begun, or words on their
way into it (R90, R178). -/
def State.spadBusy (s : State) (g : Nat) : Bool :=
  let k := s.chip (g / 64)
  let x := s.mxe (clusterOfCore g)
  (s.mxPending g).any (fun m => m.inSpad || (m.rs && x.halted.any fun p => p.2.cmd.inSpad)) ||
    k.copies.any (fun c => c.core == g && c.inSpad) ||
    k.clIn.any (fun c => c.core == g && c.inSpad) ||
    k.ceRun.any (·.dealsTo g) || !(s.core g).land.isEmpty ||
    (match x.stream with
      | some t => t.outst.any fun o => o.core == g
      | none => false)

/-- A new split: the highest offsets, which L1 takes or gives back, lose their contents; a shrinking L1 first moves its log
entries out (R178). -/
def Core.setSplit (c : Core) (n : Nat) : Core :=
  let old := (c.spcfg.extractLsb' 0 3).toNat
  let c := if n < old then { c.cleanL1 with l1 := [] } else c
  let d := { c with spcfg := putField c.spcfg 0 3 n }
  { d with
    spad := d.spad.filter fun x => decide (x.1 * 4 < min c.spsize d.spsize)
    spBad := d.spBad.filter fun w => decide (w * 4 < min c.spsize d.spsize) }

/-- WRITE_SPCFG (R177, R178). -/
def execWriteSpcfg (f : SY) (s : State) : Out :=
  srRow (.writeSpcfg f) f true (swrWith f fun v s =>
    let g := s.self
    let n := (v.extractLsb' 0 3).toNat
    if 4 < n ∨ n = ((s.core g).spcfg.extractLsb' 0 3).toNat then .ok (.done s)
    else if !(s.core g).pend.isEmpty || s.spadBusy g then .error .stall
    else .ok (.done (s.modCore g fun c => c.setSplit n))) s

/-- SPPWR as a write leaves it at once, and the banks whose change comes later: bits 2:0 going off, 5:3 waking (R183). -/
def Core.askBanks (c : Core) (v : BitVec 6) : Core :=
  (List.range 3).foldl (fun d b =>
    let old := c.bankState b
    let new := (v.extractLsb' (2 * b) 2).toNat
    if new = 3 ∨ new = old then d
    else if new = 2 then { d with bankPend := putField d.bankPend b 1 1 }
    else if old = 2 then { d with bankPend := putField d.bankPend (3 + b) 1 1 }
    else { d with sppwr := putField d.sppwr (2 * b) 2 new }) c

/-- The write of SPPWR from its issue: it waits where a bank changes later. -/
def sppwrAsk (v : W64) (s : State) : Except Exn Res :=
  let g := s.self
  let d := (s.core g).askBanks (v.extractLsb' 0 6)
  if d.bankPend = 0 then .ok (.done (s.setCore g d))
  else .ok (.hold (s.setCore g { d with wait := .sp (v.extractLsb' 0 6) }))

/-- WRITE_SPPWR reads its source once, and completes when every bank has reached its state (R183). -/
def sppwrBody (f : SY) (s : State) : Except Exn Res :=
  match (s.core s.self).wait with
  | .sp _ =>
    if (s.core s.self).bankPend = 0 then .ok (.done (s.modCore s.self fun c => c.opIncs 8 [f.oa])) else .error .stall
  | _ => swrWith f sppwrAsk s

/-- WRITE_SPPWR. -/
def execWriteSppwr (f : SY) (s : State) : Out := srRow (.writeSppwr f) f true (sppwrBody f) s

/-- A bank turns off and loses its contents (R183). -/
def Core.bankOffNow (c : Core) (b : Nat) : Core :=
  if b < 3 ∧ c.bankPend.getLsbD b then
    { c with
      sppwr := putField c.sppwr (2 * b) 2 2
      bankPend := putField c.bankPend b 1 0
      spad := c.spad.filter fun x => x.1 * 4 / 64 % 3 != b
      spBad := c.spBad.filter fun w => w * 4 / 64 % 3 != b }
  else c

/-- An access to a bank that was accepted has not finished: words on their way into it, a distributed block begun, a load or
atomic in flight that returns there (R183). -/
def State.bankBusy (s : State) (g b : Nat) : Bool :=
  (s.core g).land.any (fun x => (banksOf x.2.1 4).contains b) || (s.chip (g / 64)).ceRun.any (·.dealsTo g) ||
    (s.core g).pend.any fun p => match p.kind with
      | .load _ (.spad off) _ ln => (banksOf off (fpOf ln)).contains b
      | .amo _ _ _ _ _ (.spad off) => (banksOf off 8).contains b
      | _ => false

/-- BANK_OFF_EFFECTIVE: once every access accepted before has finished (R183). -/
def execBankOffEffective (g bank : Nat) (s : State) : Out :=
  onCore g s fun s => if s.bankBusy g bank then s else s.modCore g fun c => c.bankOffNow bank

/-- The state a waking bank takes: that of the waiting write, run where it has gone. -/
def Core.wakeTo (c : Core) (b : Nat) : Nat :=
  match c.wait with
  | .sp v => (v.extractLsb' (2 * b) 2).toNat
  | _ => 0

/-- BANK_WAKE: 40 cycles later the bank is up (R183). -/
def execBankWake (g bank : Nat) (s : State) : Out :=
  onCore g s fun s => s.modCore g fun c =>
    if bank < 3 ∧ c.bankPend.getLsbD (3 + bank) then
      { c with sppwr := putField c.sppwr (2 * bank) 2 (c.wakeTo bank), bankPend := putField c.bankPend (3 + bank) 1 0 }
    else c

/-! ### TRAP and ERET -/

/-- TRAP (R402). -/
def trapBody (i : Instr) (f : M3) (s : State) : Except Exn Res :=
  let g := s.self
  let c := s.core g
  let n := (c.pOrImm f.ob).extractLsb' 0 12
  if c.trapActive then .error (.flt .priv 0)
  else match c.act.bind fun a => s.region a.rid with
    | none => .ok (.gone (s.kill c.asid 2 FCode.hempty.code))
    | some r => match s.handler (g / 64) r r.fhix with
      | none => .ok (.gone (s.kill c.asid 2 FCode.hempty.code))
      | some e =>
        if !e.sup then .ok (.gone (s.kill c.asid 2 FCode.priv.code))
        else .ok (.gone (s.modCore g fun c => c.enterTrap e (nextSlot c.pc) c.pc 0 (foldInstr c.crc i) n 0))

/-- A number operand: Pn, or an immediate 0 … 4,095 (R402, R446). -/
def numOperand (o : Operand) : Bool :=
  match o with
  | .reg _ _ => true
  | .imm v => !v.msb
  | _ => false

/-- TRAP. -/
def execTrap (f : M3) (s : State) : Out :=
  coreRow (.trap f) (shapeM3 f fun t => fixedM3 f t .i8 0 && !f.sp && f.fn == 0 && numOperand f.ob &&
    absent [f.od, f.oa, f.oc]) (trapBody (.trap f) f) s

/-- ERET; GIN and GLD, read-only, show the gang as it is (R338, R403); a PHASE or BARR that a trap interrupted in its wait goes on waiting (R240). -/
def Core.eret (c : Core) : Except Exn Core :=
  if c.user || !c.trapActive then .error (.flt .priv 0)
  else if c.tsst.extractLsb' 14 2 = 3 ∨ c.pl < (c.tsst.extractLsb' 14 2).toNat then .error (.flt .priv 0)
  else if !slotOk c.tspc then .error (.flt .align c.tspc)
  else .ok { c with
    st := (c.tsst &&& ~~~0xC0000) ||| (c.st &&& 0xC0000), px := c.tspx, crc := c.tsinf.extractLsb' 48 16, tsinf := c.tsinf &&& ~~~0x10000
    pc := c.tspc, entered := .resumed, safe := none, trapWait := none
    wait := match c.trapWait with
      | some (pc, w) => if pc = c.tspc then w else .none
      | none => .none }

/-- ERET. -/
def execEret (f : M3) (s : State) : Out :=
  coreRow (.eret f) (shapeM3 f fun t => fixedM3 f t .i8 0 && !f.sp && f.fn == 0 && absent [f.od, f.oa, f.ob, f.oc])
    (fun s => match (s.core s.self).eret with
      | .ok c => .ok (.gone (s.setCore s.self c))
      | .error e => .error e) s

/-! ### TLBINV (R396) -/

/-- What an invalidation leaves of a cache: IMMEDIATE translations in range go, PHASED ones are marked (R396). -/
def tlbDrop (v : Inval) (l : List TlbEntry) : List TlbEntry :=
  (l.filter fun e => !(v.covers e && e.leaf.getLsbD 5)).map fun e => if v.covers e then { e with stale := true } else e

/-- The phase groups whose members hold an address space (R396). -/
def State.groupsOf (s : State) (asid : W16) : List W16 :=
  (s.cores.flatMap fun (x : Nat × Core) =>
    (x.2.brec.toList.filter fun r => recV r && recAsid r == asid).map recPhg).eraseDups

/-- Chiplets that take a TLBINV broadcast: compute and edge chiplets in service (R396; log 33). -/
def State.invalChips (s : State) : List Nat :=
  (s.chips.filter fun x => (Config.isCompute x.1 || Config.isEdge x.1) && x.2.peal == 6).map (·.1)

/-- TLBINV of a range: broadcast, then wait for every chiplet (R396). -/
def tlbinvBody (range : Core → Except Exn (Nat × Nat)) (s : State) : Except Exn Res :=
  let g := s.self
  let c := s.core g
  match c.wait with
  | .tlbinv id => if s.chips.any fun x => x.2.invals.any fun v => v.id == id then .error .stall else .ok (.done s)
  | _ =>
    if c.user then .error (.flt .priv 0)
    else match range c with
      | .error e => .error e
      | .ok (lo, hi) =>
        let id := s.invalNext
        let t := s.invalChips.foldl (fun t n => t.modChip n fun k => { k with invals := k.invals ++ [⟨id, c.asid, lo, hi⟩] })
          { s with invalNext := id + 1 }
        .ok (.hold (t.modCore g fun c => { c with wait := .tlbinv id }))

/-- Field rules of TLBINV: the registers it names, the other operands absent. -/
def tlbinvLegal (f : M3) (t : Ty) (fn : BitVec 10) : Bool :=
  fixedM3 f t .u64 1 && f.fn == fn && absent [f.od, f.oc] &&
    (if fn = 2 then f.oa == .zero else isRegOp f.oa) && (if fn = 1 then isRegOp f.ob else f.ob == .zero)

/-- TLBINV_PAGE. -/
def execTlbinvPage (f : M3) (s : State) : Out :=
  coreRow (.tlbinvPage f) (shapeM3 f fun t => tlbinvLegal f t 0) (tlbinvBody fun c =>
    let a := c.preg (regOf f.oa)
    if canonical a then .ok (a.toNat, a.toNat + 1) else .error (.flt .txnp a)) s

/-- TLBINV_RANGE. -/
def execTlbinvRange (f : M3) (s : State) : Out :=
  coreRow (.tlbinvRange f) (shapeM3 f fun t => tlbinvLegal f t 1) (tlbinvBody fun c =>
    let a := c.preg (regOf f.oa)
    let l := c.preg (regOf f.ob)
    if !canonical a then .error (.flt .txnp a)
    else if l ≠ 0 ∧ !canonical (a + l - 1) then .error (.flt .txnp (a + l - 1))
    else .ok (a.toNat, a.toNat + l.toNat)) s

/-- TLBINV_ASID. -/
def execTlbinvAsid (f : M3) (s : State) : Out :=
  coreRow (.tlbinvAsid f) (shapeM3 f fun t => tlbinvLegal f t 2) (tlbinvBody fun _ => .ok (0, 2 ^ 64)) s

/-- The host ports of an edge chiplet. -/
def portsAt (n : Nat) : List Nat := (List.range 8).filter fun p => Config.hostPortChip p == n

/-- The caches of chiplet n under an invalidation: its own, its cores', its host port's for the address space. The groups that
have still to acquire are noted. -/
def State.invalidateAt (s : State) (n : Nat) (v : Inval) : State :=
  let groups := s.groupsOf v.asid
  let s := s.modChip n fun k => { k.mapTlbs (tlbDrop v) with
    phinv := if groups.isEmpty || decide (v.hi ≤ v.lo) then k.phinv else k.phinv ++ [(v, groups)] }
  let s := { s with cores := s.cores.map fun (x : Nat × Core) =>
    if x.1 / 64 == n then (x.1, { x.2 with tlb := tlbDrop v x.2.tlb }) else x }
  let pasid := match KV.find s.spaces v.asid.toNat with
    | some r => r.pasid.toNat
    | none => 0
  if v.hi ≤ v.lo then s
  else (portsAt n).foldl (fun t p => t.setPort p { t.port p with atc := (t.port p).atc.filter fun x => x.1 != pasid }) s

/-- TLBINV_BROADCAST: chiplet n carries out the oldest broadcast it has received (R396). -/
def execTlbinvBroadcast (n : Nat) (s : State) : Out :=
  onSite n s fun s => match (s.chip n).invals with
    | [] => s
    | v :: l => (s.invalidateAt n v).modChip n fun k => { k with invals := l }

/-! ### Walks (R394) -/

/-- Chiplet n may miss on an address space: an edge chiplet, or a compute chiplet with a core bound to it (R393). -/
def State.mayMiss (s : State) (n : Nat) (asid : W16) : Bool :=
  Config.isEdge n || Config.isCompute n && s.cores.any fun (x : Nat × Core) =>
    x.1 / 64 == n && x.2.brec.toList.any fun r => recV r && recAsid r == asid

/-- PAGE_WALK: a walker of chiplet n reads the tables for an address that its cache misses, and fills it. -/
def execPageWalk (n asid : Nat) (va : W64) (s : State) : Out :=
  onSite n s fun s =>
    let a : W16 := BitVec.ofNat 16 asid
    if (tlbFind (s.chip n).tlb a va).isSome || !s.mayMiss n a then s
    else match s.walk a va with
      | .ok (leaf, size) => s.fillTlb .shared n ⟨a, va.toNat / size, size, leaf, false⟩
      | .error _ => s

/-! ### XLAT (R404) -/

/-- SZ of a page size. -/
def szOf (size : Nat) : BitVec 3 := if size = 65536 then 1 else if size = 2 ^ 21 then 2 else if size = 2 ^ 30 then 3 else 0

/-- The word XLAT writes. -/
def xlatWord (code : Byte) (sz : BitVec 3) (frame : BitVec 30) (bits : BitVec 12) : W64 :=
  bit1 (code == 0) ++ sz ++ 0#4 ++ code ++ 0#6 ++ frame ++ bits

/-- The access XLAT asks about. -/
def xlatNeed (fn : BitVec 10) : Need :=
  match fn.toNat with
  | 0 => .r
  | 1 => .w
  | 2 => .x
  | _ => .wx

/-- The answer of XLAT, with the 4 KiB frame that the address lies in, and the translation it used (R404). -/
def State.xlat (s : State) (g : Nat) (va : W64) (need : Need) : W64 × Option TlbEntry :=
  let c := s.core g
  if inWindow va then
    (if c.spsize ≤ windowOff va then xlatWord FCode.txnp.code 0 0 0
     else match need with
       | .x => xlatWord FCode.txperm.code 0 0 0
       | .wx => xlatWord FCode.wxperm.code 0 0 0
       | _ => xlatWord 0 0 0 7, none)
  else if !canonical va then (xlatWord FCode.txnp.code 0 0 0, none)
  else match s.lookup (.core g) (g / 64) c.asid va with
    | .error f => (xlatWord f.code 0 0 0, none)
    | .ok e =>
      match (if e.leaf.getLsbD 6 then do
          let up ← s.curFor (some g) (← s.selectPa (.core g) (g / 64) c.asid e.leaf)
          Except.ok (if up then frameOf e.leaf + 1 else frameOf e.leaf)
        else Except.ok ((frameOf e.leaf * 4096 / e.size * e.size + va.toNat % e.size) / 4096)) with
      | .error f => (xlatWord f.code 0 0 0, none)
      | .ok fr =>
        let marked := hkOf e.leaf != 2 && s.marked fr
        let code := match permCheck e.leaf c.user marked need with
          | some f => f.code
          | none => 0
        (xlatWord code (szOf e.size) (if c.user then 0 else BitVec.ofNat 30 fr) (e.leaf.extractLsb' 0 12), some e)

/-- XLAT (R404). -/
def xlatBody (f : M3) (s : State) : Except Exn Res := do
  let g := s.self
  let c := s.core g
  c.checkLocals 8 [(f.od, 8, 8)]
  let x := s.xlat g (c.preg (regOf f.oa)) (xlatNeed f.fn)
  let s1 := match x.2 with
    | some e => s.fillTlb (.core g) (g / 64) e
    | none => s
  return .done (s1.modCore g fun c => (c.writeU64 8 f.od x.1.toNat).opIncs 8 [f.od])

/-- XLAT. -/
def execXlat (f : M3) (s : State) : Out :=
  coreRow (.xlat f) (shapeM3 f fun t => fixedM3 f t .u64 1 && decide (f.fn.toNat ≤ 3) && isRegOp f.oa && oneDst f.od &&
    !incClash f.od [f.oa] && absent [f.ob, f.oc]) (xlatBody f) s

/-! ### SCRUB (R439) -/

/-- Zero physical bytes [a, a + n). -/
def State.zeroBytes (s : State) (a n : Nat) : State :=
  { s with mem := s.mem.filter fun x => !(decide (a ≤ x.1) && decide (x.1 < a + n)) }

/-- Every cached copy of the lines [l, l + n) goes. -/
def State.dropCopies (s : State) (l n : Nat) : State :=
  let hit (k : Nat) : Bool := decide (l ≤ k) && decide (k < l + n)
  { s with
    cores := s.cores.map fun (x : Nat × Core) => (x.1, { x.2 with l1 := x.2.l1.filter fun y => !hit y.line })
    chips := s.chips.map fun (x : Nat × Chip) => (x.1, { x.2 with l2 := x.2.l2.map fun (y : Nat × L2Set) =>
      (y.1, { y.2 with ways := y.2.ways.filter fun w => !hit w.2 }) }) }

/-- Rewrite [a, a + n) as zeros, with its poison cleared and no copy left (R438, R439). -/
def State.scrubBytes (s : State) (a n : Nat) : State :=
  let t := (s.zeroBytes a n).dropCopies (a / 128) (n / 128)
  { t with poison := t.poison.filter fun l => !(decide (a / 128 ≤ l) && decide (l < a / 128 + n / 128)) }

/-- The frames of a SCRUB and the place of its address (R439). -/
def State.scrubPlace (s : State) (g : Nat) (va : W64) : Except FCode (List Nat × Nat × TlbEntry) :=
  let c := s.core g
  if inWindow va then .error .txperm
  else if !canonical va then .error .txnp
  else match s.lookup (.core g) (g / 64) c.asid va with
    | .error f => .error f
    | .ok e =>
      if hkOf e.leaf = 2 || !e.leaf.getLsbD 2 then .error .txperm
      else if e.leaf.getLsbD 6 then
        (s.selectPa (.core g) (g / 64) c.asid e.leaf).map fun sp =>
          ([frameOf e.leaf, frameOf e.leaf + 1],
            (frameOf e.leaf + if s.curOf g sp then 1 else 0) * 4096 + va.toNat % 4096, e)
      else
        let pa := frameOf e.leaf * 4096 / e.size * e.size + va.toNat % e.size
        .ok ([pa / 4096], pa, e)

/-- SCRUB (R439). -/
def scrubBody (f : M3) (page : Bool) (s : State) : Except Exn Res := do
  let g := s.self
  let c := s.core g
  if c.user then throw (.flt .priv 0)
  let va := c.preg (regOf f.oa)
  match s.scrubPlace g va with
  | .error e => throw (.flt e va)
  | .ok (fr, pa, e) =>
    if !page && fr.any s.marked then throw (.flt .quar va)
    if homesClash c.pend [homeOf e.leaf pa] then throw .stall
    let t := (s.fillTlb (.core g) (g / 64) e).makeIrrev g
    if page then
      let t := fr.foldl (fun t k => t.scrubBytes (4096 * k) 4096) t
      return .done { t with
        marks := t.marks.filter fun k => !fr.contains k
        writers := t.writers.filter fun x => !fr.contains x.1 }
    else return .done ((t.scrubBytes (pa / 128 * 128) 128).noteWriter c.asid [.pa pa])

/-- Field rules of SCRUB (R439). -/
def scrubLegal (f : M3) (t : Ty) (fn : BitVec 10) : Bool :=
  fixedM3 f t .u64 1 && f.fn == fn && isRegOp f.oa && absent [f.od, f.ob, f.oc]

/-- SCRUB_PAGE. -/
def execScrubPage (f : M3) (s : State) : Out :=
  coreRow (.scrubPage f) (shapeM3 f fun t => scrubLegal f t 0) (scrubBody f true) s

/-- SCRUB_LINE. -/
def execScrubLine (f : M3) (s : State) : Out :=
  coreRow (.scrubLine f) (shapeM3 f fun t => scrubLegal f t 1) (scrubBody f false) s

/-! ### PWRB (R405, R406) -/

/-- PWRB: the old PWRCAP to D, then the new one. -/
def pwrbWork (f : M3) (new : Core → W32) : Work := fun c _ => do
  if f.od != .zero then c.checkLocals 4 [(f.od, 4, 4)]
  let d := (c.writeU32 4 f.od c.pwrcap.toNat).opIncs 4 [f.od]
  return ({ d with pwrcap := new c }, none)

/-- Field rules of PWRB. -/
def pwrbLegal (f : M3) (t : Ty) (fn : BitVec 10) : Bool :=
  fixedM3 f t .u32 0 && f.fn == fn && (oneDst f.od || f.od == .zero) && !incClash f.od [f.oa] && absent [f.ob, f.oc] &&
    (if fn = 1 then f.oa == .zero else match f.oa with
      | .reg _ _ => true
      | .imm v => decide (1 ≤ v.toNat) && decide (v.toNat ≤ 16)
      | _ => false)

/-- The cap of a signed value (R406). -/
def capOf (x : W64) : Nat := if x.toInt ≤ 1 then 1 else if 16 ≤ x.toInt then 16 else x.toNat

/-- PWRB_CAP. -/
def execPwrbCap (f : M3) (s : State) : Out :=
  coreRow (.pwrbCap f) (shapeM3 f fun t => pwrbLegal f t 0)
    (onOwnCore (pwrbWork f fun c => putField c.pwrcap 0 5 (capOf (c.pOrImm f.oa)))) s

/-- PWRB_GATE. -/
def execPwrbGate (f : M3) (s : State) : Out :=
  coreRow (.pwrbGate f) (shapeM3 f fun t => pwrbLegal f t 1) (onOwnCore (pwrbWork f fun c => c.pwrcap ||| 0x100)) s

/-! ### BRK (R446) -/

/-- The other members of the core's gang could be stopped now (R343, R446). -/
def State.othersStop (s : State) (g : Nat) : Bool := (s.actCores g).all fun k => k == g || (s.partStop k).isSome

/-- BRK where debugging is enabled: the activation stops as in a wait, a gang's as a whole, and the host hears of it. -/
def State.brkAt (s : State) (g : Nat) (a : Act) (i : Instr) (n : Nat) : State :=
  let t := (s.actCores g).foldl (fun t k => if k = g then t else match s.partStop k with
    | some (pc, m, w, crc) => (t.modCore k fun c => c.suspend pc m w crc).noteWaits k
    | none => t) s
  let t := t.modCore g fun c => { c.suspend (nextSlot c.pc) allLive 0 (foldInstr c.crc i) with brkStop := c.brkStop ++ [a.brec] }
  (t.event 2 0 (s.core g).asid (g / 64) (g % 64) a.rid.toNat n 0 1).noteWaits g

/-- BRK (R446). -/
def brkBody (i : Instr) (f : M3) (s : State) : Except Exn Res :=
  let g := s.self
  let c := s.core g
  let on := match s.space? c.asid with
    | some r => r.debug
    | none => false
  match c.act with
  | some a =>
    if !on || c.trapActive then .ok (.done s)
    else if !c.pend.isEmpty || !s.othersStop g then .error .stall
    else .ok (.gone (s.brkAt g a i ((c.pOrImm f.ob).extractLsb' 0 12).toNat))
  | none => .ok (.done s)

/-- BRK. -/
def execBrk (f : M3) (s : State) : Out :=
  coreRow (.brk f) (shapeM3 f fun t => fixedM3 f t .i8 0 && !f.sp && f.fn == 0 && numOperand f.ob &&
    absent [f.od, f.oa, f.oc]) (brkBody (.brk f) f) s

/-! ### SIGCHK (R442) -/

/-- SIGCHK. -/
def execSigchk (sp : Bool) (sig : BitVec 16) (s : State) : Out :=
  coreRow (.sigchk sp sig) (fun _ => ⟨sp, false, true, Uses.none⟩) (fun s =>
    if foldInstr (s.core s.self).crc (.sigchk sp sig) == sig then .ok (.done s) else .error (.flt .sigm 0)) s

end Sys2Proof.Machine
end

