-- ==== Sys2Proof/Machine/Phase.lean ====
section
/-! DEFINITION. Phase boundaries (R196, R198, R199, R204, R211, R216) and the kill of an address space at a chiplet
(R437, R438). -/

namespace Sys2Proof.Machine

/-! ### Boundaries -/

/-- A core is a member of a group: a valid bind record names it (R196). -/
def Core.inGroup (c : Core) (phg : W16) : Bool := c.brec.toList.any fun r => recV r && recPhg r == phg

/-- Members of a group, ascending. -/
def State.members (s : State) (phg : W16) : List Nat :=
  (s.cores.filter fun (x : Nat × Core) => x.2.inGroup phg).map (·.1)

/-- BOUNDARY_START: the start of each boundary in progress reaches core g (R199). -/
def State.boundaryStart (s : State) (g : Nat) : State :=
  { s with groups := s.groups.map fun (x : Nat × PGroup) =>
    if x.2.started && (s.core g).inGroup (BitVec.ofNat 16 x.1) && !x.2.heard.contains g then
      (x.1, { x.2 with heard := g :: x.2.heard }) else x }

/-- BOUNDARY_START. -/
def execBoundaryStart (g : Nat) (s : State) : Out := onCore g s fun s => (s.boundaryStart g).noteWaits g

/-- An entry that a boundary of its group releases: committed, or of an activation that has executed PHASE (R198, R208). -/
def Core.releases (c : Core) (phg : W16) (e : LogEntry) : Bool :=
  e.phg == phg && (e.committed || c.activations.any fun a => a.phased && ownEntry a e)

/-- The order of R204: address, logical core number, key, program order. -/
def mergeLe (a b : LogEntry) : Bool :=
  if a.addr ≠ b.addr then decide (a.addr < b.addr)
  else if mergeRank a ≠ mergeRank b then decide (mergeRank a < mergeRank b)
  else decide (a.pos ≤ b.pos)

/-- Insert an entry after those it does not precede. -/
def mergeInsert (e : LogEntry) : List LogEntry → List LogEntry
  | [] => [e]
  | x :: l => if mergeLe x e then x :: mergeInsert e l else e :: x :: l

/-- Entries in the order of R204, equal ones in the order given. -/
def mergeSort (l : List LogEntry) : List LogEntry := l.foldl (fun t e => mergeInsert e t) []

/-- The runs of sorted entries (R204). -/
def runsOf : List LogEntry → List (List LogEntry)
  | [] => []
  | e :: l =>
    match runsOf l with
    | (x :: r) :: rs => if sameRun e x then (e :: x :: r) :: rs else [e] :: (x :: r) :: rs
    | rs => [e] :: rs

/-- Entries that the boundary applies, from every core's log. -/
def State.released (s : State) (phg : W16) : List LogEntry :=
  s.cores.flatMap fun (x : Nat × Core) => x.2.log.filter (x.2.releases phg)

/-- apply_boundary of R204: memory with the group's entries applied, their frames without a writer (R438), and other copies of
changed lines dropped from L2, which keeps a line in the slice that is its home; the lines of the logs become free, what they
had displaced being gone (R186, R190, R198). -/
def State.applyLog (s : State) (phg : W16) : State :=
  let l := s.released phg
  let lines := l.map (·.addr / 128)
  let frames := l.map (·.addr / 4096)
  { s with
    mem := (runsOf (mergeSort l)).foldl applyRun s.mem
    writers := s.writers.filter fun x => !frames.contains x.1
    cores := s.cores.map fun (x : Nat × Core) =>
      let log := x.2.log.filter fun e => !x.2.releases phg e
      (x.1, { x.2 with log := log, spill := if x.2.inGroup phg then log.any fun e => !e.inL1 else x.2.spill })
    chips := s.chips.map fun (x : Nat × Chip) => (x.1, { x.2 with l2 := x.2.l2.map fun (y : Nat × L2Set) =>
      let z := y.2.logged x.2 (s.logLines x.1 (y.1 / 4096) (y.1 % 4096))
      (y.1, { z with ways := z.ways.filter fun w => !lines.contains w.2 || z.home.contains w.1 }) }) }

/-- A pending publication takes effect at its home: CUR turns, CNT rises, PEND clears (R211). Cores keep the copy of CUR
they hold until their own acquire. -/
def State.flip (s : State) (sel : Nat) : State :=
  let word := (Loc.ofKey sel).span 8
  let v : W64 := BitVec.ofNat 64 (leNat (s.bytesAt word))
  let old := v.getLsbD 0
  let t := { s with cores := s.cores.map fun (x : Nat × Core) =>
    (x.1, if (KV.find x.2.cur sel).isSome then x.2 else { x.2 with cur := KV.put sel old x.2.cur }) }
  let n : W64 := ((v >>> 2) + 1) <<< 2 ||| (if old then 0 else 1)
  t.putBytes (word.zip (leBytes 8 n.toNat))

/-- A member's part of the acquire: its own steps now, or at restore where only suspended activations wait in PHASE, the
translations marked for it apart (R198, R216, R228). -/
def Core.acquireFor (c : Core) (phg : W16) : Core :=
  let mine (a : Act) : Bool := recPhg (c.brec.getD a.brec 0) == phg
  let later := !c.act.any (fun a => mine a && a.phased) && c.recq.toList.any fun q => match q.image with
    | some m => m.act.phased && mine m.act
    | none => false
  let past (m : Image) : Image := if mine m.act then { m with act := { m.act with phased := false } } else m
  let on (w : Wait) : Wait := if w == .phase && c.act.any mine then .acquired else w
  let d := if later then { c with tlb := c.tlb.filter fun e => !e.stale, owed := phg :: c.owed.filter (· != phg) }
    else { c.acquire with owed := c.owed.filter (· != phg) }
  { d with
    act := d.act.map (fun a => if mine a then { a with phased := false } else a)
    wait := on d.wait
    trapWait := d.trapWait.map fun x => (x.1, on x.2)
    recq := d.recq.map fun q => { q with image := q.image.map past } }

/-- The acquire of a group at a chiplet: the translations of these address spaces that are marked go, and the group has acquired
after every invalidation so far (R216, R396). -/
def Chip.acquired (k : Chip) (phg : W16) (asids : List W16) : Chip :=
  { k.mapTlbs fun l => l.filter fun e => !(e.stale && asids.contains e.asid) with
    phinv := (k.phinv.map fun p => (p.1, p.2.filter (· != phg))).filter fun p => !p.2.isEmpty }

/-- A boundary of a group with members l drops an address space's marked translations at chiplet n: where the group has
members, where no core holds the address space any more, and at the edge, where apertures use them (R216, R396). -/
def State.drops (s : State) (l : List Nat) (n : Nat) (asid : W16) : Bool :=
  Config.isEdge n || l.any (fun g => g / 64 == n) ||
    !s.cores.any fun (x : Nat × Core) => x.1 / 64 == n && x.2.brec.toList.any fun r => recV r && recAsid r == asid

/-- PHASE_BARRIER_COMPLETE: every member has arrived; the boundary completes in the order of R198. -/
def State.boundary (s : State) (phg : W16) : State :=
  let x := s.pgroup phg
  let l := s.members phg
  if x.started && l.all (s.arrived phg) then
    let t := s.applyLog phg
    let t := (x.pubs.filter fun p => !p.2).foldl (fun t p => t.flip p.1) t
    let t := t.setGroup phg { x with
      phase := x.phase + 1, started := false, heard := []
      pubs := (x.pubs.filter fun p => p.2).map fun p => (p.1, false) }
    let t := l.foldl (fun t g => t.modCore g fun c => c.acquireFor phg) t
    let asids := l.flatMap fun g => ((t.core g).brec.toList.filter recV).map recAsid
    let t := { t with chips := t.chips.map fun (y : Nat × Chip) => (y.1, y.2.acquired phg (asids.filter (s.drops l y.1))) }
    l.foldl (fun t g => t.noteWaits g) t
  else s

/-- PHASE_BARRIER_COMPLETE. -/
def execPhaseBarrierComplete (phg : Nat) (s : State) : Out := .next (s.boundary (BitVec.ofNat 16 phg))

/-! ### Kill (R437) -/

/-- Frames to which a core has a write or log entry pending for an address space (R438). -/
def Core.pendingFrames (c : Core) (asid : W16) : List Nat :=
  ((c.log.filter fun e => e.asid == asid).map fun e => e.addr / 4096) ++
    (c.pend.filter fun p => p.asid == asid).flatMap fun p =>
      let of (l : List Loc) : List Nat := l.filterMap fun x => match x with
        | .pa a => some (a / 4096)
        | .host _ _ _ => none
      match p.kind with
      | .load _ _ _ _ => []
      | .store b => of (b.map (·.1))
      | .amo _ _ place _ _ _ => of place

/-- A core bound to an address space. -/
def Core.boundTo (c : Core) (asid : W16) : Bool := c.brec.toList.any fun r => recV r && recAsid r == asid

/-- What the kill leaves of a core (R437): no activation, image, message, report, log entry, translation or bind record of
the address space. -/
def Core.killed (c : Core) (asid : W16) : Core :=
  let log := c.log.filter fun e => e.asid != asid
  let spill := if log.length = c.log.length then c.spill else log.any fun e => !e.inL1
  if !c.boundTo asid then { c with tlb := c.tlb.filter fun e => e.asid != asid, log := log, spill := spill }
  else
    let d := if c.asid = asid ∧ c.act.isSome then { c.endAct with tsinf := c.tsinf &&& ~~~0x10000, fetch := [] } else c
    let gone (i : Fin 8) : Bool := recAsid (c.brec.getD i.val 0) == asid
    let d := { d.leaveGang with
      recq := Vector.ofFn fun i => if gone i then RecQ.reset else d.rq i.val
      brec := Vector.ofFn fun i => if gone i then 0 else d.brec.getD i.val 0
      brkStop := d.brkStop.filter fun i => recAsid (c.brec.getD i 0) != asid
      outbox := d.outbox.filter fun p => p.asid != asid
      log := log, spill := spill
      tlb := d.tlb.filter fun e => e.asid != asid
      mbx := [], mxFlags := 0, mxBad := none }
    d.settleOwed

/-- What the kill leaves of a matrix engine: no bind, slot, command or stream of the address space; tiles it leaves
without an owner (R123, R144, R175, R437). -/
def Mxe.killed (x : Mxe) (asid : W16) : Mxe :=
  let dead (b : Nat) : Bool := bindV (x.bind.getD b 0) && bindAsid (x.bind.getD b 0) == asid
  { x with
    bind := Vector.ofFn fun i => if dead i.val then 0 else x.bind.getD i.val 0
    rid := Vector.ofFn fun i => if dead i.val then 0 else x.rid.getD i.val 0
    held := x.held &&& ~~~BitVec.ofNat 16 (bitsNat ((List.range 16).map dead))
    slot := x.slot.map fun w => if slotUsed w && dead (slotBind w) then 0 else w
    inbox := x.inbox.filter fun p => !dead p.1
    run := x.run.filter fun r => r.cmd.asid != asid
    susp := x.susp.filter fun r => r.cmd.asid != asid
    halted := x.halted.filter fun p => !dead p.1
    rp := x.rp.filter fun p => !dead p.1
    stream := x.stream.filter fun t => t.cmd.asid != asid }

/-- What the kill leaves of a chiplet's engines, tables and caches (R175, R193, R283, R437). -/
def Chip.killed (k : Chip) (asid : W16) (rids : List Nat) : Chip :=
  { k.mapTlbs (fun l => l.filter fun e => e.asid != asid) with
    phinv := k.phinv.filter fun p => p.1.asid != asid
    mxe := k.mxe.map fun x => x.killed asid
    ceIn := k.ceIn.map fun l => l.filter fun c => c.asid != asid
    ceRun := k.ceRun.filter fun r => r.cmd.asid != asid
    clIn := k.clIn.filter fun c => c.asid != asid
    sendq := k.sendq.filter fun p => p.asid != asid
    rctl := k.rctl.map fun w => if retV w && retAsid w == asid then w &&& 0x7FFFFFFFFFFFFFFF else w
    teams := k.teams.filter fun t => !rids.contains t.1
    forward := k.forward.filter fun f => !rids.contains (f.1 / 64)
    shares := k.shares.filter fun h => !rids.contains h.rid.toNat
    ovfUse := k.ovfUse.filter fun u => !rids.contains u.1
    ovfRef := k.ovfRef.filter fun u => !rids.contains u.1 }

/-- A wait at a barrier that is broken in generation g: it raises BROKEN, whatever becomes of the object later (R238). -/
def Wait.break (w : Wait) (place : List Loc) (gen : W32) : Wait :=
  match w with
  | .barrier va l k => if l = place ∧ k = gen then .broken va else w
  | _ => w

/-- BRK at one barrier: every member waiting there raises BROKEN (R238). -/
def State.breakBarr (s : State) (asid : W16) (place : List Loc) : State :=
  let b := s.barrAt place
  let t := s.putBarr asid place { b with brk := true }
  { t with cores := t.cores.map fun (x : Nat × Core) => (x.1, { x.2 with
      wait := x.2.wait.break place b.gen
      trapWait := x.2.trapWait.map fun y => (y.1, y.2.break place b.gen) }) }

/-- BRK at the barriers of an address space's cores (R238, R437). -/
def State.breakBarriers (s : State) (g : Nat) (asid : W16) : State :=
  let c := s.core g
  (List.range 8).foldl (fun t i =>
    if recAsid (c.brec.getD i 0) = asid then (c.rq i).barr.foldl (fun t x => t.breakBarr asid x.2) t else t) s

/-- Regions of an address space. -/
def State.ridsOf (s : State) (asid : W16) : List Nat :=
  (s.regions.filter fun (x : Nat × Region) => x.2.asid == asid).map (·.1)

/-- A core of chiplet n runs an activation of an address space and stands within an issue group (R89, R437). -/
def State.midGroup (s : State) (n : Nat) (asid : W16) : Bool :=
  s.cores.any fun (x : Nat × Core) => x.1 / 64 == n && x.2.act.isSome && x.2.asid == asid && x.2.midPair

/-- KILL of an address space at chiplet n, once no core of it is within an issue group (R89, R437, R438). -/
def State.killAt (s : State) (n : Nat) (asid : W16) : State :=
  match KV.find s.spaces asid.toNat with
  | none => s
  | some r =>
    if !r.killed || !r.killing.contains n || s.midGroup n asid then s
    else
      let cores := (s.cores.filter fun (x : Nat × Core) => x.1 / 64 == n).map (·.1)
      let pend := cores.flatMap fun g => (s.core g).pendingFrames asid
      let wrote := (s.writers.filter fun (x : Nat × W16) => x.2 == asid).map (·.1)
      let rids := s.ridsOf asid
      let s := cores.foldl (fun t g => t.breakBarriers g asid) s
      let s := cores.foldl (fun t g => t.modCore g fun c => c.killed asid) s
      let s := (s.modChip n fun k => k.killed asid rids).dropWrites n asid
      let s := (portsAt n).foldl (fun t p => t.setPort p { t.port p with
        atc := (t.port p).atc.filter fun x => x.1 != r.pasid.toNat }) s
      let s := { s with
        marks := (pend ++ wrote).foldl (fun m k => if m.contains k then m else m ++ [k]) s.marks
        cgroups := s.cgroups.map fun (x : Nat × CGroup) =>
          if x.2.state == 1 && x.2.asid == asid then (x.1, { x.2 with state := 2 }) else x
        spaces := KV.put asid.toNat { r with killing := r.killing.filter (· != n) } s.spaces }
      let s := if (r.killing.filter (· != n)).isEmpty then { s with
          regions := s.regions.filter fun (x : Nat × Region) => x.2.asid != asid
          launches := s.launches.filter fun l => !rids.contains l.rid.toNat
          sweeps := s.sweeps.filter fun x => !rids.contains x.1 } else s
      s.killDone asid

/-- KILL. -/
def execKill (n asid : Nat) (s : State) : Out := onSite n s fun s => s.killAt n (BitVec.ofNat 16 asid)

end Sys2Proof.Machine
end

