-- ==== Sys2Proof/Machine/Launch.lean ====
section
/-! DEFINITION. Launches (R311, R312, R353, R371), quiescence and the end of a launch (R313, R314), and the wake of a core
by arriving work (R372). -/

namespace Sys2Proof.Machine

/-- Work arrives for a core: a hold is cancelled, a gated core asks to be woken (R372). -/
def State.wake (s : State) (g : Nat) : State :=
  match (s.core g).gate with
  | .running => s
  | .holding _ => s.modCore g fun c => { c with gate := .running }
  | .gated =>
    let m := clusterOfCore g
    let p := s.pwr m
    (s.modCore g fun c => { c with gate := .waking none }).setPwr m
      { p with wakes := if p.wakes.contains (g % 16) then p.wakes else p.wakes ++ [g % 16] }
  | .waking _ => s

/-- A report that arises at no core in particular (R434). -/
def State.reportLowest (s : State) (rid : W16) (r : Report) : State :=
  match s.lowestCore rid with
  | some g => (s.report g rid r).wake g
  | none => s

/-- A malformed launch packet or an inconsistent queue (R311, R433). -/
def launchReport (code : Byte) (addr : W64) : Report := { Report.of 7 code with addr := addr }

/-- Cores of a team, as global core numbers, ascending. -/
def State.teamCores (s : State) (n : Nat) (rid : W16) : List Nat := (bitsOf (s.team n rid).mask).map fun k => 64 * n + k

/-! ### Taking a launch (R311, R312) -/

/-- The fields of a launch packet. -/
structure LaunchPacket where
  hix : Nat
  n : Nat
  caddr : W64
  pmask : List Byte
  args : List Byte
  deriving DecidableEq, Repr

/-- A launch packet from its 256 bytes; none where malformed. -/
def LaunchPacket.of (b : List Byte) : Option LaunchPacket :=
  let n := fieldOf b 8 8
  if fieldOf b 2 6 = 0 ∧ 1 ≤ n ∧ n ≤ 2 ^ 32 then
    some ⟨fieldOf b 0 2, n, BitVec.ofNat 64 (fieldOf b 16 8), (b.drop 24).take 72, (b.drop 96).take 160⟩
  else none

/-- The chiplets a packet selects that hold a team, ascending (R311). -/
def LaunchPacket.chips (p : LaunchPacket) (teams : List Nat) : List Nat :=
  if p.pmask.all (· == 0) then teams
  else teams.filter fun n => (p.pmask.getD (n / 8) 0).getLsbD (n % 8)

/-- The index range of each chiplet: ⌊N × S(k−1) ÷ T⌋ up to ⌊N × S(k) ÷ T⌋ (R312); `before`: cores of the chiplets before. -/
def shareRanges (n total : Nat) : Nat → List (Nat × Nat) → List (Nat × Nat × Nat)
  | _, [] => []
  | before, (c, t) :: l => (c, n * before / total, n * (before + t) / total) :: shareRanges n total (before + t) l

/-- Clusters held back at first: those with a delay (R371). -/
def Chip.skewBits (k : Chip) : BitVec 4 :=
  BitVec.ofNat 4 (bitsNat ((List.range 4).map fun c => k.lskew.extractLsb' (8 * c) 8 != 0))

/-- A chiplet receives its share: its messages are generated, and counted (R313, R353). -/
def State.giveShare (s : State) (rid : W16) (p : LaunchPacket) (x : Nat × Nat × Nat) : State :=
  let (n, lo, hi) := x
  if hi ≤ lo then s
  else (s.modChip n fun k => { k with shares := k.shares ++
    [⟨rid, lo, hi, s.teamCores n rid, [], p.hix % 4096, p.args, k.skewBits, s.now⟩] }).countSent n rid (hi - lo)

/-- An accepted packet of record h. -/
def State.accept (s : State) (rid : W16) (h : W32) (p : LaunchPacket) (chips : List Nat) : State :=
  let sizes := chips.map fun n => (n, (s.teamCores n rid).length)
  let total := (sizes.map (·.2)).sum
  let s := (shareRanges p.n total 0 sizes).foldl (fun t x => t.giveShare rid p x) s
  { s with launches := s.launches ++ [⟨rid, h, p.caddr, false⟩] }

/-- The packet of record HEAD, where it can be read, its fields are right and it selects a team. -/
def State.packetAt (s : State) (n : Nat) (rid asid : W16) (q : Ring) : Option (LaunchPacket × List Nat) :=
  match s.placesAs n asid false (q.base + BitVec.ofNat 64 (256 * (q.head.toNat % 2 ^ q.log2n))) 256 .r true with
  | .error _ => none
  | .ok l => match LaunchPacket.of (s.bytesAt l) with
    | none => none
    | some p => match p.chips (s.teamChips rid) with
      | [] => none
      | cs => some (p, cs)

/-- The queue can be taken from no longer: one report each time (R311). -/
def State.launchBad (s : State) (rid : W16) (head : W64) : State :=
  if KV.get false s.lqBad rid.toNat then s
  else ({ s with lqBad := KV.put rid.toNat true s.lqBad }).reportLowest rid (launchReport 0x40 head)

/-- LAUNCH_TAKE: the front end takes the next packet of a region's launch queue (R311, R312). -/
def State.launchTake (s : State) (rid : W16) : State :=
  let n := Config.bootChip
  match s.region rid with
  | none => s
  | some r =>
    if s.isKilled r.asid || r.lq == 0 || s.sec.boot == 5 then s
    else match s.ring n r.asid r.lq with
      | none => let d := s.draw; d.2.launchBad rid (d.1.extractLsb' 0 32).toNat
      | some (places, q) =>
        if !q.consistent then s.launchBad rid q.head.toNat
        else
          let s := { s with lqBad := KV.putD false rid.toNat false s.lqBad }
          if q.used = 0 then s
          else
            let s1 := s.storeHome r.asid ((places.drop 16).zip (leBytes 4 (q.head + 1).toNat))
            match s.packetAt n rid r.asid q with
            | some (p, cs) => s1.accept rid q.head p cs
            | none => s1.reportLowest rid (launchReport 0x40 (q.head.zeroExtend 64))

/-- LAUNCH_TAKE. -/
def execLaunchTake (rid : Nat) (s : State) : Out := .next (s.launchTake (BitVec.ofNat 16 rid))

/-! ### Dealing (R353, R371) -/

/-- The next index of a share for a core, if it has one left. -/
def Share.nextFor (h : Share) (g : Nat) : Option Nat :=
  match h.cores.idxOf? g with
  | none => none
  | some p =>
    let i := h.lo + p + KV.get 0 h.given g * h.cores.length
    if i < h.hi then some i else none

/-- The share may give core g a message now: its cluster is not held back, its queue holds fewer than 32. -/
def State.dealable (s : State) (g : Nat) (h : Share) : Bool :=
  (h.nextFor g).isSome && !h.skew.getLsbD (g % 64 / 16) && match (s.core g).recOf h.rid with
    | some i => decide ((s.core g).queueLen i < 32) && ((s.core g).rq i).spilled.isEmpty
    | none => false

/-- A launch message (R203, R312). -/
def launchMessage (g : Nat) (asid : W16) (h : Share) (i : Nat) : Packet :=
  { Packet.zero with
    dch := g / 64, sch := g / 64, dep := g % 64, sep := 0x59, cls := 7, eom := true, plen := 160, asid := asid
    key := mkKey 0xFFFF (BitVec.ofNat 32 i)
    tgt := mkTarget 0 (BitVec.ofNat 10 (g / 64)) (BitVec.ofNat 6 (g % 64)) false false (BitVec.ofNat 12 h.hix) 0 h.rid
    words := (wordsOf h.args).map fun w => ⟨w, true⟩ }

/-- The share after one more index has gone to core g. -/
def Share.give (h : Share) (g : Nat) : Share := { h with given := KV.put g (KV.get 0 h.given g + 1) h.given }

/-- Every index of the share has gone out. -/
def Share.done (h : Share) : Bool := h.cores.all fun g => (h.nextFor g).isNone

/-- LAUNCH_DEAL: core k of chiplet n gets its next launch message from the oldest share that has one for it. -/
def State.launchDeal (s : State) (n k : Nat) : State :=
  let g := 64 * n + k % 64
  match (s.chip n).shares.findIdx? (s.dealable g) with
  | none => s
  | some j => match (s.chip n).shares[j]? with
    | none => s
    | some h => match h.nextFor g, (s.core g).recOf h.rid with
      | some i, some b =>
        let c := s.core g
        let p := launchMessage g (recAsid (c.brec.getD b 0)) h i
        let s := s.setCore g (c.setRec b { c.rq b with msgs := (c.rq b).msgs ++ [p] })
        let left (l : List Share) := if (h.give g).done then listDel l j else listSet l j (h.give g)
        let s := s.modChip n fun x => { x with shares := left x.shares }
        (s.wake g).noteWaits g
      | _, _ => s

/-- LAUNCH_DEAL. -/
def execLaunchDeal (n i : Nat) (s : State) : Out := onSite n s fun s => s.launchDeal n i

/-- LAUNCH_SKEW_EXPIRY: the delay of cluster cl is over for the shares that came long enough ago (R371). -/
def execLaunchSkewExpiry (n cl : Nat) (s : State) : Out :=
  onSite n s fun s => s.modChip n fun k =>
    let off := (k.lskew.extractLsb' (8 * (cl % 4)) 8).toNat * 375
    let free (h : Share) : Share :=
      if h.received + off ≤ s.now then { h with skew := h.skew &&& ~~~BitVec.ofNat 4 (2 ^ (cl % 4)) } else h
    { k with shares := k.shares.map free }

/-! ### Quiescence (R313, R314) -/

/-- Record i of a core holds nothing of its region: no activation, image, message, spilled record or report. -/
def Core.recIdle (c : Core) (i : Nat) : Bool :=
  let q := c.rq i
  !(c.act.any fun a => a.brec == i) && q.image.isNone && q.msgs.isEmpty && q.spilled.isEmpty && q.reports.isEmpty

/-- A team is idle (R313). -/
def State.teamIdle (s : State) (n : Nat) (rid : W16) : Bool :=
  !s.regionBusy n rid && (s.teamCores n rid).all fun g => match (s.core g).recOf rid with
    | some i => (s.core g).recIdle i
    | none => true

/-- What a sweep collects of a region (R314). -/
def State.sweepOf (s : State) (rid : W16) : Sweep :=
  let t (x : Nat × Chip) : Team := KV.get ⟨0, 0, 0, 0⟩ x.2.teams rid.toNat
  ⟨(s.teamChips rid).all fun n => s.teamIdle n rid,
    (s.chips.map fun x => (t x).sent).sum % 2 ^ 64, (s.chips.map fun x => (t x).recv).sum % 2 ^ 64, s.now⟩

/-- The region is quiescent at a sweep after another (R314). -/
def quiescent (old new : Sweep) : Bool :=
  old.idle && new.idle && old.sent == old.recv && new.sent == new.recv && old.sent == new.sent && old.recv == new.recv

/-- The counts of messages per destination start anew for a region (R203). -/
def Core.rebase (c : Core) (rid : W16) : Core :=
  { c with sentBase := c.sent.foldl (fun b x => KV.put (rid.toNat * 2 ^ 40 + x.1) x.2 b) c.sentBase }

/-- The completion word of an ended launch (R314). -/
def State.endLaunch (s : State) (l : Launch) : State :=
  match s.region l.rid with
  | none => s
  | some r =>
    if l.caddr = 0 then s
    else match s.placesAs Config.bootChip r.asid false l.caddr 8 .w true with
      | .ok p => s.storeHome r.asid (p.zip (leBytes 8 (l.h + 1).toNat))
      | .error f => s.reportLowest l.rid (launchReport f.code ((l.h + 1).zeroExtend 64))

/-- The bindings of a region's cores leave their barriers at the end of a launch (R238). -/
def State.leaveAll (s : State) (rid : W16) : State :=
  ((s.teamChips rid).flatMap fun n => s.teamCores n rid).foldl (fun t g => match (t.core g).recOf rid with
    | some i => t.leaveBarriers g i
    | none => t) s

/-- One region's part of a sweep. -/
def State.sweepRegion (s : State) (rid : W16) : State :=
  let new := s.sweepOf rid
  let q := match KV.find s.sweeps rid.toNat with
    | some old => quiescent old new
    | none => false
  let mine (l : Launch) : Bool := l.rid == rid
  let ended := if q then s.launches.filter fun l => mine l && l.swept else []
  let s := { s with
    sweeps := KV.put rid.toNat new s.sweeps
    launches := (s.launches.filter fun l => !(q && mine l && l.swept)).map fun l =>
      if mine l then { l with swept := true } else l }
  let s := if q then { s with cores := s.cores.map fun (x : Nat × Core) => (x.1, x.2.rebase rid) } else s
  ended.foldl State.endLaunch (if ended.isEmpty then s else s.leaveAll rid)

/-- QUIESCENCE_SWEEP: every region with launches in progress, 2 µs after the sweep before (R314). -/
def execQuiescenceSweep (s : State) : Out :=
  let rids := (s.launches.map fun l => l.rid).eraseDups
  let old := s.sweeps.filter fun x => rids.any fun r => r.toNat == x.1
  .next (if old.any (fun x => decide (s.now < x.2.time + 3000)) then s else rids.foldl State.sweepRegion { s with sweeps := old })

end Sys2Proof.Machine
end

