-- ==== Sys2Proof/Machine/Mesh.lean ====
section
/-! DEFINITION. The source side of a network interface, the routers and the side mesh (R241 to R246, R248 to R250, R252 to
R255, R259, R444). -/

namespace Sys2Proof.Machine

/-! ### Routes (R253, R254) -/

/-- The other fields of an entry (R253). -/
def nselRv (e : W16) : Bool := e.getLsbD 14
def nselMs2 (e : W16) : Bool := e.getLsbD 13
def nselMs (e : W16) : Bool := e.getLsbD 12
def nselRch (e : W16) : Nat := (e.extractLsb' 0 10).toNat

/-- The next site from one to another, columns first (XY) or rows first (YX). -/
def nextSite (yx : Bool) (a b : Nat) : Nat :=
  let ax := Config.siteX a
  let ay := Config.siteY a
  let bx := Config.siteX b
  let byy := Config.siteY b
  let mx := if ax < bx then Config.siteNo (ax + 1) ay else Config.siteNo (ax - 1) ay
  let my := if ay < byy then Config.siteNo ax (ay + 1) else Config.siteNo ax (ay - 1)
  if yx then (if ay ≠ byy then my else if ax ≠ bx then mx else a)
  else if ax ≠ bx then mx else if ay ≠ byy then my else a

/-- The input port of `b` for what comes from `a`: 0 west, 1 east, 2 north, 3 south. -/
def inPort (a b : Nat) : Nat :=
  if a + 1 = b then 0 else if b + 1 = a then 1 else if a < b then 2 else 3

/-- The router of a site is off: the site is FAILED (R447). -/
def State.routerOff (s : State) (n : Nat) : Bool := (s.chip n).peal == 7

/-! ### Side-mesh flits (R248) -/

/-- A site sends a flit; without an entry for its destination, or with its router off, it is discarded. -/
def State.sideSend (s : State) (n : Nat) (f : SideFlit) : State :=
  let e := s.nselOf n f.tch
  if nselV e && !s.routerOff n then
    { s with flits := s.flits ++ [{ f with
      rv := nselRv e, ms := nselMs e, ms2 := nselMs2 e, rch := nselRch e, site := n }] }
  else s

/-- An ACK (kind 0) or NACK (kind 1) of a packet. -/
def answerFlit (kind : BitVec 2) (cause : BitVec 3) (p : Packet) : SideFlit :=
  ⟨kind, cause, BitVec.ofNat 3 p.cls, p.sch, BitVec.ofNat 7 p.sep, p.dch, 0, false, false, false, p.seq, 0⟩

def State.ack (s : State) (n : Nat) (p : Packet) : State := s.sideSend n (answerFlit 0 0 p)

/-- NACK causes: 1 CONT, 2 LAND, 3 CRC, 4 OVF. -/
def State.nack (s : State) (n : Nat) (cause : BitVec 3) (p : Packet) : State := s.sideSend n (answerFlit 1 cause p)

/-- SIDE_FLIT_ARRIVAL: flit i moves one site on, turns at its relay, or reaches its network interface (R248). -/
def State.flitStep (s : State) (i : Nat) : State :=
  match s.flits[i]? with
  | none => s
  | some f =>
    let gone := { s with flits := listDel s.flits i }
    if !f.rv && f.site == f.tch then gone.modChip f.tch fun k => { k with answers := k.answers ++ [f] }
    else if f.rv && f.site == f.rch then
      { s with flits := listSet s.flits i { f with rv := false, ms := f.ms2 } }
    else
      let x := nextSite f.ms f.site (if f.rv then f.rch else f.tch)
      if s.routerOff x then gone else { s with flits := listSet s.flits i { f with site := x } }

/-- SIDE_FLIT_ARRIVAL. -/
def execSideFlitArrival (i : Nat) (s : State) : Out := .next (s.flitStep i)

/-- The link whose gateway stands at a chiplet. -/
def linkOf (n : Nat) : Option Nat := (List.range 8).find? fun l => Config.glChip l == n

/-! ### Sending (R246, R254, R255, R260) -/

def State.setOutFlow (s : State) (n d cls : Nat) (f : OutFlow) : State :=
  s.modChip n fun k => { k with outf := KV.put (flowKey d cls) f k.outf }

/-- A packet of a copy engine will not be performed: the engine hears of it (R255, R278). -/
def State.engLost (s : State) (p : Packet) (code : FCode) : State :=
  match p.eng with
  | some e => s.modCopy p.sch (p.sep % 4) e.cmd fun r => r.partLost e.pos code.code
  | none => s

/-- A refused packet: the copy engine hears of its own; a message is reported to its sending region, and counts one RECV
that balances its SENT (R255, R321, R459). -/
def State.refusePacket (s : State) (code : FCode) (p : Packet) : State :=
  if p.cls == 4 || p.cls == 5 then s.engLost p code
  else
    let own := if p.hx.isSome then p.srid else tgtRid p.tgt
    let s := if (s.region own).isSome then s.countRecv p.sch own 1 else s
    if p.sep = 0x5B then s
    else s.report p.score p.srid { Report.of 5 code.code with addr := p.tgt, key := p.key }

/-- A packet for another module goes to the gateway of its link: none where no valid entry names the module (R260). -/
def Chip.resolve (k : Chip) (p : Packet) : Option Packet :=
  match p.hx with
  | none => some p
  | some h =>
    if p.dep = 0x5B then some p
    else (k.linkTo h.dmod).map fun l => { p with dch := Config.glChip l, dep := 0x5B }

/-- Packets of a chiplet that wait for a first send: those of its engines, then those of each core; each with the core
whose outbound buffer holds it. -/
def State.waiting (s : State) (n : Nat) : List (Option Nat × Packet) :=
  ((s.chip n).sendq.map fun p => (none, p)) ++
    (List.range 64).flatMap fun k => (s.core (64 * n + k)).outbox.map fun p => (some (64 * n + k), p)

/-- The i-th of them leaves its buffer. -/
def State.unqueue (s : State) (n : Nat) (src : Option Nat) (p : Packet) : State :=
  match src with
  | none => s.modChip n fun k => { k with sendq := k.sendq.erase p }
  | some g => s.modCore g fun c => { c with outbox := c.outbox.erase p }

/-- No earlier packet of the same buffer goes on the same flow. -/
def State.firstOfFlow (s : State) (n i : Nat) (src : Option Nat) (p : Packet) : Bool :=
  ((s.waiting n).take i).all fun x => x.1 != src || match (s.chip n).resolve x.2 with
    | none => true
    | some q => q.dch != p.dch || q.cls != p.cls

/-- A packet with the route of an entry (R254). -/
def withRoute (p : Packet) (e : W16) : Packet :=
  { p with ms := nselMs e, rv := nselRv e, rch := nselRch e, ms2 := nselMs2 e, rly := nselRv e }

/-- Buffers of an input port in use: packet buffers, aged buffer (R249). -/
def State.portUse (s : State) (n : Nat) (ms : Bool) (port : Nat) : Nat × Bool :=
  let l := s.flights.filter fun f => f.site == n && f.pkt.ms == ms && f.port == port
  ((l.filter fun f => !f.inAged).length, l.any fun f => f.inAged)

/-- The buffer a header takes at a port with `cap` packet buffers: none where the packet is dropped; true for the aged
buffer (R249, R254). -/
def State.portTake (s : State) (n : Nat) (ms : Bool) (port cap : Nat) (aged : Bool) : Option Bool :=
  let u := s.portUse n ms port
  if u.1 < cap then some false else if aged && !u.2 then some true else none

/-- The local port of a site takes a packet from its network interface: none while it has no buffer (DEDUCED, log 36). A
packet for its own chiplet crosses no router (R252). -/
def State.inject (s : State) (n : Nat) (p : Packet) : Option State :=
  if p.dch = n then some { s with flights := s.flights ++ [⟨p, n, 4, false⟩] }
  else (s.portTake n p.ms 4 4 p.aged).map fun b => { s with flights := s.flights ++ [⟨p, n, 4, b⟩] }

/-- A class whose packets are messages to a core (R244). -/
def messageClass (cls : Nat) : Bool := cls == 2 || cls == 3 || cls == 6 || cls == 7

/-- A flow whose payloads are compressed (R256). -/
def compresses (cls sep : Nat) : Bool := cls == 1 && decide (0x40 ≤ sep) && decide (sep < 0x50)

/-- Code a packet of a compressing flow at its first send; the table of the outbound side (R256 to R258). -/
def State.codePacket (s : State) (n : Nat) (p : Packet) : Packet × State :=
  if !compresses p.cls p.sep then (p, s)
  else
    let k := 2 * flowKey p.dch p.cls
    let t := KV.get Coder.reset (s.chip n).coders k
    let s := s.modChip n fun c => { c with coders := KV.put k (t.after p.words) c.coders }
    match t.pack p.words with
    | some b => ({ p with cmp := true, stored := b }, s)
    | none => (p, s)

/-- PACKET_SEND: the i-th waiting packet of site n has its first send (R246, R254, R255); none of a site whose endpoints are fenced
or whose router is off (R447, R448). -/
def State.packetSend (s : State) (n i : Nat) : State :=
  match (if s.siteDown n then none else (s.waiting n)[i]?) with
  | none => s
  | some (src, p0) =>
    match (s.chip n).resolve p0 with
    | none => (s.unqueue n src p0).refusePacket .relay p0
    | some p =>
      let e := s.nselOf n p.dch
      let f := s.outFlow n p.dch p.cls
      if !s.firstOfFlow n i src p then s
      else if !nselV e || f.refused then (s.unqueue n src p0).refusePacket .relay p
      else if 1024 ≤ (s.chip n).retained.length || decide (64 ≤ (f.next - f.oldest).toNat) then s
      else
        let (p, t) := s.codePacket n (withRoute { p with seq := f.next, stamp := s.now % 2 ^ 48 } e)
        match t.inject n p with
        | none => s
        | some t =>
          let t := (t.unqueue n src p0).setOutFlow n p.dch p.cls { f with next := f.next + 1 }
          t.modChip n fun k => { k with retained := k.retained ++ [⟨p, s.now, none, false⟩], nitx := k.nitx + 1 }

/-- PACKET_SEND. -/
def execPacketSend (n i : Nat) (s : State) : Out := onSite n s fun s => s.packetSend n i

/-! ### Hops (R249, R254) -/

/-- Where a packet is bound on its present leg. -/
def legEnd (p : Packet) : Nat := if p.rly then p.rch else p.dch

/-- The age order of R249 and R251. -/
def olderPacket (p q : Packet) : Bool :=
  decide (p.stamp < q.stamp) || (p.stamp == q.stamp && (decide (p.sch < q.sch) ||
    (p.sch == q.sch && decide (p.seq.toNat < q.seq.toNat))))

/-- A packet for its own chiplet, which crosses no router (R252). -/
def Flight.direct (f : Flight) : Bool := f.pkt.sch == f.pkt.dch

/-- The output port a packet waits for: towards the site its leg goes on to, its own where the leg ends in the network
interface; each mesh has its own (R249). -/
def Flight.out (f : Flight) : Nat :=
  2 * (if f.site = legEnd f.pkt then f.site else nextSite f.pkt.ms f.site (legEnd f.pkt)) + f.pkt.ms.toNat

/-- Packets that wait for the same output port. -/
def State.rivals (s : State) (f : Flight) : List Flight :=
  s.flights.filter fun x => x.site == f.site && !x.direct && x.out == f.out

/-- An output port must serve another packet before this one: an older AGED one, or, for a packet that is not AGED, one of
the input port whose turn it is (R249). -/
def State.yields (s : State) (f : Flight) : Bool :=
  let l := s.rivals f
  let last := KV.get 5 (s.chip f.site).rr f.out
  let turn (p : Nat) : Nat := (p + 5 - last) % 6
  l.any fun x => if f.pkt.aged then x.pkt.aged && olderPacket x.pkt f.pkt else x.pkt.aged || decide (turn x.port < turn f.port)

/-- The output port has served a packet; the turn of its input port is over (R249). -/
def State.served (s : State) (f : Flight) : State :=
  if f.pkt.aged then s else s.modChip f.site fun k => { k with rr := KV.put f.out f.port k.rr }

/-- HEADER_ARRIVAL: the packet of flight i arrives at the next site of its route. At its relay it takes a relay buffer
and turns to its second leg; without a buffer it is dropped with a NACK (R249, R254). A packet bound for a failed router
is lost (R456). -/
def State.headerArrival (s : State) (i : Nat) : State :=
  match s.flights[i]? with
  | none => s
  | some f =>
    let p := f.pkt
    if f.site = (legEnd p) || s.yields f then s
    else
      let x := nextSite p.ms f.site (legEnd p)
      let s := s.served f
      let rest := { s with flights := listDel s.flights i }
      if s.routerOff x then rest
      else
        let relay := p.rly && x == p.rch
        let q := if relay then { p with rly := false, ms := p.ms2 } else p
        let port := if relay then 5 else inPort f.site x
        match rest.portTake x q.ms port (if relay then 2 else 4) q.aged with
        | some b => { s with flights := listSet s.flights i ⟨q, x, port, b⟩ }
        | none => rest.nack x 1 p

/-- HEADER_ARRIVAL. -/
def execHeaderArrival (i : Nat) (s : State) : Out := .next (s.headerArrival i)

/-! ### Answers at the source (R250) -/

/-- The first answer of a kind at a network interface, and the state without it. -/
def State.takeAnswer (s : State) (n : Nat) (kind : BitVec 2) : Option (SideFlit × State) :=
  let l := (s.chip n).answers
  match l.findIdx? (fun f => f.kind == kind) with
  | none => none
  | some i => l[i]?.map fun f => (f, s.modChip n fun k => { k with answers := listDel k.answers i })

/-- A retained copy is the one an answer speaks of. -/
def Retained.isOf (r : Retained) (f : SideFlit) : Bool :=
  r.pkt.dch == f.pch && r.pkt.cls == f.cls.toNat && r.pkt.seq == f.seq

/-- A flow with one more SEQ acknowledged; the oldest unacknowledged SEQ moves past those acknowledged (R246). -/
def OutFlow.acknowledge (f : OutFlow) (q : W16) : OutFlow :=
  iter (fun f => if f.acked.contains f.oldest then { f with oldest := f.oldest + 1, acked := f.acked.erase f.oldest } else f)
    64 { f with acked := if f.acked.contains q then f.acked else q :: f.acked }

/-- A part of an external frame (R264). -/
def isFrame (p : Packet) : Bool := p.key.extractLsb' 32 16 == 0xFFFE

/-- Note whether a gateway holds a part of an external frame that its destination has refused (R264). -/
def State.holdFrame (s : State) (n : Nat) (p : Packet) (on : Bool) : State :=
  match linkOf n with
  | none => s
  | some l =>
    if !isFrame p then s
    else
      let rest := (s.link l).heldFrames.filter fun q => !(q.seq == p.seq && q.dch == p.dch)
      s.setLink l { s.link l with heldFrames := if on then rest ++ [p] else rest }

/-- A retained copy leaves the buffer and its SEQ counts as acknowledged. -/
def State.freeRetained (s : State) (n : Nat) (r : Retained) : State :=
  ((s.holdFrame n r.pkt false).modChip n fun k => { k with retained := k.retained.erase r }).setOutFlow n r.pkt.dch r.pkt.cls
    ((s.outFlow n r.pkt.dch r.pkt.cls).acknowledge r.pkt.seq)

/-- ACK at network interface n (R250). -/
def State.ackArrive (s : State) (n : Nat) : State :=
  match s.takeAnswer n 0 with
  | none => s
  | some (f, s) => match (s.chip n).retained.find? fun r => r.isOf f with
    | none => s
    | some r => s.freeRetained n r

/-- ACK. -/
def execAckArrive (n : Nat) (s : State) : Out := onSite n s fun s => s.ackArrive n

/-- A retained copy after a NACK (R250). -/
def Retained.nacked (r : Retained) (now : Nat) (cause : BitVec 3) : Retained :=
  if cause = 4 then { r with resendAt := some (now + 1500) }
  else
    let k := min (r.pkt.nk + 1) 4
    { r with pkt := { r.pkt with nk := k, aged := r.pkt.aged || k == 4 }, resendAt := some (now + 16 * k) }

/-- NACK at network interface n (R250, R259). -/
def State.nackArrive (s : State) (n : Nat) : State :=
  match s.takeAnswer n 1 with
  | none => s
  | some (f, s) =>
    let s := s.modChip n fun k => { k with ninack := k.ninack + 1 }
    match (s.chip n).retained.findIdx? fun r => r.isOf f with
    | none => s
    | some i => match (s.chip n).retained[i]? with
      | none => s
      | some r =>
        let q := r.nacked s.now f.cause
        (if f.cause = 4 then s.holdFrame n r.pkt true else s).modChip n fun k => { k with
          retained := listSet k.retained i q
          niaged := if q.pkt.aged && !r.pkt.aged then k.niaged + 1 else k.niaged }

/-- NACK. -/
def execNackArrive (n : Nat) (s : State) : Out := onSite n s fun s => s.nackArrive n

/-- A resend of retained copy i: refused where its entry or flow no longer allows it (R250, R254, R255); none from a fenced site
(R448). -/
def State.resend (s : State) (n i : Nat) (r : Retained) : State :=
  let p := r.pkt
  let e := s.nselOf n p.dch
  let f := s.outFlow n p.dch p.cls
  if s.siteDown n then s
  else if !nselV e || f.refused then
    (((s.holdFrame n p false).modChip n fun k => { k with retained := listDel k.retained i }).setOutFlow n p.dch p.cls
      { f with refused := true }).refusePacket .relay p
  else
    let p := withRoute p e
    match s.inject n p with
    | none => s
    | some t => t.modChip n fun k => { k with
        retained := listSet k.retained i ⟨p, s.now, none, p.aged⟩
        niretx := k.niretx + 1 }

/-- Packets of a network interface sent as AGED and not acknowledged (R250). -/
def Chip.agedOut (k : Chip) : Nat := (k.retained.filter fun r => r.asAged).length

/-- RESEND_DELAY_EXPIRY: the delay after a NACK is over; a fifth AGED packet waits until one of four is acknowledged (R250). -/
def execResendDelayExpiry (n i : Nat) (s : State) : Out :=
  onSite n s fun s => match (s.chip n).retained[i]? with
    | some r => match r.resendAt with
      | some t => if t ≤ s.now && !(r.pkt.aged && !r.asAged && decide (4 ≤ (s.chip n).agedOut)) then s.resend n i r else s
      | none => s
    | none => s

/-- ACK_TIMEOUT: neither ACK nor NACK within 8,192 rc of the latest send (R250). -/
def execAckTimeout (n i : Nat) (s : State) : Out :=
  onSite n s fun s => match (s.chip n).retained[i]? with
    | some r => if r.resendAt.isNone && decide (r.lastSend + 8192 ≤ s.now) then s.resend n i r else s
    | none => s

/-- RETENTION_COPY_ERROR: a retained copy is lost; its SEQ counts as acknowledged and a gap notice leaves, or its flow is
refused; the sender's region is told (R248, R255, R444, R445), and the copy engine of its own packet (DEDUCED, log 55). -/
def State.retentionError (s : State) (n i : Nat) : State :=
  match (s.chip n).retained[i]? with
  | none => s
  | some r =>
    let p := r.pkt
    let t := s.freeRetained n r
    let t := t.modChip n fun k => { k with eccunc := k.eccunc + 1 }
    let t := if nselV (s.nselOf n p.dch) then
        t.sideSend n ⟨2, 0, BitVec.ofNat 3 p.cls, p.dch, 0, p.sch, 0, false, false, false, p.seq, 0⟩
      else t.setOutFlow n p.dch p.cls { t.outFlow n p.dch p.cls with refused := true }
    (t.engLost p .eccu).report p.score p.srid { Report.of 6 FCode.eccu.code with addr := p.tgt, key := p.key }

/-- RETENTION_COPY_ERROR. -/
def execRetentionCopyError (n i : Nat) (s : State) : Out := onSite n s fun s => s.retentionError n i

end Sys2Proof.Machine
end

