-- ==== Sys2Proof/Machine/Deliver.lean ====
section
/-! DEFINITION. The destination side of a network interface: acceptance, ordered hand-over, reserved places, overflow and
delivery (R244, R245, R247, R258, R303 to R305, R322, R362), and what a gateway gathers (R262). -/

namespace Sys2Proof.Machine

/-! ### Gathering at an outbound gateway (R260, R262) -/

def glBytes (q : GlPacket) : Nat := (q.parts.map (·.plen)).sum

/-- Mesh packets of one source flow for one remote chiplet: the fields common to the parts of a GL packet agree. -/
def sameGather (a b : GlPacket) : Bool :=
  a.sch == b.sch && a.dch == b.dch && a.cls == b.cls

/-- A mesh packet as a GL packet of one part (R261, R262). -/
def glOf (smod : W16) (p : Packet) (h : RemoteHx) : GlPacket where
  lseq := 0
  kind := 0
  cmp := false
  ord := p.cls == 3 || p.cls == 5 || p.cls == 6
  eom := p.eom
  smod := smod
  dmod := h.dmod
  sch := p.sch
  dch := h.rdch.toNat
  sep := p.sep
  dep := h.rdep.toNat
  cls := p.cls
  fseq := 0
  asid := p.asid
  parts := [⟨p.plen, p.key, p.tgt, h.addr, p.words, p.eng⟩]
  stored := []
  srid := p.srid
  score := p.score

/-- A GL packet can take one more part: engine data of one sender, below four parts and 2,048 bytes (R262). -/
def glTakes (q p : GlPacket) : Bool :=
  sameGather q p && (q.cls == 4 || q.cls == 5) && !q.eom && decide (q.parts.length < 4) && decide (glBytes q + glBytes p ≤ 2048) &&
    decide (glBytes q < 2048) && q.dmod == p.dmod && q.sep == p.sep && q.dep == p.dep && q.asid == p.asid

/-- The place of the latest packing of a packet's flow. -/
def lastPacking (l : List Packing) (p : GlPacket) : Option (Nat × Packing) :=
  ((l.zipIdx.filter fun x => sameGather x.1.pkt p).getLast?).map fun x => (x.2, x.1)

/-- A mesh packet is handed over to the gateway of link l. -/
def State.gather (s : State) (l : Nat) (p : Packet) (h : RemoteHx) : State :=
  let k := s.link l
  if p.cls < 2 || 6 < p.cls then s.refusePacket .relay p
  else if k.lost then s.refusePacket (if p.cls == 4 || p.cls == 5 then .linkdown else .relay) p
  else
    let q := glOf s.modid p h
    let add := { k with packing := k.packing ++ [⟨q, s.now⟩] }
    match lastPacking k.packing q with
    | some (i, x) =>
      if glTakes x.pkt q then
        let more : Packing := ⟨{ x.pkt with parts := x.pkt.parts ++ q.parts, eom := q.eom }, s.now⟩
        s.setLink l { k with packing := listSet k.packing i more }
      else s.setLink l add
    | none => s.setLink l add

/-- Mesh packets that a gateway holds. -/
def GlLink.held (k : GlLink) : Nat := (k.packing.map fun x => x.pkt.parts.length).sum

/-! ### Delivery to a core (R297, R303, R304, R322, R362) -/

/-- Places of record k of the overflow ring of a region on a chiplet (R303). -/
def State.ringRecord (s : State) (n : Nat) (r : Region) (k : Nat) : Except FCode (List Loc) :=
  s.placesAs n r.asid false (r.ovfa + BitVec.ofNat 64 (640 * (r.ovfr * n + k))) 640 .rw true

/-- A message that no queue takes goes to its region's stray queue, with the report of R297. -/
def State.strayAt (s : State) (g : Nat) (rid : W16) (r : Region) (p : Packet) : State :=
  let st := s.strayStore (g / 64) r p
  (st.2.countRecv (g / 64) rid 1).report g rid { Report.of 3 FCode.hempty.code with
    addr := BitVec.ofNat 64 (tgtHix p.tgt), key := p.key, lcn := lcnOf g p
    sidx := match st.1 with
      | some k => BitVec.ofNat 32 k
      | none => 0xFFFFFFFF }

/-- A message joins the queue of record i, or is spilled into the record `res − 1` reserved for it (R303, R304). -/
def State.enqueue (s : State) (g i : Nat) (rid : W16) (r : Region) (res : Nat) (p : Packet) : State :=
  let c := s.core g
  let q := c.rq i
  let s :=
    if res = 0 ∨ (c.queueLen i < 32 ∧ q.spilled.isEmpty) then
      let t := s.setCore g (c.setRec i { q with msgs := q.msgs ++ [p] })
      if res = 0 then t else t.freeRecord (g / 64) rid.toNat (res - 1)
    else
      let t := match s.ringRecord (g / 64) r (res - 1) with
        | .ok l => s.storeHome r.asid (l.zip (packetRecord p))
        | .error _ => s
      t.setCore g ((t.core g).setRec i { q with spilled := q.spilled ++ [(res - 1, p)] })
  (s.wake g).noteWaits g

/-- Delivery of a message to a core (R322), or on to the core its team's core has become (R362). A ring record reserved for one
that takes no place is free again (R304). -/
def State.deliverCore (s : State) (n res : Nat) (p : Packet) : State :=
  let g := 64 * n + p.dep
  let rid := tgtRid p.tgt
  let s0 := if res = 0 then s else s.freeRecord n rid.toNat (res - 1)
  match s.region rid with
  | none => s0
  | some r =>
    if r.asid ≠ p.asid then s0
    else match KV.find (s.chip n).forward (64 * rid.toNat + p.dep) with
      | some d => s0.modChip n fun k => { k with sendq := k.sendq ++
          [{ p with dch := d / 64, dep := d % 64, sch := n, sep := 0x59, cls := 7, aged := false, nk := 0 }] }
      | none =>
        match (s.core g).recOf rid with
        | none => s0.strayAt g rid r p
        | some i =>
          if tgtKind p.tgt == 1 && !(s.core g).gangHead p then s0.strayAt g rid r p
          else s.enqueue g i rid r res p

/-! ### Reserving a place (R304, R305) -/

/-- The first record of the ring that is free. -/
def freeIndex (n : Nat) (used : List Nat) : Option Nat := (List.range n).find? fun k => !used.contains k

/-- The reserved place of a packet: 0, or the ring record taken plus one; none where the message is refused, with QOVF once
each time the ring becomes unable to take one. ADDR of that report holds the chiplet (DEDUCED, log 11). -/
def State.reserve (s : State) (n : Nat) (held : Bool) (p : Packet) : Option Nat × State :=
  let rid := tgtRid p.tgt
  if 0x40 ≤ p.dep || !messageClass p.cls || s.isKilled p.asid || (KV.find (s.chip n).forward (64 * rid.toNat + p.dep)).isSome then (some 0, s)
  else match s.region rid, (s.core (64 * n + p.dep)).recOf rid with
    | some r, some i =>
      let c := s.core (64 * n + p.dep)
      if !held && decide (c.queueLen i < 32) && (c.rq i).spilled.isEmpty then (some 0, s)
      else
        let used := KV.get [] (s.chip n).ovfUse rid.toNat
        match (freeIndex r.ovfr used).filter fun k => (s.ringRecord n r k).toBool with
        | some k => (some (k + 1), s.modChip n fun h => { h with
            ovfUse := KV.put rid.toNat (used ++ [k]) h.ovfUse
            ovfRef := KV.putD false rid.toNat false h.ovfRef })
        | none =>
          if KV.get false (s.chip n).ovfRef rid.toNat then (none, s)
          else (none, (s.modChip n fun h => { h with ovfRef := KV.put rid.toNat true h.ovfRef }).reportLowest rid
            { Report.of 4 FCode.qovf.code with addr := BitVec.ofNat 64 n, key := p.key })
    | _, _ => (some 0, s)

/-! ### Acceptance (R247) -/

/-- A flow handed over in order: every class but MSGU and ENGU, and ENGU data to a gateway, which packs it in SEQ order
(R244, R262; DEDUCED, log 36). -/
def orderedFlow (p : Packet) : Bool := !(p.cls == 2 || (p.cls == 4 && p.dep != 0x5B))

/-- The window moves past what has been seen; the held packets it passes, in order. -/
def InFlow.advance : Nat → InFlow → List (Nat × Packet) × InFlow
  | 0, f => ([], f)
  | k + 1, f =>
    if f.seen.getLsbD 0 then
      let r := InFlow.advance k { f with
        seen := f.seen >>> 1, next := f.next + 1, held := f.held.filter fun x => x.2.seq != f.next }
      (f.held.filter (fun x => x.2.seq == f.next) ++ r.1, r.2)
    else ([], f)

def State.inFlow (s : State) (n c cls : Nat) : InFlow := KV.get ⟨0, 0, []⟩ (s.chip n).inf (flowKey c cls)

def State.setInFlow (s : State) (n c cls : Nat) (f : InFlow) : State :=
  s.modChip n fun k => { k with inf := KV.put (flowKey c cls) f k.inf }

/-- Packets in the landing buffer: those held for order (R247). -/
def Chip.landed (k : Chip) : Nat := (k.inf.map fun x => x.2.held.length).sum

/-- A landing buffer is free for a packet, 4 of the 192 for AGED ones; a gateway's buffers fill while its link does not take
packets (R247, R260). -/
def State.landFree (s : State) (n : Nat) (p : Packet) : Bool :=
  let room (u : Nat) : Bool := decide (u < 188) || (p.aged && decide (u < 192))
  room (s.chip n).landed && match p.hx, linkOf n with
    | some _, some l => (s.link l).lost || room (s.link l).held
    | _, _ => true

/-- The words of a packet of a compressing flow at its hand-over (R256 to R258). -/
def State.expandPacket (s : State) (n : Nat) (p : Packet) : Packet × State :=
  if !compresses p.cls p.sep then (p, s)
  else
    let k := 2 * flowKey p.sch p.cls + 1
    let t := KV.get Coder.reset (s.chip n).coders k
    let (w, t1) := if p.cmp then (t.expand p.stored (p.words.map (·.v))).getD (p.words, t) else (p.words, t.after p.words)
    ({ p with words := w }, s.modChip n fun c => { c with coders := KV.put k t1 c.coders })

/-- A compressed payload that its codes do not yield is damaged (R257). -/
def codeOk (p : Packet) : Bool := !p.cmp || (Coder.reset.expand p.stored (p.words.map (·.v))).isSome

/-- The answer of a far gateway to a remote copy: CRC, bytes written, status (R509). -/
def State.deliverAnswer (s : State) (n : Nat) (p : Packet) : State :=
  let w (k : Nat) : W32 := (p.words.getD k ⟨0, false⟩).w
  match p.eng with
  | some e => s.modCopy n (p.dep % 4) e.cmd fun r => r.answered (w 0) (w 1).toNat ((w 2).extractLsb' 0 8)
  | none => s

/-- A home takes a packet of a copy: its words are brought to their places, and the engine counts it as performed; its record
waits until they are written (R272, R277; log 55). -/
def State.takeEng (s : State) (p : Packet) (e : EngPart) : State :=
  (s.bring p.sch p.asid e.cmd (e.put.map fun x => (Loc.ofKey x.1, x.2))).modCopy p.sch (p.sep % 4) e.cmd fun r => r.partDone e.pos

/-- A packet is handed over (deliver of R247): to the endpoint; of a killed address space, nowhere. -/
def State.handOver (s : State) (n : Nat) (x : Nat × Packet) : State :=
  let (p, s) := s.expandPacket n x.2
  if s.isKilled p.asid then (if x.1 = 0 then s else s.freeRecord n (tgtRid p.tgt).toNat (x.1 - 1))
  else if p.dep < 0x40 then (if messageClass p.cls then s.deliverCore n x.1 p else s)
  else match p.hx, linkOf n with
    | some h, some l => s.gather l p h
    | _, _ =>
      if p.cls = 6 then (if p.dep / 4 = 0x14 then s.deliverAnswer n p else s)
      else match p.eng with
        | some e => s.takeEng p e
        | none => s

/-- accept of R247, at the network interface of the packet's destination. -/
def State.accept247 (s : State) (n : Nat) (hcrcOk pcrcOk : Bool) (p : Packet) : State :=
  if !hcrcOk || (s.chip n).peal != 6 then s
  else if !pcrcOk || !codeOk p then s.nack n 3 p
  else
    let f := s.inFlow n p.sch p.cls
    let d := (p.seq - f.next).toNat
    if 64 ≤ d || f.seen.getLsbD d then s.ack n p
    else if !s.landFree n p then s.nack n 2 p
    else match s.reserve n (orderedFlow p && d != 0) p with
      | (none, s) => s.nack n 4 p
      | (some r, s) =>
        let s := s.ack n p
        let seen := f.seen ||| BitVec.ofNat 64 (2 ^ d)
        let now := if orderedFlow p then [] else [(r, p)]
        let held := if orderedFlow p then f.held ++ [(r, p)] else f.held
        let (out, f) := InFlow.advance 64 { f with seen := seen, held := held }
        (now ++ out).foldl (fun t x => t.handOver n x) (s.setInFlow n p.sch p.cls f)

/-- PACKET_ACCEPT: the packet of flight i has arrived whole at its destination, and its output port serves it (R247, R249). -/
def execPacketAccept (i : Nat) (hcrcOk pcrcOk : Bool) (s : State) : Out :=
  match s.flights[i]? with
  | none => .next s
  | some f =>
    if f.pkt.rly || f.site != f.pkt.dch || (!f.direct && s.yields f) then .next s
    else .next ({ (if f.direct then s else s.served f) with flights := listDel s.flights i }.accept247 f.site hcrcOk pcrcOk f.pkt)

/-- GAP_NOTICE: gap of R247, for the first notice that has come to network interface n. -/
def State.gapNotice (s : State) (n : Nat) : State :=
  match s.takeAnswer n 2 with
  | none => s
  | some (x, s) =>
    let f := s.inFlow n x.pch x.cls.toNat
    let d := (x.seq - f.next).toNat
    if 64 ≤ d || f.seen.getLsbD d then s
    else
      let (out, f) := InFlow.advance 64 { f with seen := f.seen ||| BitVec.ofNat 64 (2 ^ d) }
      out.foldl (fun t y => t.handOver n y) (s.setInFlow n x.pch x.cls.toNat f)

/-- GAP_NOTICE. -/
def execGapNotice (n : Nat) (s : State) : Out := onSite n s fun s => s.gapNotice n

end Sys2Proof.Machine
end

