-- ==== Sys2Proof/Machine/Fetch.lean ====
section
/-! DEFINITION. Fetching a line (R30, R31, R34, R48, R53) and what a core does next. -/

namespace Sys2Proof.Machine

/-- The slot at PC, where its line is held. -/
def Core.slot? (c : Core) : Option Slot := (c.line c.pc).map fun l => lineSlot l (c.pc.extractLsb' 0 3).toNat

/-- The SP bit of an instruction that may carry it. -/
def spOf (i : Instr) : Bool :=
  match i.form with
  | .m3 _ f => f.sp | .mi _ f => f.sp | .en _ f => f.sp | .sy _ f => f.sp | .chk sp _ => sp
  | .nop => false | .br _ _ => false | .agent => false

/-- The word has SP = 1: an instruction that carries it, or a malformed word of an assigned opcode with bit 87 set, whose
LIVE line is fetched and checked before its IILL (R36, R48, R53; DEDUCED, log 101). NOP (0x00) has no SP bit: a NOP word
with bit 87 set raises IILL with no LIVE line fetched, as the opcodes that are unassigned do (DESIGN CHOICE, log 101). -/
def spWord (w : Slot) : Bool :=
  match decode w with
  | .ok i => spOf i
  | .error .unassigned => false
  | .error .nopBits => false
  | .error .liveWord => false
  | .error _ => w.getLsbD 87

/-- The line the core must fetch before the instruction at PC can issue: the line of PC, or the line of its LIVE
word (R53). -/
def Core.needsLine (c : Core) : Option W64 :=
  match c.slot? with
  | none => some (lineOf c.pc)
  | some w => if spWord w && (c.line (nextSlot c.pc)).isNone then some (lineOf (nextSlot c.pc)) else none

/-- The 64 bytes of a line as its bits (R3). -/
def lineBits (b : List Byte) : BitVec 512 := BitVec.ofNat 512 (leNat b)

/-- The core runs as an attached member of a gang. -/
def Core.attached (c : Core) : Bool := c.act.any fun a => a.gang && !a.leader && !a.detached

/-- Put a checked line into the fetch buffer of the four most recent lines (R334); a line that an attached member's trap
handler fetches displaces none that its leader has forwarded (R310). -/
def Core.keepLine (c : Core) (va : W64) (l : BitVec 512) : Core :=
  let k := (va, l) :: c.fetch.filter fun x => x.1 != va
  { c with fetch := if c.attached then k else k.take 4, refetch := none }

/-- Fetch the line at `va` for core g: translation, parity, line word, in the order of R53; a gang's leader forwards it to the
attached members (R310). `again`: the refetch of R31, which corrects, or raises ECCU on a second mismatch (R444, R445). -/
def State.fetchLine (s : State) (g : Nat) (va : W64) (again : Bool) : State :=
  let c := s.core g
  match s.segs (.core g) (g / 64) (some g) c.asid c.user .x .current 2 va 64 with
  | .error f => s.faultAt g f va
  | .ok l =>
    let places := l.flatMap Seg.places
    if s.anyPoison places then s.faultAt g .eccu va true
    else
      let s := (s.fillAll (.core g) (g / 64) l).l2Segs (g / 64) c.asid l false
      let bits := lineBits (s.bytesAt places)
      if !parityOk bits then
        if again then (s.modChip (g / 64) fun k => { k with eccunc := k.eccunc + 1 }).faultAt g .eccu va true
        else s.modCore g fun c => { c with refetch := some va }
      else
        let s := if again then s.modChip (g / 64) fun k => { k with ecccor := k.ecccor + 1 } else s
        if lineBad bits then s.faultAt g .iill va
        else (s.followers g).foldl (fun t k => t.modCore k fun c => c.takeLines [(va, bits)]) (s.modCore g fun c => c.keepLine va bits)

/-- LINE_FETCH: the core fetches and checks the line it needs (R31); an attached member waits for its leader's (R310, R341). -/
def execLineFetch (g : Nat) (s : State) : Out :=
  onCore g s fun s =>
    if !s.issues g || (s.core g).refetch.isSome || s.follows g then s
    else match (s.core g).needsLine with
      | some va => s.fetchLine g va false
      | none => s

/-- LINE_REFETCH: the one refetch of a line whose parity failed (R31). -/
def execLineRefetch (g : Nat) (s : State) : Out :=
  onCore g s fun s =>
    if !s.issues g then s
    else match (s.core g).refetch with
      | some va => s.fetchLine g va true
      | none => s

/-- A slot that holds no instruction raises IILL; CFV on its entry comes first (R53). ERET to a slot with a LIVE word, which
R49 leaves open, raises IILL here too (DESIGN CHOICE, log 102). -/
def State.badSlot (s : State) (g : Nat) : State :=
  if !s.issues g then s
  else match (s.core g).entryFault with
    | some f => s.faultAt g f 0
    | none => s.faultAt g .iill 0

/-- What a core does in its turn. -/
inductive NextRow where
  | run (i : Instr)
  | bad
  deriving DecidableEq, Repr

/-- The step of another agent that the instruction in hand waits for, where the core's wait names one. -/
def State.waitRow (s : State) (g : Nat) : Option Instr :=
  let c := s.core g
  match c.wait with
  | .tlbinv id => ((s.chips.find? fun x => x.2.invals.any fun v => v.id == id).map (·.1)).map fun n => .tlbinvBroadcast n
  | .clgrp _ _ none => some (.clgrpResult g)
  | .wstat _ none => some (.wstatReply g)
  | .sp _ => ((List.range 6).find? fun k => c.bankPend.getLsbD k).map fun k =>
      if k < 3 then .bankOffEffective g k else .bankWake g (k - 3)
  | .phase => match c.group with
    | none => none
    | some q =>
      let l := s.members q
      match l.find? fun k => !(s.pgroup q).heard.contains k with
      | some k => some (.boundaryStart k)
      | none => if l.all (s.arrived q) then some (.phaseBarrierComplete q.toNat) else none
  | _ => none

/-- What an idle core does: it serves a queue, or wakes for one (R296, R372). -/
def State.idleRow (s : State) (g : Nat) : Instr :=
  match (s.core g).gate, (s.choose g).isSome with
  | .gated, true => .wakeRequest g
  | .waking none, _ => .inrushWindow (clusterOfCore g)
  | .waking (some _), _ => .wakeComplete g
  | _, _ => .dispatch g

/-- The chiplet has still to carry out the kill of an address space (R437). -/
def State.killDue (s : State) (n : Nat) (asid : W16) : Bool :=
  match KV.find s.spaces asid.toNat with
  | some r => r.killed && r.killing.contains n
  | none => false

/-- A change of a core's clock source is under way, which its next turn ends (R364). -/
def State.hopping (s : State) (g : Nat) : Bool :=
  !(s.chip (g / 64)).droop && (s.chip (g / 64)).hops.any fun h => h.1 == g

/-- The row that performs a core's oldest access in flight. -/
def Core.pendRow (c : Core) (g : Nat) : Instr :=
  match c.pend with
  | ⟨.load _ _ _ _, _, _, _, _⟩ :: _ => .loadReturn g 0
  | _ => .immediatePerform g 0

/-- A core that is asked to stop stands at a safe point with accesses in flight: they are performed first (R335, R351). -/
def State.drains (s : State) (g : Nat) : Bool :=
  let c := s.core g
  s.stopAsked g && c.safe.isSome && !c.pend.isEmpty && !c.trapActive

/-- The row a core carries out next: the kill of its address space (R437), a fault found late (R429), dispatch where it runs
nothing (R296), a stop (R351), none of them within an issue group (R89), an access or step its instruction waits for, a fetch,
or the instruction at PC. -/
def State.nextRow (s : State) : NextRow :=
  let g := s.self
  let c := s.core g
  match c.act with
  | none => .run (s.idleRow g)
  | some _ =>
    if s.killDue (g / 64) c.asid && !c.midPair then .run (.kill (g / 64) c.asid.toNat)
    else if s.hopping g then .run (.clockHop g)
    else if !c.async.isEmpty && c.wait.yields && !c.midPair then .run (.asyncFault g)
    else if s.stopsNow g then .run (.activationStop g false)
    else if s.drains g then .run (c.pendRow g)
    else if c.wait != .none && !c.pend.isEmpty then .run (c.pendRow g)
    else match s.waitRow g with
      | some i => .run i
      | none =>
        if c.refetch.isSome then .run (.lineRefetch g)
        else if c.needsLine.isSome then .run (.lineFetch g)
        else match c.slot? with
          | none => .bad
          | some w => match decode w with
            | .ok i => .run i
            | .error _ => .bad

/-- The row is a step of another agent, which the schedule may name; a core's instruction issues only at its PC. -/
def isAgentRow (i : Instr) : Bool := i.form == .agent

/-- An activation with nothing in hand, for a word placed where the core fetches. -/
def placedAct : Act where
  rid := 0
  brec := 0
  key := 0
  lcn := 0
  trig := Packet.zero
  tries := 0
  irrev := false
  report := false
  nmsk := 0
  lr := 0
  gang := false
  detached := false
  leader := false
  phased := false
  ended := false
  named := []

/-- The core with one instruction word at its PC, in a line of NOPs held in its fetch buffer, the LIVE word of an
SP = 1 instruction after it (log 14). -/
def Core.placeWord (c : Core) (w : Slot) : Core :=
  let k := (c.pc.extractLsb' 0 3).toNat
  let live := liveSlot (BitVec.allOnes 18)
  let blank := List.replicate 5 (0 : Slot)
  let line := mkLine (listSet (if w.getLsbD 87 then listSet blank (k + 1) live else blank) k w) 0 0
  let next := mkLine (listSet blank 0 live) 0 0
  { c with
    fetch := [(lineOf c.pc, line)] ++ (if k = 4 then [(lineOf (nextSlot c.pc), next)] else [])
    act := some (c.act.getD placedAct), entered := .resumed, wait := .none, async := [], refetch := none }

end Sys2Proof.Machine
end

