-- ==== Sys2Proof/Machine/Gl.lean ====
section
/-! DEFINITION. GL links: packing, acceptance, acknowledgement, remote copies, external frames, lane failure and link loss
(R260 to R265, R282, R457 to R459, R509, R517). -/

namespace Sys2Proof.Machine

/-- The link trains no longer and carries packets (R460: STATE UP). -/
def GlLink.up (k : GlLink) : Bool := k.state == 2

/-! ### Sending (R261 to R263) -/

/-- Payload words of a GL packet. -/
def glWords (q : GlPacket) : List Lane := q.parts.flatMap (·.words)

/-- The stored payload of a GL packet (R261, R263). -/
def glStored (q : GlPacket) : List Byte := if q.cmp then q.stored else payloadBytes (glWords q)

/-- A part descriptor: PLEN, KEY, TGT, ADDR (R262). -/
def partHeader (x : GlPart) : List Byte :=
  leBytes 2 x.plen ++ leBytes 6 x.key.toNat ++ leBytes 16 x.tgt.toNat ++ leBytes 8 x.addr.toNat

/-- The 256 bytes of a GL packet's header flit with both CRCs (R261). KIND 0: KEY and TGT are those of part 0. -/
def glHeader (q : GlPacket) : List Byte :=
  let st := glStored q
  let first : GlPart := q.parts.headD ⟨0, 0, 0, 0, [], none⟩
  let parts := if q.kind = 0 then q.parts else []
  let h := leBytes 4 q.lseq.toNat ++ leBytes 2 (4 * (glWords q).length) ++ leBytes 2 st.length ++ leBytes 1 q.kind ++
    leBytes 1 (bitsNat [q.cmp, q.ord, q.eom]) ++ leBytes 2 q.smod.toNat ++ leBytes 2 q.dmod.toNat ++ leBytes 2 q.sch ++
    leBytes 2 q.dch ++ leBytes 1 q.sep ++ leBytes 1 q.dep ++ leBytes 1 q.cls ++ leBytes 1 parts.length ++ leBytes 2 0 ++
    leBytes 4 (if q.kind = 0 then 0 else q.fseq.toNat) ++ leBytes 6 first.key.toNat ++
    leBytes 2 (if q.kind = 0 then q.asid.toNat else 0) ++ leBytes 16 first.tgt.toNat ++
    leBytes 64 (bitsNat ((glWords q).map (·.v))) ++
    (parts.flatMap partHeader ++ List.replicate 128 0).take 128 ++ leBytes 4 0 ++
    leBytes 4 (crc32Run 0xFFFFFFFF st ^^^ 0xFFFFFFFF).toNat
  h ++ leBytes 4 (crc32Run 0xFFFFFFFF h ^^^ 0xFFFFFFFF).toNat

/-- The flits of a GL packet: its header and its stored payload, 256 bytes each (R261). -/
def glFlits (q : GlPacket) : List (List Byte) :=
  glHeader q :: (List.range (((glStored q).length + 255) / 256)).map fun k => ((glStored q).drop (256 * k) ++ List.replicate 256 0).take 256

/-- A GL packet whose payload is coded (R263). -/
def glCoded (q : GlPacket) : Bool := q.cls == 4 || q.cls == 5

/-- Packing i may be closed: one of the cases of R262, no earlier packing of its flow. -/
def GlLink.closable (k : GlLink) (now i : Nat) (x : Packing) : Bool :=
  let q := x.pkt
  !(k.packing.take i).any (fun y => sameGather y.pkt q) &&
    (!glCoded q || q.eom || decide (4 ≤ q.parts.length) || decide (2048 ≤ glBytes q) || decide (x.since + 64 ≤ now) ||
      (k.packing.drop (i + 1)).any fun y => sameGather y.pkt q)

/-- GL_PACKET_CLOSE: packing i of link l is closed, coded and first sent (R262, R263, R458). -/
def State.glClose (s : State) (l i : Nat) : State :=
  let k := s.link l
  match k.packing[i]? with
  | none => s
  | some x =>
    if !k.up || decide (256 ≤ k.unacked.length) || !k.closable s.now i x then s
    else
      let q := { x.pkt with lseq := k.txNext }
      let t := KV.get Coder.reset k.txCode q.cls
      let q := if glCoded q then (match t.pack (glWords q) with
        | some b => { q with cmp := true, stored := b }
        | none => q) else q
      s.setLink l { k with
        packing := listDel k.packing i
        unacked := k.unacked ++ [q]
        txNext := k.txNext + 1
        gltx := k.gltx + 1
        txCode := if glCoded q then KV.put q.cls (t.after (glWords q)) k.txCode else k.txCode }

/-- GL_PACKET_CLOSE. -/
def execGlPacketClose (l i : Nat) (s : State) : Out := onEight l s fun s => s.glClose l i

/-- The far gateway has accepted a GL packet: its messages count one RECV; its copy parts are done where they are `written`, and
not where the far end has passed over them after a refusal (R263, R278, R517). -/
def State.glDone (s : State) (q : GlPacket) (written : Bool) : State :=
  if glCoded q then
    (if q.sep / 4 = 0x14 && written then q.parts.foldl (fun t x => match x.eng with
      | some e => t.modCopy q.sch (q.sep % 4) e.cmd fun r => r.partDone e.pos
      | none => t) s else s)
  else if q.sep = 0x5B || (s.region q.srid).isNone then s
  else s.countRecv q.sch q.srid 1

/-- LSEQ a is at or after b. -/
def seqGe (a b : W32) : Bool := decide ((a - b).toNat < 2 ^ 31)

/-- GL_ACK (R263, R460). Whether the copy parts it acknowledges have been performed comes with it (DESIGN CHOICE, log 140). -/
def State.glAck (s : State) (l : Nat) (heard : GlHeard) : State :=
  let k := s.link l
  match k.unacked.find? (fun q => q.lseq == heard.lseq) with
  | none => s
  | some q =>
    (s.setLink l { k with
      unacked := k.unacked.filter fun x => x.lseq != heard.lseq
      lack := if seqGe heard.lseq k.lack then heard.lseq else k.lack }).glDone q heard.written

/-- GL_ACK. -/
def execGlAck (l : Nat) (heard : GlHeard) (s : State) : Out := onEight l s fun s => s.glAck l heard

/-- GL_NACK: the same bytes go again (R263, R265). -/
def execGlNack (l : Nat) (lseq : W32) (s : State) : Out :=
  onEight l s fun s =>
    let k := s.link l
    if k.unacked.any (fun q => q.lseq == lseq) then s.setLink l { k with glretx := k.glretx + 1 } else s

/-! ### Receiving (R260, R262, R282, R509) -/

/-- The local address space of a pair (source module, ASID) (R282). -/
def GlLink.importOf (k : GlLink) (smod asid : W16) : Option W16 := KV.find k.imports (65536 * smod.toNat + asid.toNat)

/-- A GL packet of the gateway's own: an answer, or the notice that a message is refused. `eng`: the command it answers. -/
def glAnswer (me : W16) (q : GlPacket) (key : BitVec 48) (tgt : W64) (words : List Lane) (eng : Option EngPart) : GlPacket where
  lseq := 0
  kind := 0
  cmp := false
  ord := true
  eom := true
  smod := me
  dmod := q.smod
  sch := 0
  dch := q.sch
  sep := 0x5B
  dep := q.sep
  cls := 6
  fseq := 0
  asid := q.asid
  parts := [⟨4 * words.length, key, tgt, 0, words, eng⟩]
  stored := []
  srid := q.srid
  score := q.score

def State.glReply (s : State) (l : Nat) (q : GlPacket) : State :=
  s.setLink l { s.link l with packing := (s.link l).packing ++ [⟨{ q with sch := Config.glChip l }, s.now⟩] }

/-- A part rebuilt as a mesh packet of the gateway (R262). -/
def State.rebuild (s : State) (l : Nat) (q : GlPacket) (x : GlPart) (eom : Bool) (asid : W16) : State :=
  let n := Config.glChip l
  let p : Packet := { Packet.zero with
    dch := q.dch, sch := n, dep := q.dep, sep := 0x5B, cls := q.cls, eom := eom, plen := x.plen, asid := asid
    key := x.key, tgt := x.tgt, words := x.words, eng := if q.cls = 6 then x.eng else none }
  s.modChip n fun k => { k with sendq := k.sendq ++ [p] }

/-- The far module refused a message of this module: the region that sent it is told (R260, R321). No form of the notice is
given: a GL packet of class CMPL from the far gateway, which knows the sending region and core as the packet it answers did
(DEDUCED, log 36). -/
def State.refusedFar (s : State) (q : GlPacket) (x : GlPart) : State :=
  s.report q.score q.srid { Report.of 5 FCode.relay.code with addr := x.tgt, key := x.key }

/-- The command a part belongs to (log 28). -/
def partCmd (x : GlPart) : Nat := match x.eng with
  | some e => e.cmd
  | none => 0

/-- Same remote copy. -/
def RCopy.isOf (c : RCopy) (q : GlPacket) (x : GlPart) : Bool :=
  c.smod == q.smod && c.sch == q.sch && c.sep == q.sep && c.cls == q.cls && c.key == x.key && c.cmd == partCmd x

/-- A number for a copy of another module that is written here, past those of this module's commands. -/
def farCmd (l : Nat) (smod : W16) (cmd : Nat) : Nat := (8 * smod.toNat + l + 1) * 2 ^ 48 + cmd

/-- Bytes of a part with the validity of their words. -/
def partBytes (x : GlPart) : List (Byte × Bool) := x.words.flatMap fun w => (leBytes 4 w.w.toNat).map fun b => (b, w.v)

/-- The next part of a remote copy is checked and written at its homes (R272, R509). The privilege of the command does not
cross, so pages are reached as user (DEDUCED, log 36). -/
def State.writePart (s : State) (l : Nat) (q : GlPacket) (x : GlPart) (eom : Bool) : State :=
  let k := s.link l
  let c := (k.rcopies.find? fun c => c.isOf q x).getD ⟨q.smod, q.sch, q.sep, q.cls, x.key, partCmd x, q.asid, 0xFFFFFFFF, 0, false, 0, false⟩
  let put (s : State) (c : RCopy) : State :=
    let rest := (s.link l).rcopies.filter fun c => !c.isOf q x
    s.setLink l { s.link l with rcopies := if c.eom && c.answered then rest else rest ++ [c] }
  if c.sts ≠ 0 then put s { c with eom := eom }
  else match k.importOf q.smod q.asid with
    | none => put s { c with eom := eom, sts := FCode.relay.code }
    | some a =>
      let n := Config.glChip l
      let b := partBytes x
      let ds := (List.range b.length).map fun j => x.addr + BitVec.ofNat 64 j
      if ds.any inWindow then put s { c with eom := eom, sts := FCode.txnp.code }
      else match s.copyWrite ⟨n, 64 * n, a, true, .shared, farCmd l q.smod (partCmd x)⟩ false false (ds.zip b) with
        | .error (f, _) => put s { c with eom := eom, sts := f }
        | .ok (t, _) => put t { c with
            eom := eom, count := c.count + b.length
            crc := crc32Run c.crc (b.map fun y => if y.2 then y.1 else 0) }

/-- One part of an accepted GL packet. -/
def State.takePart (s : State) (l : Nat) (q : GlPacket) (x : GlPart) (eom : Bool) : State :=
  if glCoded q && q.dch == 0x3FF then s.writePart l q x eom
  else if q.sep = 0x5B ∧ q.cls = 6 then
    (if q.dep / 4 = 0x14 then s.rebuild l q x eom q.asid else s.refusedFar q x)
  else
    let n := Config.glChip l
    match (s.link l).importOf q.smod q.asid with
    | none => if glCoded q then s else s.glReply l (glAnswer s.modid q x.key x.tgt [] none)
    | some a =>
      if glCoded q then s.rebuild l q x eom a
      else
        let ok := q.dmod == s.modid && match s.region (tgtRid x.tgt) with
          | some r => r.asid == a
          | none => false
        if ok then (s.rebuild l q x eom a).countSent n (tgtRid x.tgt) 1
        else s.glReply l (glAnswer s.modid q x.key x.tgt [] none)

/-- The parts of a payload: each takes its words in turn. -/
def splitParts : List GlPart → List Lane → List GlPart
  | [], _ => []
  | x :: l, w => { x with words := w.take x.words.length } :: splitParts l (w.drop x.words.length)

/-- Parts in order, the last with the packet's EOM. -/
def State.takeParts (s : State) (l : Nat) (q : GlPacket) : List GlPart → State
  | [] => s
  | [x] => s.takePart l q x q.eom
  | x :: r => (s.takePart l q x false).takeParts l q r

/-- Ingress entry of a stream (R264). -/
def GlLink.ingressOf (k : GlLink) (stream : W16) : Option (W16 × W64) := KV.find k.ingress stream.toNat

/-- Cut a payload into messages of 512 bytes, the last one shorter (R264). -/
def frameParts : Nat → List Byte → List (List Byte)
  | 0, _ => []
  | f + 1, b => if b.length ≤ 512 then [b] else b.take 512 :: frameParts f (b.drop 512)

/-- A frame of an external device becomes messages of its stream's target, or is discarded and counted (R264, R313). -/
def State.takeFrame (s : State) (l : Nat) (stream asid : W16) (fseq : W32) (cmp : Bool) (payload : List Byte) : State :=
  let k := s.link l
  match (if cmp || asid != 0 then none else k.ingressOf stream) with
  | none => s.setLink l { k with glxdrop := k.glxdrop + 1 }
  | some (a, t) =>
    let n := Config.glChip l
    let ps := frameParts (payload.length / 512 + 1) payload
    let mk (x : List Byte × Nat) : Packet := { Packet.zero with
      dch := tgtCh t, sch := n, dep := tgtCore t, sep := 0x5B, cls := 3, eom := x.2 + 1 == ps.length
      words := (wordsOf x.1).map (fun w => ⟨w, true⟩), plen := 4 * (wordsOf x.1).length, asid := a
      key := mkKey 0xFFFE (fseq * 4 + BitVec.ofNat 32 x.2), tgt := t
      hx := if tgtRmt t then some ⟨tgtDmod t, BitVec.ofNat 10 (tgtCh t), BitVec.ofNat 7 (tgtCore t), 0⟩ else none }
    let s := s.modChip n fun c => { c with sendq := c.sendq ++ ps.zipIdx.map mk }
    if (s.region (tgtRid t)).isSome then s.countSent (tgtCh t) (tgtRid t) ps.length else s

/-- Acceptance of a GL packet in LSEQ order; none where its code yields no payload (R257, R262, R263). -/
def State.takeGl (s : State) (l : Nat) (q : GlPacket) : Option State :=
  let k := s.link l
  if q.kind = 1 then some (s.takeFrame l q.smod q.asid q.fseq q.cmp (payloadBytes (glWords q)))
  else if q.kind ≠ 0 then some s
  else if glCoded q then
    let t := KV.get Coder.reset k.rxCode q.cls
    match (if q.cmp then t.expand q.stored ((glWords q).map (·.v)) else some (glWords q, t.after (glWords q))) with
    | none => none
    | some (w, t1) =>
      some ((s.setLink l { k with rxCode := KV.put q.cls t1 k.rxCode }).takeParts l q (splitParts q.parts w))
  else some (s.takeParts l q q.parts)

/-- An acknowledgement or a NACK goes to the far end (R263). -/
def GlLink.answer (k : GlLink) (ok : Bool) (lseq : W32) : GlLink := { k with answers := k.answers ++ [(ok, lseq)] }

/-- Held packets whose turn has come are accepted and acknowledged; one with a bad code counts as a CRC failure. -/
def State.drainGl : Nat → State → Nat → State
  | 0, s, _ => s
  | f + 1, s, l =>
    let k := s.link l
    match k.rxHeld.find? (fun q => q.lseq == k.rxNext) with
    | none => s
    | some q =>
      let s := s.setLink l { k with rxHeld := k.rxHeld.filter fun x => x.lseq != q.lseq }
      match s.takeGl l q with
      | none => s.setLink l { (s.link l).answer false q.lseq with glrxbad := k.glrxbad + 1 }
      | some t => State.drainGl f (t.setLink l { (t.link l).answer true q.lseq with rxNext := k.rxNext + 1 }) l

/-- GL_PACKET_RECEIVE: a GL packet of link l has come whole; a bad one is answered by a NACK, discarded and counted, one
accepted before is acknowledged again (R262, R263, R265, R458). None comes while the gateway holds a refused frame, whose
link has no credits (R264). -/
def State.glReceive (s : State) (l : Nat) (q : GlPacket) (crcOk : Bool) : State :=
  let k := s.link l
  if !k.up || !k.heldFrames.isEmpty then s
  else if !crcOk then s.setLink l { k.answer false q.lseq with glrxbad := k.glrxbad + 1 }
  else if 256 ≤ (q.lseq - k.rxNext).toNat then (if seqGe q.lseq k.rxNext then s else s.setLink l (k.answer true q.lseq))
  else if k.rxHeld.any (fun x => x.lseq == q.lseq) then s
  else State.drainGl 257 (s.setLink l { k with rxHeld := k.rxHeld ++ [q] }) l

/-- GL_PACKET_RECEIVE. -/
def execGlPacketReceive (l : Nat) (p : GlPacket) (crcOk : Bool) (s : State) : Out :=
  onEight l s fun s => s.glReceive l p crcOk

/-- REMOTE_COPY_DONE: every part of remote copy i has been performed, or a check has failed: CRC, bytes and status go back
(R509). -/
def State.remoteDone (s : State) (l i : Nat) : State :=
  let k := s.link l
  match k.rcopies[i]? with
  | none => s
  | some c =>
    if c.answered || (!c.eom && c.sts == 0) then s
    else
      let q : GlPacket := { glAnswer s.modid (glOf c.smod { Packet.zero with sch := c.sch, sep := c.sep, asid := c.asid } ⟨0, 0, 0, 0⟩)
        c.key 0 [⟨c.crc ^^^ 0xFFFFFFFF, true⟩, ⟨BitVec.ofNat 32 c.count, true⟩, ⟨c.sts.zeroExtend 32, true⟩]
        (some ⟨c.cmd, 0, []⟩) with lseq := 0 }
      let s := s.landWrites (farCmd l c.smod c.cmd)
      (s.setLink l { k with rcopies := if c.eom then listDel k.rcopies i else listSet k.rcopies i { c with answered := true } }).glReply l q

/-- REMOTE_COPY_DONE. -/
def execRemoteCopyDone (l i : Nat) (s : State) : Out := onEight l s fun s => s.remoteDone l i

/-- EXTERNAL_FRAME: the next GL packet of link l is a frame, accepted and acknowledged (R263); none comes while the gateway holds a
refused one (R264). -/
def execExternalFrame (l : Nat) (stream asid : W16) (fseq : W32) (cmp : Bool) (payload : List Byte) (s : State) : Out :=
  onEight l s fun s =>
    let k := s.link l
    if !k.up || !k.heldFrames.isEmpty then s
    else (s.setLink l { k.answer true k.rxNext with rxNext := k.rxNext + 1 }).takeFrame l stream asid fseq cmp payload

/-! ### Lanes and loss (R457 to R459) -/

/-- Lanes in use at a width code of R460. -/
def lanesOf (wid : Nat) : W16 :=
  match wid with
  | 1 => 0x00FF
  | 2 => 0xFF00
  | 3 => 0xFFFF
  | _ => 0

/-- The link goes down; it trains again at once, and then every 10 ms (R457). -/
def GlLink.goDown (k : GlLink) (now : Nat) : GlLink :=
  { k with state := 0, wid := 0, limited := true, downSince := now, tryAt := now, retrain := none }

/-- Up again at a width; every packet not yet accepted at the far end is sent again (R263, R458). -/
def GlLink.comeUp (k : GlLink) (wid : Nat) : GlLink :=
  { k with
    state := 2, wid := wid, limited := k.limited || wid != 3, retrain := none
    nrt := if k.limited then min 255 (k.nrt + 1) else k.nrt
    glretx := k.glretx + BitVec.ofNat 64 k.unacked.length }

/-- The half that a link goes on with after the loss of some of its lanes: a width, or 0 (R458). -/
def otherHalf (wid : Nat) (lanes : W16) : Nat :=
  if wid ≠ 3 then 0 else if (lanes &&& 0xFF00) == 0 then 2 else if (lanes &&& 0x00FF) == 0 then 1 else 0

/-- The lanes that fail: those the far end reports, and those of the own receiver, which does not check the half that a link at ×8
does not use (R458). -/
def GlLink.failed (k : GlLink) (near far : W16) : W16 := far ||| (if k.up then near &&& lanesOf k.wid else near)

/-- LANE_FAILURE: the own receiver finds the lanes `near` failed, and the far end reports `far`. Where a failed lane was in use the
link retrains on its other half, or goes down; `cut`: a packet was coming in, which is discarded and counted (R262, R265, R458).
-/
def State.laneFailure (s : State) (l : Nat) (near far : W16) (cut : Bool) : State :=
  let lanes := (s.link l).failed near far
  let k := { s.link l with flm := (s.link l).flm ||| lanes, limited := (s.link l).limited || lanes != 0 }
  if !k.up || (lanes &&& lanesOf k.wid) == 0 then s.setLink l k
  else
    let h := otherHalf k.wid lanes
    let k := { k with glrxbad := if cut then k.glrxbad + 1 else k.glrxbad }
    s.setLink l (if h = 0 then k.goDown s.now else { k with state := 3, wid := 0, retrain := some (h, s.now) })

/-- LANE_FAILURE. -/
def execLaneFailure (l : Nat) (near far : W16) (cut : Bool) (s : State) : Out :=
  onEight l s fun s => s.laneFailure l near far cut

/-- The gateway's chiplet has trained its links and serves them (R447, R448, R457). -/
def State.gateLive (s : State) (l : Nat) : Bool :=
  let p := (s.chip (Config.glChip l)).peal
  decide (4 ≤ p) && decide (p ≤ 6)

/-- LINK_TRAIN_RETRY: a link that is down trains again, every 10 ms; a retraining that has taken 40 µs has failed (R457, R458). -/
def execLinkTrainRetry (l : Nat) (s : State) : Out :=
  onEight l s fun s =>
    let k := s.link l
    match k.retrain with
    | some (_, t) => if t + 60000 < s.now then s.setLink l (k.goDown s.now) else s
    | none =>
      if k.state = 0 ∧ s.gateLive l ∧ k.tryAt ≤ s.now then
        s.setLink l { k with state := 1, tryAt := s.now + 15000000 } else s

/-- The end of a retraining after a lane failure: the chosen half has trained within 40 µs, and the sender goes on after the last
LSEQ that the far end has accepted; or the link goes down (R458). -/
def State.glRetrained (s : State) (l : Nat) (ended : GlTraining) (half : W16) (t : Int) (h : Nat) : State :=
  let k := s.link l
  let la := ended.heard.lseq
  if ended.lanes &&& half ≠ half ∨ t + 60000 < s.now then s.setLink l (k.goDown s.now)
  else
    let done := k.unacked.filter fun q => seqGe la q.lseq
    let k := { k with
      unacked := k.unacked.filter fun q => !seqGe la q.lseq
      lack := if seqGe la k.lack && !done.isEmpty then la else k.lack }
    done.foldl (fun t q => t.glDone q ended.heard.written) (s.setLink l (k.comeUp h))

/-- GL_LINK_TRAINED: training ends with these lanes (R457, R458). -/
def State.glTrained (s : State) (l : Nat) (ended : GlTraining) : State :=
  let k := s.link l
  let lanes := ended.lanes
  let wid := if lanes == 0xFFFF && !k.limited then 3 else if (lanes &&& 0xFF) == 0xFF then 1
    else if (lanes &&& 0xFF00) == 0xFF00 then 2 else 0
  match k.retrain with
  | some (h, t) => s.glRetrained l ended (lanesOf h) t h
  | none =>
  if k.state ≠ 1 || !s.gateLive l then s
  else if wid = 0 then s.setLink l { k with state := 0 }
  else s.setLink l (k.comeUp wid)

/-- GL_LINK_TRAINED. -/
def execGlLinkTrained (l : Nat) (ended : GlTraining) (s : State) : Out :=
  onEight l s fun s => s.glTrained l ended

/-- A message that the gateway of a lost link holds is reported to its sending region (R459, R517). -/
def State.dropHeld (s : State) (q : GlPacket) : State :=
  if glCoded q || q.sep == 0x5B then s
  else
    let s := if (s.region q.srid).isSome then s.countRecv q.sch q.srid 1 else s
    q.parts.foldl (fun t x => t.report q.score q.srid
      { Report.of 5 FCode.relay.code with addr := x.tgt, key := x.key }) s

/-- Copies of a chiplet that cross link l end with LINKDOWN (R282, R459). -/
def Chip.cutCopies (k : Chip) (l : Nat) : Chip :=
  { k with
    ceRun := k.ceRun.map fun r => if r.cmd.head.rmt && r.sts.isNone && k.linkTo r.cmd.head.dmod == some l then
      { r with sts := some FCode.linkdown.code, outs := [] } else r
    peers := k.peers.filter fun p => p.2.2 != l }

/-- LINK_LOST: a link down for 100 ms is declared lost (R459). Its LSEQs and coding tables start anew with the far end's
(DEDUCED, log 36). -/
def State.linkLost (s : State) (l : Nat) : State :=
  let k := s.link l
  if k.up || k.lost || s.now < k.downSince + 150000000 then s
  else
    let held := k.unacked ++ k.packing.map (·.pkt)
    let s := { s with chips := s.chips.map fun (x : Nat × Chip) => (x.1, x.2.cutCopies l) }
    let s := s.setLink l { k with
      lost := true, unacked := [], packing := [], rxHeld := [], answers := [], rcopies := [], txCode := [], rxCode := [], txNext := 0, rxNext := 0, lack := 0 }
    held.foldl State.dropHeld s

/-- LINK_LOST. -/
def execLinkLost (l : Nat) (s : State) : Out := onEight l s fun s => s.linkLost l

end Sys2Proof.Machine
end

