-- ==== Sys2Proof/Machine/Regions.lean ====
section
/-! DEFINITION. Region control blocks (R291, R292), teams and their binds (R344, R348, R125, R126), and moving a team
(R360 to R362). -/

namespace Sys2Proof.Machine

/-! ### Statuses of a call (R346, R410) -/

inductive CallSts where
  | ok | refused | busy | noent | nopriv | desc | noid
  deriving DecidableEq, Repr

def CallSts.code : CallSts → Byte
  | .ok => 0 | .refused => 1 | .busy => 2 | .noent => 3 | .nopriv => 4 | .desc => 5 | .noid => 6

/-! ### Region control blocks -/

/-- OVR bit g of a block (R291). -/
def ovr (b : List Byte) (g : Nat) : Bool := (fieldOf b 8 2).testBit g

/-- The 14 named regions of a block as offset and size in 64-byte units. -/
def rawNamed (b : List Byte) : List (Nat × Nat) :=
  (List.range 14).map fun j => (fieldOf b (72 + 4 * j) 2, fieldOf b (74 + 4 * j) 2)

/-- Bytes and bits of a block that must be zero (R291). -/
def rcbZero (b : List Byte) : Bool :=
  fieldOf b 61 3 == 0 && decide (fieldOf b 24 1 < 8) && decide (fieldOf b 25 1 < 8) && decide (fieldOf b 60 1 < 2)

/-- Named regions that are present do not overlap and end below 128 KiB (R292). -/
def namedOk (l : List (Nat × Nat)) : Bool :=
  let p := l.filter fun x => x.2 != 0
  p.all (fun x => decide (x.1 + x.2 ≤ 2048)) &&
    (List.range p.length).all fun i => (p.drop (i + 1)).all fun y =>
      let x := p.getD i (0, 0)
      decide (x.1 + x.2 ≤ y.1) || decide (y.1 + y.2 ≤ x.1)

/-- A region's effective fields: each group from its own block where its OVR bit is set, else as its parent has it
(R292). -/
def Region.make (rcb : W64) (b : List Byte) (p : Option Region) : Region :=
  let pick {α : Type} (g : Nat) (own : α) (up : Region → α) : α := if ovr b g then own else match p with
    | some q => up q
    | none => own
  { rcb := rcb, raw := b
    asid := BitVec.ofNat 16 (fieldOf b 10 2)
    parent := BitVec.ofNat 64 (fieldOf b 0 8)
    cores := pick 0 (fieldOf b 12 2) (·.cores)
    mxs := pick 0 (fieldOf b 14 1) (·.mxs)
    pwr := pick 0 (fieldOf b 15 1) (·.pwr)
    mem := pick 0 (fieldOf b 16 4) (·.mem)
    spwn := pick 0 (fieldOf b 20 4) (·.spwn)
    prio := pick 1 (fieldOf b 24 1 % 8) (·.prio)
    shc := pick 2 (fieldOf b 25 1 % 8) (·.shc)
    fdom := pick 3 (fieldOf b 26 2) (·.fdom)
    htlen := pick 4 (fieldOf b 28 2) (·.htlen)
    fhix := pick 4 (fieldOf b 30 2) (·.fhix)
    htab := pick 4 (BitVec.ofNat 64 (fieldOf b 32 8)) (·.htab)
    lq := pick 5 (BitVec.ofNat 64 (fieldOf b 40 8)) (·.lq)
    stray := pick 5 (BitVec.ofNat 64 (fieldOf b 48 8)) (·.stray)
    phg := pick 6 (BitVec.ofNat 16 (fieldOf b 56 2)) (·.phg)
    ovfr := pick 7 (fieldOf b 58 2) (·.ovfr)
    ovfa := pick 7 (BitVec.ofNat 64 (fieldOf b 64 8)) (·.ovfa)
    shrpt := pick 2 ((fieldOf b 60 1).testBit 0) (·.shrpt)
    nr := pick 8 (rawNamed b) (·.nr)
    depth := match p with
      | some q => q.depth + 1
      | none => 1 }

/-- Every effective field lies in its range (R291, R292). -/
def Region.rangesOk (r : Region) : Bool :=
  decide (1 ≤ r.cores) && decide (r.cores ≤ 25600) && decide (r.mxs ≤ 16) && decide (1 ≤ r.spwn) && decide (r.spwn ≤ 2 ^ 31) &&
    decide (1 ≤ r.htlen) && decide (r.htlen ≤ 4096) && r.htab.toNat % 64 == 0 && decide (r.ovfr ≤ 4096) &&
    r.ovfa.toNat % 128 == 0 && namedOk r.nr

/-- The registered region with a block address in an address space. -/
def State.regionAt (s : State) (asid : W16) (rcb : W64) : Option Region :=
  (s.regions.find? fun (x : Nat × Region) => x.2.rcb == rcb && x.2.asid == asid).map (·.2)

/-- A block as a region, or why firmware refuses it (R291, R292). -/
def State.evalRcb (s : State) (asid : W16) (rcb : W64) (b : List Byte) : Except CallSts Region :=
  let pa : W64 := BitVec.ofNat 64 (fieldOf b 0 8)
  if !rcbZero b then .error .desc
  else if BitVec.ofNat 16 (fieldOf b 10 2) ≠ asid then .error .nopriv
  else if pa = 0 then
    let r := Region.make rcb b none
    if fieldOf b 8 2 = 0x1FF ∧ r.rangesOk then .ok r else .error .refused
  else if pa = rcb then .error .refused
  else match s.regionAt asid pa with
    | none => .error .noent
    | some p =>
      let r := Region.make rcb b (some p)
      if fieldOf b 8 2 < 0x200 ∧ r.depth ≤ 8 ∧ r.rangesOk then .ok r else .error .refused

/-- Firmware reads a block: 128 bytes at a multiple of 128 in an IMMEDIATE page with R and W (R291). -/
def State.readRcb (s : State) (n : Nat) (asid : W16) (rcb : W64) : Except CallSts (List Byte) :=
  if rcb.toNat % 128 ≠ 0 then .error .desc
  else match s.placesAs n asid false rcb 128 .rw true with
    | .error _ => .error .desc
    | .ok l => .ok (s.bytesAt l)

/-- Read and evaluate a block. -/
def State.loadRcb (s : State) (n : Nat) (asid : W16) (rcb : W64) : Except CallSts Region := do
  let b ← s.readRcb n asid rcb
  s.evalRcb asid rcb b

/-- The inherited fields of descendants follow: one pass from the blocks as last read (R292). -/
def State.inheritOnce (s : State) : State :=
  { s with regions := s.regions.map fun (x : Nat × Region) =>
    match s.regionAt x.2.asid x.2.parent with
    | some p => (x.1, Region.make x.2.rcb x.2.raw (some p))
    | none => x }

/-- A core that becomes a member of a group through record i holds nothing read before: no line, no translation marked, and
no copy of CUR unless another record needs one (R196, R200, R211). -/
def Core.joining (c : Core) (phg : W16) (i : Nat) : Core :=
  if c.inGroup phg then c
  else { c with
    l1 := [], tlb := c.tlb.filter fun e => !e.stale
    cur := if (List.range 8).any fun k => k != i && recV (c.brec.getD k 0) then c.cur else [] }

/-- The bind record of a region as its effective fields give it: BASE, PHG, shed class (R348, R380). -/
def Core.rebind (c : Core) (rid : W16) (r : Region) : Core :=
  match c.recOf rid with
  | none => c
  | some i =>
    let w := putField (putField (c.brec.getD i 0) 56 3 r.prio) 16 16 r.phg.toNat
    { c.joining r.phg i with brec := c.brec.set! i w, brshc := putField c.brshc (4 * i) 3 r.shc }

/-- New effective fields reach the bind records (R347). -/
def State.rebindAll (s : State) : State :=
  s.regions.foldl (fun t (x : Nat × Region) =>
    { t with cores := t.cores.map fun (y : Nat × Core) => (y.1, y.2.rebind (BitVec.ofNat 16 x.1) x.2) }) s

/-- A region's new block takes effect, on its descendants too (R292, R347). -/
def State.setRegion (s : State) (rid : W16) (r : Region) : State :=
  (iter State.inheritOnce 8 { s with regions := KV.put rid.toNat r s.regions }).rebindAll

/-- The region holds a team. -/
def State.hasTeam (s : State) (rid : W16) : Bool := !(s.teamChips rid).isEmpty

/-- A launch of the region is in progress. -/
def State.launching (s : State) (rid : W16) : Bool :=
  s.launches.any (fun l => l.rid == rid) || s.chips.any fun (x : Nat × Chip) => x.2.shares.any fun h => h.rid == rid

/-- A region leaves the registry, and its forwarding records with it (R347, R362). The number of its phase group stands
(DESIGN CHOICE, log 109). -/
def State.dropRegion (s : State) (rid : W16) : State :=
  { s with
    regions := KV.del rid.toNat s.regions
    sweeps := KV.del rid.toNat s.sweeps
    chips := s.chips.map fun (x : Nat × Chip) =>
      (x.1, { x.2 with forward := x.2.forward.filter fun f => f.1 / 64 != rid.toNat }) }

/-! ### Teams -/

/-- The region of a block address and its ancestors, nearest first. -/
def State.ancestors (s : State) (asid : W16) : Nat → W64 → List Region
  | 0, _ => []
  | n + 1, a => match s.regionAt asid a with
    | some r => r :: s.ancestors asid n r.parent
    | none => []

/-- Ids of a region and its descendants. -/
def State.subtree (s : State) (asid : W16) (rcb : W64) : List Nat :=
  (s.regions.filter fun (x : Nat × Region) =>
    x.2.asid == asid && (s.ancestors asid 8 x.2.rcb).any fun r => r.rcb == rcb).map fun (x : Nat × Region) => x.1

/-- Cores that a region and its descendants hold (R292). -/
def State.coresHeld (s : State) (asid : W16) (rcb : W64) : Nat :=
  ((s.subtree asid rcb).map fun x => ((s.teamChips (BitVec.ofNat 16 x)).map fun n =>
    (s.teamCores n (BitVec.ofNat 16 x)).length).sum).sum

/-- Slots of engine m that a region and its descendants hold (R292). -/
def State.slotsHeld (s : State) (m : Nat) (asid : W16) (rcb : W64) : Nat :=
  let x := s.mxe m
  let l := s.subtree asid rcb
  (x.slot.toList.filter fun w =>
    slotUsed w && bindV (x.bind.getD (slotBind w) 0) && l.contains (x.rid.getD (slotBind w) 0).toNat).length

/-- A further k cores are within the budget of the region and of every ancestor (R292). -/
def State.withinBudget (s : State) (r : Region) (k : Nat) : Bool :=
  (s.ancestors r.asid 8 r.rcb).all fun a => decide (s.coresHeld r.asid a.rcb + k ≤ a.cores)

/-- The slots of a grant that are free are within the budget of the region and of every ancestor (R292). -/
def State.slotsOk (s : State) (m : Nat) (r : Region) (b : MxGrant) : Bool :=
  let new := ((b.slots.map (·.1)).eraseDups.filter fun k => !slotUsed ((s.mxe m).slot.getD k 0)).length
  (s.ancestors r.asid 8 r.rcb).all fun a => decide (s.slotsHeld m r.asid a.rcb + new ≤ a.mxs)

/-- A bind record free to be written. -/
def Core.freeRec (c : Core) : Option Nat := (List.range 8).find? fun i => !recV (c.brec.getD i 0)

/-- The core may be bound to a region of an address space: it holds none of another's, none of this region (R348). -/
def Core.bindable (c : Core) (asid rid : W16) : Bool :=
  c.freeRec.isSome && (c.recOf rid).isNone && c.brec.toList.all fun r => !recV r || recAsid r == asid

/-- Bind a region to a core: its record, its shed class, SHD as the notice in force has it; a core that held no record
starts with a cleared scratchpad (R299, R348, R380). -/
def Core.bindTo (c : Core) (rid : W16) (r : Region) (mig : Bool) (shm : BitVec 8) : Core :=
  match c.freeRec with
  | none => c
  | some i =>
    let w := mkRec mig (BitVec.ofNat 3 r.prio) r.asid r.phg rid
    let w := if shm.getLsbD (r.shc % 8) then putField w 62 1 1 else w
    { c.joining r.phg i with
      brec := c.brec.set! i w
      brshc := putField c.brshc (4 * i) 3 r.shc
      recq := c.recq.set! i RecQ.reset
      spad := if c.brec.toList.any recV then c.spad else []
      spBad := if c.brec.toList.any recV then c.spBad else []
      land := if c.brec.toList.any recV then c.land else [] }

/-- A matrix engine takes a bind for a region: a tile new to the bind is +0 and 128 by 128, its slots (R123, R125, R126). With a
slot, what a withdrawal had held runs on (R354). -/
def Mxe.grant (x : Mxe) (rid asid : W16) (b : MxGrant) : Mxe :=
  let used := (List.range 16).foldl (fun (m : BitVec 4) i =>
    if i ≠ b.bind ∧ bindV (x.bind.getD i 0) then m ||| bindMask (x.bind.getD i 0) else m) 0
  let tm := b.tmsk &&& ~~~used
  { x with
    bind := x.bind.set! b.bind (1#1 ++ 0#11 ++ tm ++ asid)
    rid := x.rid.set! b.bind rid
    slot := b.slots.foldl (fun v y =>
      if slotUsed (v.getD y.1 0) then v else v.set! y.1 (BitVec.ofNat 32 (16 + b.bind + if y.2 then 32 else 0))) x.slot
    held := if b.slots.any (fun y => !slotUsed (x.slot.getD y.1 0)) then x.held &&& ~~~BitVec.ofNat 16 (2 ^ b.bind) else x.held
    tiles := Vector.ofFn fun t =>
      let old := x.tiles.getD t.val Tile.reset
      if tm.getLsbD t.val && old.bind != some b.bind then { Tile.reset with bind := some b.bind } else old }

/-- A grant firmware may make: a bind id free or the region's own (R126). -/
def Mxe.mayGrant (x : Mxe) (rid : W16) (b : MxGrant) : Bool :=
  decide (b.bind < 16) && b.slots.all (fun y => decide (y.1 < 16)) &&
    (match x.bindOf rid with
      | some k => k == b.bind
      | none => !bindV (x.bind.getD b.bind 0))

/-- Firmware writes a bind of a region on an engine of chiplet n, within its budget (R125, R126, R292, R344). -/
def State.grantBind (s : State) (n : Nat) (rid : W16) (r : Region) (b : MxGrant) : State :=
  let m := 4 * n + b.cluster % 4
  if (s.mxe m).mayGrant rid b && s.slotsOk m r b then s.setMxe m ((s.mxe m).grant rid r.asid b) else s

/-- The region's bind on an engine is withdrawn, with what it had in hand (R123, R344). -/
def Mxe.withdraw (x : Mxe) (rid : W16) : Mxe :=
  match x.bindOf rid with
  | none => x
  | some b =>
    { x with
      bind := x.bind.set! b 0
      rid := x.rid.set! b 0
      held := x.held &&& ~~~BitVec.ofNat 16 (2 ^ b)
      slot := x.slot.map fun w => if slotUsed w && slotBind w == b then 0 else w
      inbox := KV.del b x.inbox
      run := x.run.filter fun r => r.bind != b
      susp := x.susp.filter fun r => r.bind != b
      halted := x.halted.filter fun p => p.1 != b
      rp := KV.del b x.rp
      stream := x.stream.filter fun t => t.bind != b }

/-- TEAM: firmware grants cores of chiplet n to a region, and binds with them; the mask granted (R344, R347). -/
def State.formTeam (s : State) (n : Nat) (rid : W16) (r : Region) (mask grant : W64) (mig : Bool) (binds : List MxGrant) :
    W64 × State :=
  let l := (bitsOf (mask &&& grant)).filter fun k => (s.core (64 * n + k)).bindable r.asid rid
  let m := l.foldl (fun (w : W64) k => w ||| BitVec.ofNat 64 (2 ^ k)) 0
  if l.isEmpty || !s.withinBudget r l.length then (0, s)
  else
    let t := s.team n rid
    let s := s.setTeam n rid { t with mask := t.mask ||| m, spc := if t.mask = 0 then 0 else t.spc }
    let shm := (s.chip n).notice.shm
    let s := l.foldl (fun s k => (s.modCore (64 * n + k) fun c => c.bindTo rid r mig shm).wake (64 * n + k)) s
    let s := s.modChip n fun c => { c with
      forward := c.forward.filter fun f => !(f.1 / 64 == rid.toNat && m.getLsbD (f.1 % 64)) }
    (m, binds.foldl (fun s b => s.grantBind n rid r b) s)

/-- One core's binding to a region ends (R238, R348). -/
def State.unbind (s : State) (g : Nat) (rid : W16) : State :=
  match (s.core g).recOf rid with
  | none => s
  | some i => (s.leaveBarriers g i).modCore g fun c => { c.setRec i RecQ.reset with brec := c.brec.set! i 0 : Core }.settleOwed

/-- RELEASE: the binds of a team are withdrawn; the gangs of the region there dissolve (R340, R347). -/
def State.dropTeam (s : State) (n : Nat) (rid : W16) : State :=
  let l := s.teamCores n rid
  let s := l.foldl (fun t g => if (t.core g).gangRid = rid then t.dissolve g else t) s
  let s := l.foldl (fun t g => t.unbind g rid) s
  let s := s.setTeam n rid { s.team n rid with mask := 0, spc := 0 }
  s.modChip n fun k => { k with mxe := k.mxe.map fun x => x.withdraw rid }

/-! ### Moving a team (R360 to R362) -/

/-- The team of chiplet n may move now (R360); a team with launch messages still held back there, or with a gang of the region,
stays (DESIGN CHOICE, log 35). -/
def State.mayMigrate (s : State) (n : Nat) (rid : W16) : Bool :=
  let l := s.teamCores n rid
  let k := s.chip n
  !l.isEmpty && !s.regionBusy n rid && !k.shares.any (fun h => h.rid == rid) &&
    l.all (fun g => let c := s.core g
      (match c.recOf rid with
        | some i => recMig (c.brec.getD i 0) && !c.act.any fun a => a.brec == i
        | none => true) && (c.gmask.extractLsb' 0 16 == 0 || c.gangRid != rid)) &&
    k.mxe.toList.all fun x => (match x.stream with
      | some t => t.cmd.rid != rid || t.state == 0 || t.state == 5
      | none => true) && match x.bindOf rid with
      | some b => !x.hlt b && !x.susp.any fun r => r.bind == b
      | none => true

/-- Uncommitted entries of an image's activation go to another core's log, in their order (R361). -/
def Core.takeEntries (d : Core) (l : List LogEntry) : Core :=
  l.foldl (fun c e => c.addEntry { e with pos := c.pos, inL1 := false }) d

/-- The uncommitted entries of the activation suspended for record i (R208). -/
def Core.imageEntries (c : Core) (i : Nat) : List LogEntry :=
  match (c.rq i).image with
  | some m => c.log.filter (ownEntry m.act)
  | none => []

/-- The logs of the cores named have room for what would come to them (R207; DESIGN CHOICE, log 126). -/
def State.logsFit (s : State) (n dest : Nat) (rid : W16) (cores : List Nat) : Bool :=
  ((s.teamCores n rid).zip cores).all fun x => match (s.core x.1).recOf rid with
    | some i => decide (((s.core (64 * dest + x.2)).takeEntries ((s.core x.1).imageEntries i)).logCount ≤ 16384)
    | none => true

/-- The destination has the cores, which are named in ascending order, the bind records and room in the logs (R360, R361). -/
def State.canHost (s : State) (n dest : Nat) (rid : W16) (r : Region) (cores : List Nat) : Bool :=
  s.logsFit n dest rid cores &&
  dest != n && Config.isCompute dest && (s.chip dest).peal == 6 && cores.length == (s.teamCores n rid).length &&
    (List.range (cores.length - 1)).all (fun i => decide (cores.getD i 0 < cores.getD (i + 1) 0)) &&
    cores.all fun k => decide (k < 64) && (s.core (64 * dest + k)).bindable r.asid rid

/-- Words of the named regions go to the same offsets, with their validity (R361). -/
def Core.takeNamed (d c : Core) (l : List (Nat × Nat)) : Core :=
  l.foldl (fun d r => d.spStore r.1 (c.spWords r.1 (r.2 / 4))) (d.runNamed l)

/-- What core d takes over from core c for record i of a region, in its record j; SHD is as the notice in force at its own
chiplet has it (R348, R361). An acquire still owed to a suspended PHASE moves with it (R228). -/
def Core.takeOver (d c : Core) (i j : Nat) (r : Region) (rid : W16) (shm : BitVec 8) : Core :=
  let q := c.rq i
  let d := (d.bindTo rid r (recMig (c.brec.getD i 0)) shm).takeNamed c ((List.range 14).filterMap r.named)
  let d := d.takeEntries (c.imageEntries i)
  let q : RecQ := { q with msgs := q.msgs ++ q.spilled.map (·.2), spilled := []
                           image := q.image.map fun m => { m with act := { m.act with brec := j } } }
  { d with
    brec := d.brec.set! j ((d.brec.getD j 0 &&& ~~~0x00E0000000000000) ||| (c.brec.getD i 0 &&& 0x00E0000000000000))
    recq := d.recq.set! j q
    owed := if c.owed.contains r.phg && q.image.any (fun m => m.wait == 1 && !m.act.phased) && !d.owed.contains r.phg then
        r.phg :: d.owed else d.owed }

/-- One core of a migrating team moves; the core it moves to forwards nothing of the region any more (R361, R362). -/
def State.moveCore (s : State) (rid : W16) (r : Region) (g h : Nat) : State :=
  let c := s.core g
  match c.recOf rid, (s.core h).freeRec with
  | some i, some j =>
    let places := (c.rq i).spilled.map (·.1)
    let s := s.modCore h fun d => d.takeOver c i j r rid (s.chip (h / 64)).notice.shm
    let s := s.modCore g fun c => { c.setRec i RecQ.reset with
      brec := c.brec.set! i 0, log := c.log.filter fun e => !(c.imageEntries i).contains e
      brkStop := c.brkStop.filter (· != i) : Core }.settleOwed
    let s := if c.brkStop.contains i then s.modCore h fun d => { d with brkStop := d.brkStop ++ [j] } else s
    let s := { s with groups := s.groups.map fun (x : Nat × PGroup) =>
      if x.1 == r.phg.toNat && x.2.heard.contains g then (x.1, { x.2 with heard := h :: x.2.heard }) else x }
    let s := s.modChip (g / 64) fun k => { k with
      forward := KV.put (64 * rid.toNat + g % 64) h k.forward
      ovfUse := KV.put rid.toNat ((KV.get [] k.ovfUse rid.toNat).filter fun p => !places.contains p) k.ovfUse }
    let s := s.modChip (h / 64) fun k => { k with forward := KV.del (64 * rid.toNat + h % 64) k.forward }
    (s.wake h).noteWaits h
  | _, _ => s

/-- MIGRATE a team from chiplet n to cores of another (R361). -/
def State.migrate (s : State) (n dest : Nat) (rid : W16) (r : Region) (cores : List Nat) : State :=
  let l := s.teamCores n rid
  let t := s.team n rid
  let s := (l.zip cores).foldl (fun s x => s.moveCore rid r x.1 (64 * dest + x.2)) s
  let u := s.team dest rid
  let m := cores.foldl (fun (w : W64) k => w ||| BitVec.ofNat 64 (2 ^ k)) 0
  let s := s.setTeam dest rid ⟨u.mask ||| m, u.spc + t.spc, (u.sent + t.sent) % 2 ^ 64, (u.recv + t.recv) % 2 ^ 64⟩
  let s := s.setTeam n rid ⟨0, 0, 0, 0⟩
  s.modChip n fun k => { k with mxe := k.mxe.map fun x => x.withdraw rid }

end Sys2Proof.Machine
end

