-- ==== Sys2Proof/Machine/Wss.lean ====
section
/-! DEFINITION. The weight-stream sequencer (R147 to R175): headers, streams, block opcodes, staged decoding, halts,
and the instructions WSTART, WSTOP, WRESUME and WSTAT. -/

namespace Sys2Proof.Machine
open Sys2Proof.Machine.Num

/-! ### Block headers (R150 to R153) -/

/-- The fields of a block header (R150). -/
structure WHead where
  opc : Nat
  dq : Bool
  cnt : Bool
  evf : Bool
  route : W32
  next : W64
  plen : Nat
  tk : Nat
  tn : Nat
  fmt : Ty
  cmp : Nat
  atl : Nat
  aq : Nat
  outq : Nat
  act : Nat
  aty : Ty
  xaddr : W64
  nsel : Nat
  crc : W32
  deriving DecidableEq, Repr

/-- The block multiplies, WMMA or WMMAZ. -/
def WHead.mma (h : WHead) : Bool := h.opc == 1 || h.opc == 2

/-- The block uses a tile, so ROUTE selects its streams (R152). -/
def WHead.tiled (h : WHead) : Bool := decide (1 ≤ h.opc) && decide (h.opc ≤ 5)

/-- Bytes of U_k (R153). -/
def WHead.ulen (h : WHead) (k : Nat) : Nat :=
  if !h.mma then 4 * h.tn
  else if h.fmt = .e2m1 then 18 * h.tn
  else min 32 (h.tk - 32 * k) * h.tn * esz h.fmt

/-- Chunks of the payload (R153). -/
def WHead.chunks (h : WHead) : Nat :=
  if h.mma then (h.tk + 31) / 32 else if h.opc = 3 ∨ (h.opc = 4 ∧ h.plen ≠ 0) then 1 else 0

/-- The bytes of fields a type code, a field of one byte, may take. -/
def tyByte (b : Nat) : Ty := Ty.ofCode (BitVec.ofNat 4 b)

/-- ROUTE keeps the rules of R152. -/
def routeOk (r : W32) (tn : Nat) : Bool :=
  !r.getLsbD 30 && r.extractLsb' 16 8 == 0 && r.extractLsb' 4 4 == 0 &&
    (if r.getLsbD 31 then
      let slc := (r.extractLsb' 8 8).toNat
      decide (1 ≤ slc) && decide (slc ≤ 128) && r.extractLsb' 0 4 == 0 && tn % slc == 0
    else r.extractLsb' 24 6 == 0 && r.extractLsb' 8 8 == 0)

/-- The field table of R151 by opcode. -/
def WHead.fieldsOk (h : WHead) : Bool :=
  let noPay := h.plen == 0 && h.cmp == 0
  let noShape := h.tk == 0 && h.tn == 0
  let noFmt := h.fmt == .i8 && h.aty == .i8
  let noTile := h.atl == 0 && h.route == 0
  let noX := h.xaddr == 0 && h.nsel == 0
  let noEpi := h.act == 0
  let noOut := h.outq == 0
  let next := h.next != 0
  let tn := decide (1 ≤ h.tn) && decide (h.tn ≤ 128)
  let plain := noPay && noShape && noFmt && noTile && noEpi && noOut
  if h.opc = 0 then plain && noX && next
  else if h.mma then
    h.plen != 0 && tn && mmaPair h.aty h.fmt && decide (h.cmp ≤ 1) && noX && next && noEpi && noOut &&
      (h.fmt != .e2m1 || h.tk % 32 == 0)
  else if h.opc = 3 then
    h.plen != 0 && h.tk == 1 && tn && h.fmt == .f32 && h.aty == .i8 && h.cmp == 0 && noX && next && noEpi && noOut
  else if h.opc = 4 then
    tn && h.aty == .i8 && h.cmp == 0 && noX && next && noOut && decide (h.act ≤ 3) &&
      (if h.plen = 0 then h.tk == 0 && h.fmt == .i8 else h.tk == 1 && h.fmt == .f32)
  else if h.opc = 5 then noPay && noShape && outTy h.fmt && h.aty == .i8 && noX && next && noEpi && decide (h.outq ≤ 3)
  else if h.opc = 6 then plain && decide (1 ≤ h.nsel) && decide (h.nsel ≤ 256) && h.next == 0 && h.xaddr.toNat % 8 == 0
  else if h.opc = 7 then plain && h.xaddr != 0 && h.xaddr.toNat % 64 == 0 && h.nsel == 0 && next
  else if h.opc = 8 then plain && noX && h.next == 0
  else if h.opc = 9 then plain && h.xaddr.toNat % 8 == 0 && next
  else plain && noX && h.next == 0 && !h.dq && !h.cnt

/-- The header in 64 bytes; none where malformed (R151). CRC and EVF tell of a payload, so a block without one has neither
(DEDUCED, log 41). -/
def WHead.of (b : List Byte) : Option WHead :=
  let f (k n : Nat) : Nat := fieldOf b k n
  let fl := f 2 2
  let h : WHead := ⟨f 1 1, fl.testBit 0, fl.testBit 1, fl.testBit 2, BitVec.ofNat 32 (f 4 4), BitVec.ofNat 64 (f 8 8),
    f 16 4, f 20 2, f 22 2, tyByte (f 24 1), f 25 1, f 26 1, f 27 1, f 28 1, f 29 1, tyByte (f 30 1),
    BitVec.ofNat 64 (f 32 8), f 40 4, BitVec.ofNat 32 (f 60 4)⟩
  if f 0 1 ≠ 0xA1 || decide (10 < h.opc) || decide (8 ≤ fl) || f 31 1 != 0 || f 44 16 != 0 || decide (16 ≤ f 24 1) ||
      decide (16 ≤ f 30 1) || decide (3 < h.atl) || decide (3 < h.aq) || (h.aq != 0 && !h.dq) ||
      h.next.toNat % 64 != 0 || decide (20480 < h.plen) || (h.tiled && !routeOk h.route h.tn) || !h.fieldsOk ||
      decide (16384 < ((List.range h.chunks).map h.ulen).sum) || (h.plen == 0 && (h.crc != 0 || h.evf)) then none
  else some h

/-! ### The start record (R165) -/

/-- Bytes of the captured start record; an invalid word counts as zero bits (DEDUCED, log 21). -/
def MxCmd.startBytes (c : MxCmd) : List Byte := payloadBytes c.block

def MxCmd.field (c : MxCmd) (k n : Nat) : Nat := fieldOf c.startBytes k n

/-- The checks of a start record (R166). -/
def MxCmd.startOk (c : MxCmd) : Bool :=
  c.field 0 8 % 64 == 0 && decide (c.field 76 1 < 64) && c.field 78 50 == 0

/-- OUTn, AQDn and CTR. -/
def MxCmd.out (c : MxCmd) (n : Nat) : W64 := BitVec.ofNat 64 (c.field (40 + 8 * n) 8)
def MxCmd.aqd (c : MxCmd) (n : Nat) : W64 := BitVec.ofNat 64 (c.field (8 + 8 * n) 8)
def MxCmd.ctr (c : MxCmd) : Nat := c.field 72 4

/-! ### Streams -/

def State.setStream (s : State) (m : Nat) (t : Stream) : State := s.setMxe m { s.mxe m with stream := some t }

/-- The stream is about to halt. -/
def Stream.fail (t : Stream) (k : Nat) (e : Byte × W64) : Stream := { t with sts := some e.1, addr := e.2, faultChunk := k }

/-- For whom a stream works: pipe 0 for activation tiles, the sequencer's own cache (2) for the rest (R147, R393). -/
def Stream.for (t : Stream) (m pipe : Nat) : EngFor := t.cmd.for m pipe

/-- A new stream of a WSTART (R166). CUR holds nothing before its first dequeue: TAG and TOKEN read 0, and its descriptor is
malformed (DESIGN CHOICE, log 106). -/
def Stream.start (c : MxCmd) (b : Nat) : Stream where
  state := 1
  cmd := c
  via := c
  bind := b
  b := BitVec.ofNat 64 (c.field 0 8)
  stack := []
  cur := []
  dqdone := false
  blocks := 0
  emit := 0
  flags := 0
  last := 0
  gen := c.seed
  stopReq := false
  busy := false
  header := []
  again := false
  staged := []
  base := 0
  boff := 0
  ccrc := 0xFFFFFFFF
  ahead := none
  cfault := none
  faultChunk := 0
  sts := none
  addr := 0

/-- The current slot is the bind's own and its region may run (R127, R167, R174). -/
def State.streamSlot (s : State) (m b : Nat) : Bool :=
  let x := s.mxe m
  let w := x.slot.getD (slotAt s.now) 0
  bindV (x.bind.getD b 0) && !s.shedOn (m / 4) (x.rid.getD b 0) && slotUsed w && slotBind w == b

/-- The region of a stream has been stopped on its cluster: shed, or its slots or its bind withdrawn (R174, R354). -/
def State.streamHeld (s : State) (m b : Nat) : Bool :=
  !bindV ((s.mxe m).bind.getD b 0) || (s.mxe m).held.getLsbD b || s.shedOn (m / 4) ((s.mxe m).rid.getD b 0)

/-- The block in hand may go on: in the bind's own slot, or, as WBIAS and WEPI are never divided, to its end although the
region has been stopped (R167, R174). -/
def State.blockRuns (s : State) (m b : Nat) (mma : Bool) : Bool := s.streamSlot m b || (!mma && s.streamHeld m b)

/-- ROWS of the block in hand: only a WMMA or WMMAZ that has begun has some (R142, R173). -/
def State.streamRows (s : State) (m : Nat) (t : Stream) : Nat :=
  if (t.busy || t.again) && (WHead.of t.header).any WHead.mma then (s.mxe m).rows t.bind else 0

/-- The exit record (R171). `l3`: lane 3. -/
def State.exitRecord (s : State) (m : Nat) (t : Stream) (sts : Byte) (l1 l2 l3 : W32) : Record :=
  let x := s.mxe m
  ⟨[BitVec.ofNat 32 (t.via.op * 256 + sts.toNat), l1, l2, l3,
    BitVec.ofNat 32 (((x.mxrp t.bind).extractLsb' 16 2).toNat * 2 ^ 16 + x.rows t.bind), t.flags.zeroExtend 32,
    BitVec.ofNat 32 m, t.via.seq], sts, t.flags⟩

/-- Deliver an exit record and note it for MXWAIT (R141, R171); none while the engine must wait with it. -/
def State.exitDeliver (s : State) (m : Nat) (c : MxCmd) (r : Record) : Option State :=
  (s.deliverRecord c.outst c.seq c.asid (0x54 + m % 4) r).map fun t => t.modCore c.core fun k => k.noteMx c.seq r

/-- The stream ends with OK or STOP (R168, R171). A WEND gives no successor and is not counted among the blocks (DESIGN CHOICE,
log 105). -/
def State.streamEnd (s : State) (m : Nat) (t : Stream) (sts : Byte) : State :=
  match s.exitDeliver m t.via (s.exitRecord m t sts (t.b.extractLsb' 0 32) (t.b.extractLsb' 32 32) 0) with
  | none => s
  | some s1 => (s1.dropLines (m / 4) (cmdId t.cmd.core t.cmd.seq)).setStream m
    { t with state := 5, stack := [], busy := false, again := false, ahead := none, flags := 0, last := sts }

/-- The stream stops: its interrupted block keeps what has been applied (R174). -/
def State.streamStop (s : State) (m : Nat) (t : Stream) : State :=
  ((s.dropLines (m / 4) (cmdId t.cmd.core t.cmd.seq)).setMxe m ((s.mxe m).setRows t.bind (s.streamRows m t))).setStream m
    { t with state := 3, busy := false, again := true, staged := [], ahead := none, cfault := none, sts := none }

/-! ### WSTART and WRESUME at the head of their inbox (R166, R167, R169) -/

/-- Complete a stream command that starts nothing: B and the chunk lane have no value the spec states (log 22). -/
def State.streamRefuse (s : State) (m b : Nat) (c : MxCmd) (l : List MxCmd) (sts : Byte) : State :=
  let d := s.drawWords 3
  let t := Stream.start c b
  match d.2.exitDeliver m c (d.2.exitRecord m t sts (d.1.getD 0 0) (d.1.getD 1 0) (d.1.getD 2 0)) with
  | none => s
  | some s1 => s1.setMxe m ((s1.mxe m).setQueued b l)

/-- A WSTART at the head (R166). -/
def State.wstartHead (s : State) (m b : Nat) (c : MxCmd) (l : List MxCmd) : State :=
  let x := s.mxe m
  if !c.startOk then s.streamRefuse m b c l stsDesc
  else if (match x.stream with
      | some t => t.bind != b && (decide (1 ≤ t.state) && decide (t.state ≤ 4))
      | none => false) then s.streamRefuse m b c l 0x49
  else s.setMxe m { (x.setQueued b l).setHlt b false with stream := some (Stream.start c b) }

/-- A WRESUME at the head (R169). A stop request accepted before the halt does not outlast it (DESIGN CHOICE, log 107), and
the faulting chunk reads 0 again (DESIGN CHOICE, log 137). -/
def State.wresumeHead (s : State) (m b : Nat) (c : MxCmd) (l : List MxCmd) : State :=
  let x := s.mxe m
  match x.stream with
  | none => s.streamRefuse m b c l stsDesc
  | some t =>
    if t.state = 4 ∧ t.cmd.asid = c.asid then
      s.setMxe m { (x.setQueued b l).setHlt t.bind false with
        stream := some { t with state := 1, via := c, stopReq := false, faultChunk := 0 } }
    else s.streamRefuse m b c l stsDesc

/-- STREAM_START. A command of a bind halted by a matrix command completes with ABORT (R143). -/
def State.streamBegin (s : State) (m : Nat) : State :=
  let x := s.mxe m
  if x.run.isSome then s
  else match s.nextBind m with
    | none => s
    | some b => match x.queued b with
      | [] => s
      | c :: l =>
        if !isStreamOp c.op || c.abort || x.susp.any (fun r => r.bind == b) then s
        else
          let s := s.noteLent m b
          if x.hlt b && (KV.find x.halted b).isSome then
            s.setMxe m { (s.mxe m).setQueued b l with run := some ⟨c, b, 0, 0, some stsAbort, 0⟩ }
          else if c.op = 0xB3 then s.wstartHead m b c l
          else s.wresumeHead m b c l

/-- STREAM_START. -/
def execStreamStart (m : Nat) (s : State) : Out := onEngine m s fun s => s.streamBegin m

/-! ### Memory as the stream sees it (R148) -/

/-- What stops a stream's block: the status and the address. -/
abbrev StreamErr := Byte × W64

def engErr (e : EngErr) : StreamErr := (e.1.code, e.2)

/-- Read bytes of the weight program: only from pages with WX. The scratchpad window below SPSIZE is no such page (DEDUCED, log
23), and has no translation above it (R180). -/
def State.wssRead (s : State) (x : EngFor) (ef : Bool) (va : W64) (n : Nat) : Except StreamErr (List Byte × State) :=
  let w := (chunks (n / 4096 + 2) va n).filter fun c => inWindow c.1
  if w.any fun c => (s.core x.core).spsize < windowOff c.1 + c.2 then .error (FCode.txnp.code, va)
  else if !w.isEmpty then .error (FCode.wxperm.code, va)
  else (s.engBytes x .wx ef va n).mapError engErr

/-! ### The queue of activation records (R157, R158) -/

/-- What a dequeue finds. -/
inductive Dequeue where
  | waits
  | got (rcd : List Byte) (s : State)
  deriving DecidableEq, Repr

/-- Dequeue from an activation queue: the record, with HEAD advanced after it has been copied (R158). An RBASE that is no
multiple of 128 and nonzero reserved bytes are taken as they stand (DESIGN CHOICE, log 108). -/
def State.dequeue (s : State) (x : EngFor) (va : W64) : Except StreamErr Dequeue := do
  if va = 0 then throw (stsDesc, 0)
  let ps ← (s.engPieces x .rw .current (chunks 2 va 64)).mapError engErr
  let (d, s1) ← ((s.dropLines x.n x.cmd).engReadAll x false ps).mapError engErr
  let b := d.map (·.1)
  let n := (BitVec.ofNat 32 (fieldOf b 20 4) - BitVec.ofNat 32 (fieldOf b 16 4) : W32).toNat
  if n = 0 then return .waits
  if ps.any fun p => match p with
      | .win _ _ => true
      | .glob y => !y.imm then throw (stsDesc, va)
  if 16 < fieldOf b 8 1 ∨ 2 ^ fieldOf b 8 1 < n then throw (stsDesc, va)
  let at_ := BitVec.ofNat 64 (fieldOf b 0 8 + 128 * (fieldOf b 16 4 % 2 ^ fieldOf b 8 1))
  let (rcd, s2) ← (s1.engBytes x .r false at_ 128).mapError engErr
  let places := ps.flatMap fun p => match p with
    | .win _ _ => []
    | .glob y => y.places
  return .got rcd (s2.storeHome x.asid (((places.drop 16).take 4).zip (leBytes 4 ((fieldOf b 16 4 + 1) % 2 ^ 32))))

/-! ### Blocks (R159 to R163) -/

def Stream.token (t : Stream) : Nat := fieldOf t.cur 64 4
def Stream.tag (t : Stream) : Nat := fieldOf t.cur 68 4

/-- A CNT decrement of the stream's counter object, in the scratchpad of the core that issued WSTART (R159, R233; DESIGN
CHOICE, log 138). -/
def State.streamCount (s : State) (t : Stream) : State :=
  s.counterUpdate t.cmd.core t.cmd.ctr 1 t.cmd.rid ⟨[0, 0, 0, t.cmd.seq], 0, 0⟩

/-- The end of a block: CNT, BLOCKS, DQDONE and the successor (R159). -/
def State.blockDone (s : State) (m : Nat) (t : Stream) (h : WHead) (succ : W64) : State :=
  ((if h.cnt then s.streamCount t else s).dropLines (m / 4) (cmdId t.cmd.core t.cmd.seq)).setStream m
    { t with state := 1, blocks := t.blocks + 1, dqdone := false, b := succ, busy := false, again := false, staged := []
             base := 0, boff := 0, ccrc := 0xFFFFFFFF, cfault := none, header := [] }

/-- The columns a stream takes of a block: j0 and W; none where it is not selected; WSBLK where its rank is not below
SLC (R152). -/
def routed (t : Stream) (m : Nat) (h : WHead) : Except StreamErr (Option (Nat × Nat)) :=
  let r := h.route
  if !r.getLsbD 31 then .ok (if (r.extractLsb' 0 4).getLsbD (m % 4) then some (0, h.tn) else none)
  else if (r.extractLsb' 24 6).toNat ≠ t.cmd.field 76 1 then .ok none
  else
    let slc := (r.extractLsb' 8 8).toNat
    let rank := t.cmd.field 77 1
    if slc ≤ rank then .error (FCode.wsblk.code, t.b) else .ok (some (rank * (h.tn / slc), h.tn / slc))

/-- The operand descriptor of the current activation record (R157, R160). -/
def Stream.desc (t : Stream) (h : WHead) : Option Desc :=
  descOf ((wordsOf (t.cur.take 64)).map fun w => ⟨w, true⟩) h.aty false false

/-- The checks of a block that uses a tile, at its start, in the order of R136 (R160 to R162). A WEMIT to an absent target
gives DESC before OWNER (DESIGN CHOICE, log 136). -/
def State.tileCheck (s : State) (m : Nat) (t : Stream) (h : WHead) (w : Nat) : Except StreamErr Unit := do
  let k := BitVec.ofNat 2 h.atl
  let x := s.mxe m
  if h.mma then
    match t.desc h with
    | none => throw (stsDesc, 0)
    | some d =>
      if d.lc ≠ h.tk ∨ 128 < d.lr then throw (stsShape, 0)
  if h.opc = 5 ∧ t.cmd.out h.outq = 0 then throw (stsDesc, 0)
  if !x.owns t.bind k then throw (stsOwner, 0)
  if h.opc = 1 then match t.desc h with
    | some d => if ((x.tile k).tm, (x.tile k).tn) ≠ (d.lr, w) then throw (stsShape, 0)
    | none => throw (stsDesc, 0)

/-- A block that multiplies begins: ROWS is 0 and WMMAZ zeroes the tile, unless it is resumed with ROWS > 0. -/
def State.mmaBegin (s : State) (m : Nat) (t : Stream) (h : WHead) (w : Nat) : State :=
  let x := s.mxe m
  let k := BitVec.ofNat 2 h.atl
  if t.again && x.rows t.bind != 0 then s
  else
    let x := x.setRows t.bind 0
    if h.opc = 2 then match t.desc h with
      | none => s
      | some d => s.setMxe m (x.setTile k ((({ x.tile k with tm := d.lr, tn := w } : Tile)).fillWith fun _ _ => 0))
    else s.setMxe m x

/-- One message of a WEMIT: its 16 header lanes and its data (R162). -/
structure EmitPart where
  row : Nat
  col : Nat
  count : Nat
  data : List Byte
  deriving DecidableEq, Repr

/-- Cut a quantized row of `tn` elements into messages of at most 448 bytes. -/
def emitParts (t : Ty) (tn row : Nat) (b : List Byte) : List EmitPart :=
  let ub := if t = .e2m1 then 18 else esz t
  let per := if t = .e2m1 then 32 else 1
  let step := 448 / ub
  let units := b.length / ub
  (List.range ((units + step - 1) / step)).map fun k =>
    let part := (b.drop (k * step * ub)).take (step * ub)
    ⟨row, k * step * per, min (part.length / ub * per) (tn - k * step * per), part⟩

/-- Send one message of a WEMIT (R162, R203, R313). -/
def State.emitSend (s : State) (m : Nat) (t : Stream) (h : WHead) (j0 : Nat) (i : Nat) (p : EmitPart) : State :=
  let hdr : List Nat := [t.tag, m, t.emit.toNat, p.row * 2 ^ 16 + (j0 + p.col) % 2 ^ 16, p.count,
    i % 2 ^ 16 * 2 ^ 16 + (Ty.code h.fmt).toNat, p.data.length] ++ List.replicate 9 0
  let pad := p.data ++ List.replicate (padded p.data.length - p.data.length) 0
  let tgt := t.cmd.out h.outq
  let key := mkKey t.cmd.lcn (0b11#2 ++ t.cmd.seq.extractLsb' 0 6 ++ t.emit.extractLsb' 0 16 ++ BitVec.ofNat 8 i)
  (s.engineMsg (m / 4) (0x54 + m % 4) 3 tgt key t.cmd.asid t.cmd.rid t.cmd.core
    ((hdr.map (BitVec.ofNat 32) ++ wordsOf pad).map fun w => ⟨w, true⟩)).countSent (m / 4)
      (if tgtRmt tgt then t.cmd.rid else tgtRid tgt) 1

/-- WEMIT: quantize the whole tile, then release its messages (R162). -/
def State.emit (s : State) (m : Nat) (t : Stream) (h : WHead) (j0 : Nat) : Except StreamErr State :=
  let tile := (s.mxe m).tile (BitVec.ofNat 2 h.atl)
  if tile.poisoned then .error (FCode.eccu.code, 0)
  else
    let rows := (List.range tile.tm).map fun i => (List.range tile.tn).map fun j => tile.get i j
    let q := quantizeRows h.fmt t.cmd.mode t.cmd.sat (t.cmd.mode == .sr) t.gen rows
    let parts := q.1.zipIdx.flatMap fun x => emitParts h.fmt tile.tn x.2 x.1
    let s1 := parts.zipIdx.foldl (fun s x => s.emitSend m t h j0 x.2 x.1) s
    .ok (s1.blockDone m { t with flags := t.flags ||| q.2.1, gen := q.2.2, emit := t.emit + 1 } h h.next)

/-- WBIAS and WEPI on the active elements; `vec`: b or s by tile column, none where WEPI has no payload (R161). -/
def State.epi (s : State) (m : Nat) (t : Stream) (h : WHead) (vec : Option (List Nat)) : Except StreamErr State :=
  let k := BitVec.ofNat 2 h.atl
  let tile := (s.mxe m).tile k
  if tile.poisoned then .error (FCode.eccu.code, 0)
  else
    let f (i j : Nat) : Nat × Flags :=
      let v := tile.get i j
      match vec with
      | none => (v, fNone)
      | some l => if h.opc = 3 then fadd .f32 .rne 0 v (l.getD j 0) else fmul .f32 .rne 0 v (l.getD j 0)
    let fl := tile.active.foldl (fun a p => a ||| (f p.1 p.2).2) fNone
    let t1 := tile.active.foldl (fun (y : Tile) p =>
      y.put p.1 p.2 (if h.opc = 4 then actF h.act (f p.1 p.2).1 else (f p.1 p.2).1)) tile
    .ok ((s.setMxe m ((s.mxe m).setTile k t1)).blockDone m { t with flags := t.flags ||| fl } h h.next)

/-- The entry of a select table (R163). -/
def State.select (s : State) (m : Nat) (t : Stream) (h : WHead) : Except StreamErr (W64 × State) := do
  if h.nsel ≤ t.token then throw (FCode.wsblk.code, t.b)
  let (b, s1) ← s.wssRead (t.for m 2) false (h.xaddr + BitVec.ofNat 64 (8 * t.token)) 8
  let e : W64 := BitVec.ofNat 64 (leNat b)
  if e = 0 ∨ e.toNat % 64 ≠ 0 then throw (FCode.wsblk.code, t.b)
  return (e, s1)

/-- The counter of WSYNC is at most NSEL; the read wakes its bank (R163, R183). It stays in the scratchpad of the core that
issued WSTART, whichever core resumes the stream (DESIGN CHOICE, log 138). -/
def State.synced (s : State) (t : Stream) (h : WHead) : Except StreamErr (Bool × State) :=
  let c := s.core t.cmd.core
  let off := h.xaddr.toNat
  if c.spsize < off + 8 then .error (FCode.align.code, h.xaddr)
  else if c.bankOff off 8 then .error (FCode.bankoff.code, h.xaddr)
  else if !c.sound off 8 then .error (FCode.eccu.code, h.xaddr)
  else .ok (decide ((c.spGet off).w.toNat ≤ h.nsel), s.modCore t.cmd.core fun c => c.wakeBanks off 8)

/-- Execute a block, or begin it where it takes payload chunks (R159 to R163). -/
def State.execBlock (s : State) (m : Nat) (t : Stream) (h : WHead) : Except StreamErr State := do
  let done (s : State) (t : Stream) (succ : W64) : State := s.blockDone m t h succ
  if h.tiled then
    match ← routed t m h with
    | none => return done s t h.next
    | some (j0, w) =>
      let s := s.setMxe m ((s.mxe m).setAt t.bind (BitVec.ofNat 2 h.atl))
      s.tileCheck m t h w
      if h.opc = 5 then s.emit m t h j0
      else if h.opc = 4 ∧ h.plen = 0 then s.epi m t h none
      else
        let fresh := !(t.again && h.mma && (s.mxe m).rows t.bind != 0)
        let t1 : Stream := { t with
          state := 1, busy := true, again := t.again && !fresh
          staged := [], cfault := none
          base := if fresh then 0 else t.base, boff := if fresh then 0 else t.boff
          ccrc := if fresh then 0xFFFFFFFF else t.ccrc }
        return ((if h.mma then s.mmaBegin m t h w else s).setStream m t1)
  else if h.opc = 6 then
    let (e, s1) ← s.select m t h
    return done s1 t e
  else if h.opc = 7 then
    if 4 ≤ t.stack.length then throw (FCode.wsblk.code, t.b)
    return done s { t with stack := h.next :: t.stack } h.xaddr
  else if h.opc = 8 then
    match t.stack with
    | [] => throw (FCode.wsblk.code, t.b)
    | a :: l => return done s { t with stack := l } a
  else if h.opc = 9 then
    let (ok, s1) ← s.synced t h
    return (if ok then done s1 t h.next else s1.setStream m { t with state := 2 })
  else if h.opc = 10 then return s.streamEnd m t 0
  else return done s t h.next

/-- The header of the block at B: as prefetched, with the fault that the prefetch met, or read now (R159, R164). -/
def State.headerAt (s : State) (m : Nat) (t : Stream) : Except StreamErr (List Byte × State) :=
  match t.ahead with
  | some (a, b, f) => if a = t.b then (match f with
      | some e => .error e
      | none => .ok (b, s)) else s.wssRead (t.for m 2) false t.b 64
  | none => s.wssRead (t.for m 2) false t.b 64

/-- The sequencer prefetches the header at the successor of the block in hand (R164). -/
def State.prefetch (s : State) (m : Nat) (t : Stream) (h : WHead) : State :=
  match s.wssRead (t.for m 2) false h.next 64 with
  | .error e => s.setStream m { t with ahead := some (h.next, [], some e) }
  | .ok (b, s1) => s1.setStream m { t with ahead := some (h.next, b, none) }

/-- The next block: header, CNT and DQ checks, dequeue, then the block. A fault after the dequeue keeps it (R159, R173). CNT
with no counter (CTR = 0xFFFFFFFF) halts before the dequeue and the block's work (DESIGN CHOICE, log 135); a halt in which no
chunk faulted has 0 as its faulting chunk (DESIGN CHOICE, log 137). -/
def State.nextBlock (s : State) (m : Nat) (t : Stream) : State :=
  match s.headerAt m t with
  | .error e => s.setStream m (t.fail 0 e)
  | .ok (b, s1) =>
    match WHead.of b with
    | none => s1.setStream m (t.fail 0 (FCode.wsblk.code, t.b))
    | some h =>
      let t := { t with header := b, ahead := none }
      if h.cnt && t.cmd.ctr == 0xFFFFFFFF then s1.setStream m (t.fail 0 (stsDesc, 0))
      else match (if h.dq && !t.dqdone then s1.dequeue (t.for m 2) (t.cmd.aqd h.aq) else .ok (.got t.cur s1)) with
        | .error e => s1.setStream m (t.fail 0 e)
        | .ok .waits => s1.setStream m { t with state := 2 }
        | .ok (.got cur s2) =>
          let t := { t with cur := cur, dqdone := t.dqdone || h.dq, state := 1 }
          match s2.execBlock m t h with
          | .error e => s2.setStream m (t.fail 0 e)
          | .ok s3 => s3

/-- At a block boundary: requests in the order of R172, then the next block. A block resumed inside itself is no block
boundary for a WSTOP. -/
def State.streamBoundary (s : State) (m : Nat) (t : Stream) : State :=
  if s.isKilled t.cmd.asid then s.setMxe m { s.mxe m with stream := none }
  else if s.streamHeld m t.bind then s.streamStop m t
  else if t.stopReq && !(t.again && (s.mxe m).rows t.bind != 0) then s.streamEnd m t 0x44
  else if !s.streamSlot m t.bind then s
  else s.nextBlock m t

/-- STREAM_STEP: a block boundary; inside WMMA and WMMAZ, a stop between chunks; else, inside a block, the prefetch of the
successor's header; a stopped stream goes on when its region runs again (R159, R164, R172, R174). -/
def State.streamStep (s : State) (m : Nat) : State :=
  match (s.mxe m).stream with
  | none => s
  | some t =>
    if t.sts.isSome then s
    else if t.state = 3 then
      if s.streamHeld m t.bind then s else s.setStream m { t with state := 1 }
    else if t.state ≠ 1 then s
    else if !t.busy then s.streamBoundary m t
    else match WHead.of t.header with
      | some h =>
        if h.mma && s.streamHeld m t.bind then s.streamStop m t
        else if t.ahead.isNone then s.prefetch m t h
        else s
      | none => s

/-- STREAM_STEP. -/
def execStreamStep (m : Nat) (s : State) : Out := onEngine m s fun s => s.streamStep m

/-- STREAM_WAIT_POLL (R158, R163). -/
def State.streamPoll (s : State) (m : Nat) : State :=
  match (s.mxe m).stream with
  | none => s
  | some t => if t.state = 2 && t.sts.isNone then s.streamBoundary m t else s

/-- STREAM_WAIT_POLL. -/
def execStreamWaitPoll (m : Nat) (s : State) : Out := onEngine m s fun s => s.streamPoll m

/-! ### Chunks (R160, R161, R164) -/

/-- The stored chunk at payload offset `off`: its size and U_k (R154 to R156, R164). -/
def State.fetchChunk (s : State) (m : Nat) (t : Stream) (h : WHead) (k off : Nat) :
    Except StreamErr (Nat × List Byte × State) := do
  let x := t.for m 2
  let va := t.b + BitVec.ofNat 64 (64 + off)
  if h.plen < off + 4 then throw (FCode.decode.code, va)
  let (hb, s1) ← s.wssRead x h.evf va 4
  let n := chunkSize (leNat hb)
  if h.plen < off + n then throw (FCode.decode.code, va)
  let (b, s2) ← s1.wssRead x h.evf (va + 4) (n - 4)
  let u ← (chunkLoad (if h.fmt = .bf16 ∨ h.fmt = .f16 then 2 else 1) (h.ulen k) (h.cmp == 1) (hb ++ b)).mapError
    fun c => (c.code, va)
  if k + 1 = h.chunks ∧ off + n ≠ h.plen then throw (FCode.decode.code, va)
  return (n, u, s2)

/-- WSS_CHUNK_DECODE: the next chunk enters the staging buffer of eight (R164); it takes the units of class 7 (R370). -/
def State.chunkDecode (s : State) (m : Nat) : State :=
  match (s.mxe m).stream with
  | none => s
  | some t =>
    match WHead.of t.header with
    | none => s
    | some h =>
      let k := t.base + t.staged.length
      if t.state ≠ 1 || !t.busy || t.sts.isSome || t.cfault.isSome || decide (8 ≤ t.staged.length) ||
          decide (h.chunks ≤ k) || !s.blockRuns m t.bind h.mma then s
      else if !s.chargeOk m 7 then s.chargeWait m
      else
        let s := s.charge m 7
        match s.fetchChunk m t h k (t.boff + (t.staged.map (·.1)).sum) with
        | .error e => s.setStream m { t with cfault := some e, faultChunk := k }
        | .ok (n, u, s1) => s1.setStream m { t with staged := t.staged ++ [(n, u)] }

/-- WSS_CHUNK_DECODE. -/
def execWssChunkDecode (m : Nat) (s : State) : Out := onEngine m s fun s => s.chunkDecode m

/-- Values of payload column j over some chunks (R153). -/
def payloadColumn (h : WHead) (j : Nat) (l : List (List Byte)) : List Val :=
  l.flatMap fun u =>
    if h.fmt = .e2m1 then blockVals ((u.drop (18 * j)).take 18)
    else (List.range (u.length / (h.tn * esz h.fmt))).map fun r =>
      val h.fmt (fieldOf u ((r * h.tn + j) * esz h.fmt) (esz h.fmt))

/-- Chunks that the next step of the array takes: those of one R72 chunk, or the one of WBIAS and WEPI. -/
def State.chunksDue (s : State) (m : Nat) (t : Stream) (h : WHead) : Nat :=
  if h.mma then
    let k := (s.mxe m).rows t.bind
    (min (k + chunkOf h.fmt) h.tk + 31) / 32 - k / 32
  else 1

/-- The payload CRC agrees, with the given chunks applied last (R156). -/
def payloadOk (t : Stream) (h : WHead) (l : List (List Byte)) : Bool := crc32Run t.ccrc (l.flatMap id) ^^^ 0xFFFFFFFF == h.crc

/-- One R72 chunk of WMMA or WMMAZ (R160, R164). -/
def State.streamMma (s : State) (m : Nat) (t : Stream) (h : WHead) (n : Nat) : Except StreamErr State := do
  let us := (t.staged.take n).map (·.2)
  let k := (s.mxe m).rows t.bind
  let kend := min (k + chunkOf h.fmt) h.tk
  if kend = h.tk ∧ !payloadOk t h us then throw (FCode.cksum.code, t.b)
  match t.desc h, ← routed t m h with
  | some d, some (j0, w) =>
    let (av, s1) ← (s.readGrid (t.for m 0) h.aty d 0 d.lr k kend).mapError engErr
    let kt := BitVec.ofNat 2 h.atl
    let tile := (s1.mxe m).tile kt
    if tile.poisoned then throw (FCode.eccu.code, 0)
    let o := tile.chunk av ((List.range w).map fun j => payloadColumn h (j0 + j) us)
    let s2 := s1.setMxe m (((s1.mxe m).setTile kt o.1).setRows t.bind kend)
    let t1 := { t with
      flags := t.flags ||| o.2, staged := t.staged.drop n, base := t.base + n
      boff := t.boff + ((t.staged.take n).map (·.1)).sum, ccrc := crc32Run t.ccrc (us.flatMap id) }
    return if kend = h.tk then s2.blockDone m t1 h h.next else s2.setStream m t1
  | _, _ => return s

/-- WBIAS or WEPI with its payload chunk. A tile column past the payload's columns takes a value the spec does not state
(log 24). -/
def State.streamEpi (s : State) (m : Nat) (t : Stream) (h : WHead) : Except StreamErr State := do
  let us := (t.staged.take 1).map (·.2)
  if !payloadOk t h us then throw (FCode.cksum.code, t.b)
  match ← routed t m h with
  | none => return s
  | some (j0, _) =>
    let have_ := (patsOf 4 (us.flatMap id)).drop j0
    let tile := (s.mxe m).tile (BitVec.ofNat 2 h.atl)
    let d := s.drawWords (tile.tn - have_.length)
    d.2.epi m t h (some (have_ ++ d.1.map (·.toNat)))

/-- The array applies the chunks due (R160, R161). A fault names the chunk being applied, a payload CRC that disagrees
the last one (DEDUCED, log 25). -/
def State.streamApply (s : State) (m : Nat) : State :=
  match (s.mxe m).stream with
  | none => s
  | some t =>
    match WHead.of t.header with
    | none => s
    | some h =>
      let n := s.chunksDue m t h
      if t.state ≠ 1 || !t.busy || t.sts.isSome || decide (t.staged.length < n) || !s.blockRuns m t.bind h.mma then s
      else
        let k := if h.mma then (s.mxe m).rows t.bind / 32 else 0
        let run (s : State) (w : Except StreamErr State) : State :=
          match w with
          | .error e => s.setStream m (t.fail (if e.1 = FCode.cksum.code then h.chunks - 1 else k) e)
          | .ok s1 => s1
        if h.mma then s.powered m (chunkClass h.fmt) fun s => run s (s.streamMma m t h n)
        else run s (s.streamEpi m t h)

/-- MXE_CHUNK_APPLY: the command in hand, or else the stream. -/
def execMxeChunkApply (m : Nat) (s : State) : Out :=
  onEngine m s fun s => if (s.mxe m).run.isSome then s.mxeChunk m else s.streamApply m

/-! ### Halts (R173) -/

/-- A fault or rejection whose moment has come: at once, or once the chunks before a failed one are applied. -/
def State.haltDue (s : State) (m : Nat) (t : Stream) : Option StreamErr :=
  match t.sts, t.cfault with
  | some c, _ => some (c, t.addr)
  | none, some e =>
    match WHead.of t.header with
    | some h => if t.staged.length < s.chunksDue m t h then some e else none
    | none => some e
  | none, none => none

/-- STREAM_HALT. -/
def State.streamHalt (s : State) (m : Nat) : State :=
  match (s.mxe m).stream with
  | none => s
  | some t =>
    match s.haltDue m t with
    | none => s
    | some (c, a) =>
      let rows := s.streamRows m t
      let x1 := (s.mxe m).setRows t.bind rows
      let s1 := s.setMxe m (match WHead.of t.header with
        | some h => if h.tiled then x1.setAt t.bind (BitVec.ofNat 2 h.atl) else x1
        | none => x1)
      let r := s1.exitRecord m t c (t.b.extractLsb' 0 32) (t.b.extractLsb' 32 32)
        (BitVec.ofNat 32 (t.faultChunk % 2 ^ 16 * 2 ^ 16 + rows / 32))
      match (s1.dropLines (m / 4) (cmdId t.cmd.core t.cmd.seq)).exitDeliver m t.via r with
      | none => s
      | some s2 =>
        let x := ((s2.mxe m).setHlt t.bind true).abortQueued t.bind
        let s3 := s2.setMxe m { x with stream := some { t with
          state := 4, busy := false, again := true, staged := [], ahead := none, cfault := none, sts := none, flags := 0
          last := c } }
        if c = stsDesc ∨ c = stsShape ∨ c = stsOwner then s3 else s3.reportHalt t.via.outst a r

/-- STREAM_HALT. -/
def execStreamHalt (m : Nat) (s : State) : Out := onEngine m s fun s => s.streamHalt m

/-! ### The instructions (R165 to R170) -/

/-- The region's team holds every core of a cluster (R166). -/
def State.teamHolds (s : State) (m : Nat) (rid : W16) : Bool :=
  (s.team (m / 4) rid).mask.extractLsb' (16 * (m % 4)) 16 == 0xFFFF

/-- WSTART (R165, R166). The targets of the record are checked as every target is (R321). -/
def wstartBody (f : EN) (s : State) : Except Exn Res := do
  let g := s.self
  let c := s.core g
  let (c1, block) ← c.readBlock f.cb 128
  let cp ← s.checkCp g f.cp
  let (seed, c2) := c1.takeSeed true
  let cmd := { c.mxCmd g 0xB3 cp with block := block, seed := seed }
  if !s.teamHolds (clusterOfCore g) cmd.rid then throw (.flt .priv 0)
  for n in [0, 1, 2, 3] do
    if cmd.out n ≠ 0 then s.checkTarget g (cmd.out n)
  let s1 ← s.enterBind g cmd
  return .done ((s1.countCp g cp).modCore g fun _ => c2.issued [f.cb, f.cp])

/-- WSTART. -/
def execWstart (f : EN) (s : State) : Out :=
  coreRow (.wstart f) (shapeEn f (fun _ => false) fun _ =>
    f.ty == .i8 && f.fn == 0 && f.opt == 0 && f.sel == 0 && isMem f.cb && cpForm f.cp) (wstartBody f) s

/-- WRESUME (R169). -/
def wresumeBody (f : EN) (s : State) : Except Exn Res := do
  let g := s.self
  let c := s.core g
  let cp ← s.checkCp g f.cp
  let cmd := { c.mxCmd g 0xB5 cp with pn := c.preg (regOf f.cb) }
  let s1 ← s.enterBind g cmd
  return .done ((s1.countCp g cp).modCore g fun _ => c.issued [f.cp])

/-- WRESUME: Pn must hold the stream id of the issuer's own cluster. -/
def execWresume (f : EN) (s : State) : Out :=
  coreRow (.wresume f) (shapeEn f (fun _ => false) fun c =>
    f.ty == .i8 && f.fn == 0 && f.opt == 0 && f.sel == 0 && isRegOp f.cb && cpForm f.cp &&
      c.preg (regOf f.cb) == BitVec.ofNat 64 (clusterOfCore s.self)) (wresumeBody f) s

/-- The stream of an id, where it belongs to an address space and the id has a compute cluster (R168, R170). -/
def State.streamOf (s : State) (id : W64) (asid : W16) : Option Stream :=
  if 2304 ≤ id.toNat || !Config.isCompute (id.toNat / 4) then none
  else match (s.mxe id.toNat).stream with
    | some t => if t.cmd.asid = asid then some t else none
    | none => none

/-- A stop request; one that finds no stream of the address space in RUN or WAIT is discarded (R168). -/
def State.wstopAsk (s : State) (id : W64) (asid : W16) : State :=
  match s.streamOf id asid with
  | some t => if t.state = 1 ∨ t.state = 2 then s.setStream id.toNat { t with stopReq := true } else s
  | none => s

/-- WSTOP. -/
def execWstop (f : M3) (s : State) : Out :=
  coreRow (.wstop f) (shapeM3 f fun t => fixedM3 f t .i8 0 && f.fn == 0 && isRegOp f.oa && absent [f.od, f.ob, f.oc])
    (fun s => .ok (.done (s.wstopAsk ((s.core s.self).preg (regOf f.oa)) (s.core s.self).asid))) s

/-- The eight lanes of WSTAT (R170). -/
def State.streamLanes (s : State) (id : W64) (asid : W16) : List W32 :=
  match s.streamOf id asid with
  | none => List.replicate 8 0
  | some t =>
    let x := s.mxe id.toNat
    let rows := s.streamRows id.toNat t
    [BitVec.ofNat 32 (t.state + t.last.toNat * 2 ^ 8 + t.stack.length % 8 * 2 ^ 16),
      t.b.extractLsb' 0 32, t.b.extractLsb' 32 32, BitVec.ofNat 32 (t.faultChunk % 2 ^ 16 * 2 ^ 16 + rows / 32),
      BitVec.ofNat 32 (((x.mxrp t.bind).extractLsb' 16 2).toNat * 2 ^ 16 + x.rows t.bind), t.blocks,
      BitVec.ofNat 32 t.tag, BitVec.ofNat 32 t.token]

/-- WSTAT: it asks, waits for the reply, and writes it (R170); where the queue is full it stalls, and issues again (R317, R336).
-/
def wstatBody (f : M3) (s : State) : Except Exn Res := do
  let g := s.self
  let c := s.core g
  c.checkLocals 32 [(f.od, 32, 4)]
  match c.wait with
  | .wstat _ (some l) =>
    let (c1, p) := c.writeLanes 32 f.od (l.map fun w => ⟨w, BitVec.allOnes 32, true⟩)
    let s1 := s.setCore g (c1.opIncs 32 [f.od])
    match p with
    | none => return .done s1
    | some (n, e) => match s1.pushQ g n e with
      | .ok t => return .done t
      | .error .stall => return .hold (s.modCore g fun c => { c with wait := .again })
      | .error x => throw x
  | .wstat _ none => return .hold s
  | _ => return .hold (s.modCore g fun c => { c with wait := .wstat (c.preg (regOf f.oa)) none })

/-- WSTAT. -/
def execWstat (f : M3) (s : State) : Out :=
  coreRow (.wstat f) (shapeM3 f fun t => fixedM3 f t .u32 7 && f.fn == 0 && isRegOp f.oa && absent [f.ob, f.oc] &&
    (isMem f.od || isAccOp f.od || f.od == .queue 2 || f.od == .queue 3)) (wstatBody f) s

/-- WSTAT_REPLY. -/
def State.wstatAnswer (s : State) (g : Nat) : State :=
  match (s.core g).wait with
  | .wstat id none => s.modCore g fun c => { c with wait := .wstat id (some (s.streamLanes id c.asid)) }
  | _ => s

/-- WSTAT_REPLY. -/
def execWstatReply (g : Nat) (s : State) : Out := onCore g s fun s => s.wstatAnswer g

end Sys2Proof.Machine
end

