-- ==== Sys2Proof/Machine/Mailbox.lean ====
section
/-! DEFINITION. The management-core mailbox (R345 to R347): the calls of its supervisors, each carried out for the oldest
request of a core, and the image that CTXRD copies (R356, R357). -/

namespace Sys2Proof.Machine

/-! ### A request -/

/-- A request block as firmware reads it: its places and bytes; none where it no longer translates. -/
def State.mbxBlock (s : State) (g : Nat) (q : MbxReq) : Option (List Loc × List Byte) :=
  match s.placesAs (g / 64) q.asid false q.addr 128 .rw true with
  | .error _ => none
  | .ok l => some (l, s.bytesAt l)

/-- The call code and the fields of a request (R346). -/
def callCode (b : List Byte) : Nat := fieldOf b 0 2

/-- Bytes of the header that must be zero (R346). -/
def callZero (b : List Byte) : Bool := fieldOf b 2 2 == 0 && fieldOf b 12 4 == 0

/-- An answer: its status and results, as places in the block with their bytes. -/
structure Answer where
  sts : CallSts
  res : List (Nat × List Byte)
  deriving DecidableEq, Repr

/-- An answer with no result. -/
def Answer.of (c : CallSts) : Answer := ⟨c, []⟩

/-- Firmware answers the oldest request of a core: results, then STS with DONE, then the counter (R346). -/
def State.answer (s : State) (g : Nat) (q : MbxReq) (l : List Loc) (ctr : Nat) (a : Answer) : State :=
  let s := a.res.foldl (fun t r => t.storeHome q.asid ((l.drop r.1).zip r.2)) s
  let s := s.storeHome q.asid ((l.drop 8).zip (leBytes 4 (a.sts.code.toNat + 2 ^ 31)))
  let s := if ctr = 0xFFFFFFFF then s
    else if ctr % 8 ≠ 0 then s.report g q.rid { Report.of 6 FCode.align.code with addr := BitVec.ofNat 64 ctr }
    else s.counterUpdate g ctr 1 q.rid ⟨[], 0, 0⟩
  s.modCore g fun c => { c with mbx := c.mbx.tail }

/-- Codes that the table of R347 lists. -/
def knownCall (n : Nat) : Bool := decide (1 ≤ n) && decide (n ≤ 9)

/-- A row of R347: it carries out the oldest request of core g where that names its call; an unlisted code, or a nonzero
zero field, is answered with DESC by whichever row comes. A block that no longer translates is dropped. -/
def mailboxRow (g code : Nat) (run : State → MbxReq → List Byte → Answer × State) (s : State) : Out :=
  onCore g s fun s =>
    match (s.core g).mbx with
    | [] => s
    | q :: _ =>
      match s.mbxBlock g q with
      | none => s.modCore g fun c => { c with mbx := c.mbx.tail }
      | some (l, b) =>
        let ctr := fieldOf b 4 4
        if !knownCall (callCode b) || !callZero b then s.answer g q l ctr (Answer.of .desc)
        else if callCode b ≠ code then s
        else
          let r := run s q b
          r.2.answer g q l ctr r.1

/-- RID, chiplet and core of a request (R347). -/
def reqRid (b : List Byte) : W16 := BitVec.ofNat 16 (fieldOf b 16 2)
def reqChip (b : List Byte) : Nat := fieldOf b 18 2
def reqCore (b : List Byte) : Nat := fieldOf b 20 2
def reqVa (b : List Byte) : W64 := BitVec.ofNat 64 (fieldOf b 24 8)

/-- The region a request names, of its own address space (R346). -/
def State.reqRegion (s : State) (q : MbxReq) (rid : W16) : Except CallSts Region :=
  match s.region rid with
  | none => .error .noent
  | some r => if r.asid = q.asid then .ok r else .error .nopriv

/-- A call on a region: NOENT and NOPRIV come first. -/
def withRegion (s : State) (q : MbxReq) (b : List Byte) (f : Region → Answer × State) : Answer × State :=
  match s.reqRegion q (reqRid b) with
  | .error e => (Answer.of e, s)
  | .ok r => f r

/-- A call on a region and a chiplet of the module: NOENT where the chiplet is no compute chiplet in service. -/
def withTeamSite (s : State) (q : MbxReq) (b : List Byte) (f : Region → Nat → Answer × State) : Answer × State :=
  withRegion s q b fun r =>
    if Config.isCompute (reqChip b) && (s.chip (reqChip b)).peal == 6 then f r (reqChip b) else (Answer.of .noent, s)

/-! ### Regions (R347) -/

/-- REGISTER: firmware gives the region the id `rid`, one that no region has. -/
def execRegisterRcb (g rid : Nat) (s : State) : Out :=
  mailboxRow g 1 (fun s q b =>
    let id : W16 := BitVec.ofNat 16 rid
    match s.loadRcb (g / 64) q.asid (reqVa b) with
    | .error e => (Answer.of e, s)
    | .ok r =>
      if (s.region id).isSome then (Answer.of .busy, s)
      else if (s.regionAt q.asid r.rcb).isSome then (Answer.of .busy, s)
      else (⟨.ok, [(16, leBytes 2 id.toNat)]⟩, s.setRegion id r)) s

/-- UPDATE: the block is read again (R347). -/
def execUpdateRcb (g : Nat) (s : State) : Out :=
  mailboxRow g 2 (fun s q b => withRegion s q b fun r =>
    match s.loadRcb (g / 64) q.asid r.rcb with
    | .error e => (Answer.of e, s)
    | .ok x => (Answer.of .ok, s.setRegion (reqRid b) x)) s

/-- UNREGISTER: BUSY while the region has a team or a launch is in progress (R347). -/
def execUnregisterRcb (g : Nat) (s : State) : Out :=
  mailboxRow g 3 (fun s q b => withRegion s q b fun _ =>
    if s.hasTeam (reqRid b) || s.launching (reqRid b) then (Answer.of .busy, s)
    else (Answer.of .ok, s.dropRegion (reqRid b))) s

/-- TEAM: firmware's policy chooses the cores `grant` among those asked for, and the binds that go with them (R344,
R347). -/
def execTeamCall (g : Nat) (grant : W64) (binds : List MxGrant) (s : State) : Out :=
  mailboxRow g 4 (fun s q b => withTeamSite s q b fun r n =>
    if 2 ≤ fieldOf b 32 1 then (Answer.of .desc, s)
    else
      let x := s.formTeam n (reqRid b) r (BitVec.ofNat 64 (fieldOf b 24 8)) grant ((fieldOf b 32 1).testBit 0) binds
      (⟨if x.1 = 0 then .refused else .ok, [(40, leBytes 8 x.1.toNat)]⟩, x.2)) s

/-- RELEASE: BUSY unless the team is idle (R313, R347). -/
def execReleaseCall (g : Nat) (s : State) : Out :=
  mailboxRow g 5 (fun s q b => withTeamSite s q b fun _ n =>
    if (s.team n (reqRid b)).mask = 0 then (Answer.of .noent, s)
    else if !s.teamIdle n (reqRid b) then (Answer.of .busy, s)
    else (Answer.of .ok, s.dropTeam n (reqRid b))) s

/-- WSTOP through the mailbox (R168, R347). -/
def execWstopCall (g : Nat) (s : State) : Out :=
  mailboxRow g 6 (fun s q b => (Answer.of .ok, s.wstopAsk (reqVa b) q.asid)) s

/-! ### CTXRD (R356, R357) -/

/-- Zero bytes up to a multiple of 8. -/
def pad8 (l : List Byte) : List Byte := l ++ List.replicate ((8 - l.length % 8) % 8) 0

/-- A lane's word in the fewest bytes its code needs (R357). -/
def packWord (w : W32) : List Byte := leBytes (match (tagOf w).toNat with | 0 => 4 | 1 => 2 | 2 => 1 | _ => 0) w.toNat

/-- Two bits per lane, lane k in bits 2k+1:2k. -/
def lanePairs (f : Nat → BitVec 2) : Nat :=
  (List.range 16).foldl (fun n k => n + (f k).toNat * 4 ^ k) 0

/-- A queue entry as the image keeps it: data, validity, two zero bytes. -/
def entryBytes (e : QEntry) : List Byte :=
  (e.toList.flatMap fun x => leBytes 4 x.w.toNat) ++ leBytes 2 (bitsNat (e.toList.map (·.v))) ++ [0, 0]

/-- A journal block as the image keeps it. -/
def journalBytes (j : JBlock) : List Byte :=
  leBytes 2 j.blk ++ leBytes 2 (bitsNat (j.words.map (·.v))) ++ List.replicate 4 0 ++
    (j.words.flatMap fun x => leBytes 4 x.w.toNat)

/-- The image of a suspended activation in bytes (R356). -/
def Image.bytes (m : Image) : List Byte :=
  let lane (k : Nat) : ALane := m.a.getD k ALane.start
  let head := leBytes 8 m.pc.toNat ++ leBytes 6 m.act.key.toNat ++ leBytes 2 m.act.lcn.toNat ++ leBytes 4 m.st.toNat ++
    leBytes 4 m.fm.toNat ++ leBytes 4 m.px.toNat ++ leBytes 4 m.srseed.toNat ++ leBytes 8 m.lk.toNat ++
    leBytes 4 m.live.toNat ++ leBytes 1 m.wait.toNat ++
    leBytes 1 (bitsNat [m.act.irrev, m.act.gang, m.st.getLsbD 17, m.act.leader]) ++ leBytes 1 m.act.tries ++
    leBytes 1 m.journal.length ++ leBytes 8 m.badd.toNat ++ leBytes 4 m.bgen.toNat ++ leBytes 1 m.sppwr.toNat ++ [0] ++
    leBytes 2 m.scrc.toNat ++ leBytes 2 (bitsNat ((List.range 16).map fun k => (lane k).v)) ++ [0, 0] ++
    leBytes 4 (lanePairs fun k => (lane k).tag) ++ leBytes 4 (lanePairs fun k => tagOf (lane k).w) ++
    (List.range 16).flatMap fun k => packWord (lane k).w
  let ps := ((List.range 8).filter fun j => m.live.getLsbD (1 + j)).flatMap fun j => leBytes 8 (m.p.getD j 0).toNat
  let qn := (List.range 8).flatMap fun j => leBytes 1 (m.q.getD j []).length
  let qe := (List.range 8).flatMap fun j => (m.q.getD j []).flatMap entryBytes
  pad8 head ++ ps ++ qn ++ pad8 qe ++ m.journal.flatMap journalBytes

/-- A buffer that a call fills: IMMEDIATE with W (R347). -/
def State.callBuffer (s : State) (g : Nat) (q : MbxReq) (va : W64) (n : Nat) : Option (List Loc) :=
  match s.placesAs (g / 64) q.asid false va n .w true with
  | .ok l => some l
  | .error _ => none

/-- CTXRD (R347, R359). -/
def execCtxrd (g : Nat) (s : State) : Out :=
  mailboxRow g 7 (fun s q b => withTeamSite s q b fun _ n =>
    let h := 64 * n + reqCore b
    match (if reqCore b < 64 then ((s.core h).recOf (reqRid b)).bind fun i => (s.core h).imageOf i else none) with
    | none => (Answer.of .noent, s)
    | some m => match s.callBuffer g q (reqVa b) m.bytes.length with
      | none => (Answer.of .desc, s)
      | some l => (⟨.ok, [(40, leBytes 4 m.bytes.length)]⟩, s.storeHome q.asid (l.zip m.bytes))) s

/-- GLCNT: the four counters of a link (R265, R347). -/
def execGlcnt (g : Nat) (s : State) : Out :=
  mailboxRow g 8 (fun s q b =>
    let k := fieldOf b 16 1
    if 8 ≤ k then (Answer.of .desc, s)
    else match s.callBuffer g q (reqVa b) 32 with
      | none => (Answer.of .desc, s)
      | some l =>
        let x := s.link k
        (Answer.of .ok, s.storeHome q.asid (l.zip (leBytes 8 x.gltx.toNat ++ leBytes 8 x.glretx.toNat ++
          leBytes 8 x.glrxbad.toNat ++ leBytes 8 x.glxdrop.toNat)))) s

/-- MIGRATE: firmware's policy chooses the destination and its cores; BUSY where the team or the destination does not
meet R360 (R361). -/
def execMigrateCall (g dest : Nat) (cores : List Nat) (s : State) : Out :=
  mailboxRow g 9 (fun s q b => withTeamSite s q b fun r n =>
    if (s.team n (reqRid b)).mask = 0 then (Answer.of .noent, s)
    else if s.mayMigrate n (reqRid b) && s.canHost n dest (reqRid b) r cores then
      (⟨.ok, [(40, leBytes 2 dest)]⟩, s.migrate n dest (reqRid b) r cores)
    else (Answer.of .busy, s)) s

end Sys2Proof.Machine
end

