-- ==== Sys2Proof/Machine/Shake.lean ====
section
/-! DEFINITION. SHAKE256 (FIPS 202), which R415, R418 and R419 name. -/

namespace Sys2Proof.Machine

/-- Lane (x, y) of a Keccak state of 25 lanes. -/
def kLane (a : List W64) (x y : Nat) : W64 := a.getD (x % 5 + 5 * (y % 5)) 0

/-- A state given lane by lane. -/
def kState (f : Nat → Nat → W64) : List W64 := (List.range 25).map fun i => f (i % 5) (i / 5)

/-- θ of FIPS 202. -/
def kTheta (a : List W64) : List W64 :=
  let c := (List.range 5).map fun x => (List.range 5).foldl (fun w y => w ^^^ kLane a x y) 0
  kState fun x y => kLane a x y ^^^ c.getD ((x + 4) % 5) 0 ^^^ (c.getD ((x + 1) % 5) 0).rotateLeft 1

/-- The rotations of ρ, by x + 5y. -/
def kRot : List Nat := [0, 1, 62, 28, 27, 36, 44, 6, 55, 20, 3, 10, 43, 25, 39, 41, 45, 15, 21, 8, 18, 2, 61, 56, 14]

/-- ρ and π. -/
def kRhoPi (a : List W64) : List W64 :=
  kState fun x y => (kLane a (x + 3 * y) x).rotateLeft (kRot.getD ((x + 3 * y) % 5 + 5 * x) 0)

/-- χ. -/
def kChi (a : List W64) : List W64 := kState fun x y => kLane a x y ^^^ (~~~kLane a (x + 1) y &&& kLane a (x + 2) y)

/-- The round constants of ι. -/
def kRc : List W64 :=
  [0x0000000000000001, 0x0000000000008082, 0x800000000000808A, 0x8000000080008000, 0x000000000000808B, 0x0000000080000001,
   0x8000000080008081, 0x8000000000008009, 0x000000000000008A, 0x0000000000000088, 0x0000000080008009, 0x000000008000000A,
   0x000000008000808B, 0x800000000000008B, 0x8000000000008089, 0x8000000000008003, 0x8000000000008002, 0x8000000000000080,
   0x000000000000800A, 0x800000008000000A, 0x8000000080008081, 0x8000000000008080, 0x0000000080000001, 0x8000000080008008]

/-- Keccak-f[1600]. -/
def keccakF (a : List W64) : List W64 :=
  kRc.foldl (fun a rc => match kChi (kRhoPi (kTheta a)) with
    | [] => []
    | w :: l => (w ^^^ rc) :: l) a

/-- The message padded to whole blocks of 136 bytes. -/
def shakePad (m : List Byte) : List Byte :=
  let z := 135 - m.length % 136
  if z = 0 then m ++ [0x9F] else m ++ [0x1F] ++ List.replicate (z - 1) 0 ++ [0x80]

/-- Absorb blocks of 136 bytes. -/
def shakeAbsorb : Nat → List W64 → List Byte → List W64
  | 0, a, _ => a
  | f + 1, a, m =>
    if m.isEmpty then a
    else
      let b := m.take 136
      shakeAbsorb f (keccakF (kState fun x y =>
        kLane a x y ^^^ BitVec.ofNat 64 (leNat ((b.drop (8 * (x + 5 * y))).take 8)))) (m.drop 136)

/-- Squeeze blocks of 136 bytes. -/
def shakeSqueeze : Nat → List W64 → List Byte
  | 0, _ => []
  | f + 1, a => ((a.take 17).flatMap fun w => leBytes 8 w.toNat) ++ shakeSqueeze f (keccakF a)

/-- SHAKE256 of a message with an output of n bytes. -/
def shake256 (m : List Byte) (n : Nat) : List Byte :=
  let p := shakePad m
  (shakeSqueeze ((n + 135) / 136) (shakeAbsorb (p.length / 136) (List.replicate 25 0) p)).take n

/-- D of an image: bytes 0 … 255 and the body (R415). -/
def imgDigest (b : List Byte) : List Byte := shake256 (b.take 256 ++ b.drop 5568) 64

end Sys2Proof.Machine
end

