-- ==== Sys2Proof/Machine/Peal.lean ====
section
/-! DEFINITION. Bring-up and failure in service: chiplet states, the wavefront, the Carillon tree and the select tables
(R447 to R456), and the identity of a bring-up (R418). -/

namespace Sys2Proof.Machine

/-! ### States (R447, R454) -/

def State.peal (s : State) (n : Nat) : Nat := (s.chip n).peal

/-- The router time origin: (11, 0) leaves LINKS (R375, R449). Periods and windows begin anew; limits and retries in progress
keep what they have run (DEDUCED, log 37). -/
def State.timeOrigin (s : State) : State :=
  { s with
    now := 0
    chips := s.chips.map fun (x : Nat × Chip) => (x.1, { x.2 with
      pealSince := x.2.pealSince - s.now
      mxe := x.2.mxe.map fun m => { m with rampAt := 0 }
      pwr := x.2.pwr.map fun p => { p with refillAt := 0, inrushAt := 0 } })
    links := s.links.map fun k => { k with
      downSince := k.downSince - s.now, tryAt := k.tryAt - s.now, retrain := k.retrain.map fun r => (r.1, r.2 - s.now) }
    bell := { s.bell with lastMeas := 0, stale := false, staleSince := 0, fallback := false, periodAt := 0 }
    sec := { s.sec with window := s.sec.window.map fun w => (w.1 - s.now, w.2) } }

/-- A site enters a state; CSGEN counts changes once READY has been reached anywhere (R454).
Router time begins as (11, 0) leaves LINKS, whatever it enters (R449). -/
def State.setPeal (s : State) (n code : Nat) : State :=
  if s.peal n = code then s
  else
    let t := s.modChip n fun k => { k with peal := code, pealSince := s.now, tries := 0 }
    let t := if n = Config.bootChip ∧ s.peal n = 4 then t.timeOrigin else t
    { t with
      csgen := if s.everReady then t.csgen + 1 else t.csgen
      everReady := s.everReady || code == 6 }

/-- Sites next to a site, in ascending number. -/
def neighbours (n : Nat) : List Nat :=
  let x := Config.siteX n
  let y := Config.siteY n
  (if 0 < y then [n - 24] else []) ++ (if 0 < x then [n - 1] else []) ++ (if x < 23 then [n + 1] else []) ++
    (if y < 23 then [n + 24] else [])

/-- The router of a site works: it is not FAILED (R453). -/
def State.works (s : State) (n : Nat) : Bool := decide (n < 576) && s.peal n != 7

/-! ### The tree around holes (R453) -/

/-- Sites and their distance from those of the front, over working routers. -/
def State.spread (s : State) : Nat → Nat → List Nat → List (Nat × Nat) → List (Nat × Nat)
  | 0, _, _, seen => seen
  | f + 1, d, front, seen =>
    let next := ((front.flatMap neighbours).eraseDups).filter fun n => s.works n && !(seen.any fun x => x.1 == n)
    if next.isEmpty then seen else s.spread f (d + 1) next (seen ++ next.map fun n => (n, d + 1))

/-- d′ of the sites that a site reaches (R453). -/
def State.distances (s : State) (root : Nat) : List (Nat × Nat) :=
  if s.works root then s.spread 576 0 [root] [(root, 0)] else []

def distOf (l : List (Nat × Nat)) (n : Nat) : Option Nat := (l.find? fun x => x.1 == n).map (·.2)

/-- |Δx| + |Δy| of two sites. -/
def siteDistance (a b : Nat) : Nat :=
  let d (x y : Nat) : Nat := if x < y then y - x else x - y
  d (Config.siteX a) (Config.siteX b) + d (Config.siteY a) (Config.siteY b)

/-- The root of the tree (R453). -/
def State.carillonTop (s : State) : Nat :=
  let c := Config.carillonRoot
  if s.works c then c
  else match (neighbours c).find? s.works with
    | some n => n
    | none =>
      (((List.range 576).filter s.works).foldl (fun (b : Option Nat) n => match b with
        | none => some n
        | some m => if siteDistance n c < siteDistance m c then some n else some m) none).getD c

/-- The parent of a working site at distance d + 1 (R453). -/
def parentBy (l : List (Nat × Nat)) (n d : Nat) : Nat :=
  if distOf l (plainParent n) = some d then plainParent n
  else ((neighbours n).find? fun m => distOf l m == some d).getD n

/-- The tree is computed anew (R453). -/
def State.rebuildTree (s : State) : State :=
  let root := s.carillonTop
  let l := s.distances root
  let up (x : Nat × Nat) : Nat := if x.2 = 0 then x.1 else parentBy l x.1 (x.2 - 1)
  { s with carillon := l.foldl (fun t x => KV.put x.1 (up x) t) [] }

/-! ### Select tables (R455) -/

/-- Sites a leg crosses, both ends among them. -/
def legSites (yx : Bool) : Nat → Nat → Nat → List Nat
  | 0, a, _ => [a]
  | f + 1, a, b => if a = b then [a] else a :: legSites yx f (nextSite yx a b) b

/-- A leg is clear: it crosses no FAILED site. -/
def State.legClear (s : State) (yx : Bool) (a b : Nat) : Bool := (legSites yx 48 a b).all s.works

/-- An entry of the select table (R253). -/
def nselEntry (rv ms2 ms : Bool) (rch : Nat) : W16 :=
  1#1 ++ bit1 rv ++ bit1 ms2 ++ bit1 ms ++ 0#2 ++ BitVec.ofNat 10 rch

/-- The candidates for a relay around a failed site, in the order of R455. -/
def relayCands (f : Nat) : List Nat :=
  let x := Config.siteX f
  let y := Config.siteY f
  let near := (if x < 23 then [f + 1] else []) ++ (if 0 < x then [f - 1] else []) ++ (if y < 23 then [f + 24] else []) ++
    (if 0 < y then [f - 24] else [])
  near ++ (List.range 576).filter fun n => !near.contains n

/-- fill(s, d) of R455. -/
def State.nselFill (s : State) (a d : Nat) : W16 :=
  if d = a then nselEntry false false false 0
  else if s.peal d ≠ 6 then 0
  else if s.legClear false a d then nselEntry false false false 0
  else if s.legClear true a d then nselEntry false false true 0
  else match (legSites false 48 a d).find? fun n => !s.works n with
    | none => 0
    | some f =>
      let legs : List (Bool × Bool) := [(false, false), (false, true), (true, false), (true, true)]
      ((relayCands f).findSome? fun r =>
        if r == a || r == d || !s.works r then none
        else (legs.find? fun x => s.legClear x.1 a r && s.legClear x.2 r d).map fun x => nselEntry true x.2 x.1 r).getD 0

/-- Firmware fills the table of every site whose router relays and that has come through bring-up: READY or ISOLATED (R448,
R455). -/
def State.fillTables (s : State) : State :=
  { s with chips := s.chips.map fun (x : Nat × Chip) =>
    if x.2.peal = 6 ∨ x.2.peal = 8 then
      (x.1, { x.2 with nsel := ((List.range 576).map fun d => (d, s.nselFill x.1 d)).filter fun e => e.2 != 0 })
    else x }

/-! ### Pass 1 (R449, R451) -/

/-- A site's endpoints serve no more: it holds no retention register, its link is down (R448). -/
def State.fence (s : State) (n : Nat) : State :=
  let t := s.modChip n fun k => { k with rctl := k.rctl.map fun w => if retV w then w &&& 0x7FFFFFFFFFFFFFFF else w }
  match linkOf n with
  | some l => if (t.link l).state = 0 then t else t.setLink l ((t.link l).goDown t.now)
  | none => t

/-- A site loses its router: what its buffers hold is lost (R456). -/
def State.routerLost (s : State) (n : Nat) : State :=
  { s with flights := s.flights.filter (fun f => f.site != n), flits := s.flits.filter fun f => f.site != n }.fence n

/-- A site becomes ISOLATED: its endpoints are fenced (R448). -/
def State.isolate (s : State) (n : Nat) : State := (s.setPeal n 8).fence n

/-- A site becomes FAILED. -/
def State.fail (s : State) (n : Nat) : State := (s.setPeal n 7).routerLost n

/-- A site that has left CLKACQ without failing lets its neighbours power up (R449). -/
def State.powerNeighbours (s : State) (n : Nat) : State :=
  (neighbours n).foldl (fun t m => if t.peal m = 0 then t.setPeal m 1 else t) s

/-- Pass 1 is over: no site is on its way, none in OFF can still be powered (R451). -/
def State.pass1Over (s : State) : Bool :=
  (List.range 576).all fun n => decide (5 ≤ s.peal n) || (s.peal n == 0 && (neighbours n).all fun m => s.peal m == 7 || s.peal m == 0)

/-- The end of pass 1: sites without a path to (11, 0), or with every neighbour FAILED, are FAILED; the tree is fixed (R451,
R453). -/
def State.endPass1 (s : State) : State :=
  if s.pass1Over then
    let l := s.distances Config.bootChip
    (((List.range 576).filter fun n => (distOf l n).isNone || s.peal n == 0 || (neighbours n).all fun m => s.peal m == 7).foldl
      State.fail s).rebuildTree
  else s

/-- ξ of R418, from the PUF's response and the helper data; none where the key store holds none, as after an erase. -/
def identityXi (store : List Byte) : Option (List Byte) :=
  if store.all (· == 0) then none
  else (Config.pufResponse store).map fun r => shake256 ([0x57, 0x31, 0x2D, 0x49, 0x44] ++ r) 32

/-- The module derives its identity: the key of ξ, where its public half is the one certified (R418). -/
def Security.derive (x : Security) : Security :=
  let store := x.keyStore.getD Config.keyStore
  { x with key := (identityXi store).filter fun xi => Config.mldsaPublic xi == Config.certifiedKey store }

/-- POWER_GOOD: every edge chiplet in OFF enters PWR; the boot ROM derives the identity (R418, R449). -/
def execPowerGood (s : State) : Out :=
  let t := ((List.range 576).filter fun n => Config.isEdge n && s.peal n == 0).foldl (fun t n => t.setPeal n 1) s
  .next { t with sec := t.sec.derive }

/-- The clock a site locks to: its own reference input for an edge chiplet, else its first neighbour past CLKACQ and not
FAILED whose clock it holds (R449). `holds`: the clocks it can hold, an edge chiplet's own number for its input. -/
def State.clockOf (s : State) (n : Nat) (holds : List Nat) : Option Nat :=
  if Config.isEdge n then (if holds.contains n then some n else none)
  else (neighbours n).find? fun m => decide (3 ≤ s.peal m) && s.peal m != 7 && holds.contains m

/-- CLOCK_LOCK: a site in PWR whose rails have risen enters CLKACQ, and fails on a rail fault, where `holds` is none; one in CLKACQ
locks to a source that holds, or fails (R447, R449). -/
def execClockLock (n : Nat) (holds : Option (List Nat)) (s : State) : Out :=
  onSite n s fun s =>
    if s.peal n = 1 then (if holds.isSome then s.setPeal n 2 else (s.fail n).endPass1)
    else if s.peal n = 2 then (match s.clockOf n (holds.getD []) with
      | some _ => (s.setPeal n 3).powerNeighbours n
      | none => (s.fail n).endPass1)
    else s

/-- SELFTEST_DONE: 0 passed, 1 router or NI failed, else other logic failed (R447). -/
def execSelftestDone (n result : Nat) (s : State) : Out :=
  onSite n s fun s =>
    if s.peal n ≠ 3 then s
    else if result = 0 then s.setPeal n 4
    else (if result = 1 then s.fail n else s.isolate n).endPass1

/-- LINKS_TRAINED: the links of a site have trained, but for those to `untrained`; of two sites in LINKS the higher number fails
(R447, R451). -/
def execLinksTrained (n : Nat) (untrained : List Nat) (s : State) : Out :=
  onSite n s fun s =>
    if s.peal n ≠ 4 then s
    else
      let bad := (neighbours n).filter fun m => untrained.contains m && s.peal m == 4
      let t := (bad.map fun m => max m n).foldl State.fail s
      (if t.peal n = 4 then t.setPeal n 5 else t).endPass1

/-- The limit of a state in rc (R447). -/
def pealLimit (code : Nat) : Option Nat :=
  match code with
  | 1 => some 300000
  | 2 => some 150000
  | 3 => some 3000000
  | 4 => some 750000
  | 5 => some 75000000
  | _ => none

/-- The boot state once no site is in CONFIG (R409). -/
def State.bootDone (s : State) : State :=
  if s.sec.boot = 3 ∧ (List.range 576).all (fun n => s.peal n != 5) then { s with sec := { s.sec with boot := 4 } } else s

/-- STATE_LIMIT_EXPIRY (R447). -/
def execStateLimitExpiry (n : Nat) (s : State) : Out :=
  onSite n s fun s =>
    match pealLimit (s.peal n) with
    | none => s
    | some l =>
      if s.now < (s.chip n).pealSince + (l : Nat) then s
      else if s.peal n = 5 then (s.isolate n).fillTables.bootDone
      else (s.fail n).endPass1

/-! ### Pass 2 (R452) -/

/-- PEAL_PASS2: both images are accepted and pass 1 is over; (11, 0) has its share first (R452). -/
def execPealPass2 (s : State) : Out :=
  .next (if s.sec.boot = 3 ∧ s.pass1Over ∧ s.peal Config.bootChip = 5 then
    ((s.setPeal Config.bootChip 6).fillTables).bootDone else s)

/-- The site from which a site gets its images: the next one towards (11, 0) along the tree (R452). -/
def State.feeder (s : State) (n : Nat) : Nat :=
  let path := s.pathUp 576 Config.bootChip
  match path.idxOf? n with
  | some (i + 1) => path.getD i n
  | some 0 => n
  | none => s.parentOf n

/-- A transfer to a site is good: the configuration share agrees with the accepted image, and the firmware image that a compute
or edge chiplet received has the accepted D (R452). `got` is none where the share was found bad. -/
def State.transferOk (s : State) (n : Nat) (got : Option (List Byte)) : Bool :=
  got.any fun b => Config.isMemory n || imgDigest b == s.sec.firmware

/-- CONFIG_TRANSFER: a site gets its share, checked; a third failure isolates it, and so does the configuration (R28, R447, R452).
`got`: the firmware image as it was received, or none where the parent's check of the configuration share, whose layout no rule
gives, has failed. -/
def execConfigTransfer (n : Nat) (got : Option (List Byte)) (s : State) : Out :=
  onSite n s fun s =>
    let f := s.feeder n
    if s.peal n ≠ 5 || s.sec.boot ≠ 3 || !(s.peal f == 6 || s.peal f == 8) then s
    else if s.transferOk n got then
      ((if s.sec.isolate.contains n then s.isolate n else s.setPeal n 6).fillTables).bootDone
    else if 2 ≤ (s.chip n).tries then ((s.isolate n).fillTables).bootDone
    else s.modChip n fun k => { k with tries := k.tries + 1 }

/-! ### Failure in service (R456) -/

/-- The leaves below a table of an address space (R386). -/
def State.leavesFrom (s : State) : Nat → Nat → Nat → List W64
  | 0, _, _ => []
  | f + 1, level, table =>
    (List.range (if level = 0 then 262144 else 512)).flatMap fun i =>
      let e : W64 := BitVec.ofNat 64 (s.paNat (table + 8 * i) 8)
      if !e.getLsbD 0 then []
      else if !e.getLsbD 9 && level != 3 then
        (if pointerOk e then s.leavesFrom f (level + 1) (frameOf e * 4096) else [])
      else if !e.getLsbD 9 || leafBad e level then [] else [e]

/-- The site that is home to a leaf's page (R185). -/
def leafSite (e : W64) : Nat :=
  if hkOf e = 1 then Config.computeOfIndex (hselOf e / 16)
  else if hkOf e = 2 then Config.hostPortChip (hselOf e % 8)
  else Config.memoryOfIndex (frameOf e * 4096 / 2 ^ 34)

/-- An address space holds a team, an MXE bind, a home page or a collective group member on one of some sites (R456). -/
def State.spaceOn (s : State) (asid : W16) (r : Space) (sites : List Nat) : Bool :=
  let rids := s.ridsOf asid
  sites.any (fun n => (s.chip n).teams.any (fun t => t.2.mask != 0 && rids.contains t.1) ||
    (s.chip n).mxe.toList.any fun x => x.bind.toList.any fun w => bindV w && bindAsid w == asid) ||
  s.cgroups.any (fun (x : Nat × CGroup) => x.2.state != 0 && x.2.asid == asid && x.2.members.any sites.contains) ||
  (s.leavesFrom 4 0 r.root).any fun e => sites.contains (leafSite e)

/-- SITE_FAILURE_IN_SERVICE: a READY site fails, or is fenced; cut-off sites fail with it, address spaces on them are
killed, tree and tables are made anew (R456). -/
def State.siteFailure (s : State) (n : Nat) (isolated : Bool) : State :=
  if s.peal n ≠ 6 then s
  else
    let s1 := if isolated then s.isolate n else s.fail n
    let l := s1.distances s1.carillonTop
    let cut := (List.range 576).filter fun m => (s1.peal m == 6 || s1.peal m == 8) && (distOf l m).isNone
    let s2 := cut.foldl State.fail s1
    let dead := s2.spaces.filter fun (x : Nat × Space) => !x.2.killed && s2.spaceOn (BitVec.ofNat 16 x.1) x.2 (n :: cut)
    let s3 := dead.foldl (fun t x => t.kill (BitVec.ofNat 16 x.1) 6 FCode.relay.code) s2
    s3.rebuildTree.fillTables

/-- SITE_FAILURE_IN_SERVICE. -/
def execSiteFailureInService (n : Nat) (isolated : Bool) (s : State) : Out := onSite n s fun s => s.siteFailure n isolated

end Sys2Proof.Machine
end

