-- ==== Sys2Proof/Machine/Security.lean ====
section
/-! DEFINITION. The boot chain (R415, R416), attestation reports (R419) and the tamper alarm (R420 to R424). -/

namespace Sys2Proof.Machine

/-! ### Images (R415, R416) -/

/-- The fields of an image. -/
def imgKind (b : List Byte) : Nat := fieldOf b 4 2
def imgSvn (b : List Byte) : W32 := BitVec.ofNat 32 (fieldOf b 8 4)
def imgBlen (b : List Byte) : Nat := fieldOf b 12 4
def imgPk (b : List Byte) : List Byte := (b.drop 256).take 1952
def imgSig (b : List Byte) : List Byte := (b.drop 2208).take 3309

/-- MAGIC, KIND, the zero fields and the length are right (R415). -/
def imgForm (b : List Byte) (kind : Nat) : Bool :=
  fieldOf b 0 4 == 0x52574D49 && imgKind b == kind && fieldOf b 6 2 == 0 && ((b.drop 16).take 240).all (· == 0) &&
    ((b.drop 5517).take 51).all (· == 0) && imgBlen b % 64 == 0 && decide (imgBlen b ≤ 2 ^ 28) &&
    b.length == 5568 + imgBlen b

/-- The refusal code of an image, 0 where the ROM accepts it (R409, R415). -/
def imgRefusal (b : List Byte) (readOk : Bool) (kind : Nat) (minsvn : W32) : Nat :=
  if !readOk then 5
  else if !imgForm b kind then 1
  else if shake256 (imgPk b) 32 != Config.romKeyDigest then 2
  else if !Config.mldsaVerify (imgPk b) (imgDigest b) (imgSig b) then 3
  else if (imgSvn b).toNat < minsvn.toNat then 4
  else 0

/-- The ROM can take an image: (11, 0) has reached LINKS, and an image is awaited (R452, R409). -/
def State.romWaits (s : State) : Bool :=
  let p := s.peal Config.bootChip
  decide (4 ≤ p) && decide (p ≤ 6) && (s.sec.boot == 0 || s.sec.boot == 2)

/-- MINSVN rises to what the configuration asks, no further than the firmware's SVN (R416). -/
def raiseMinsvn (old ask svn : W32) : W32 := BitVec.ofNat 32 (max old.toNat (min ask.toNat svn.toNat))

/-- A bus address of the host behind a port, without a PASID. -/
def busPlace (port a : Nat) : Loc := .host (8 + port) 0 a

/-- The image on offer at a port: IMGLEN bytes at IMGADR, by the port's DMA (R409). -/
def State.imageAt (s : State) (port : Nat) : List Byte :=
  s.bytesAt ((busPlace port (s.port port).imgadr.toNat).span (s.port port).imglen.toNat)

/-- The sites that a configuration image isolates, but for the boot site (R28). -/
def isolatedSites (sites : List Nat) : List Nat := sites.filter fun n => wfSite n && n != Config.bootChip

/-- The boot ROM takes the image of the first port to offer one: `readOk` whether the DMA could read it. Of a configuration image,
whose body has no layout in the spec, `sites` are those it isolates and `askSvn` is the MINSVN it asks for (R28, R415, R416;
logs 78, 79). -/
def State.takeImage (s : State) (port : Nat) (sites : List Nat) (readOk : Bool) (askSvn : W32) : State :=
  if !s.romWaits || s.sec.offers.head? != some port then s
  else
    let image := s.imageAt port
    let x : Security := { s.sec with offers := s.sec.offers.tail }
    let kind := if x.boot = 0 then 1 else 2
    let code := imgRefusal image readOk kind x.minsvn
    if code ≠ 0 then { s with sec := { x with refused := code } }
    else if x.boot = 0 then { s with sec := { x with boot := 2, firmware := imgDigest image, fwsvn := imgSvn image } }
    else { s with sec := { x with
      boot := 3, config := imgDigest image, isolate := isolatedSites sites
      minsvn := raiseMinsvn x.minsvn askSvn x.fwsvn } }

/-- IMGGO. -/
def execImggo (port : Nat) (sites : List Nat) (readOk : Bool) (askSvn : W32) (s : State) : Out :=
  onEight port s fun s => s.takeImage port sites readOk askSvn

/-! ### Attestation (R419) -/

/-- Chiplets in FAILED or ISOLATED (R409). -/
def State.nbad (s : State) : Nat := (s.chips.filter fun (x : Nat × Chip) => x.2.peal == 7 || x.2.peal == 8).length

/-- ALM of a report: latched sensors, policies, LOCK. -/
def Security.alm (x : Security) : Nat :=
  x.lat.toNat + (x.almpol.extractLsb' 0 8).toNat * 16 + (if x.almpol.getLsbD 8 then 4096 else 0)

/-- Bytes 0 … 255 of a report. -/
def State.reportBody (s : State) (nonce : List Byte) : List Byte :=
  let x := s.sec
  leBytes 4 0x52574152 ++ leBytes 2 1 ++ leBytes 2 s.modid.toNat ++ (nonce ++ List.replicate 32 0).take 32 ++
    (x.firmware ++ List.replicate 64 0).take 64 ++ (x.config ++ List.replicate 64 0).take 64 ++ leBytes 4 x.fwsvn.toNat ++
    leBytes 4 x.minsvn.toNat ++ leBytes 4 x.acnt.toNat ++ leBytes 4 x.alm ++ leBytes 2 s.nbad ++ List.replicate 6 0 ++
    leBytes 8 (s.now / 1500) ++ List.replicate 56 0

/-- The report of 3,565 bytes, signed by the identity key. -/
def State.attestation (s : State) (nonce : List Byte) : List Byte :=
  let b := s.reportBody nonce
  b ++ (Config.mldsaSign (s.sec.key.getD []) (shake256 b 64) ++ List.replicate 3309 0).take 3309

/-! ### The alarm (R420 to R424) -/

/-- Policy of sensor k: 0 log, 1 halt, 2 erase (R422). -/
def policyOf (pol : W32) (k : Nat) : Nat := (pol.extractLsb' (2 * k) 2).toNat

/-- A value as ALMPOL stores it: 0b11 stores 0b10, reserved bits zero (R422). -/
def storedPolicy (v : W32) : W32 :=
  (List.range 4).foldl (fun w k => if policyOf v k = 3 then putField w (2 * k) 2 2 else w) (v &&& 0x1FF)

/-- The write would lower a field or clear LOCK (R423). -/
def lessStrict (old new : W32) : Bool :=
  (old.getLsbD 8 && !new.getLsbD 8) || (List.range 4).any fun k => decide (policyOf new k < policyOf old k)

/-- A write of the host to ALMPOL: only towards stricter values (R422, R423). -/
def Security.writePolicy (x : Security) (v : W32) : Option Security :=
  let w := storedPolicy v
  if lessStrict x.almpol w then none else some { x with almpol := w }

/-- ALMPOL as the configuration image loads it: with LOCK set, no less strict (R422, R423). -/
def Security.loadPolicy (x : Security) (v : W32) : Security :=
  let w := storedPolicy v
  if x.almpol.getLsbD 8 && lessStrict x.almpol w then x else { x with almpol := w }

/-- The strictest policy among an event's sensors (R423). -/
def strictest (pol : W32) (bits : BitVec 4) : Nat := ((bitsOf bits).map (policyOf pol)).foldl max 0

/-- One alarm event: counted, latched, shown, then its policy (R421, R423). -/
def State.alarm (s : State) (bits : BitVec 4) : State :=
  let x := s.sec
  let n := if x.acnt = 0xFFFFFFFF then x.acnt else x.acnt + 1
  let p := strictest x.almpol bits
  let s := { s with sec := { x with acnt := n, lat := x.lat ||| bits, window := none } }
  let s := s.event 3 (bits.zeroExtend 8) 0 0 0 0 0 n.toNat 0
  if p = 0 then s
  else
    let s := s.spaces.foldl (fun t (y : Nat × Space) => t.kill (BitVec.ofNat 16 y.1) 4 FCode.alarm.code) s
    { s with sec := { s.sec with boot := 5, stopped := s.sec.stopped || p == 2, erasing := s.sec.erasing || p == 2 } }

/-- ALARM_EVENT: the 1 µs window of the trips is over (R420). -/
def State.alarmEvent (s : State) : State :=
  match s.sec.window with
  | none => s
  | some (t, bits) => if t + 1500 ≤ s.now then s.alarm bits else s

/-- ALARM_EVENT. -/
def execAlarmEvent (s : State) : Out := .next s.alarmEvent

/-- SENSOR_TRIP: a sensor trips within the open window, or opens one (R420). -/
def execSensorTrip (sensor : Nat) (s : State) : Out :=
  if 4 ≤ sensor then .fault .noUnit
  else
    let s := s.alarmEvent
    let bit : BitVec 4 := BitVec.ofNat 4 (2 ^ sensor)
    .next { s with sec := { s.sec with window := some (match s.sec.window with
      | none => (s.now, bit)
      | some (t, b) => (t, b ||| bit)) } }

/-- The key store and the private key are zeroed (R423). -/
def Security.erased (x : Security) : Security := { x with keyStore := some [], key := none, erasing := false }

/-- ERASE_COMPLETE. -/
def execEraseComplete (s : State) : Out := .next (if s.sec.erasing then { s with sec := s.sec.erased } else s)

/-! ### Reset -/

/-- What a reset leaves of boot and alarm: the key store, the alarm counter and MINSVN. An event whose window is open is counted
and its policy begins first; an erase that has begun is never undone (R28, R418, R421, R423). -/
def State.secKept (s : State) : Security :=
  let x := (match s.sec.window with
    | some w => s.alarm w.2
    | none => s).sec
  { Security.reset with keyStore := (if x.erasing then x.erased else x).keyStore, acnt := x.acnt, minsvn := x.minsvn }

/-- RESET: every site is OFF; only the key store, the alarm counter and MINSVN stay (R28, R447), memory as the model keeps it
(DESIGN CHOICE, log 1), the host and the schedule. -/
def State.resetModule (s : State) : State :=
  { State.reset with
    turns := s.turns, self := s.self, fresh := s.fresh, mem := s.mem, hostMem := s.hostMem, hostRefuse := s.hostRefuse
    sec := s.secKept }

/-- RESET. -/
def execResetAll (s : State) : Out := .next s.resetModule

end Sys2Proof.Machine
end

