-- ==== Sys2Proof/Machine/HostPage.lean ====
section
/-! DEFINITION. The host interface: the management page with its commands (R407 to R411), launch windows (R412), apertures
(R413) and the port translation caches (R414). -/

namespace Sys2Proof.Machine

/-! ### The management page (R409) -/

def HostPort.cmdByte (h : HostPort) (k : Nat) : Byte := KV.get 0 h.cmd k

/-- Field [k, k + n) of the command block. -/
def HostPort.arg (h : HostPort) (k n : Nat) : Nat := leNat ((List.range n).map fun i => h.cmdByte (k + i))

/-- A command is answered: results, DONE, MSI-X vector 3 of the port (R410). -/
def State.finishCmd (s : State) (p : Nat) (sts : CallSts) (res : List Byte) : State :=
  let h := s.port p
  s.setPort p { h with busy := false, done := true, sts := sts.code, res := res, msix := 3 :: h.msix }

/-- A DOOR write (R409, R410): ignored while BUSY; answered at once where the module is not ready, the code is not in the
table or bytes 2 to 7 are not zero. -/
def State.door (s : State) (p : Nat) : State :=
  let h := s.port p
  if h.busy then s
  else if s.sec.boot < 4 then s.finishCmd p .busy []
  else
    let s := s.setPort p { h with busy := true, done := false }
    if h.arg 0 2 = 0 ∨ 12 < h.arg 0 2 ∨ h.arg 2 6 ≠ 0 then s.finishCmd p .desc [] else s

/-- A byte of a register replaced. -/
def setByte {w : Nat} (x : BitVec w) (k : Nat) (b : Byte) : BitVec w := putField x (8 * k) 8 b.toNat

/-- The image registers are there: (11, 0) has reached LINKS (R452). -/
def State.imagePage (s : State) : Bool := decide (4 ≤ s.peal Config.bootChip) && decide (s.peal Config.bootChip ≤ 6)

/-- One byte written to the management page; until the module is `ready`, only the image registers act, where they are there
(R409, R452). -/
def HostPort.writeByte (image ready : Bool) (h : HostPort) (off : Nat) (b : Byte) : HostPort :=
  if 0x10 ≤ off ∧ off < 0x18 then (if image then { h with imgadr := setByte h.imgadr (off - 0x10) b } else h)
  else if 0x18 ≤ off ∧ off < 0x1C then (if image then { h with imglen := setByte h.imglen (off - 0x18) b } else h)
  else if !ready then h
  else if 0x100 ≤ off ∧ off < 0x200 then { h with cmd := KV.putD 0 (off - 0x100) b h.cmd }
  else if 0x404 ≤ off ∧ off < 0x408 then { h with evtail := setByte h.evtail (off - 0x404) b }
  else h

/-- A write overlaps a register of n bytes. -/
def hits (off len reg n : Nat) : Bool := decide (off < reg + n) && decide (reg < off + len)

/-- The state the pages share: EVTAIL is the module's (R409). -/
def State.shareTail (s : State) (p : Nat) : State :=
  { s with ports := s.ports.map fun h => { h with evtail := (s.port p).evtail } }

/-! ### Launch windows (R412) -/

/-- A RING write refused. -/
def State.ringDrop (s : State) (w : Nat) (x : Window) : State :=
  { s with windows := KV.put w { x with drop := if x.drop = 0xFFFFFFFF then x.drop else x.drop + 1 } s.windows }

/-- The staged packet of a window. -/
def Window.packet (x : Window) : List Byte := (List.range 256).map fun k => KV.get 0 x.stage k

/-- ring(w) of R412. A halted module accepts no RING write (R423); an unbound window keeps its count too.
A descriptor in host memory takes no AMO (R414). -/
def State.ringWrite (s : State) (w : Nat) : State :=
  let n := Config.bootChip
  let x := KV.get ⟨0, 0, [], 0⟩ s.windows w
  if x.asid = 0 || s.isKilled x.asid || s.sec.boot == 5 then s.ringDrop w x
  else match s.ring n x.asid x.lq with
    | none => s.ringDrop w x
    | some (d, q) =>
      if 2 ^ q.log2n ≤ q.used || d.any Loc.isHost then s.ringDrop w x
      else match s.placesAs n x.asid false (q.base + BitVec.ofNat 64 (256 * (q.tail.toNat % 2 ^ q.log2n))) 256 .w true with
        | .error _ => s.ringDrop w x
        | .ok l => (s.storeHome x.asid (l.zip x.packet)).storeHome x.asid ((d.drop 20).zip (leBytes 4 (q.tail + 1).toNat))

/-- RING. -/
def execRingWrite (w : Nat) (s : State) : Out := .next (if w < 1024 then s.ringWrite w else s)

/-- A write to window w of BAR0: STAGE bytes, or RING (R408, R412). -/
def State.windowWrite (s : State) (w off : Nat) (b : List Byte) : State :=
  let x := KV.get ⟨0, 0, [], 0⟩ s.windows w
  let stage := b.zipIdx.foldl (fun t y => if off + y.2 < 256 then KV.putD 0 (off + y.2) y.1 t else t) x.stage
  let s := if off < 256 then { s with windows := KV.put w { x with stage := stage } s.windows } else s
  if hits off b.length 0x100 4 then s.ringWrite w else s

/-- A port offers its image: behind the ports that offered theirs before (R409, R415). -/
def State.offer (s : State) (p : Nat) : State :=
  if s.imagePage && !s.sec.offers.contains p then { s with sec := { s.sec with offers := s.sec.offers ++ [p] } } else s

/-- MANAGEMENT_PAGE_WRITE: a write to BAR0 of a port, the management page or a launch window (R408, R409). The port of a fenced or
failed chiplet is not there (R447, R448). -/
def State.bar0Write (s : State) (p off : Nat) (b : List Byte) : State :=
  if s.siteDown (Config.hostPortChip p) then s
  else if 0x10000 ≤ off then
    (if (off - 0x10000) / 4096 < 1024 then s.windowWrite ((off - 0x10000) / 4096) (off % 4096) b else s)
  else
    let h := b.zipIdx.foldl (fun (h : HostPort) y => h.writeByte s.imagePage (decide (4 ≤ s.sec.boot)) (off + y.2) y.1) (s.port p)
    let s := (s.setPort p h)
    let s := if hits off b.length 0x404 4 then s.shareTail p else s
    let s := if hits off b.length 0x1C 4 then s.offer p else s
    if hits off b.length 0x200 4 then s.door p else s

/-- MANAGEMENT_PAGE_WRITE. -/
def execManagementPageWrite (port off : Nat) (bytes : List Byte) (s : State) : Out :=
  onEight port s fun s => s.bar0Write port off bytes

/-- What the host reads of the management page of a port (R409). -/
def State.pageByte (s : State) (p off : Nat) : Byte :=
  let h := s.port p
  let of (base : Nat) (n v : Nat) : Byte := (leBytes n v).getD (off - base) 0
  if off < 4 then of 0 4 0x52574D50
  else if off < 8 then of 4 4 1
  else if off < 12 then of 8 4 s.modid.toNat
  else if off < 16 then of 12 4 (s.sec.boot % 16 + s.sec.refused % 256 * 256)
  else if off < 0x18 then (if s.imagePage then of 0x10 8 h.imgadr.toNat else 0)
  else if off < 0x1C then (if s.imagePage then of 0x18 4 h.imglen.toNat else 0)
  else if off < 0x20 then 0
  else if off < 0x24 then of 0x20 4 s.nbad
  else if off < 0x28 then 0
  else if off < 0x30 then of 0x28 8 s.apref.toNat
  else if 0x100 ≤ off ∧ off < 0x200 then h.cmdByte (off - 0x100)
  else if 0x204 ≤ off ∧ off < 0x208 then of 0x204 4 (h.sts.toNat + (if h.busy then 2 ^ 30 else 0) + (if h.done then 2 ^ 31 else 0))
  else if 0x300 ≤ off ∧ off < 0x400 then h.res.getD (off - 0x300) 0
  else if 0x400 ≤ off ∧ off < 0x404 then of 0x400 4 s.evhead.toNat
  else if 0x404 ≤ off ∧ off < 0x408 then of 0x404 4 h.evtail.toNat
  else if 0x408 ≤ off ∧ off < 0x40C then of 0x408 4 s.evlost.toNat
  else if 0x800 ≤ off ∧ off < 0x1000 then (KV.get [] s.evring ((off - 0x800) / 32)).getD (off % 32) 0
  else 0

/-- What the host reads of window w: HEAD of a bound window's descriptor at its home, DROP; STAGE, RING and other offsets read
zero (R6, R412). HEAD of a window that is unbound or killed, or whose descriptor does not translate, reads zero (DESIGN CHOICE,
log 129). -/
def State.windowByte (s : State) (w off : Nat) : Byte :=
  let x := KV.get ⟨0, 0, [], 0⟩ s.windows w
  let head : W32 := if x.asid = 0 || s.isKilled x.asid then 0 else ((s.ring Config.bootChip x.asid x.lq).map (·.2.head)).getD 0
  if 0x108 ≤ off ∧ off < 0x10C then (leBytes 4 head.toNat).getD (off - 0x108) 0
  else if 0x10C ≤ off ∧ off < 0x110 then (leBytes 4 x.drop.toNat).getD (off - 0x10C) 0
  else 0

/-- What the host reads of BAR0 of a port: the management page, then the launch windows; the rest reads zero (R408). -/
def State.bar0Byte (s : State) (p off : Nat) : Byte :=
  if off < 0x10000 then (if off < 4096 then s.pageByte p off else 0)
  else if (off - 0x10000) / 4096 < 1024 then s.windowByte ((off - 0x10000) / 4096) (off % 4096) else 0

/-! ### Commands (R410) -/

/-- A command row: it carries out the command a port has in hand, where that has its code. -/
def cmdRow (port code : Nat) (run : State → HostPort → Option (CallSts × List Byte × State)) (s : State) : Out :=
  onEight port s fun s =>
    let h := s.port port
    if !h.busy || h.arg 0 2 ≠ code || s.siteDown (Config.hostPortChip port) then s
    else match run s h with
      | none => s
      | some (sts, res, t) => t.finishCmd port sts res

/-- An address space that exists and lives. -/
def State.lives (s : State) (asid : W16) : Bool :=
  match KV.find s.spaces asid.toNat with
  | some r => !r.killed
  | none => false

/-- An ASID may be given out: never held, or its old holder is gone from every cache and engine (R384). -/
def State.asidFree (s : State) (asid : W16) : Bool :=
  asid != 0 && (match KV.find s.spaces asid.toNat with
    | none => true
    | some r => r.killed && r.killing.isEmpty) &&
  s.cores.all (fun (x : Nat × Core) => x.2.tlb.all fun e => e.asid != asid) &&
  s.chips.all (fun (x : Nat × Chip) => x.2.tlb.all (fun e => e.asid != asid) &&
    x.2.ptlb.all (fun p => p.2.all fun e => e.asid != asid) &&
    x.2.copies.all (fun c => c.asid != asid) && x.2.clIn.all (fun c => c.asid != asid) &&
    x.2.mxe.toList.all fun m => m.cmds.all fun c => c.asid != asid)

/-- ASNEW: `asid` is the id firmware gives (R384, R410). -/
def execAsnew (port asid : Nat) (s : State) : Out :=
  cmdRow port 1 (fun s h =>
    let a : W16 := BitVec.ofNat 16 asid
    let root := h.arg 8 8
    let tw := h.arg 16 8
    if root % 2 ^ 21 ≠ 0 ∨ tw % 4096 ≠ 0 ∨ canonical (BitVec.ofNat 64 tw) = false ∨ 2 ^ 20 ≤ h.arg 24 4 then some (.desc, [], s)
    else if s.asidFree a then
      let r : Space := ⟨root, BitVec.ofNat 64 tw, BitVec.ofNat 20 (h.arg 24 4), false, [], 0, 0, false⟩
      some (.ok, leBytes 2 a.toNat, { s with spaces := KV.put a.toNat r s.spaces })
    else none) s

/-- ASKILL (R436, R437). -/
def execAskill (port : Nat) (s : State) : Out :=
  cmdRow port 2 (fun s h =>
    let a : W16 := BitVec.ofNat 16 (h.arg 8 2)
    some (match KV.find s.spaces a.toNat with
      | none => (.noent, [], s)
      | some _ => (.ok, [], s.kill a 5 0))) s

/-- The blocks a GRANT or REVOKE names: none where they pass the end of DRAM. -/
def HostPort.blocks (h : HostPort) : Option (List Nat) :=
  let b := h.arg 16 8
  let n := h.arg 24 4
  if b + n ≤ 160 * 8192 then
    let l := (List.range n).map (b + ·)
    if l.all fun k => decide (k % 8192 < 6144) then some l else none
  else none

/-- A block whose memory chiplet serves it: an isolated one's are left out (R448). -/
def State.blockThere (s : State) (k : Nat) : Bool := s.peal (Config.memoryOfIndex (k / 8192)) == 6

/-- GRANT (R391). -/
def execGrantCmd (port : Nat) (s : State) : Out :=
  cmdRow port 3 (fun s h =>
    let a : W16 := BitVec.ofNat 16 (h.arg 8 2)
    some (if !s.lives a then (.noent, [], s)
      else match h.blocks with
      | none => (.desc, [], s)
      | some l =>
        if l.any (fun k => !s.blockThere k || (KV.get 0 s.owner k != 0 && KV.get 0 s.owner k != a)) then (.refused, [], s)
        else (.ok, [], { s with owner := l.foldl (fun t k => KV.put k a t) s.owner }))) s

/-- REVOKE (R410). -/
def execRevokeCmd (port : Nat) (s : State) : Out :=
  cmdRow port 4 (fun s h =>
    let a : W16 := BitVec.ofNat 16 (h.arg 8 2)
    some (match KV.find s.spaces a.toNat with
      | none => (.noent, [], s)
      | some r =>
        match h.blocks with
        | none => (.desc, [], s)
        | some l =>
          if !r.killed || !r.killing.isEmpty || l.any (fun k => KV.get 0 s.owner k != 0 && KV.get 0 s.owner k != a) then
            (.refused, [], s)
          else (.ok, [], { s with owner := l.foldl (fun t k => KV.del k t) s.owner }))) s

/-- ROOTREG: `rid` is the id firmware gives (R291, R292, R410). -/
def execRootreg (port rid : Nat) (s : State) : Out :=
  cmdRow port 5 (fun s h =>
    let a : W16 := BitVec.ofNat 16 (h.arg 8 2)
    let id : W16 := BitVec.ofNat 16 rid
    if !s.lives a then some (.noent, [], s)
    else match s.loadRcb Config.bootChip a (BitVec.ofNat 64 (h.arg 16 8)) with
      | .error e => some (e, [], s)
      | .ok r =>
        if r.parent ≠ 0 then some (.refused, [], s)
        else if (s.regionAt a r.rcb).isSome then some (.busy, [], s)
        else if (s.region id).isSome then none
        else some (.ok, leBytes 2 id.toNat, s.setRegion id r)) s

/-- WINBIND (R412). -/
def execWinbind (port : Nat) (s : State) : Out :=
  cmdRow port 6 (fun s h =>
    let w := h.arg 8 2
    let a : W16 := BitVec.ofNat 16 (h.arg 10 2)
    let x := KV.get ⟨0, 0, [], 0⟩ s.windows w
    some (if 1024 ≤ w then (.desc, [], s)
      else if a ≠ 0 && !s.lives a then (.noent, [], s)
      else (.ok, [], { s with windows := KV.put w { x with asid := a, lq := BitVec.ofNat 64 (h.arg 16 8) } s.windows }))) s

/-- APBIND (R413). -/
def execApbind (port : Nat) (s : State) : Out :=
  cmdRow port 7 (fun s h =>
    let ap := h.arg 8 1
    let a : W16 := BitVec.ofNat 16 (h.arg 10 2)
    let x : Aperture := ⟨a, BitVec.ofNat 64 (h.arg 16 8), (h.cmdByte 12).getLsbD 0⟩
    some (if 16 ≤ ap ∨ h.arg 16 8 % 4096 ≠ 0 then (.desc, [], s)
      else if a = 0 then (.ok, [], { s with apertures := KV.del ap s.apertures })
      else if !s.lives a then (.noent, [], s)
      else (.ok, [], { s with apertures := KV.put ap x s.apertures }))) s

/-- ATTEST (R419): a halted module accepts no request (R423). -/
def execAttestCmd (port : Nat) (s : State) : Out :=
  cmdRow port 8 (fun s h =>
    some (if s.sec.boot = 5 || s.sec.stopped then (.refused, [], s)
      else if s.sec.key.isNone then (.noid, [], s)
      else
        let nonce := (List.range 32).map fun k => h.cmdByte (8 + k)
        let b := s.attestation nonce
        (.ok, [], s.putBytes ((Loc.span (busPlace port (h.arg 40 8)) b.length).zip b)))) s

/-- ALMPOL (R422, R423). -/
def execAlmpolCmd (port : Nat) (s : State) : Out :=
  cmdRow port 9 (fun s h =>
    some (match s.sec.writePolicy (BitVec.ofNat 32 (h.arg 8 4)) with
      | none => (.refused, [], s)
      | some x => (.ok, [], { s with sec := x }))) s

/-- DEBUG (R446). -/
def execDebugCmd (port : Nat) (s : State) : Out :=
  cmdRow port 10 (fun s h =>
    let a := h.arg 8 2
    some (match KV.find s.spaces a with
      | none => (.noent, [], s)
      | some r => (.ok, [], { s with spaces := KV.put a { r with debug := (h.cmdByte 10).getLsbD 0 } s.spaces }))) s

/-- RESUME: of several activations stopped on the core, the first (R446; DEDUCED, log 123). -/
def execResumeBrk (port : Nat) (s : State) : Out :=
  cmdRow port 11 (fun s h =>
    let g := 64 * h.arg 8 2 + h.arg 10 1
    some (if 64 ≤ h.arg 10 1 || (s.core g).brkStop.isEmpty then (.noent, [], s)
      else (.ok, [], (s.modCore g fun c => { c with brkStop := c.brkStop.tail }).noteWaits g))) s

/-- CAUSE (R410). -/
def execCauseOf (port : Nat) (s : State) : Out :=
  cmdRow port 12 (fun s h =>
    some (match KV.find s.spaces (h.arg 8 2) with
      | none => (.noent, [], s)
      | some r => (.ok, if r.killed then leBytes 1 r.cause ++ [r.code] else [0, 0], s))) s

/-! ### Apertures (R413) -/

/-- Stretches of an aperture access, checked as a user access; none where it is refused. -/
def State.apertureSegs (s : State) (ap off len : Nat) (w : Bool) : Option (W16 × List Seg) :=
  match KV.find s.apertures ap with
  | none => none
  | some x =>
    if 2 ^ 32 < off + len || (w && !x.write) then none
    else match s.segs .shared (Config.hostPortChip 0) none x.asid true (if w then .w else .r) (if w then .shadow else .current)
        (len / 4096 + 2) (x.base + BitVec.ofNat 64 off) len with
      | .error _ => none
      | .ok l => if (s.homeFault (l.flatMap Seg.places) (!w)).isSome then none else some (x.asid, l)

/-- A refused access is counted: reads in the low half, writes in the high (R409). -/
def State.refuseAp (s : State) (hi : Bool) : State :=
  let v := (s.apref.extractLsb' (if hi then 32 else 0) 32).toNat
  { s with apref := putField s.apref (if hi then 32 else 0) 32 (min (2 ^ 32 - 1) (v + 1)) }

/-- APERTURE_READ (R413). -/
def execApertureRead (ap off len : Nat) (s : State) : Out :=
  .next (match s.apertureSegs ap off len false with
    | none => { s.refuseAp false with apRead := none }
    | some (a, l) => { s.l2Segs (Config.hostPortChip 0) a l false with apRead := some (s.bytesAt (l.flatMap Seg.places)) })

/-- The bytes of an aperture write that take effect: at IMMEDIATE homes and twin shadows; others are discarded (R413). -/
def apertureStores : List Seg → List Byte → List (Loc × Byte)
  | [], _ => []
  | x :: l, b => (if x.imm || x.leaf.getLsbD 6 then x.places.zip (b.take x.len) else []) ++ apertureStores l (b.drop x.len)

/-- APERTURE_WRITE (R413). -/
def execApertureWrite (ap off : Nat) (bytes : List Byte) (s : State) : Out :=
  .next (match s.apertureSegs ap off bytes.length true with
    | none => s.refuseAp true
    | some (a, l) => (s.storeHome a (apertureStores l bytes)).l2Segs (Config.hostPortChip 0) a
        (l.filter fun x => x.imm || x.leaf.getLsbD 6) false)

/-! ### Port caches and lanes (R407, R414) -/

/-- A request through a port to a range is still under way at some core. -/
def State.hostPending (s : State) (port pasid lo hi : Nat) : Bool :=
  s.cores.any fun (x : Nat × Core) => x.2.pend.any fun p =>
    let hit (l : Loc) : Bool := match l with
      | .host q d i => q == port && d == pasid && decide (lo ≤ i) && decide (i < hi)
      | .pa _ => false
    match p.kind with
    | .load src _ _ _ => src.any fun y => match y with
      | .home l => hit l
      | .taken _ => false
    | .store b => b.any fun y => hit y.1
    | .amo _ _ place _ _ _ => place.any hit

/-- HOST_INVALIDATION_REQUEST: the port's cache drops the pages of [lo, hi); it completes once no request that used them is
under way (R414). -/
def execHostInvalidationRequest (port pasid lo hi : Nat) (s : State) : Out :=
  onEight port s fun s =>
    if s.hostPending port pasid lo hi then s
    else
      let h := s.port port
      s.setPort port { h with atc := h.atc.filter fun x =>
        !(x.1 == pasid && decide (x.2 * 4096 < hi) && decide (lo < x.2 * 4096 + 4096)) }

/-- HOST_PORT_LANE_FAULT: the port trains down to ×8 or ×4 (R407). -/
def execHostPortLaneFault (port width : Nat) (s : State) : Out :=
  onEight port s fun s =>
    let h := s.port port
    if (width = 8 ∨ width = 4) ∧ width < h.width then s.setPort port { h with width := width } else s

end Sys2Proof.Machine
end

