-- ==== Sys2Proof/Machine/LaneOps.lean ====
section
/-! DEFINITION. Validity and lane instructions and the prefix (R114 to R120). -/

namespace Sys2Proof.Machine
open Sys2Proof.Machine.Num

/-! ### VCMP (R114) -/

/-- VCMP's predicate and flags on two elements (R114). -/
def vcmpOp (fn : Nat) (t : Ty) (a b : Nat) : Bool × Flags :=
  if isInt t then
    let x := iv t a
    let y := iv t b
    (match fn with
      | 0 => decide (x = y) | 1 => decide (x ≠ y) | 2 => decide (x < y) | 3 => decide (x ≤ y)
      | 4 => decide (x > y) | _ => decide (x ≥ y), fNone)
  else
    (match fn with
      | 4 => fcmpHolds t 2 b a | 5 => fcmpHolds t 3 b a | k => fcmpHolds t k a b,
      fcmpFlags t (decide (2 ≤ fn)) a b)

/-- One lane of VCMP's result: the bits of elements valid under R86, valid where every element of the lane is valid
and holds. -/
def vcmpLane (t : Ty) (els : List El) (holds : List Bool) (k : Nat) : LaneOut :=
  let x := laneOut t els k
  let y := laneOut t ((els.zip holds).map fun p => ⟨p.1.b, p.1.v && p.2⟩) k
  ⟨x.w, x.m, y.v⟩

/-- VCMP. -/
def vcmpWork (f : M3) : Work := fun c fill => do
  let t := c.ty f.ty
  let fp := fpOf f.ln
  let n := elemsFor f.od t f.ln
  let by4 := 4 * lanesFor t n
  c.checkLocals fp [(f.od, by4, 4), (f.oa, by4, 4), (f.ob, by4, 4)]
  let (c1, xs, ifl) ← c.readAll fill fp t n [f.oa, f.ob]
  let a := xs.getD 0 []
  let b := xs.getD 1 []
  let res := (List.range n).map fun e =>
    let x := El.read f.vp (a.getD e ⟨0, false⟩)
    let y := El.read f.vp (b.getD e ⟨0, false⟩)
    let p := vcmpOp f.fn.toNat t x.b y.b
    ((⟨x.b, x.v && y.v⟩ : El), p.1, p.2)
  let fl := flagsOf (res.map fun x => (x.1, x.2.2)) ||| (if res.any (·.1.v) then ifl else fNone)
  let els := res.map (·.1)
  let holds := res.map (·.2.1)
  let (c2, p) := match f.od with
    | .reg _ _ => c1.writeElems fp f.od t ((els.zip holds).map fun (q : El × Bool) => ⟨q.1.b, q.1.v && q.2⟩)
    | _ => c1.writeLanes fp f.od ((List.range (lanesFor t n)).map (vcmpLane t els holds))
  return ((c2.opIncs fp [f.od, f.oa, f.ob]).orFlags fl, p)

/-- VCMP. -/
def execVcmp (f : M3) (s : State) : Out :=
  coreRow (.vcmp f) (shapeM3 f fun t =>
      legalM3 f t (isInt t || isVF t) false (decide (f.fn.toNat ≤ 5)) 2 false) (onOwnCore (vcmpWork f)) s

/-! ### VSET, VCLR, VCNT (R115, R116) -/

/-- Set or clear the validity of lanes 0 … LN in place (R115). -/
def vsetWork (f : M3) (v : Bool) : Work := fun c _ => do
  let fp := fpOf f.ln
  let n := f.ln.toNat + 1
  c.checkLocals fp [(f.od, fp, 4)]
  match f.od with
  | .acc => return ({ c with a := Vector.ofFn fun i =>
      let x := c.alane i.val; if i.val < n then { x with v := v } else x }, none)
  | _ =>
    let off := (c.opAddr fp f.od).toNat
    c.readable off fp
    return ((c.spWrite off ((c.spWords off n).map fun x => { x with v := v })).opIncs fp [f.od], none)

/-- Field rules of VSET and VCLR (R115). -/
def vsetLegal (f : M3) (t : Ty) : Bool :=
  legalM3 f t (t == .u32) false (f.fn == 0) 0 false && f.vp == .propagate && (isMem f.od || isAccOp f.od)

/-- VSET. -/
def execVset (f : M3) (s : State) : Out :=
  coreRow (.vset f) (shapeM3 f (vsetLegal f)) (onOwnCore (vsetWork f true)) s

/-- VCLR. -/
def execVclr (f : M3) (s : State) : Out :=
  coreRow (.vclr f) (shapeM3 f (vsetLegal f)) (onOwnCore (vsetWork f false)) s

/-- VCNT: the number of valid lanes of OA (R116). -/
def vcntWork (f : M3) : Work := fun c fill => do
  let fp := fpOf f.ln
  let n := f.ln.toNat + 1
  c.checkLocals fp [(f.od, 4, 4), (f.oa, fp, 4)]
  let (c1, l) ← c.readLanes fill fp f.oa n
  let (c2, p) := c1.writeElems fp f.od .u32 [⟨(l.filter (·.v)).length, true⟩]
  return (c2.opIncs fp [f.od, f.oa], p)

/-- VCNT. -/
def execVcnt (f : M3) (s : State) : Out :=
  coreRow (.vcnt f) (shapeM3 f fun t =>
      legalM3 f t (t == .u32) false (f.fn == 0) 1 true && f.vp == .propagate) (onOwnCore (vcntWork f)) s

/-! ### SHUF, BCAST, PACK, UNPK (R117, R118) -/

/-- SHUF: element b_j mod N of OA; it sets no flag (R60, R117; log 98). -/
def shufWork (f : M3) : Work := fun c fill => do
  let t := c.ty f.ty
  let fp := fpOf f.ln
  let n := elemsFor f.od t f.ln
  let by4 := 4 * lanesFor t n
  c.checkLocals fp [(f.od, by4, 4), (f.oa, by4, 4), (f.ob, by4, 4)]
  let (c1, xs, _) ← c.readAll fill fp t n [f.oa, f.ob]
  let a := xs.getD 0 []
  let b := xs.getD 1 []
  let res := (List.range n).map fun j =>
    let i := El.read f.vp (b.getD j ⟨0, false⟩)
    combine f.vp [a.getD (i.b % n) ⟨0, false⟩, b.getD j ⟨0, false⟩] fun l => (arg l 0, fNone)
  let (c2, p) := c1.writeElems fp f.od t (res.map (·.1))
  return (c2.opIncs fp [f.od, f.oa, f.ob], p)

/-- SHUF. -/
def execShuf (f : M3) (s : State) : Out :=
  coreRow (.shuf f) (shapeM3 f fun t => legalM3 f t (isBits t) false (f.fn == 0) 2 false) (onOwnCore (shufWork f)) s

/-- The element number BCAST copies: k mod N, k from Pn unsigned or from an immediate (R117; log 13). -/
def Core.bcastIndex (c : Core) (o : Operand) (n : Nat) : Nat :=
  match o with
  | .imm v => (v.toInt % (n : Int)).toNat
  | .reg r _ => (c.preg r).toNat % n
  | _ => 0

/-- BCAST: every element is element k mod N of OA; it sets no flag (R60, R117; log 98). -/
def bcastWork (f : M3) : Work := fun c fill => do
  let t := c.ty f.ty
  let fp := fpOf f.ln
  let n := elemsFor f.od t f.ln
  let by4 := 4 * lanesFor t n
  c.checkLocals fp [(f.od, by4, 4), (f.oa, by4, 4)]
  let (c1, a, _) ← c.readElems fill fp f.oa t n
  let r := combine f.vp [a.getD (c.bcastIndex f.ob n) ⟨0, false⟩] fun l => (arg l 0, fNone)
  let (c2, p) := c1.writeElems fp f.od t (List.replicate n r.1)
  return (c2.opIncs fp [f.od, f.oa], p)

/-- BCAST. -/
def execBcast (f : M3) (s : State) : Out :=
  coreRow (.bcast f) (shapeM3 f fun t =>
      legalM3 f t (isBits t) false (f.fn == 0) 2 false && (isRegOp f.ob || isImmOp f.ob)) (onOwnCore (bcastWork f)) s

/-- The type of twice the width (R118). -/
def twice (t : Ty) : Ty :=
  match t with
  | .i8 => .i16 | .u8 => .u16 | .i16 => .i32 | .u16 => .u32 | t => t

/-- The type of half the width (R118). -/
def half (t : Ty) : Ty :=
  match t with
  | .i16 => .i8 | .u16 => .u8 | .i32 => .i16 | .u32 => .u16 | t => t

/-- Elements of the sources of PACK for N results: N/2 from each, one where N = 1. -/
def packHalf (n : Nat) : Nat := (n + 1) / 2

/-- PACK: truncated or clamped elements of twice the width (R118). -/
def packWork (f : M3) : Work := fun c fill => do
  let t := c.ty f.ty
  let fp := fpOf f.ln
  let n := elemsFor f.od t f.ln
  let h := packHalf n
  let src := twice t
  c.checkLocals fp [(f.od, 4 * lanesFor t n, 4), (f.oa, 4 * lanesFor src h, 4), (f.ob, 4 * lanesFor src h, 4)]
  let (c1, a, _) ← c.readElems fill fp f.oa src h
  let (c2, b, _) ← c1.readElems fill fp f.ob src h
  let res := (List.range n).map fun e =>
    let x := if 2 * e < n then a.getD e ⟨0, false⟩ else b.getD (e - n / 2) ⟨0, false⟩
    combine f.vp [x] fun l =>
      if f.fn = 0 then (arg l 0 % 2 ^ width t, fNone) else satInt (isSigned t) (width t) (iv src (arg l 0))
  let (c3, p) := c2.writeElems fp f.od t (res.map (·.1))
  return ((c3.opIncs fp [f.od, f.oa, f.ob]).orFlags (flagsOf res), p)

/-- PACK. -/
def execPack (f : M3) (s : State) : Out :=
  coreRow (.pack f) (shapeM3 f fun t =>
      legalM3 f t (t == .i8 || t == .u8 || t == .i16 || t == .u16) false (decide (f.fn.toNat ≤ 1)) 2 false)
    (onOwnCore (packWork f)) s

/-- UNPK: elements of half the width, extended (R118). With a Pn destination (N = 1) UNPK.hi takes source element 1, as R118
numbers them, and not the element 0 of R45 (DESIGN CHOICE, log 131). -/
def unpkWork (f : M3) : Work := fun c fill => do
  let t := c.ty f.ty
  let fp := fpOf f.ln
  let n := elemsFor f.od t f.ln
  let src := half t
  c.checkLocals fp [(f.od, 4 * lanesFor t n, 4), (f.oa, 4 * lanesFor src (2 * n), 4)]
  let (c1, a, _) ← c.readElems fill fp f.oa src (2 * n)
  let res := (List.range n).map fun e =>
    combine f.vp [a.getD (if f.fn = 0 then e else n + e) ⟨0, false⟩] fun l => wrapRes t (iv src (arg l 0))
  let (c2, p) := c1.writeElems fp f.od t (res.map (·.1))
  return (c2.opIncs fp [f.od, f.oa], p)

/-- UNPK. -/
def execUnpk (f : M3) (s : State) : Out :=
  coreRow (.unpk f) (shapeM3 f fun t =>
      legalM3 f t (t == .i16 || t == .u16 || t == .i32 || t == .u32) false (decide (f.fn.toNat ≤ 1)) 1 false)
    (onOwnCore (unpkWork f)) s

/-! ### LGATH and LSCAT (R119) -/

/-- The types LGATH and LSCAT accept (R119). -/
def gathTy (t : Ty) : Bool := t == .i32 || t == .u32 || t == .f32

/-- The scratchpad address an index names: base + 4 × b_j; none for an index that names no word (R119). -/
def gathAddr (base : W64) (vp : Vp) (i : El) : Option W64 :=
  let x := El.read vp i
  if x.v then some (base + BitVec.ofNat 64 (4 * x.b)) else none

/-- Check every address named (R119). -/
def Core.checkGath (c : Core) : List (Option W64) → Except Exn Unit
  | [] => .ok ()
  | none :: l => c.checkGath l
  | some a :: l =>
    match c.checkLocal a 4 4 with
    | .error e => .error e
    | .ok _ => c.checkGath l

/-- The words named hold no uncorrectable error. -/
def Core.readableGath (c : Core) : List (Option W64) → Except Exn Unit
  | [] => .ok ()
  | none :: l => c.readableGath l
  | some a :: l =>
    match c.readable a.toNat 4 with
    | .error e => .error e
    | .ok _ => c.readableGath l

/-- Wake the banks of every word named (R183). -/
def Core.wakeGath (c : Core) (l : List (Option W64)) : Core :=
  l.foldl (fun c a => match a with
    | some x => c.wakeBanks x.toNat 4
    | none => c) c

/-- LGATH. -/
def lgathWork (f : M3) : Work := fun c fill => do
  let t := c.ty f.ty
  let fp := fpOf f.ln
  let n := elemsFor f.od t f.ln
  c.checkLocals fp [(f.od, 4 * n, 4)]
  let base := c.opAddr fp f.oa
  if base.toNat % 4 ≠ 0 then throw (.flt .align base)
  c.checkLocals fp [(f.ob, 4 * n, 4)]
  let (c1, b, _) ← c.readElems fill fp f.ob .u32 n
  let addrs := (List.range n).map fun j => gathAddr base f.vp (b.getD j ⟨0, false⟩)
  c.checkGath addrs
  c.readableGath addrs
  let c2 := c1.wakeGath addrs
  let res := (List.range n).map fun j =>
    match addrs.getD j none with
    | some a =>
      let w := c2.spGet a.toNat
      combine f.vp [⟨w.w.toNat, w.v⟩] fun l => (arg l 0, fNone)
    | none => (⟨0, false⟩, fNone)
  let (c3, p) := c2.writeElems fp f.od t (res.map (·.1))
  return (c3.opIncs fp [f.od, f.oa, f.ob], p)

/-- LGATH. -/
def execLgath (f : M3) (s : State) : Out :=
  coreRow (.lgath f) (shapeM3 f fun t => legalM3 f t (gathTy t) false (f.fn == 0) 2 false && isMem f.oa)
    (onOwnCore (lgathWork f)) s

/-- LSCAT: lanes in ascending order, so the higher lane's write stands; it sets no flag (R60, R119; log 98). -/
def lscatWork (f : M3) : Work := fun c fill => do
  let t := c.ty f.ty
  let fp := fpOf f.ln
  let n := f.ln.toNat + 1
  let base := c.opAddr fp f.od
  if base.toNat % 4 ≠ 0 then throw (.flt .align base)
  c.checkLocals fp [(f.oa, 4 * n, 4), (f.ob, 4 * n, 4)]
  let (c1, a, _) ← c.readElems fill fp f.oa t n
  let (c2, b, _) ← c1.readElems fill fp f.ob .u32 n
  let addrs := (List.range n).map fun j => gathAddr base f.vp (b.getD j ⟨0, false⟩)
  c.checkGath addrs
  let data := a.map (El.read f.vp)
  let c3 := (List.range n).foldl (fun c j =>
    match addrs.getD j none with
    | some x =>
      let d := data.getD j ⟨0, false⟩
      c.spWrite x.toNat [⟨if d.v then BitVec.ofNat 32 d.b else (c.spGet x.toNat).w, d.v⟩]
    | none => c) c2
  return (c3.opIncs fp [f.od, f.oa, f.ob], none)

/-- LSCAT. -/
def execLscat (f : M3) (s : State) : Out :=
  coreRow (.lscat f) (shapeM3 f fun t => legalM3 f t (gathTy t) false (f.fn == 0) 2 false && isMem f.od)
    (onOwnCore (lscatWork f)) s

/-! ### FMTX (R120) -/

/-- Field rules of FMTX (R120). -/
def fmtxLegal (f : M3) : Bool :=
  f.ln == 0 && f.vp == .propagate && f.rm == .fm && f.fn.extractLsb' 5 5 == 0 && f.od == .zero && f.oa == .zero &&
    f.ob == .zero && f.oc == .zero && f.ty != .px && f.fn.extractLsb' 0 4 != 0xF

/-- FMTX: PX takes PTY, PSTY and PSAT, and a prefix is pending (R120). -/
def execFmtx (f : M3) (s : State) : Out :=
  coreRow (.fmtx f) (fun _ => ⟨false, false, fmtxLegal f, Uses.none⟩)
    (onOwnCore fun c _ =>
      .ok (({ c with px := (0#20 ++ f.fn.extractLsb' 0 4 ++ 0#3 ++ f.fn.extractLsb' 4 1 ++ f.ty.code : W32) }).setPp true,
        none)) s

end Sys2Proof.Machine
end

