-- ==== Sys2Proof/Machine/Budget.lean ====
section
/-! DEFINITION. The division of the setpoint down the tree (R292, R366, R373). No formula of R366 gives what happens where shares
pass what there is, and none turns a grant into a clock: the choices are marked (DEDUCED, log 38). -/

namespace Sys2Proof.Machine

/-- A unit's demand, or what it is granted, in W: the unit (core g; 36,864 + m the engine of cluster m; 39,168 + n the L2 slices of
chiplet n), the region its work belongs to, 0 for none, and the power (R366). -/
structure Demand where
  unit : Nat
  rid : Nat
  w : Nat
  deriving DecidableEq, Repr

def totalOf (l : List Demand) : Nat := (l.map (·.w)).sum

/-- The share of a region with these blocks, its own first, of what there is: each block that has a group 0 of its own takes PWR/256
of its parent's share (R291, R292). -/
def shareOf (avail : Nat) : List Region → Nat
  | [] => avail
  | r :: l =>
    let up := shareOf avail l
    if fieldOf r.raw 10 2 % 2 = 1 then up * r.pwr / 256 else up

/-- The blocks of a region, nearest first. -/
def State.blocks (s : State) (rid : Nat) : List Region :=
  match s.region (BitVec.ofNat 16 rid) with
  | some r => s.ancestors r.asid 8 r.rcb
  | none => []

/-- Scale the powers of some units so that their sum passes `cap` no more. -/
def scaleTo (cap : Nat) (p : Demand → Bool) (l : List Demand) : List Demand :=
  let t := totalOf (l.filter p)
  if t ≤ cap then l else l.map fun d => if p d then { d with w := d.w * cap / t } else d

/-- A unit works for a region of the subtree of an id. -/
def State.worksFor (s : State) (rid : Nat) (d : Demand) : Bool :=
  match s.region (BitVec.ofNat 16 rid) with
  | some r => (s.blocks d.rid).any fun a => a.rcb == r.rcb && a.asid == r.asid
  | none => false

/-- Cap every region, with its descendants, at its effective share less what it has already: deepest first (R292, R366). -/
def State.capShares (s : State) (avail : Nat) (used l : List Demand) : List Demand :=
  let ids := s.regions.map (·.1)
  ((List.range 9).reverse.flatMap fun k => ids.filter fun i => (s.blocks i).length == k).foldl (fun l i =>
    scaleTo (shareOf avail (s.blocks i) - totalOf (used.filter (s.worksFor i))) (s.worksFor i) l) l

/-- Priority class 0 (R291). -/
def State.isProtected (s : State) (d : Demand) : Bool :=
  match s.region (BitVec.ofNat 16 d.rid) with
  | some r => r.prio == 0
  | none => false

/-- What the cores of class 0 are granted first: in full, up to their region's share (R366). -/
def State.firstGrants (s : State) (avail : Nat) (l : List Demand) : List Demand :=
  let p := l.map fun d => if s.isProtected d && decide (d.unit < 36864) then d else { d with w := 0 }
  scaleTo avail (fun _ => true) (s.capShares avail [] p)

/-- The rest by remaining demand, each region capped at its effective share (R366). -/
def State.restGrants (s : State) (avail : Nat) (first l : List Demand) : List Demand :=
  let r := (l.zip first).map fun x => { x.1 with w := x.1.w - x.2.w }
  scaleTo (avail - totalOf first) (fun _ => true) (s.capShares avail first r)

/-- The grants of a period, unit by unit, out of `avail` W (R366). -/
def State.grants (s : State) (avail : Nat) (l : List Demand) : List Demand :=
  let first := s.firstGrants avail l
  (first.zip (s.restGrants avail first l)).map fun x => { x.1 with w := x.1.w + x.2.w }

/-- The cluster of a unit; none for L2 slices. -/
def Demand.cluster (d : Demand) : Option Nat :=
  if d.unit < 36864 then some (clusterOfCore d.unit) else if d.unit < 39168 then some (d.unit - 36864) else none

/-- Power of a cluster in a list. -/
def clusterPower (l : List Demand) (m : Nat) : Nat := totalOf (l.filter fun d => d.cluster == some m)

/-- A unit at clock f and duty d keeps within its grant: its demand is for 940 MHz and duty 16 (R366). -/
def withinGrant (l g : List Demand) (unit f d : Nat) : Bool :=
  let p (x : List Demand) : Nat := totalOf (x.filter fun y => y.unit == unit)
  decide (p l * f * d ≤ p g * 940 * 16)

end Sys2Proof.Machine
end

