-- ==== Sys2Proof/Machine/Power.lean ====
section
/-! DEFINITION. Power: clocks and droops (R363 to R365), the periods of the budget tree (R366, R379), buckets and ramps (R369,
R146), gating (R372), the telemetry frame and Bellman (R374 to R378), and shedding (R380 to R382). -/

namespace Sys2Proof.Machine

/-! ### Clocks (R363 to R368) -/

/-- CLOCK_HOP: the hop of a core ends; a droop holds it (R364, R365). -/
def State.clockHop (s : State) (g : Nat) : State :=
  let k := s.chip (g / 64)
  if k.droop then s
  else match k.hops.find? fun h => h.1 == g with
    | none => s
    | some h => (s.modChip (g / 64) fun k => { k with hops := k.hops.filter fun h => h.1 != g }).modCore g fun c => c.setFclk h.2

/-- CLOCK_HOP. -/
def execClockHop (g : Nat) (s : State) : Out := onCore g s fun s => s.clockHop g

/-- DROOP_START (R365). -/
def execDroopStart (n : Nat) (s : State) : Out := onSite n s fun s => s.modChip n fun k => { k with droop := true }

/-- DROOP_CLEAR (R365). -/
def execDroopClear (n : Nat) (s : State) : Out := onSite n s fun s => s.modChip n fun k => { k with droop := false }

/-! ### Buckets and ramps (R369, R146) -/

/-- CHARGE_BUCKET_REFILL: every 64 rc (R369). -/
def execChargeBucketRefill (m : Nat) (s : State) : Out :=
  onCluster m s fun s =>
    let p := s.pwr m
    if s.now < p.refillAt then s
    else s.setPwr m { p with bucket := min 4096 (p.bucket + p.rate), refillAt := s.now / 64 * 64 + 64 }

/-- FALL of an engine, 1 while the setpoint falls (R146, R379). -/
def State.fallOf (s : State) (x : Mxe) : Nat := if s.bell.falling then 1 else (x.ramp.extractLsb' 16 10).toNat

/-- RAMP_WINDOW: a window of 1 µs ends; burn cycles fill what the fall limit requires. Each 32 of them take W4 units, and wait
where the bucket holds fewer (R146, R369, R370). -/
def State.rampWindow (s : State) (m : Nat) : State :=
  let x := s.mxe m
  if s.now < x.rampAt then s
  else
    let want := x.actPrev - s.fallOf x - x.act
    let p := s.pwr m
    let w4 := (p.cbwt.extractLsb' 32 8).toNat
    let n := (x.burn + want) / 32
    let k := if w4 = 0 then n else min n (p.bucket / w4)
    let burn := want - min want (32 * (n - k))
    let p := { p with
      bucket := p.bucket - k * w4
      thrrsn := p.thrrsn ||| (if want = 0 then 0 else 0x404) ||| (if k < n then 0x202 else 0) }
    (s.setPwr m p).setMxe m { x with
      actPrev := x.act + burn, act := 0, burn := (x.burn + burn) - 32 * k, rampAt := s.now / 1500 * 1500 + 1500 }

/-- RAMP_WINDOW. -/
def execRampWindow (m : Nat) (s : State) : Out := onCluster m s fun s => s.rampWindow m

/-! ### Gating (R372) -/

/-- HOLD_EXPIRY: the hold of an idle core is over, and it gates (R372). -/
def execHoldExpiry (g : Nat) (s : State) : Out :=
  onCore g s fun s =>
    let c := s.core g
    match c.gate with
    | .running => s.modCore g fun c => c.noteIdle s.now
    | .holding t => if c.idle && decide (t + c.gateHold.toNat * 1500 ≤ s.now) then s.setCore g { c with gate := .gated } else s
    | _ => s

/-- WAKE_REQUEST (R372). -/
def execWakeRequest (g : Nat) (s : State) : Out := onCore g s fun s => s.wake g

/-- The cores the arbiter admits: at most four, in ascending number after the one last admitted (R372). -/
def admitted (last : Nat) (wakes : List Nat) : List Nat :=
  (((List.range 16).map fun k => (last + 1 + k) % 16).filter fun c => wakes.contains c).take 4

/-- INRUSH_WINDOW: a window of 250 ns begins (R372). -/
def State.inrush (s : State) (m : Nat) : State :=
  let p := s.pwr m
  if s.now < p.inrushAt then s
  else
    let l := admitted p.lastAdmit p.wakes
    let s1 := s.setPwr m { p with
      wakes := p.wakes.filter fun c => !l.contains c
      lastAdmit := l.getLastD p.lastAdmit
      inrushAt := s.now / 375 * 375 + 375 }
    l.foldl (fun t c => t.modCore (64 * (m / 4) + 16 * (m % 4) + c) fun c => { c with gate := .waking (some s.now) }) s1

/-- INRUSH_WINDOW. -/
def execInrushWindow (m : Nat) (s : State) : Out := onCluster m s fun s => s.inrush m

/-- WAKE_COMPLETE: an admitted core runs 250 ns later (R372). -/
def execWakeComplete (g : Nat) (s : State) : Out :=
  onCore g s fun s => match (s.core g).gate with
    | .waking (some t) => if t + 375 ≤ s.now then (s.modCore g fun c => { c with gate := .running }).noteWaits g else s
    | _ => s

/-! ### The setpoint and the period (R366, R369, R373, R379) -/

/-- The contracted ceiling (R376). -/
def Bellman.pcap (b : Bellman) : Nat := min 2600 (b.blcfg.extractLsb' 32 12).toNat

/-- The module controller's G: that of the notice at its router, more than the 12 µs after T0 within which a notice reaches every
router (R378, R379; DEDUCED, log 130). -/
def Bellman.listen (b : Bellman) (x : Notice) (now : Nat) : Bellman :=
  if x.t0 + 18000 < now then { b with heard := x.tgt.toNat } else b

/-- S at a period start (R379): in a fall; unchanged, where S fell at the period start before to an end of its fall; at the
beginning of a fall; or not above G. -/
def Bellman.period (b : Bellman) (draw : Nat) : Bellman :=
  let g := b.heard * 10
  let dn := (b.ramp.extractLsb' 0 16).toNat * 10
  let up := (b.ramp.extractLsb' 16 16).toNat * 10
  if g < b.s then
    if b.falling then { b with s := b.s - min (b.s - g) dn, falling := decide (g + dn < b.s), fell := true }
    else if b.fell then { b with fell := false }
    else { b with s := min b.s draw, falling := decide (g < min b.s draw), fell := decide (draw < b.s) }
  else { b with s := min g (b.s + up), falling := false, fell := false }

/-- A RATE moves by at most 16; whether it was held back (R369). -/
def rateStep (old new : Nat) : Nat × Bool :=
  let r := max (old - 16) (min (old + 16) (min new 255))
  (r, r != min new 255)

/-- The reasons of a period: LIVE anew, sticky bits gathered. `hot`: THERM and REL as measured (R373). -/
def ClusterPwr.reason (p : ClusterPwr) (hot : BitVec 6) (slew cap grid : Bool) : ClusterPwr :=
  let r : BitVec 6 := (hot &&& 0x11) ||| (if slew then 4 else 0) ||| (if cap then 8 else 0) ||| (if grid then 0x20 else 0)
  { p with thrrsn := (p.thrrsn &&& 0x3F) ||| r.zeroExtend 32 ||| (r.zeroExtend 32 <<< 8) }

/-- A shed region has activations or engine work that have not stopped (R381). -/
def State.stopping (s : State) (rid : W16) : Bool :=
  s.cores.any (fun (x : Nat × Core) => x.2.act.any fun a => a.rid == rid && x.2.shedNow) ||
    s.chips.any fun (x : Nat × Chip) => s.shedOn x.1 rid && x.2.mxe.toList.any fun y =>
      y.run.any (fun r => r.cmd.rid == rid) || y.stream.any fun t => t.cmd.rid == rid && (t.state == 1 || t.state == 2)

/-- A region of the core is shed and still stopping (R381). -/
def State.shedStops (s : State) (g : Nat) : Bool :=
  (List.range 8).any fun i =>
    let r := (s.core g).brec.getD i 0
    recV r && recShd r && s.stopping (recRid r)

/-- A core is to stop, or belongs to a region that is, and its cluster need not stay slow: it runs at full clock and duty (R351,
R381). -/
def State.hurries (s : State) (g : Nat) : Bool := (s.stopAsked g || s.shedStops g) && !(s.pwr (clusterOfCore g)).heldSlow

/-- The clock and duty a core gets. -/
def State.clockFor (s : State) (x : Nat × Nat × Nat) : Nat × Nat × Nat := if s.hurries x.1 then (x.1, 940, 16) else x

/-- A bind whose slots are withdrawn has work in hand that has not stopped (R354). -/
def Mxe.heldWork (x : Mxe) : Bool :=
  x.run.any (fun r => x.held.getLsbD r.bind) || x.stream.any fun t => x.held.getLsbD t.bind && (t.state == 1 || t.state == 2)

/-- Engine work on cluster m is to stop: of a shed region, until it has, of a bind whose slots are withdrawn, or a core's, with its
pre-emption (R351, R354, R363, R381). -/
def State.engineStops (s : State) (m : Nat) : Bool :=
  let x := s.mxe m
  x.heldWork ||
  (x.run.any fun r => s.shedOn (m / 4) r.cmd.rid) ||
    (x.stream.any fun t => s.shedOn (m / 4) t.cmd.rid && (t.state == 1 || t.state == 2)) ||
    s.cores.any fun (y : Nat × Core) => clusterOfCore y.1 == m && s.stopAsked y.1

/-- The engine clock of cluster m is raised while a stop is pending, unless the cluster must stay slow (R363, R381); its hop
is part of the step (log 112). -/
def State.engineClock (s : State) (m f : Nat) : State :=
  s.setPwr m { s.pwr m with engClk := if s.engineStops m && !(s.pwr m).heldSlow then 940 else f }

/-- Cores that are to stop, and engines whose work is, run at full clock whatever the period would give them (R351). -/
def State.hurryAll (s : State) (ms : List Nat) : State :=
  let s := (s.cores.map (·.1)).foldl (fun t g => if t.hurries g then t.setClock g 940 16 else t) s
  ms.foldl (fun t m => t.engineClock m (t.pwr m).engClk) s

/-- What a period measures and settles: demands, grants, the grants that the target of PCAP would have given, clocks and duties
chosen, rates chosen, THERM and REL by cluster. -/
structure Period where
  demand : List Demand
  grant : List Demand
  full : List Demand
  clocks : List (Nat × Nat × Nat)
  rates : List (Nat × Nat)
  hot : List (Nat × BitVec 6)
  deriving DecidableEq, Repr

/-- THERM and REL of a cluster. -/
def Period.hotOf (p : Period) (m : Nat) : BitVec 6 :=
  match p.hot.find? fun x => x.1 == m with
  | some x => x.2 &&& 0x11
  | none => 0

/-- A cluster whose grant is below its demand (R373). -/
def Period.short (p : Period) (m : Nat) : Bool := decide (clusterPower p.grant m < clusterPower p.demand m)

/-- Its grant was reduced because the target stood below PCAP (R373). -/
def Period.cut (p : Period) (m : Nat) : Bool := decide (clusterPower p.grant m < clusterPower p.full m)

/-- The clock and duty of a unit of cluster m: full where the cluster is granted its demand and neither THERM nor REL stands against
it; else what the controller chose, where that keeps within the unit's grant, and the least otherwise (R366; DEDUCED, log 38). -/
def Period.speed (p : Period) (m unit : Nat) : Nat × Nat :=
  if !p.short m && p.hotOf m == 0 then (940, 16)
  else match p.clocks.find? fun x => x.1 == unit with
    | none => if !p.short m || withinGrant p.demand p.grant unit 940 16 then (940, 16) else (235, 1)
    | some x =>
      if !p.short m || withinGrant p.demand p.grant unit x.2.1 (if unit < 36864 then x.2.2 else 16) then x.2 else (235, 1)

/-- The units that a period gives a clock: those with a demand and those the controllers name. -/
def Period.units (p : Period) : List Nat := (p.demand.map (·.unit) ++ p.clocks.map (·.1)).eraseDups

/-- The clock that a period gives to a unit: core g, or the engine of cluster m as 36,864 + m. -/
def State.setClocks (s : State) (p : Period) (unit : Nat) : State :=
  if unit < 36864 then
    (if Config.isCore unit then
      let y := s.clockFor (unit, p.speed (clusterOfCore unit) unit)
      s.setClock y.1 y.2.1 y.2.2
    else s)
  else
    let m := unit - 36864
    let f := (p.speed m unit).1
    if wfCluster m && clockSource f then s.engineClock m f else s

/-- One cluster at a period start. -/
def State.periodCluster (s : State) (p : Period) (m : Nat) : State :=
  let c := s.pwr m
  let r := match p.rates.find? fun x => x.1 == m with
    | some x => rateStep c.rate x.2
    | none => (c.rate, false)
  s.setPwr m ({ c with rate := r.1 }.reason (p.hotOf m) r.2 (p.short m) (p.cut m && decide (s.bell.heard < s.bell.pcap)))

/-- The period that begins: the fixed part is the measured draw of the memory and edge chiplets and the wafer wires, which S pays
first (R366). -/
def State.period (s : State) (seen : Measured) (clocks : List (Nat × Nat × Nat)) (rates : List (Nat × Nat))
    (hot : List (Nat × BitVec 6)) : Period :=
  let d := seen.demand.map fun x => ⟨x.1, x.2.1, x.2.2⟩
  ⟨d, s.grants (s.bell.s - seen.fixed) d, s.grants (10 * s.bell.pcap - seen.fixed) d, clocks, rates, hot⟩

/-- BUDGET_PERIOD: a period of 10 µs begins. What is measured is given: the module's draw and its fixed part, the demands, THERM and
REL; S is divided over the demands, and the clocks and rates that the controllers chose are held to the grants (R366; log 38). -/
def State.budgetPeriod (s : State) (seen : Measured) (clocks : List (Nat × Nat × Nat)) (rates : List (Nat × Nat))
    (hot : List (Nat × BitVec 6)) : State :=
  if s.now < s.bell.periodAt then s
  else
    let b := s.bell.listen (s.chip Config.carillonRoot).notice s.now
    let s := { s with bell := { b.period seen.draw with periodAt := s.now / 15000 * 15000 + 15000 } }
    let p := s.period seen clocks rates hot
    let ms := (s.chips.map (·.1)).flatMap fun n => if Config.isCompute n then [4 * n, 4 * n + 1, 4 * n + 2, 4 * n + 3] else []
    let s := ms.foldl (fun t m => t.periodCluster p m) s
    (p.units.foldl (fun t u => t.setClocks p u) s).hurryAll ms

/-- BUDGET_PERIOD. -/
def execBudgetPeriod (seen : Measured) (clocks : List (Nat × Nat × Nat)) (rates : List (Nat × Nat))
    (hot : List (Nat × BitVec 6)) (s : State) : Out := .next (s.budgetPeriod seen clocks rates hot)

/-! ### Bellman (R374 to R378) -/

def Bellman.en (b : Bellman) : Bool := b.blcfg.getLsbD 0
def Bellman.hysl (b : Bellman) : Nat := (b.blcfg.extractLsb' 8 8).toNat
def Bellman.fnom (b : Bellman) : Nat := (b.blcfg.extractLsb' 16 16).toNat
def Bellman.vnom (b : Bellman) : Nat := (b.blcfg.extractLsb' 44 20).toNat

def shcThr (w : W64) : Nat := (w.extractLsb' 0 11).toNat
def shcRhold (w : W64) : Nat := (w.extractLsb' 24 8).toNat
def shcHys (w : W64) : Nat := (w.extractLsb' 32 11).toNat

def Bellman.cls (b : Bellman) (c : Nat) : W64 := b.shc.getD c 0

/-- A point's deviation and level. -/
def pointDev (w : W32) : Int := (w.extractLsb' 16 16).toInt
def pointLvl (w : W32) : Int := ((w.extractLsb' 0 11).toNat : Int)

/-- The segment of a curve at x, the points in ascending deviation; at or past the last point its level (R377). -/
def curveFrom (x : Int) : List W32 → Int
  | [] => 1024
  | [p] => pointLvl p
  | p :: q :: l =>
    if pointDev q ≤ x then curveFrom x (q :: l)
    else pointLvl p + (x - pointDev p) * (pointLvl q - pointLvl p) / (pointDev q - pointDev p)

/-- curve of R377. -/
def curve (pt : Vector W32 8) (x : Int) : Int :=
  if x ≤ pointDev (pt.getD 0 0) then pointLvl (pt.getD 0 0) else curveFrom x pt.toList

/-- The fields of a frame (R374). -/
def frameSeq (b : List Byte) : W32 := BitVec.ofNat 32 (fieldOf b 4 4)
def frameFreq (b : List Byte) : Nat := fieldOf b 8 4
def frameVbus (b : List Byte) : Nat := fieldOf b 12 4
def frameMeas (b : List Byte) : Bool := (fieldOf b 16 2).testBit 0

/-- A frame is well formed and new (R375). -/
def Bellman.accepts (x : Bellman) (b : List Byte) : Bool :=
  b.length == 20 && fieldOf b 0 2 == 0xA55A && fieldOf b 2 2 == 1 && decide (fieldOf b 16 2 < 4) &&
    fieldOf b 18 2 == (crc16 0xFFFF (b.take 18)).toNat &&
    match x.lastSeq with
    | none => true
    | some q => frameSeq b != q && decide ((frameSeq b - q).toNat < 2 ^ 31)

/-- Lnew of R377. -/
def Bellman.newLevel (x : Bellman) (b : List Byte) : Nat :=
  (min (curve x.fpt ((frameFreq b : Int) - x.fnom)) (curve x.vpt ((frameVbus b : Int) - x.vnom))).toNat

/-- L after a frame: it falls at once and rises by HYSL (R377). -/
def levelStep (old new hysl : Nat) : Nat := if new < old ∨ old + hysl ≤ new then new else old

/-- Class c after a decision at level L: shed or not, and since when its restore condition has held (R378). -/
def Bellman.classStep (b : Bellman) (l now c : Nat) : Bool × Option Nat :=
  let w := b.cls c
  if c = 0 then (false, none)
  else if l < shcThr w then (true, none)
  else if !b.shed.getLsbD c then (false, none)
  else if shcThr w + shcHys w ≤ l then (true, some ((b.hold.getD c none).getD now))
  else (true, none)

/-- The mask of some classes. -/
def classMask (f : Nat → Bool) : BitVec 8 := BitVec.ofNat 8 (bitsNat ((List.range 8).map f))

/-- A changed G or shed set is broadcast; every router will receive the notice (R378). -/
def State.sendNotice (s : State) (old : Bellman) : State :=
  let b := s.bell
  if b.g = old.g ∧ b.shed = old.shed then s
  else
    let x : Notice := ⟨b.shed, BitVec.ofNat 12 b.g, s.now, b.fseq⟩
    { s with chips := s.chips.map fun (y : Nat × Chip) => (y.1, { y.2 with noticeIn := y.2.noticeIn ++ [x] }) }

/-- A decision of Bellman at level L (R377, R378). -/
def State.decide378 (s : State) (l : Nat) (fseq : BitVec 24) : State :=
  let b := s.bell
  let b1 := { b with
    level := l
    g := b.pcap * l / 1024
    shed := classMask fun c => (b.classStep l s.now c).1
    hold := Vector.ofFn fun c => (b.classStep l s.now c.val).2 }
  let b1 := if b1.g = b.g ∧ b1.shed = b.shed then b1 else { b1 with fseq := fseq }
  { s with bell := b1 }.sendNotice b

/-- TELEMETRY_FRAME (R375, R377). -/
def State.telemetry (s : State) (b : List Byte) : State :=
  let x := s.bell
  if !x.accepts b then s
  else
    let s := { s with bell := { x with lastSeq := some (frameSeq b) } }
    if !frameMeas b then s
    else
      let s := { s with bell := { s.bell with lastMeas := s.now, stale := false, fallback := false } }
      s.decide378 (if x.en then levelStep x.level (x.newLevel b) x.hysl else 1024) ((frameSeq b).extractLsb' 0 24)

/-- TELEMETRY_FRAME. -/
def execTelemetryFrame (bytes : List Byte) (s : State) : Out := .next (s.telemetry bytes)

/-- TELEMETRY_STALE: no frame with MEAS = 1 for 1 ms (R375). -/
def execTelemetryStale (s : State) : Out :=
  let b := s.bell
  .next (if !b.stale && decide (b.lastMeas + 1500000 ≤ s.now) then
    { s with bell := { b with stale := true, staleSince := s.now } } else s)

/-- STALE_FALLBACK: STALE has lasted 40 ms with EN = 1 (R375). -/
def execStaleFallback (s : State) : Out :=
  let b := s.bell
  .next (if b.stale && b.en && !b.fallback && decide (b.staleSince + 60000000 ≤ s.now) then
    { s with bell := { b with fallback := true } }.decide378 512 b.fseq else s)

/-- RESTORE_HOLD_EXPIRY: the restore condition of a class has held for RHOLD (R378). -/
def State.restoreClass (s : State) (c : Nat) : State :=
  let b := s.bell
  match b.hold.getD c none with
  | none => s
  | some t =>
    if c < 8 ∧ b.shed.getLsbD c ∧ t + shcRhold (b.cls c) * 1500000 ≤ s.now then
      { s with bell := { b with shed := b.shed &&& ~~~BitVec.ofNat 8 (2 ^ c), hold := b.hold.set! c none } }.sendNotice b
    else s

/-- RESTORE_HOLD_EXPIRY. -/
def execRestoreHoldExpiry (cls : Nat) (s : State) : Out := .next (s.restoreClass cls)

/-! ### Shedding (R380 to R382) -/

/-- SHD of every valid record as the mask has it (R380). -/
def Core.noticed (c : Core) (shm : BitVec 8) : Core :=
  { c with brec := Vector.ofFn fun i =>
    let r := c.brec.getD i.val 0
    if recV r then putField r 62 1 (shm.getLsbD (c.shedClass i.val)).toNat else r }

/-- The region's records on a chiplet are shed or restored by the notice: its report, from the core R434 names, if it asks for
one (R382). -/
def State.shedReport (s : State) (n : Nat) (old new : Notice) (rid : W16) (r : Region) : State :=
  let was := old.shm.getLsbD r.shc && r.shc != 0
  let now := new.shm.getLsbD r.shc && r.shc != 0
  if r.shrpt && was != now && (s.lowestCore rid).any (fun g => g / 64 == n) then
    s.reportLowest rid { Report.of 8 FCode.shed.code with pc := if now then 1 else 0, addr := BitVec.ofNat 64 new.t0 }
  else s

/-- A core of a region that the notice stops runs at full clock (R381). -/
def State.stopClock (s : State) (g : Nat) : State := if s.hurries g then s.setClock g 940 16 else s

/-- The notice at the module controller ends a fall where G is S or above (R379). -/
def Bellman.endFall (b : Bellman) (x : Notice) : Bellman :=
  if b.s ≤ 10 * x.tgt.toNat then { b with falling := false } else b

/-- SHED_NOTICE: the oldest notice on its way reaches router n (R378, R380, R381, R382). -/
def State.shedNotice (s : State) (n : Nat) : State :=
  match (s.chip n).noticeIn with
  | [] => s
  | x :: l =>
    let old := (s.chip n).notice
    let gs := (s.cores.filter fun (y : Nat × Core) => y.1 / 64 == n).map (·.1)
    let s := s.modChip n fun k => { k with
      notice := x, noticeIn := l
      shedAt := Vector.ofFn fun c => if x.shm.getLsbD c.val && !old.shm.getLsbD c.val then x.t0 else k.shedAt.getD c.val 0 }
    let s := gs.foldl (fun t g => t.modCore g fun c => c.noticed x.shm) s
    let s := s.regions.foldl (fun t (y : Nat × Region) => t.shedReport n old x (BitVec.ofNat 16 y.1) y.2) s
    let s := if n = Config.carillonRoot then { s with bell := s.bell.endFall x } else s
    let s := [0, 1, 2, 3].foldl (fun t c => t.engineClock (4 * n + c) (t.pwr (4 * n + c)).engClk) s
    gs.foldl (fun t g => (t.stopClock g).noteWaits g) s

/-- SHED_NOTICE. -/
def execShedNotice (n : Nat) (s : State) : Out := onSite n s fun s => s.shedNotice n

/-- SHED_DEADLINE: the deadline of the class of the running activation has come, counted from the notice that shed it (R381). -/
def State.shedDeadline (s : State) (g : Nat) : State :=
  if s.deadlinePast g then s.modCore g fun c => { c with deadline := true } else s

/-- SHED_DEADLINE. -/
def execShedDeadline (g : Nat) (s : State) : Out := onCore g s fun s => s.shedDeadline g

end Sys2Proof.Machine
end

