-- ==== Sys2Proof/Machine/Dispatch.lean ====
section
/-! DEFINITION. One arm per row of the table. -/

namespace Sys2Proof.Machine

def exec (i : Instr) (s : State) : Host.Outcome State Fault Refusal :=
  match i with
  | .nop => Sys2Proof.Machine.execNop s
  | .add f => Sys2Proof.Machine.execAdd f s
  | .sub f => Sys2Proof.Machine.execSub f s
  | .mul f => Sys2Proof.Machine.execMul f s
  | .mulh f => Sys2Proof.Machine.execMulh f s
  | .div f => Sys2Proof.Machine.execDiv f s
  | .rem f => Sys2Proof.Machine.execRem f s
  | .mac f => Sys2Proof.Machine.execMac f s
  | .dot4 f => Sys2Proof.Machine.execDot4 f s
  | .adds f => Sys2Proof.Machine.execAdds f s
  | .subs f => Sys2Proof.Machine.execSubs f s
  | .neg f => Sys2Proof.Machine.execNeg f s
  | .absI f => Sys2Proof.Machine.execAbsI f s
  | .minI f => Sys2Proof.Machine.execMinI f s
  | .maxI f => Sys2Proof.Machine.execMaxI f s
  | .andI f => Sys2Proof.Machine.execAndI f s
  | .orI f => Sys2Proof.Machine.execOrI f s
  | .xorI f => Sys2Proof.Machine.execXorI f s
  | .notI f => Sys2Proof.Machine.execNotI f s
  | .shl f => Sys2Proof.Machine.execShl f s
  | .shr f => Sys2Proof.Machine.execShr f s
  | .sra f => Sys2Proof.Machine.execSra f s
  | .rot f => Sys2Proof.Machine.execRot f s
  | .clz f => Sys2Proof.Machine.execClz f s
  | .popc f => Sys2Proof.Machine.execPopc f s
  | .mov f => Sys2Proof.Machine.execMov f s
  | .cmpeq f => Sys2Proof.Machine.execCmpeq f s
  | .cmpne f => Sys2Proof.Machine.execCmpne f s
  | .cmplt f => Sys2Proof.Machine.execCmplt f s
  | .cmple f => Sys2Proof.Machine.execCmple f s
  | .sel f => Sys2Proof.Machine.execSel f s
  | .tags f => Sys2Proof.Machine.execTags f s
  | .ldi f => Sys2Proof.Machine.execLdi f s
  | .addImm f => Sys2Proof.Machine.execAddImm f s
  | .subImm f => Sys2Proof.Machine.execSubImm f s
  | .mulImm f => Sys2Proof.Machine.execMulImm f s
  | .andImm f => Sys2Proof.Machine.execAndImm f s
  | .orImm f => Sys2Proof.Machine.execOrImm f s
  | .xorImm f => Sys2Proof.Machine.execXorImm f s
  | .minImm f => Sys2Proof.Machine.execMinImm f s
  | .maxImm f => Sys2Proof.Machine.execMaxImm f s
  | .cmpeqImm f => Sys2Proof.Machine.execCmpeqImm f s
  | .cmpneImm f => Sys2Proof.Machine.execCmpneImm f s
  | .cmpltImm f => Sys2Proof.Machine.execCmpltImm f s
  | .cmpleImm f => Sys2Proof.Machine.execCmpleImm f s
  | .pset f => Sys2Proof.Machine.execPset f s
  | .psetHi f => Sys2Proof.Machine.execPsetHi f s
  | .padd f => Sys2Proof.Machine.execPadd f s
  | .paddImm f => Sys2Proof.Machine.execPaddImm f s
  | .pmod f => Sys2Proof.Machine.execPmod f s
  | .fadd f => Sys2Proof.Machine.execFadd f s
  | .fsub f => Sys2Proof.Machine.execFsub f s
  | .fmul f => Sys2Proof.Machine.execFmul f s
  | .fma f => Sys2Proof.Machine.execFma f s
  | .fnma f => Sys2Proof.Machine.execFnma f s
  | .fdiv f => Sys2Proof.Machine.execFdiv f s
  | .fsqrt f => Sys2Proof.Machine.execFsqrt f s
  | .frcp f => Sys2Proof.Machine.execFrcp f s
  | .frsq f => Sys2Proof.Machine.execFrsq f s
  | .fmin f => Sys2Proof.Machine.execFmin f s
  | .fmax f => Sys2Proof.Machine.execFmax f s
  | .fabs f => Sys2Proof.Machine.execFabs f s
  | .fneg f => Sys2Proof.Machine.execFneg f s
  | .fcmp f => Sys2Proof.Machine.execFcmp f s
  | .fclass f => Sys2Proof.Machine.execFclass f s
  | .frndi f => Sys2Proof.Machine.execFrndi f s
  | .fexp2f f => Sys2Proof.Machine.execFexp2f f s
  | .flog2f f => Sys2Proof.Machine.execFlog2f f s
  | .fscale f => Sys2Proof.Machine.execFscale f s
  | .fgetexp f => Sys2Proof.Machine.execFgetexp f s
  | .fcvt f => Sys2Proof.Machine.execFcvt f s
  | .fsum f => Sys2Proof.Machine.execFsum f s
  | .fdot f => Sys2Proof.Machine.execFdot f s
  | .faddImm f => Sys2Proof.Machine.execFaddImm f s
  | .fmulImm f => Sys2Proof.Machine.execFmulImm f s
  | .fsubImm f => Sys2Proof.Machine.execFsubImm f s
  | .vcmp f => Sys2Proof.Machine.execVcmp f s
  | .vset f => Sys2Proof.Machine.execVset f s
  | .vclr f => Sys2Proof.Machine.execVclr f s
  | .vcnt f => Sys2Proof.Machine.execVcnt f s
  | .shuf f => Sys2Proof.Machine.execShuf f s
  | .bcast f => Sys2Proof.Machine.execBcast f s
  | .pack f => Sys2Proof.Machine.execPack f s
  | .unpk f => Sys2Proof.Machine.execUnpk f s
  | .lgath f => Sys2Proof.Machine.execLgath f s
  | .lscat f => Sys2Proof.Machine.execLscat f s
  | .fmtx f => Sys2Proof.Machine.execFmtx f s
  | .ld f => Sys2Proof.Machine.execLd f s
  | .st f => Sys2Proof.Machine.execSt f s
  | .ldef f => Sys2Proof.Machine.execLdef f s
  | .pf f => Sys2Proof.Machine.execPf f s
  | .pin f => Sys2Proof.Machine.execPin f s
  | .unpin f => Sys2Proof.Machine.execUnpin f s
  | .phase f => Sys2Proof.Machine.execPhase f s
  | .fence f => Sys2Proof.Machine.execFence f s
  | .amo f => Sys2Proof.Machine.execAmo f s
  | .llog f => Sys2Proof.Machine.execLlog f s
  | .barrInit f => Sys2Proof.Machine.execBarrInit f s
  | .barrWait f => Sys2Proof.Machine.execBarrWait f s
  | .barrExit f => Sys2Proof.Machine.execBarrExit f s
  | .ctrset f => Sys2Proof.Machine.execCtrset f s
  | .ctrdec f => Sys2Proof.Machine.execCtrdec f s
  | .ctrwait f => Sys2Proof.Machine.execCtrwait f s
  | .l1cln f => Sys2Proof.Machine.execL1cln f s
  | .l1inv f => Sys2Proof.Machine.execL1inv f s
  | .l1invAll f => Sys2Proof.Machine.execL1invAll f s
  | .send f => Sys2Proof.Machine.execSend f s
  | .sendr f => Sys2Proof.Machine.execSendr f s
  | .migr f => Sys2Proof.Machine.execMigr f s
  | .hend f => Sys2Proof.Machine.execHend f s
  | .qcnt f => Sys2Proof.Machine.execQcnt f s
  | .htset f => Sys2Proof.Machine.execHtset f s
  | .waitq f => Sys2Proof.Machine.execWaitq f s
  | .ecopy f => Sys2Proof.Machine.execEcopy f s
  | .mma f => Sys2Proof.Machine.execMma f s
  | .mmaz f => Sys2Proof.Machine.execMmaz f s
  | .aload f => Sys2Proof.Machine.execAload f s
  | .astore f => Sys2Proof.Machine.execAstore f s
  | .aclr f => Sys2Proof.Machine.execAclr f s
  | .mxwait f => Sys2Proof.Machine.execMxwait f s
  | .ecoll f => Sys2Proof.Machine.execEcoll f s
  | .clgrp f => Sys2Proof.Machine.execClgrp f s
  | .clfree f => Sys2Proof.Machine.execClfree f s
  | .publ f => Sys2Proof.Machine.execPubl f s
  | .wstart f => Sys2Proof.Machine.execWstart f s
  | .wstop f => Sys2Proof.Machine.execWstop f s
  | .wresume f => Sys2Proof.Machine.execWresume f s
  | .wstat f => Sys2Proof.Machine.execWstat f s
  | .br f => Sys2Proof.Machine.execBr f s
  | .bz f => Sys2Proof.Machine.execBz f s
  | .bnz f => Sys2Proof.Machine.execBnz f s
  | .bv f => Sys2Proof.Machine.execBv f s
  | .bnv f => Sys2Proof.Machine.execBnv f s
  | .bqe f => Sys2Proof.Machine.execBqe f s
  | .bqne f => Sys2Proof.Machine.execBqne f s
  | .loop f => Sys2Proof.Machine.execLoop f s
  | .call f => Sys2Proof.Machine.execCall f s
  | .calli f => Sys2Proof.Machine.execCalli f s
  | .ret f => Sys2Proof.Machine.execRet f s
  | .gang f => Sys2Proof.Machine.execGang f s
  | .ungang f => Sys2Proof.Machine.execUngang f s
  | .rejoin f => Sys2Proof.Machine.execRejoin f s
  | .yield f => Sys2Proof.Machine.execYield f s
  | .srd f => Sys2Proof.Machine.execSrd f s
  | .swr f => Sys2Proof.Machine.execSwr f s
  | .trap f => Sys2Proof.Machine.execTrap f s
  | .eret f => Sys2Proof.Machine.execEret f s
  | .tlbinvPage f => Sys2Proof.Machine.execTlbinvPage f s
  | .tlbinvRange f => Sys2Proof.Machine.execTlbinvRange f s
  | .tlbinvAsid f => Sys2Proof.Machine.execTlbinvAsid f s
  | .xlat f => Sys2Proof.Machine.execXlat f s
  | .scrubPage f => Sys2Proof.Machine.execScrubPage f s
  | .scrubLine f => Sys2Proof.Machine.execScrubLine f s
  | .pwrbCap f => Sys2Proof.Machine.execPwrbCap f s
  | .pwrbGate f => Sys2Proof.Machine.execPwrbGate f s
  | .brk f => Sys2Proof.Machine.execBrk f s
  | .sigchk sp x => Sys2Proof.Machine.execSigchk sp x s
  | .lineFetch g => Sys2Proof.Machine.execLineFetch g s
  | .lineRefetch g => Sys2Proof.Machine.execLineRefetch g s
  | .writeSpcfg f => Sys2Proof.Machine.execWriteSpcfg f s
  | .writeSppwr f => Sys2Proof.Machine.execWriteSppwr f s
  | .bankOffEffective g bank => Sys2Proof.Machine.execBankOffEffective g bank s
  | .bankWake g bank => Sys2Proof.Machine.execBankWake g bank s
  | .writeSrseed f => Sys2Proof.Machine.execWriteSrseed f s
  | .writeMxrpHlt f => Sys2Proof.Machine.execWriteMxrpHlt f s
  | .registerRcb g rid => Sys2Proof.Machine.execRegisterRcb g rid s
  | .updateRcb g => Sys2Proof.Machine.execUpdateRcb g s
  | .unregisterRcb g => Sys2Proof.Machine.execUnregisterRcb g s
  | .teamCall g grant binds => Sys2Proof.Machine.execTeamCall g grant binds s
  | .releaseCall g => Sys2Proof.Machine.execReleaseCall g s
  | .wstopCall g => Sys2Proof.Machine.execWstopCall g s
  | .ctxrd g => Sys2Proof.Machine.execCtxrd g s
  | .glcnt g => Sys2Proof.Machine.execGlcnt g s
  | .migrateCall g dest cores => Sys2Proof.Machine.execMigrateCall g dest cores s
  | .imggo port sites readOk askSvn => Sys2Proof.Machine.execImggo port sites readOk askSvn s
  | .asnew port asid => Sys2Proof.Machine.execAsnew port asid s
  | .askill port => Sys2Proof.Machine.execAskill port s
  | .grantCmd port => Sys2Proof.Machine.execGrantCmd port s
  | .revokeCmd port => Sys2Proof.Machine.execRevokeCmd port s
  | .rootreg port rid => Sys2Proof.Machine.execRootreg port rid s
  | .winbind port => Sys2Proof.Machine.execWinbind port s
  | .apbind port => Sys2Proof.Machine.execApbind port s
  | .attestCmd port => Sys2Proof.Machine.execAttestCmd port s
  | .almpolCmd port => Sys2Proof.Machine.execAlmpolCmd port s
  | .debugCmd port => Sys2Proof.Machine.execDebugCmd port s
  | .resumeBrk port => Sys2Proof.Machine.execResumeBrk port s
  | .causeOf port => Sys2Proof.Machine.execCauseOf port s
  | .managementPageWrite port off bytes => Sys2Proof.Machine.execManagementPageWrite port off bytes s
  | .ringWrite w => Sys2Proof.Machine.execRingWrite w s
  | .apertureRead ap off len => Sys2Proof.Machine.execApertureRead ap off len s
  | .apertureWrite ap off bytes => Sys2Proof.Machine.execApertureWrite ap off bytes s
  | .hostInvalidationRequest port pasid lo hi => Sys2Proof.Machine.execHostInvalidationRequest port pasid lo hi s
  | .powerGood => Sys2Proof.Machine.execPowerGood s
  | .clockLock n holds => Sys2Proof.Machine.execClockLock n holds s
  | .selftestDone n result => Sys2Proof.Machine.execSelftestDone n result s
  | .linksTrained n untrained => Sys2Proof.Machine.execLinksTrained n untrained s
  | .stateLimitExpiry n => Sys2Proof.Machine.execStateLimitExpiry n s
  | .pealPass2 => Sys2Proof.Machine.execPealPass2 s
  | .configTransfer n got => Sys2Proof.Machine.execConfigTransfer n got s
  | .siteFailureInService n isolated => Sys2Proof.Machine.execSiteFailureInService n isolated s
  | .sensorTrip sensor => Sys2Proof.Machine.execSensorTrip sensor s
  | .alarmEvent => Sys2Proof.Machine.execAlarmEvent s
  | .eraseComplete => Sys2Proof.Machine.execEraseComplete s
  | .telemetryFrame bytes => Sys2Proof.Machine.execTelemetryFrame bytes s
  | .telemetryStale => Sys2Proof.Machine.execTelemetryStale s
  | .staleFallback => Sys2Proof.Machine.execStaleFallback s
  | .restoreHoldExpiry cls => Sys2Proof.Machine.execRestoreHoldExpiry cls s
  | .shedNotice n => Sys2Proof.Machine.execShedNotice n s
  | .shedDeadline g => Sys2Proof.Machine.execShedDeadline g s
  | .budgetPeriod seen clocks rates hot => Sys2Proof.Machine.execBudgetPeriod seen clocks rates hot s
  | .clockHop g => Sys2Proof.Machine.execClockHop g s
  | .droopStart n => Sys2Proof.Machine.execDroopStart n s
  | .droopClear n => Sys2Proof.Machine.execDroopClear n s
  | .chargeBucketRefill m => Sys2Proof.Machine.execChargeBucketRefill m s
  | .rampWindow m => Sys2Proof.Machine.execRampWindow m s
  | .holdExpiry g => Sys2Proof.Machine.execHoldExpiry g s
  | .wakeRequest g => Sys2Proof.Machine.execWakeRequest g s
  | .inrushWindow m => Sys2Proof.Machine.execInrushWindow m s
  | .wakeComplete g => Sys2Proof.Machine.execWakeComplete g s
  | .launchSkewExpiry n cl => Sys2Proof.Machine.execLaunchSkewExpiry n cl s
  | .launchTake rid => Sys2Proof.Machine.execLaunchTake rid s
  | .launchDeal n k => Sys2Proof.Machine.execLaunchDeal n k s
  | .quiescenceSweep => Sys2Proof.Machine.execQuiescenceSweep s
  | .queueAgeing g rec => Sys2Proof.Machine.execQueueAgeing g rec s
  | .dispatch g => Sys2Proof.Machine.execDispatch g s
  | .activationStop g ask => Sys2Proof.Machine.execActivationStop g ask s
  | .contextRestore g rec => Sys2Proof.Machine.execContextRestore g rec s
  | .kill n asid => Sys2Proof.Machine.execKill n asid s
  | .asyncFault g => Sys2Proof.Machine.execAsyncFault g s
  | .loadReturn g k => Sys2Proof.Machine.execLoadReturn g k s
  | .immediatePerform g k => Sys2Proof.Machine.execImmediatePerform g k s
  | .pageWalk n asid va => Sys2Proof.Machine.execPageWalk n asid va s
  | .tlbinvBroadcast n => Sys2Proof.Machine.execTlbinvBroadcast n s
  | .boundaryStart g => Sys2Proof.Machine.execBoundaryStart g s
  | .phaseBarrierComplete phg => Sys2Proof.Machine.execPhaseBarrierComplete phg s
  | .packetSend n k => Sys2Proof.Machine.execPacketSend n k s
  | .headerArrival k => Sys2Proof.Machine.execHeaderArrival k s
  | .packetAccept k hcrcOk pcrcOk => Sys2Proof.Machine.execPacketAccept k hcrcOk pcrcOk s
  | .gapNotice n => Sys2Proof.Machine.execGapNotice n s
  | .sideFlitArrival k => Sys2Proof.Machine.execSideFlitArrival k s
  | .ackArrive n => Sys2Proof.Machine.execAckArrive n s
  | .nackArrive n => Sys2Proof.Machine.execNackArrive n s
  | .resendDelayExpiry n k => Sys2Proof.Machine.execResendDelayExpiry n k s
  | .ackTimeout n k => Sys2Proof.Machine.execAckTimeout n k s
  | .retentionCopyError n k => Sys2Proof.Machine.execRetentionCopyError n k s
  | .glPacketClose l k => Sys2Proof.Machine.execGlPacketClose l k s
  | .glPacketReceive l p crcOk => Sys2Proof.Machine.execGlPacketReceive l p crcOk s
  | .remoteCopyDone l k => Sys2Proof.Machine.execRemoteCopyDone l k s
  | .glAck l heard => Sys2Proof.Machine.execGlAck l heard s
  | .glNack l lseq => Sys2Proof.Machine.execGlNack l lseq s
  | .externalFrame l stream asid fseq cmp payload => Sys2Proof.Machine.execExternalFrame l stream asid fseq cmp payload s
  | .laneFailure l near far cut => Sys2Proof.Machine.execLaneFailure l near far cut s
  | .linkTrainRetry l => Sys2Proof.Machine.execLinkTrainRetry l s
  | .linkLost l => Sys2Proof.Machine.execLinkLost l s
  | .mxeCommandStart m => Sys2Proof.Machine.execMxeCommandStart m s
  | .mxeChunkApply m => Sys2Proof.Machine.execMxeChunkApply m s
  | .mxeComplete m => Sys2Proof.Machine.execMxeComplete m s
  | .mxeHalt m => Sys2Proof.Machine.execMxeHalt m s
  | .mxeSlotBoundary m => Sys2Proof.Machine.execMxeSlotBoundary m s
  | .streamStart m => Sys2Proof.Machine.execStreamStart m s
  | .streamStep m => Sys2Proof.Machine.execStreamStep m s
  | .streamWaitPoll m => Sys2Proof.Machine.execStreamWaitPoll m s
  | .wssChunkDecode m => Sys2Proof.Machine.execWssChunkDecode m s
  | .streamHalt m => Sys2Proof.Machine.execStreamHalt m s
  | .copyStart n inbox => Sys2Proof.Machine.execCopyStart n inbox s
  | .copyChunkDecode n k => Sys2Proof.Machine.execCopyChunkDecode n k s
  | .copyComplete n k => Sys2Proof.Machine.execCopyComplete n k s
  | .copyFault n k => Sys2Proof.Machine.execCopyFault n k s
  | .collectiveCombine id n => Sys2Proof.Machine.execCollectiveCombine id n s
  | .collectiveComplete n k => Sys2Proof.Machine.execCollectiveComplete n k s
  | .groupDrained id => Sys2Proof.Machine.execGroupDrained id s
  | .resetAll => Sys2Proof.Machine.execResetAll s
  | .waitqTimeout g => Sys2Proof.Machine.execWaitqTimeout g s
  | .glLinkTrained l ended => Sys2Proof.Machine.execGlLinkTrained l ended s
  | .hostPortLaneFault port width => Sys2Proof.Machine.execHostPortLaneFault port width s
  | .wstatReply g => Sys2Proof.Machine.execWstatReply g s
  | .clgrpResult g => Sys2Proof.Machine.execClgrpResult g s

end Sys2Proof.Machine
end

