-- ==== Sys2Proof/Machine/Outside.lean ====
section
/-! DEFINITION. What comes from outside any step: the values of firmware registers and tables that the configuration image gives
or firmware writes (R126, R146, R260, R264, R282, R370 to R372, R376, R422), and the host's own memory (R414). -/

namespace Sys2Proof.Machine

/-! ### Bellman's registers (R376) -/

/-- A curve may be put in force: strictly ascending DEV, no LVL above 1,024 (R376). -/
def curveOk (pts : Vector W32 8) : Bool :=
  pts.toList.all (fun p => decide (pointLvl p ≤ 1024)) &&
    (List.range 7).all fun i => decide (pointDev (pts.getD i 0) < pointDev (pts.getD (i + 1) 0))

/-- The points of a curve after a write: reserved bits read zero, an invalid curve leaves the previous points in force (R376).
-/
def curveWrite (old new : Vector W32 8) : Vector W32 8 := if curveOk new then new.map fun p => p &&& 0xFFFF07FF else old

/-- BLCFG after a write: PCAP at most 2,600 (R376). -/
def blcfgWrite (v : W64) : W64 := putField (v &&& ~~~0xFE) 32 12 (min 2600 (v.extractLsb' 32 12).toNat)

/-- BLSHC after a write: DL outside 5 … 200 stores 20 (R376). -/
def blshcWrite (v : W64) : W64 := putField (v &&& 0x7FFFFFF07FF) 16 8 (shcDl v)

/-- With EN = 0 the level is 1,024 always; a fallback taken before is over (R375, R376). -/
def State.levelNow (s : State) : State :=
  if s.bell.en then s else { s with bell := { s.bell with fallback := false } }.decide378 1024 s.bell.fseq

/-- A write of BLSHCc is decided on at once; the restore condition is counted anew (R376, R378; DEDUCED, log 111). -/
def State.setClass (s : State) (c : Nat) (v : W64) : State :=
  { s with bell := { s.bell with shc := s.bell.shc.set! c (blshcWrite v), hold := s.bell.hold.set! c none } }.decide378
    s.bell.level s.bell.fseq

/-! ### Tables and slots -/

/-- A list entry set, or taken away. -/
def setEntry {α : Type} (k : Nat) (e : Option α) (l : List (Nat × α)) : List (Nat × α) :=
  match e with
  | some v => KV.put k v l
  | none => KV.del k l

/-- Entry i of a peer table; an entry set valid makes its link usable again after a loss (R260, R459, R460). -/
def State.setPeer (s : State) (n i : Nat) (e : Option (W16 × Nat)) : State :=
  let t := s.modChip n fun k => { k with peers := setEntry i e k.peers }
  match e with
  | some (_, l) => t.setLink l { t.link l with lost := false }
  | none => t

/-- A slot is withdrawn, or a free one given to a valid bind within its region's budget; a bind whose last slot goes is held
until it is given one again (R126, R292, R354). -/
def State.setSlot (s : State) (m k : Nat) (e : Option (Nat × Bool)) : State :=
  let x := s.mxe m
  match e with
  | none =>
    let b := slotBind (x.slot.getD k 0)
    let slot := x.slot.set! k 0
    let last := slotUsed (x.slot.getD k 0) && !slot.toList.any fun w => slotUsed w && slotBind w == b
    s.setMxe m { x with slot := slot, held := if last then x.held ||| BitVec.ofNat 16 (2 ^ b) else x.held }
  | some (b, strict) =>
    match s.region (x.rid.getD b 0) with
    | none => s
    | some r =>
      if b < 16 ∧ bindV (x.bind.getD b 0) ∧ !slotUsed (x.slot.getD k 0) ∧ s.slotsOk m r ⟨m % 4, b, 0, [(k, strict)]⟩ then
        s.setMxe m { x with
          slot := x.slot.set! k (BitVec.ofNat 32 (16 + b + if strict then 32 else 0))
          held := x.held &&& ~~~BitVec.ofNat 16 (2 ^ b) }
      else s

/-- What firmware writes, once the boot ROM has accepted its image and the configuration (R28, R415, R416). -/
def State.firmwareInput (s : State) (i : Input) : State :=
  match i with
  | .modid v => if s.sec.boot = 3 then { s with modid := v } else s
  | .almpol v => if s.sec.boot = 3 then { s with sec := s.sec.loadPolicy v } else s
  | .laneMap l v => if s.sec.boot = 3 ∧ l < 8 then s.setLink l { s.link l with laneMap := v } else s
  | .peer n i e => if wfSite n ∧ i < 64 ∧ (e.all fun x => decide (x.2 < 8)) then s.setPeer n i e else s
  | .ingress l stream e =>
    let k := s.link l
    if l < 8 ∧ (e.isNone ∨ (KV.find k.ingress stream.toNat).isSome ∨ k.ingress.length < 64) then
      s.setLink l { k with ingress := setEntry stream.toNat e k.ingress }
    else s
  | .importId l smod asid e =>
    if l < 8 then s.setLink l { s.link l with imports := setEntry (65536 * smod.toNat + asid.toNat) e (s.link l).imports } else s
  | .cbwt m v => if wfCluster m then s.setPwr m { s.pwr m with cbwt := v } else s
  | .lskew n v => if wfCompute n then s.modChip n fun k => { k with lskew := v } else s
  | .hold g v => if wfCore g then s.modCore g fun c => { c with gateHold := v } else s
  | .mxramp m v => if wfCluster m then s.setMxe m { s.mxe m with ramp := v &&& 0x03FF03FF } else s
  | .slot m k e => if wfCluster m ∧ k < 16 then s.setSlot m k e else s
  | .blcfg v => { s with bell := { s.bell with blcfg := blcfgWrite v } }.levelNow
  | .blfpt p => { s with bell := { s.bell with fpt := curveWrite s.bell.fpt p } }
  | .blvpt p => { s with bell := { s.bell with vpt := curveWrite s.bell.vpt p } }
  | .blramp v => { s with bell := { s.bell with ramp := v } }
  | .blshc c v => if 0 < c ∧ c < 8 then s.setClass c v else s
  | .bind n rid b => match s.region rid with
    | some r => if wfCompute n ∧ (s.team n rid).mask ≠ 0 then s.grantBind n rid r b else s
    | none => s
  | _ => s

/-- One input. An input for a unit or an entry that the module lacks is none. -/
def State.given1 (s : State) (i : Input) : State :=
  match i with
  | .hostByte p d a b => if p < 16 ∧ d < 2 ^ 20 ∧ a < 2 ^ 64 then s.putByte (.host p d a) b else s
  | .glTake l => if l < 8 then s.setLink l { s.link l with answers := (s.link l).answers.tail } else s
  | .landHome k => s.landHome k
  | .land g off => if wfCore g then s.modCore g fun c => c.landAt off else s
  | .hostPage p d a r =>
    let k := hostKey p d a
    let l := s.hostRefuse.filter (· != k)
    if p < 8 then { s with hostRefuse := if r then k :: l else l } else s
  | x => if 3 ≤ s.sec.boot then s.firmwareInput x else s

/-- The input of a turn, if it has one. -/
def State.given (s : State) (i : Option Input) : State :=
  match i with
  | some x => s.given1 x
  | none => s

end Sys2Proof.Machine
end

