-- ==== Sys2Proof/Machine/Upset.lean ====
section
/-! DEFINITION. Errors that the protection of an array finds (R31, R181, R444), counted by R445. When one strikes is an
input: a turn of the schedule names it. -/

namespace Sys2Proof.Machine

/-- A corrected error of chiplet n is counted (R445). -/
def State.countFixed (s : State) (n : Nat) : State := s.modChip n fun k => { k with ecccor := k.ecccor + 1 }

/-- An uncorrectable error of chiplet n is counted (R445). -/
def State.countLost (s : State) (n : Nat) : State := s.modChip n fun k => { k with eccunc := k.eccunc + 1 }

/-- The records of a chiplet that hold an image of the activation of an image: its own, or every member's of a gang. -/
def State.imagesOf (s : State) (g i : Nat) (a : Act) : List (Nat × Nat) :=
  if !a.gang then [(g, i)]
  else (List.range 64).flatMap fun k => (List.range 8).filterMap fun j => match ((s.core (64 * (g / 64) + k)).rq j).image with
    | some m => if m.act.gang && m.act.key == a.key && m.act.rid == a.rid then some (64 * (g / 64) + k, j) else none
    | none => none

/-- The image of a suspended activation is gone, with its messages and uncommitted entries; how many of each. -/
def Core.dropImage (c : Core) (i : Nat) : Core × Nat × Nat :=
  match (c.rq i).image with
  | none => (c, 0, 0)
  | some m =>
    ({ c.setRec i { c.rq i with image := none, tries := 0, rtries := 0 } with
        log := c.log.filter (fun e => !ownEntry m.act e), brkStop := c.brkStop.filter (· != i) : Core }.settleOwed,
      m.msgs.length, runCount (c.log.filter (ownEntry m.act)).reverse)

/-- A save slot is damaged: its activation ends, the trigger is handed over, named regions may hold partial writes (R444). A
report's own trigger kills its address space (R435). -/
def State.imageLost (s : State) (g i : Nat) : State :=
  match ((s.core g).rq i).image with
  | none => s
  | some m =>
    let a := m.act
    let l := s.imagesOf g i a
    let nm := (l.map fun x => ((s.core x.1).dropImage x.2).2.1).sum
    let ne := (l.map fun x => ((s.core x.1).dropImage x.2).2.2).sum
    let asid := recAsid ((s.core g).brec.getD i 0)
    let s1 := l.foldl (fun t x => t.modCore x.1 fun c => (c.dropImage x.2).1) s
    let s2 := if a.report then s1.kill asid 3 FCode.eccu.code
      else match s.region a.rid with
        | none => s1
        | some r =>
          let st := s1.strayStore (g / 64) r a.trig
          let rep := { Report.of 1 FCode.eccu.code with
                       key := a.key, lcn := a.lcn, ent := ne, msg := nm, tries := a.tries + 1, nrd := true
                       sidx := match st.1 with
                         | some k => BitVec.ofNat 32 k
                         | none => 0xFFFFFFFF }
          ((st.2.addSpc (g / 64) a.rid (-1)).countRecv (g / 64) a.rid 1).report g a.rid rep
    l.foldl (fun t x => t.noteWaits x.1) s2

/-- The report of a lost message or entry (R433, R444). -/
def State.reportLost (s : State) (g : Nat) (rid : W16) (key : BitVec 48) (lcn : W16) : State :=
  s.report g rid { Report.of 6 FCode.eccu.code with key := key, lcn := lcn }

/-- A message of an activation queue is lost (R444). -/
def State.queuedLost (s : State) (g i k : Nat) : State :=
  let c := s.core g
  match (c.rq i).msgs[k]? with
  | none => s
  | some p =>
    ((s.setCore g (c.setRec i { c.rq i with msgs := listDel (c.rq i).msgs k, tries := if k = 0 then 0 else (c.rq i).tries })).reportLost g (tgtRid p.tgt) p.key
      (lcnOf g p)).noteWaits g

/-- A packet held for order is lost, and its reserved place free again (R304, R444). -/
def State.heldLost (s : State) (n flow k : Nat) : State :=
  match KV.find (s.chip n).inf flow with
  | none => s
  | some f => match f.held[k]? with
    | none => s
    | some (r, p) =>
      let t := s.modChip n fun c => { c with inf := KV.put flow { f with held := listDel f.held k } c.inf }
      let t := if r = 0 then t else t.freeRecord n (tgtRid p.tgt).toNat (r - 1)
      if p.dep < 0x40 then t.reportLost (64 * n + p.dep) (tgtRid p.tgt) p.key (lcnOf (64 * n + p.dep) p) else t.engLost p .eccu

/-- A committed log entry is lost: its frame is marked, its region told (R438, R444). -/
def State.entryLost (s : State) (g k : Nat) : State :=
  let c := s.core g
  match c.log[k]? with
  | none => s
  | some e =>
    if !e.committed then s
    else
      let frame := e.addr / 4096
      let t := s.setCore g { c with log := listDel c.log k }
      let t := { t with marks := if t.marks.contains frame then t.marks else t.marks ++ [frame] }
      t.reportLost g e.rid e.key e.lcn

/-- The fetch buffer's line of PC fails its parity, and is fetched once more (R31). -/
def Core.fetchLost (c : Core) : Core :=
  if (c.line c.pc).isSome then
    { c with fetch := c.fetch.filter fun x => x.1 != lineOf c.pc, refetch := some (lineOf c.pc) }
  else c

/-- An error strikes (R444). One in an array of a unit the module lacks is none. -/
def State.upset (s : State) (u : Upset) : State :=
  match u with
  | .fixed n => if wfSite n then s.countFixed n else s
  | .spad g off =>
    if wfCore g && decide (off < (s.core g).spsize) then (s.countLost (g / 64)).modCore g fun c =>
      { c with spBad := if c.spBad.contains (off / 4) then c.spBad else c.spBad ++ [off / 4] } else s
  | .coreRead g a =>
    if wfCore g && s.issues g && (s.core g).act.isSome then (s.countLost (g / 64)).faultAt g .eccu a else s
  | .fetched g => if wfCore g && s.issues g then s.modCore g Core.fetchLost else s
  | .l1 g k =>
    if wfCore g && decide (k < (s.core g).l1.length) then
      (s.countLost (g / 64)).modCore g fun c => { c with l1 := listDel c.l1 k }
    else s
  | .l2 n set way =>
    if wfCompute n then (s.countLost n).modChip n fun k =>
      let x := KV.get ⟨[], [], [], [], []⟩ k.l2 set
      if x.home.contains way then k
      else { k with l2 := KV.put set { x with ways := KV.del way x.ways, tag := KV.del way x.tag } k.l2 }
    else s
  | .home n line =>
    if wfSite n then
      let t := s.countLost n
      { t with poison := if t.poison.contains line then t.poison else t.poison ++ [line] }
    else s
  | .committed g k => if wfCore g then (s.entryLost g k).countLost (g / 64) else s
  | .coreTlb g k =>
    if wfCore g then (s.countLost (g / 64)).modCore g fun c => { c with tlb := listDel c.tlb k } else s
  | .chipTlb n k => if wfSite n then (s.countLost n).modChip n fun c => { c with tlb := listDel c.tlb k } else s
  | .queued g i k => if wfCore g && decide (i < 8) then (s.queuedLost g i k).countLost (g / 64) else s
  | .held n flow k => if wfSite n then (s.heldLost n flow k).countLost n else s
  | .image g i => if wfCore g && decide (i < 8) then (s.imageLost g i).countLost (g / 64) else s
  | .tile m t k =>
    if wfCluster m && decide (k < 16384) then
      (s.countLost (m / 4)).setMxe m ((s.mxe m).setTile t
        { (s.mxe m).tile t with poison := ((s.mxe m).tile t).poison ++ [k] })
    else s
  | .matrixRead m =>
    if wfCluster m then match (s.mxe m).run with
      | some r => if r.sts.isNone then (s.countLost (m / 4)).setRun m { r with sts := some FCode.eccu.code } else s
      | none => s
    else s
  | .copyRead n k =>
    if wfCompute n then match (s.chip n).ceRun[k]? with
      | some r => if r.sts.isNone then (s.countLost n).modChip n fun c =>
          { c with ceRun := listSet c.ceRun k { r with sts := some FCode.eccu.code } } else s
      | none => s
    else s
  | .flit k => match s.flits[k]? with
    | some f => ({ s with flits := listDel s.flits k }).countLost f.site
    | none => s

/-- The error of a turn, if it names one. -/
def State.struck (s : State) (u : Option Upset) : State :=
  match u with
  | some x => s.upset x
  | none => s

end Sys2Proof.Machine
end

