-- ==== Sys2Proof/Machine/Step.lean ====
section
/-! DEFINITION. One step of the module: the next turn of the schedule, or, with no turn left, the next row of the
core in hand. Each step is one row of the table. -/

namespace Sys2Proof.Machine

/-- The next row of the core in hand. -/
def stepCore (s : State) : Host.Outcome State Fault Refusal :=
  match s.nextRow with
  | .run i => exec i s
  | .bad => onCore s.self s fun s => s.badSlot s.self

/-- One step. -/
def step (s : State) : Host.Outcome State Fault Refusal :=
  match s.turns with
  | [] => stepCore s
  | t :: ts =>
    let s := ({ s with turns := ts, now := s.now + t.dt } : State).struck t.upset |>.given t.input
    match t.ev with
    | some i => if isAgentRow i then exec i s else .next s
    | none =>
      match t.core with
      | some g => stepCore { s with self := g }
      | none => .next s

/-- The instruction placed where the core in hand fetches next, no turn before it (log 14). -/
def State.withFetchWord (s : State) (_nbits w : Nat) : State :=
  { s with turns := [] }.modCore s.self fun c => c.placeWord (BitVec.ofNat 96 w)

end Sys2Proof.Machine
end

