-- ==== Sys2Proof/Safety.lean ====
section
/-! DEFINITION. What counts as a safe run, and the terms in which the statements are made: when an instruction of a
core is free to have its own effect (R53), what its retirement leaves, and what a frame compares. -/

namespace Sys2Proof.Machine
open Sys2Proof.Machine.Num

/-! ### Runs -/

/-- The model carries the step out. -/
def advances (s : State) : Bool :=
  match step s with
  | .next _ => true
  | .fault _ => false
  | .refused _ => false

/-- A run of n steps that the model carries out: what a safe run is. -/
def safeRun : Nat → State → Bool
  | 0, _ => true
  | n + 1, s =>
    match step s with
    | .next t => safeRun n t
    | .fault _ => false
    | .refused _ => false

/-! ### When an instruction has its own effect -/

/-- A computation that gives a value. -/
def isOk {ε α : Type} : Except ε α → Bool
  | .ok _ => true
  | .error _ => false

/-- Everything R53 looks at before an instruction's own effect, but for its field rules: the core exists and issues,
no result on its way clashes with the operands (R91), the slot is entered as R50 and R51 allow, a prefix is pending exactly
where the instruction uses one (R81), the charge bucket holds its units (R369), and an SP = 1 instruction has its LIVE
word (R49). -/
def State.canIssue (s : State) (i : Instr) (sp uses : Bool) (ops : List Operand) : Bool :=
  let c := s.core s.self
  wfCore s.self && s.issues s.self && !(c.pend.any fun p => (usesOf ops).clash p.dest) && c.entryFault.isNone &&
    !c.seqFault && (c.pp == uses) && s.chargeFits s.self i && (!sp || isOk (c.liveAfter c.pc))

/-- The LIVE mask of an SP = 1 instruction at PC. -/
def State.liveMask (s : State) (sp : Bool) : Option (BitVec 18) :=
  let c := s.core s.self
  if sp then
    match c.liveAfter c.pc with
    | .ok m => some m
    | .error _ => none
  else none

/-- The state after an instruction at the PC of `s` retires from state `t`, which holds its own effect. -/
def State.retired (t s : State) (i : Instr) (sp uses : Bool) : State :=
  (t.chargeFor s.self i).modCore s.self fun c => c.retire i false uses (s.liveMask sp)

/-- A queue of the core, or of the gang neighbour that Q2 and Q3 write to, takes an entry (R317, R341). -/
def State.hasRoom (s : State) (g : Nat) (o : Operand) : Bool :=
  match o with
  | .queue n => isOk (s.pushQ g n emptyEntry)
  | _ => true

/-- The core's new registers and scratchpad in place, its entry pushed. -/
def State.written (s : State) (r : Core × Push) : State :=
  match r.2 with
  | none => s.setCore s.self r.1
  | some (n, e) =>
    match (s.setCore s.self r.1).pushQ s.self n e with
    | .ok t => t
    | .error _ => s.setCore s.self r.1

/-- Result elements written to OD, then the post-increments, then the flags (R43, R66, R86). -/
def Core.finishWith (c : Core) (fp : Nat) (od : Operand) (t : Ty) (els : List El) (srcs : List Operand) (fl : Flags) :
    Core × Push :=
  let w := c.writeElems fp od t els
  ((w.1.opIncs fp (od :: srcs)).orFlags fl, w.2)

/-! ### What a frame compares -/

/-- Every byte of memory, of DRAM and of the hosts, reads as before. -/
def sameMemory (s t : State) : Prop :=
  (∀ a, Memory.get t.mem a = Memory.get s.mem a) ∧ (∀ k, KV.get (0 : Byte) t.hostMem k = KV.get 0 s.hostMem k)

/-- Every core but those of a list is unchanged. -/
def sameCoresBut (l : List Nat) (s t : State) : Prop := ∀ k, k ∉ l → t.core k = s.core k

/-- The registers of a core that no compute instruction writes: LK, FM, PX, SPCFG, CEPAT, GMASK, the bind records and BRSHC,
PWRST, PWRCAP, the trap registers, FLTPC and FLTDIS. -/
def Core.specials (c : Core) : List W64 :=
  let x (w : W32) : W64 := w.zeroExtend 64
  [c.lk, x c.fm, x c.px, x c.spcfg, c.cepat, x c.gmask, x c.brshc, x c.pwrst, x c.pwrcap, c.tspc, x c.tsst, x c.tspx, c.tsinf,
    c.tsadr, c.fltpc, x c.fltdis] ++ c.brec.toList

/-- ST without its flags and PP (R77). -/
def Core.statusRest (c : Core) : W32 := c.st &&& 0xFFFFDF20

end Sys2Proof.Machine
end

