-- ==== Sys2Proof/Certificates/Slice0/Obligations.lean ====
section
/-! DEFINITION. The statements: when each instruction completes and what it leaves, what it does not touch, how faults are
taken, and the rules that hold of every step. -/

/-! ### Instructions that compute element by element -/

namespace Sys2Proof.Spec
open Sys2Proof Sys2Proof.Machine Sys2Proof.Machine.Num

/-- What an element-wise instruction is made of: its fields as M3 fields (an MI form has no OB and OC), its sources, whether
it rounds, its field rules for its resolved type, its element function, and whether it is one of those whose own rule lets an
immediate set no flag (R60, R92, R104, R106). -/
structure LaneRow where
  f : M3
  srcs : List Operand
  rounds : Bool
  legal : Ty → Bool
  op : Ty → ElemOp
  quiet : Bool

/-- An M3 element-wise instruction with `k` sources and FN zero or ruled by `fnOk`. -/
def m3Lane (f : M3) (k : Nat) (tyOk : Ty → Bool) (rounds fnOk : Bool) (op : Ty → ElemOp) : Option LaneRow :=
  some ⟨f, [f.oa, f.ob, f.oc].take k, rounds, fun t => legalM3 f t (tyOk t) rounds fnOk k false, op, false⟩

/-- An M3 element-wise instruction that rounds nothing and whose immediates set no flag. -/
def quietLane (f : M3) (k : Nat) (tyOk : Ty → Bool) (fnOk : Bool) (op : Ty → ElemOp) : Option LaneRow :=
  (m3Lane f k tyOk false fnOk op).map fun L => { L with quiet := true }

/-- An MI element-wise instruction: the constant `k` is its last source (R97, R113). -/
def miLane (f : MI) (tyOk : Ty → Bool) (rounds : Bool) (k : Ty → Nat × Flags) (op : Ty → ElemOp) : Option LaneRow :=
  some ⟨miAsM3 f, [f.oa], rounds, fun t => legalM3 (miAsM3 f) t (tyOk t) rounds (f.fn == 0) 1 false,
    fun t m r l => ((op t m r (l ++ [(k t).1])).1, (op t m r (l ++ [(k t).1])).2 ||| (k t).2), false⟩

/-- The element-wise instructions: integer (R92 to R95, R97) and floating (R103 to R110, R113). -/
def laneRow : Instr → Option LaneRow
  | .add f => m3Lane f 2 isInt false (f.fn == 0) addOp
  | .sub f => m3Lane f 2 isInt false (f.fn == 0) subOp
  | .mul f => m3Lane f 2 isInt false (f.fn == 0) mulOp
  | .mulh f => m3Lane f 2 isInt false (f.fn == 0) mulhOp
  | .div f => m3Lane f 2 isInt false (f.fn == 0) divOp
  | .rem f => m3Lane f 2 isInt false (f.fn == 0) remOp
  | .mac f => m3Lane f 3 isInt false (f.fn == 0) macOp
  | .adds f => m3Lane f 2 isInt false (f.fn == 0) addsOp
  | .subs f => m3Lane f 2 isInt false (f.fn == 0) subsOp
  | .neg f => m3Lane f 1 isInt false (f.fn == 0) negOp
  | .absI f => m3Lane f 1 isSigned false (f.fn == 0) absOp
  | .minI f => m3Lane f 2 isInt false (f.fn == 0) minOp
  | .maxI f => m3Lane f 2 isInt false (f.fn == 0) maxOp
  | .andI f => m3Lane f 2 isInt false (f.fn == 0) andOp
  | .orI f => m3Lane f 2 isInt false (f.fn == 0) orOp
  | .xorI f => m3Lane f 2 isInt false (f.fn == 0) xorOp
  | .notI f => m3Lane f 1 isInt false (f.fn == 0) notOp
  | .shl f => m3Lane f 2 isInt false (f.fn == 0) shlOp
  | .shr f => m3Lane f 2 isInt false (f.fn == 0) shrOp
  | .sra f => m3Lane f 2 isInt false (f.fn == 0) sraOp
  | .rot f => m3Lane f 2 isInt false (f.fn == 0) rotOp
  | .clz f => m3Lane f 1 isInt false (f.fn == 0) clzOp
  | .popc f => m3Lane f 1 isInt false (f.fn == 0) popcOp
  | .mov f => quietLane f 1 isBits (f.fn == 0) movOp
  | .cmpeq f => m3Lane f 2 isInt false (f.fn == 0) cmpeqOp
  | .cmpne f => m3Lane f 2 isInt false (f.fn == 0) cmpneOp
  | .cmplt f => m3Lane f 2 isInt false (f.fn == 0) cmpltOp
  | .cmple f => m3Lane f 2 isInt false (f.fn == 0) cmpleOp
  | .sel f => quietLane f 3 isBits (f.fn == 0) selOp
  | .fadd f => m3Lane f 2 isVF true (f.fn == 0) faddOp
  | .fsub f => m3Lane f 2 isVF true (f.fn == 0) fsubOp
  | .fmul f => m3Lane f 2 isVF true (f.fn == 0) fmulOp
  | .fma f => m3Lane f 3 isVF true (f.fn == 0) fmaOp
  | .fnma f => m3Lane f 3 isVF true (f.fn == 0) fnmaOp
  | .fdiv f => m3Lane f 2 isVF true (f.fn == 0) fdivOp
  | .fsqrt f => m3Lane f 1 isVF true (f.fn == 0) fsqrtOp
  | .frcp f => m3Lane f 1 isVF false (f.fn == 0) frcpOp
  | .frsq f => m3Lane f 1 isVF false (f.fn == 0) frsqOp
  | .fmin f => quietLane f 2 isVF (f.fn == 0) fminOp
  | .fmax f => quietLane f 2 isVF (f.fn == 0) fmaxOp
  | .fabs f => m3Lane f 1 isVF false (f.fn == 0) fabsOp
  | .fneg f => m3Lane f 1 isVF false (f.fn == 0) fnegOp
  | .fcmp f => m3Lane f 2 isVF false (decide (f.fn.toNat ≤ 5)) (fcmpOp f.fn)
  | .fclass f => quietLane f 1 isVF (f.fn == 0) fclassOp
  | .frndi f => m3Lane f 1 isVF true (f.fn == 0) frndiOp
  | .fexp2f f => m3Lane f 1 isF32 false (f.fn == 0) fexp2fOp
  | .flog2f f => m3Lane f 1 isF32 false (f.fn == 0) flog2fOp
  | .fscale f => m3Lane f 2 isVF true (f.fn == 0) fscaleOp
  | .fgetexp f => m3Lane f 1 isVF false (f.fn == 0) fgetexpOp
  | .addImm f => miLane f isInt false (immInt f.imm) addOp
  | .subImm f => miLane f isInt false (immInt f.imm) subOp
  | .mulImm f => miLane f isInt false (immInt f.imm) mulOp
  | .andImm f => miLane f isInt false (immInt f.imm) andOp
  | .orImm f => miLane f isInt false (immInt f.imm) orOp
  | .xorImm f => miLane f isInt false (immInt f.imm) xorOp
  | .minImm f => miLane f isInt false (immInt f.imm) minOp
  | .maxImm f => miLane f isInt false (immInt f.imm) maxOp
  | .cmpeqImm f => miLane f isInt false (immInt f.imm) cmpeqOp
  | .cmpneImm f => miLane f isInt false (immInt f.imm) cmpneOp
  | .cmpltImm f => miLane f isInt false (immInt f.imm) cmpltOp
  | .cmpleImm f => miLane f isInt false (immInt f.imm) cmpleOp
  | .faddImm f => miLane f isVF true (immFloat f.imm) faddOp
  | .fmulImm f => miLane f isVF true (immFloat f.imm) fmulOp
  | .fsubImm f => miLane f isVF true (immFloat f.imm) fsubOp
  | .ldi f => some ⟨miAsM3 f, [], false, fun t => legalM3 (miAsM3 f) t (isInt t || isVF t) false (f.fn == 0) 0 false,
      fun t _ _ _ => ldiConst f.imm t, false⟩
  | _ => none

/-- The result elements with their flags: element e from element e of each source under VP, with the effective mode and,
where the instruction rounds stochastically, the e-th random word (R70, R84, R86). -/
def laneResults (L : LaneRow) (c : Core) (t : Ty) (n : Nat) (xs : List (List El)) (rs : List W32) : List (El × Flags) :=
  (List.range n).map fun e =>
    combine L.f.vp (xs.map fun x => x.getD e ⟨0, false⟩) (L.op t (c.effrm L.f.rm) (rs.getD e 0))

end Sys2Proof.Spec

open Sys2Proof Sys2Proof.Machine Sys2Proof.Machine.Num Sys2Proof.Spec

/-- Each element-wise instruction that is ready, whose local operands are accessible, whose queue sources can be read and
whose queue destination has room completes: its result elements go to OD, then post-increments and sticky flags, then it
retires. Readings of the model in it: log entries 47, 96, 98. -/
def Obligations.ElementwiseCompletes : Prop :=
  ∀ (i : Instr) (L : LaneRow) (s : State) (c1 : Core) (xs : List (List El)) (ifl : Flags),
    laneRow i = some L →
    let c := s.core s.self
    let t := c.ty L.f.ty
    let fp := fpOf L.f.ln
    let n := elemsFor L.f.od t L.f.ln
    let by4 := 4 * lanesFor t n
    s.canIssue i L.f.sp (L.f.ty == .px) [L.f.od, L.f.oa, L.f.ob, L.f.oc] = true →
    L.legal t = true →
    c.checkLocals fp ((L.f.od, by4, 4) :: L.srcs.map fun o => (o, by4, 4)) = .ok () →
    c.readAll (s.canFill s.self) fp t n L.srcs = .ok (c1, xs, ifl) →
    s.hasRoom s.self L.f.od = true →
    let r := c1.randoms (L.rounds && c.stochastic L.f.rm) n
    let res := laneResults L c t n xs r.1
    exec i s = .next ((s.written (r.2.finishWith fp L.f.od t (res.map (·.1)) L.srcs
      (flagsOf res ||| (if !L.quiet && res.any (·.1.v) then ifl else fNone)))).retired s i L.f.sp (L.f.ty == .px))

/-! ### The other instructions on a core's own registers -/

namespace Sys2Proof.Spec
open Sys2Proof Sys2Proof.Machine Sys2Proof.Machine.Num

/-- An M3 instruction is ready, and its field rules hold for its resolved type. -/
abbrev m3Ready (s : State) (i : Instr) (f : M3) (legal : Ty → Bool) : Prop :=
  s.canIssue i f.sp (f.ty == .px) [f.od, f.oa, f.ob, f.oc] = true ∧ legal ((s.core s.self).ty f.ty) = true

/-- The instruction completes: its core as `r` gives it, its entry pushed, then it retires. -/
def ends (s : State) (i : Instr) (sp uses : Bool) (r : Core × Push) : Prop :=
  exec i s = .next ((s.written r).retired s i sp uses)

/-- The field rules of a pointer instruction and its register destination (R99). -/
abbrev ptrReady (s : State) (i : Instr) (f : M3) (ops : List Operand) : Prop :=
  s.canIssue i f.sp (f.ty == .px) ops = true ∧ ptrLegal f.ty f (s.core s.self) = true

/-- A local operand of n bytes holds no word with an uncorrectable error (R181, R444). -/
abbrev soundAt (c : Core) (fp : Nat) (o : Operand) (n : Nat) : Prop :=
  isMem o = true → c.sound (c.opAddr fp o).toNat n = true

/-- Lanes 0 to n − 1 of a destination with their validity replaced (R115). -/
def revalid (c : Core) (f : M3) (v : Bool) : Core :=
  let n := f.ln.toNat + 1
  match f.od with
  | .acc => { c with a := Vector.ofFn fun k => if k.val < n then { c.alane k.val with v := v } else c.alane k.val }
  | _ =>
    let off := (c.opAddr (fpOf f.ln) f.od).toNat
    (c.spWrite off ((c.spWords off n).map fun x => { x with v := v })).opIncs (fpOf f.ln) [f.od]

end Sys2Proof.Spec

/-- NOP, the pointer instructions and FMTX complete with the register values of R52, R99 to R102 and R120. -/
def Obligations.PointersAndPrefixComplete : Prop :=
  (∀ s : State, s.canIssue .nop false false [] = true → exec .nop s = .next (s.retired s .nop false false)) ∧
  (∀ (f : MI) (s : State), ptrReady s (.pset f) (miAsM3 f) [f.od] → f.oa = .zero →
    ends s (.pset f) f.sp (f.ty == .px) ((s.core s.self).setP (regOf f.od) (f.imm.signExtend 64), none)) ∧
  (∀ (f : MI) (s : State), ptrReady s (.psetHi f) (miAsM3 f) [f.od] → f.oa = .zero →
    ends s (.psetHi f) f.sp (f.ty == .px)
      ((s.core s.self).setP (regOf f.od) (f.imm ++ ((s.core s.self).preg (regOf f.od)).extractLsb' 0 32), none)) ∧
  (∀ (f : M3) (s : State), ptrReady s (.padd f) f [f.od, f.oa, f.ob] → f.fn.toNat ≤ 3 → isRegOp f.oa = true →
    (isRegOp f.ob || isImmOp f.ob) = true → f.oc = .zero →
    ends s (.padd f) f.sp (f.ty == .px) ((s.core s.self).setP (regOf f.od)
      ((s.core s.self).preg (regOf f.oa) + ((s.core s.self).pOrImm f.ob <<< f.fn.toNat)), none)) ∧
  (∀ (f : M3) (s : State), ptrReady s (.padd f) f [f.od, f.oa, f.ob] → f.fn.toNat ≤ 3 → isRegOp f.oa = true →
    f.ob = .acc → f.oc = .zero →
    let c := s.core s.self
    ends s (.padd f) f.sp (f.ty == .px) (if (c.alane 0).v && (c.alane 1).v then
      c.setP (regOf f.od) (c.preg (regOf f.oa) + (((c.alane 1).w ++ (c.alane 0).w) <<< f.fn.toNat)) else c, none)) ∧
  (∀ (f : MI) (s : State), ptrReady s (.paddImm f) (miAsM3 f) [f.od, f.oa] → f.fn = 0 → isRegOp f.oa = true →
    ends s (.paddImm f) f.sp (f.ty == .px)
      ((s.core s.self).setP (regOf f.od) ((s.core s.self).preg (regOf f.oa) + f.imm.signExtend 64), none)) ∧
  (∀ (f : M3) (s : State) (k : BitVec 13), ptrReady s (.pmod f) f [f.od, f.oa, f.ob] → f.fn = 0 → isRegOp f.oa = true →
    (isRegOp f.ob || isImmOp f.ob) = true → f.oc = .imm k → k.toNat ≤ 63 →
    let c := s.core s.self
    let a := (c.preg (regOf f.oa)).toNat
    ends s (.pmod f) f.sp (f.ty == .px) (c.setP (regOf f.od)
      (BitVec.ofNat 64 (a / 2 ^ k.toNat * 2 ^ k.toNat + (a + (c.pOrImm f.ob).toNat) % 2 ^ k.toNat)), none)) ∧
  (∀ (f : M3) (s : State), s.canIssue (.fmtx f) false false [] = true → fmtxLegal f = true →
    ends s (.fmtx f) false false (({ s.core s.self with
      px := (0#20 ++ f.fn.extractLsb' 0 4 ++ 0#3 ++ f.fn.extractLsb' 4 1 ++ f.ty.code : W32) }).setPp true, none))

/-- DOT4, TAGS, VCMP, VSET, VCLR and VCNT complete with the results of R96, R98 and R114 to R116. SHUF, BCAST, PACK, UNPK, LGATH
and LSCAT complete with the results of R117 to R119. Readings of the model in it: log entries 13, 47, 98. -/
def Obligations.LaneInstructionsComplete : Prop :=
  (∀ (f : M3) (s : State) (c1 c2 c3 : Core) (a b d : List El) (fl : Flags),
    m3Ready s (.dot4 f) f (fun t => legalM3 f t (t == .i32 || t == .u32) false (decide (f.fn.toNat ≤ 2)) 3 false) →
    let c := s.core s.self
    let fp := fpOf f.ln
    let n := elemsFor f.od (c.ty f.ty) f.ln
    c.checkLocals fp [(f.od, 4 * n, 4), (f.oa, 4 * n, 4), (f.ob, 4 * n, 4), (f.oc, 4 * n, 4)] = .ok () →
    c.dot4Lanes (s.canFill s.self) fp f.oa n = .ok (c1, a) → c1.dot4Lanes (s.canFill s.self) fp f.ob n = .ok (c2, b) →
    c2.readElems (s.canFill s.self) fp f.oc (c.ty f.ty) n = .ok (c3, d, fl) → s.hasRoom s.self f.od = true →
    ends s (.dot4 f) f.sp (f.ty == .px) (c3.finishWith fp f.od (c.ty f.ty) ((List.range n).map fun e =>
      (combine f.vp [a.getD e ⟨0, false⟩, b.getD e ⟨0, false⟩, d.getD e ⟨0, false⟩] fun l =>
        (wrap 32 (toInt true 32 (arg l 2) + ((List.range 4).map fun j =>
          toInt (f.fn != 1) 8 (arg l 0 / 2 ^ (8 * j)) * toInt (f.fn == 0) 8 (arg l 1 / 2 ^ (8 * j))).sum), fNone)).1)
      [f.oa, f.ob, f.oc] fNone)) ∧
  (∀ (f : M3) (s : State),
    m3Ready s (.tags f) f (fun t => legalM3 f t (t == .u32) false (f.fn == 0) 1 false && f.vp == .propagate && f.oa == .acc) →
    let c := s.core s.self
    let n := elemsFor f.od .u32 f.ln
    c.checkLocals (fpOf f.ln) [(f.od, 4 * n, 4)] = .ok () → s.hasRoom s.self f.od = true →
    ends s (.tags f) f.sp (f.ty == .px) (c.finishWith (fpOf f.ln) f.od .u32
      ((List.range n).map fun k => ⟨(c.alane k).tag.toNat, true⟩) [] fNone)) ∧
  (∀ (f : M3) (s : State) (c1 : Core) (a b : List El) (ifl : Flags),
    m3Ready s (.vcmp f) f (fun t => legalM3 f t (isInt t || isVF t) false (decide (f.fn.toNat ≤ 5)) 2 false) →
    let c := s.core s.self
    let t := c.ty f.ty
    let fp := fpOf f.ln
    let n := elemsFor f.od t f.ln
    let by4 := 4 * lanesFor t n
    c.checkLocals fp [(f.od, by4, 4), (f.oa, by4, 4), (f.ob, by4, 4)] = .ok () →
    c.readAll (s.canFill s.self) fp t n [f.oa, f.ob] = .ok (c1, [a, b], ifl) → s.hasRoom s.self f.od = true →
    let x (e : Nat) := El.read f.vp (a.getD e ⟨0, false⟩)
    let y (e : Nat) := El.read f.vp (b.getD e ⟨0, false⟩)
    let els : List El := (List.range n).map fun e => ⟨(x e).b, (x e).v && (y e).v⟩
    let holds := (List.range n).map fun e => (vcmpOp f.fn.toNat t (x e).b (y e).b).1
    let fl := flagsOf ((List.range n).map fun e =>
      ((⟨(x e).b, (x e).v && (y e).v⟩ : El), (vcmpOp f.fn.toNat t (x e).b (y e).b).2))
    let w := match f.od with
      | .reg _ _ => c1.writeElems fp f.od t ((els.zip holds).map fun (q : El × Bool) => ⟨q.1.b, q.1.v && q.2⟩)
      | _ => c1.writeLanes fp f.od ((List.range (lanesFor t n)).map (vcmpLane t els holds))
    ends s (.vcmp f) f.sp (f.ty == .px)
      ((w.1.opIncs fp [f.od, f.oa, f.ob]).orFlags (fl ||| (if els.any (·.v) then ifl else fNone)), w.2)) ∧
  (∀ (f : M3) (s : State), m3Ready s (.vset f) f (vsetLegal f) →
    (s.core s.self).checkLocals (fpOf f.ln) [(f.od, fpOf f.ln, 4)] = .ok () → soundAt (s.core s.self) (fpOf f.ln) f.od (fpOf f.ln) →
    ends s (.vset f) f.sp (f.ty == .px) (revalid (s.core s.self) f true, none)) ∧
  (∀ (f : M3) (s : State), m3Ready s (.vclr f) f (vsetLegal f) →
    (s.core s.self).checkLocals (fpOf f.ln) [(f.od, fpOf f.ln, 4)] = .ok () → soundAt (s.core s.self) (fpOf f.ln) f.od (fpOf f.ln) →
    ends s (.vclr f) f.sp (f.ty == .px) (revalid (s.core s.self) f false, none)) ∧
  (∀ (f : M3) (s : State) (c1 : Core) (l : List Lane),
    m3Ready s (.vcnt f) f (fun t => legalM3 f t (t == .u32) false (f.fn == 0) 1 true && f.vp == .propagate) →
    let c := s.core s.self
    let fp := fpOf f.ln
    c.checkLocals fp [(f.od, 4, 4), (f.oa, fp, 4)] = .ok () →
    c.readLanes (s.canFill s.self) fp f.oa (f.ln.toNat + 1) = .ok (c1, l) → s.hasRoom s.self f.od = true →
    ends s (.vcnt f) f.sp (f.ty == .px) (c1.finishWith fp f.od .u32 [⟨(l.filter (·.v)).length, true⟩] [f.oa] fNone)) ∧
  (∀ (f : M3) (s : State) (c1 : Core) (a b : List El) (ifl : Flags),
    m3Ready s (.shuf f) f (fun t => legalM3 f t (isBits t) false (f.fn == 0) 2 false) →
    let c := s.core s.self
    let t := c.ty f.ty
    let fp := fpOf f.ln
    let n := elemsFor f.od t f.ln
    let by4 := 4 * lanesFor t n
    c.checkLocals fp [(f.od, by4, 4), (f.oa, by4, 4), (f.ob, by4, 4)] = .ok () →
    c.readAll (s.canFill s.self) fp t n [f.oa, f.ob] = .ok (c1, [a, b], ifl) → s.hasRoom s.self f.od = true →
    let els := (List.range n).map fun j =>
      (combine f.vp [a.getD ((El.read f.vp (b.getD j ⟨0, false⟩)).b % n) ⟨0, false⟩, b.getD j ⟨0, false⟩] fun l =>
        (arg l 0, fNone)).1
    ends s (.shuf f) f.sp (f.ty == .px)
      (c1.finishWith fp f.od t els [f.oa, f.ob] fNone)) ∧
  (∀ (f : M3) (s : State) (c1 : Core) (a : List El) (ifl : Flags),
    m3Ready s (.bcast f) f (fun t => legalM3 f t (isBits t) false (f.fn == 0) 2 false && (isRegOp f.ob || isImmOp f.ob)) →
    let c := s.core s.self
    let t := c.ty f.ty
    let fp := fpOf f.ln
    let n := elemsFor f.od t f.ln
    let by4 := 4 * lanesFor t n
    c.checkLocals fp [(f.od, by4, 4), (f.oa, by4, 4)] = .ok () →
    c.readElems (s.canFill s.self) fp f.oa t n = .ok (c1, a, ifl) → s.hasRoom s.self f.od = true →
    let r := (combine f.vp [a.getD (c.bcastIndex f.ob n) ⟨0, false⟩] fun l => (arg l 0, fNone)).1
    ends s (.bcast f) f.sp (f.ty == .px)
      (c1.finishWith fp f.od t (List.replicate n r) [f.oa] fNone)) ∧
  (∀ (f : M3) (s : State) (c1 c2 : Core) (a b : List El) (g1 g2 : Flags),
    m3Ready s (.pack f) f (fun t =>
      legalM3 f t (t == .i8 || t == .u8 || t == .i16 || t == .u16) false (decide (f.fn.toNat ≤ 1)) 2 false) →
    let c := s.core s.self
    let t := c.ty f.ty
    let fp := fpOf f.ln
    let n := elemsFor f.od t f.ln
    let h := (n + 1) / 2
    c.checkLocals fp [(f.od, 4 * lanesFor t n, 4), (f.oa, 4 * lanesFor (twice t) h, 4), (f.ob, 4 * lanesFor (twice t) h, 4)]
      = .ok () →
    c.readElems (s.canFill s.self) fp f.oa (twice t) h = .ok (c1, a, g1) →
    c1.readElems (s.canFill s.self) fp f.ob (twice t) h = .ok (c2, b, g2) → s.hasRoom s.self f.od = true →
    let res := (List.range n).map fun e =>
      combine f.vp [if 2 * e < n then a.getD e ⟨0, false⟩ else b.getD (e - n / 2) ⟨0, false⟩] fun l =>
        if f.fn = 0 then (arg l 0 % 2 ^ width t, fNone) else satInt (isSigned t) (width t) (iv (twice t) (arg l 0))
    ends s (.pack f) f.sp (f.ty == .px) (c2.finishWith fp f.od t (res.map (·.1)) [f.oa, f.ob] (flagsOf res))) ∧
  (∀ (f : M3) (s : State) (c1 : Core) (a : List El) (g1 : Flags),
    m3Ready s (.unpk f) f (fun t =>
      legalM3 f t (t == .i16 || t == .u16 || t == .i32 || t == .u32) false (decide (f.fn.toNat ≤ 1)) 1 false) →
    let c := s.core s.self
    let t := c.ty f.ty
    let fp := fpOf f.ln
    let n := elemsFor f.od t f.ln
    c.checkLocals fp [(f.od, 4 * lanesFor t n, 4), (f.oa, 4 * lanesFor (half t) (2 * n), 4)] = .ok () →
    c.readElems (s.canFill s.self) fp f.oa (half t) (2 * n) = .ok (c1, a, g1) → s.hasRoom s.self f.od = true →
    ends s (.unpk f) f.sp (f.ty == .px) (c1.finishWith fp f.od t ((List.range n).map fun e =>
      (combine f.vp [a.getD (if f.fn = 0 then e else n + e) ⟨0, false⟩] fun l =>
        (wrap (width t) (iv (half t) (arg l 0)), fNone)).1) [f.oa] fNone)) ∧
  (∀ (f : M3) (s : State) (c1 : Core) (b : List El) (g1 : Flags),
    m3Ready s (.lgath f) f (fun t => legalM3 f t (gathTy t) false (f.fn == 0) 2 false && isMem f.oa) →
    let c := s.core s.self
    let fp := fpOf f.ln
    let n := elemsFor f.od (c.ty f.ty) f.ln
    let base := c.opAddr fp f.oa
    c.checkLocals fp [(f.od, 4 * n, 4)] = .ok () → base.toNat % 4 = 0 → c.checkLocals fp [(f.ob, 4 * n, 4)] = .ok () →
    c.readElems (s.canFill s.self) fp f.ob .u32 n = .ok (c1, b, g1) →
    let addrs := (List.range n).map fun j => gathAddr base f.vp (b.getD j ⟨0, false⟩)
    c.checkGath addrs = .ok () → c.readableGath addrs = .ok () → s.hasRoom s.self f.od = true →
    let c2 := c1.wakeGath addrs
    ends s (.lgath f) f.sp (f.ty == .px) (c2.finishWith fp f.od (c.ty f.ty) ((List.range n).map fun j =>
      match addrs.getD j none with
      | some a => (combine f.vp [⟨(c2.spGet a.toNat).w.toNat, (c2.spGet a.toNat).v⟩] fun l => (arg l 0, fNone)).1
      | none => ⟨0, false⟩) [f.oa, f.ob] fNone)) ∧
  (∀ (f : M3) (s : State) (c1 c2 : Core) (a b : List El) (ifl g2 : Flags),
    m3Ready s (.lscat f) f (fun t => legalM3 f t (gathTy t) false (f.fn == 0) 2 false && isMem f.od) →
    let c := s.core s.self
    let t := c.ty f.ty
    let fp := fpOf f.ln
    let n := f.ln.toNat + 1
    let base := c.opAddr fp f.od
    base.toNat % 4 = 0 → c.checkLocals fp [(f.oa, 4 * n, 4), (f.ob, 4 * n, 4)] = .ok () →
    c.readElems (s.canFill s.self) fp f.oa t n = .ok (c1, a, ifl) →
    c1.readElems (s.canFill s.self) fp f.ob .u32 n = .ok (c2, b, g2) →
    let addrs := (List.range n).map fun j => gathAddr base f.vp (b.getD j ⟨0, false⟩)
    c.checkGath addrs = .ok () →
    let d (j : Nat) := (a.map (El.read f.vp)).getD j ⟨0, false⟩
    let c3 := (List.range n).foldl (fun c j => match addrs.getD j none with
      | some x => c.spWrite x.toNat [⟨if (d j).v then BitVec.ofNat 32 (d j).b else (c.spGet x.toNat).w, (d j).v⟩]
      | none => c) c2
    ends s (.lscat f) f.sp (f.ty == .px) (c3.opIncs fp [f.od, f.oa, f.ob], none))

/-- FSUM, FDOT and FCVT complete with the results of R111 and R112. Readings of the model in it: log entries 12, 99, 100. -/
def Obligations.FoldsAndConversionsComplete : Prop :=
  (∀ (f : M3) (s : State) (c1 : Core) (a : List El) (ifl : Flags),
    m3Ready s (.fsum f) f (fun t => legalM3 f t (isVF t) true (f.fn == 0) 1 true) →
    let c := s.core s.self
    let t := c.ty f.ty
    let fp := fpOf f.ln
    let n := elemCount t f.ln
    c.checkLocals fp [(f.od, 4, 4), (f.oa, fp, 4)] = .ok () →
    c.readElems (s.canFill s.self) fp f.oa t n = .ok (c1, a, ifl) → s.hasRoom s.self f.od = true →
    let r := c1.randoms (c.stochastic f.rm) (n - 1)
    let x := (readValid f.vp a).map fun l => foldAdd t (c.effrm f.rm) (foldStart t (arg l 0)) ((l.drop 1).zip r.1)
    ends s (.fsum f) f.sp (f.ty == .px) (r.2.finishFold f fp t [f.oa] x ifl)) ∧
  (∀ (f : M3) (s : State) (c1 : Core) (a b : List El) (ifl : Flags),
    m3Ready s (.fdot f) f (fun t => legalM3 f t (isVF t) true (f.fn == 0) 2 true) →
    let c := s.core s.self
    let t := c.ty f.ty
    let fp := fpOf f.ln
    let n := elemCount t f.ln
    let m := c.effrm f.rm
    c.checkLocals fp [(f.od, 4, 4), (f.oa, fp, 4), (f.ob, fp, 4)] = .ok () →
    c.readAll (s.canFill s.self) fp t n [f.oa, f.ob] = .ok (c1, [a, b], ifl) → s.hasRoom s.self f.od = true →
    let r := c1.randoms (c.stochastic f.rm) n
    let x : Option (Nat × Flags) := match readValid f.vp a, readValid f.vp b with
      | some la, some lb => some (foldDot t m (fmul t m (r.1.getD 0 0) (arg la 0) (arg lb 0))
          ((la.drop 1).zip ((lb.drop 1).zip (r.1.drop 1))))
      | _, _ => none
    ends s (.fdot f) f.sp (f.ty == .px) (r.2.finishFold f fp t [f.oa, f.ob] x ifl)) ∧
  (∀ (f : M3) (s : State) (c1 : Core) (src : Ty) (up : Bool) (xs : List (El × Val)) (ifl : Flags),
    s.canIssue (.fcvt f) f.sp (cvtUses f) [f.od, f.oa] = true → cvtLegal f (s.core s.self) = true →
    let c := s.core s.self
    let t := c.ty f.ty
    let fp := fpOf f.ln
    let n := cvtCount f t
    let m := c.effrm f.rm
    c.cvtSource f.fn = some (src, up) →
    c.checkLocals fp [(f.od, 4 * cvtLanes (cvtBytes t n), 4), (f.oa, 4 * cvtLanes (cvtBytes src n), 4)] = .ok () →
    c.cvtRead (s.canFill s.self) f fp src up n = .ok (c1, xs, ifl) → s.hasRoom s.self f.od = true →
    let r := c1.randoms (c.stochastic f.rm) n
    (t ≠ .e2m1 →
      let res := (List.range n).map fun e =>
        combine f.vp [(xs.getD e (⟨0, false⟩, .nan)).1] fun l =>
          cvtElem src t m (c.effsat (cvtUses f)) (r.1.getD e 0) (arg l 0) (xs.getD e (⟨0, false⟩, .nan)).2
      ends s (.fcvt f) f.sp (cvtUses f) (r.2.finishWith fp f.od t (res.map (·.1)) [f.oa]
        (flagsOf res ||| (if res.any (·.1.v) then ifl else fNone)))) ∧
    (t = .e2m1 →
      let ok := xs.all fun x => (El.read f.vp x.1).v
      let o := toBlock m (xs.map (·.2)) r.1
      let sn := if isFloat src then (xs.map fun x => snanFlags src [(El.read f.vp x.1).b]).foldl (· ||| ·) fNone else fNone
      let w := r.2.writeLanes fp f.od ((blockLanes o.1 o.2.1).map fun x => ⟨x, if ok then BitVec.allOnes 32 else 0, ok⟩)
      ends s (.fcvt f) f.sp (cvtUses f)
        ((w.1.opIncs fp [f.od, f.oa]).orFlags (if ok then o.2.2 ||| sn ||| ifl else fNone), w.2)))

/-! ### Results, operands and frames of the compute instructions -/

/-- The integer results of R92 to R94 are those of two's complement arithmetic on patterns of the type's width: ADD, SUB, MUL,
MAC, NEG, ABS, AND, OR, XOR, NOT, the shifts and ROT with their counts taken modulo the width, DIV and REM with their corners,
MULH, MIN, MAX, CLZ, POPC, the four comparisons and SEL (R95). ADDS and SUBS give the nearest value of the type, and set SAT
exactly when the exact result is outside it (R92). FABS clears and FNEG inverts the sign bit of an operand that is no NaN (R103). -/
def Obligations.IntegerResults : Prop :=
  (∀ (t : Ty) (m : RMode) (r : W32) (a b c : Nat), isInt t = true → a < 2 ^ width t → b < 2 ^ width t → c < 2 ^ width t →
    let w := width t
    let x : BitVec w := BitVec.ofNat w a
    let y : BitVec w := BitVec.ofNat w b
    let z : BitVec w := BitVec.ofNat w c
    (addOp t m r [a, b]).1 = (x + y).toNat ∧ (subOp t m r [a, b]).1 = (x - y).toNat ∧
    (mulOp t m r [a, b]).1 = (x * y).toNat ∧ (macOp t m r [a, b, c]).1 = (x * y + z).toNat ∧
    (negOp t m r [a]).1 = (-x).toNat ∧
    (isSigned t = true → (absOp t m r [a]).1 = (if x.msb then -x else x).toNat) ∧
    (andOp t m r [a, b]).1 = (x &&& y).toNat ∧ (orOp t m r [a, b]).1 = (x ||| y).toNat ∧
    (xorOp t m r [a, b]).1 = (x ^^^ y).toNat ∧ (notOp t m r [a]).1 = (~~~x).toNat ∧
    (shlOp t m r [a, b]).1 = (x <<< (b % w)).toNat ∧ (shrOp t m r [a, b]).1 = (x >>> (b % w)).toNat ∧
    (sraOp t m r [a, b]).1 = (x.sshiftRight (b % w)).toNat ∧ (rotOp t m r [a, b]).1 = (x.rotateLeft (b % w)).toNat ∧
    (divOp t m r [a, b]).1 = (if b = 0 then BitVec.allOnes w else if isSigned t then x.sdiv y else x / y).toNat ∧
    (remOp t m r [a, b]).1 = (if b = 0 then x else if isSigned t then x.srem y else x % y).toNat ∧
    (isSigned t = false → (mulhOp t m r [a, b]).1 = a * b / 2 ^ w) ∧
    (isSigned t = true → (mulhOp t m r [a, b]).1 = (BitVec.ofInt w (x.toInt * y.toInt / ((2 ^ w : Nat) : Int))).toNat) ∧
    (minOp t m r [a, b]).1 = (if (if isSigned t then x.slt y else x.ult y) then x else y).toNat ∧
    (maxOp t m r [a, b]).1 = (if (if isSigned t then x.slt y else x.ult y) then y else x).toNat ∧
    (clzOp t m r [a]).1 = w - (if a = 0 then 0 else Nat.log2 a + 1) ∧
    (popcOp t m r [a]).1 = ((List.range w).filter fun k => x.getLsbD k).length ∧
    (cmpeqOp t m r [a, b]).1 = (if x = y then BitVec.allOnes w else 0).toNat ∧
    (cmpneOp t m r [a, b]).1 = (if x = y then 0 else BitVec.allOnes w).toNat ∧
    (cmpltOp t m r [a, b]).1 = (if (if isSigned t then x.slt y else x.ult y) then BitVec.allOnes w else 0).toNat ∧
    (cmpleOp t m r [a, b]).1 = (if (if isSigned t then x.sle y else x.ule y) then BitVec.allOnes w else 0).toNat ∧
    (selOp t m r [a, b, c]).1 = (if z = 0 then y else x).toNat) ∧
  (∀ (t : Ty) (m : RMode) (r : W32) (a : Nat), isVF t = true → a < 2 ^ width t → val t a ≠ .nan →
    fabsOp t m r [a] = (a % 2 ^ (width t - 1), fNone) ∧ fnegOp t m r [a] = (a ^^^ 2 ^ (width t - 1), fNone)) ∧
  (∀ (t : Ty) (m : RMode) (r : W32) (a b : Nat), isInt t = true → a < 2 ^ width t → b < 2 ^ width t →
    let w := width t
    let lo : Int := if isSigned t then -(2 ^ (w - 1) : Nat) else 0
    let hi : Int := if isSigned t then ((2 ^ (w - 1) : Nat) : Int) - 1 else ((2 ^ w : Nat) : Int) - 1
    (iv t (addsOp t m r [a, b]).1 = max lo (min hi (iv t a + iv t b)) ∧
      ((addsOp t m r [a, b]).2 = if iv t a + iv t b < lo ∨ hi < iv t a + iv t b then fSAT else fNone)) ∧
    (iv t (subsOp t m r [a, b]).1 = max lo (min hi (iv t a - iv t b)) ∧
      ((subsOp t m r [a, b]).2 = if iv t a - iv t b < lo ∨ hi < iv t a - iv t b then fSAT else fNone)))

/-- What a source operand supplies: an immediate's value or Pn's low bits to every element, valid; element e of lanes its bits
in place, valid where every lane that holds a bit of it is; a queue its head entry, which leaves (R44 to R46, R84), and whose
flags join ST where it is a completion record (R74, R134). Readings of the model in it: log entries 47, 116. -/
def Obligations.SourceElements : Prop :=
  ∀ (c : Core) (fill : BitVec 3 → Bool) (fp : Nat) (t : Ty) (n e : Nat), isBits t = true → e < n → lanesFor t n ≤ 16 →
    (∀ k ds, ∃ xs, c.readElems fill fp (.reg k ds) t n = .ok (c, xs, fNone) ∧
      xs[e]? = some ⟨(c.preg k).toNat % 2 ^ width t, true⟩) ∧
    (∀ v, isInt t = true → ∃ xs, c.readElems fill fp (.imm v) t n = .ok (c, xs, fNone) ∧
      xs[e]? = some ⟨(v.signExtend (width t)).toNat, true⟩) ∧
    (∃ xs, c.readElems fill fp .acc t n = .ok (c, xs, fNone) ∧
      ((width t ≤ 32 → xs[e]? = some ⟨((c.alane (e * width t / 32)).w.extractLsb' (e * width t % 32) (width t)).toNat,
          (c.alane (e * width t / 32)).v⟩) ∧
        (width t = 64 → xs[e]? = some ⟨((c.alane (2 * e + 1)).w ++ (c.alane (2 * e)).w).toNat,
          (c.alane (2 * e)).v && (c.alane (2 * e + 1)).v⟩))) ∧
    (∀ k ds, let o := Operand.mem k ds
      c.sound (c.opAddr fp o).toNat (4 * lanesFor t n) = true → ∃ c' xs, c.readElems fill fp o t n = .ok (c', xs, fNone) ∧ c'.spad = c.spad ∧ c'.p = c.p ∧
        (width t ≤ 32 → let l := c.spGet ((c.opAddr fp o).toNat + 4 * (e * width t / 32))
          xs[e]? = some ⟨(l.w.extractLsb' (e * width t % 32) (width t)).toNat, l.v⟩)) ∧
    (∀ k q rest, c.queue k = q :: rest → ∃ xs,
      c.readElems fill fp (.queue k) t n = .ok ((c.setQ k rest).takeFlags k q, xs, fNone) ∧
      (width t ≤ 32 → let l := q.toList.getD (e * width t / 32) ⟨0, false⟩
        xs[e]? = some ⟨(l.w.extractLsb' (e * width t % 32) (width t)).toNat, l.v⟩)) ∧
    (∀ k q, (c.takeFlags k q) = if 4 ≤ k.toNat ∨ (k = 0 ∧ c.act.any Act.completion) then c.orFlags (recordFlags q) else c) ∧
    (∀ k, c.queue k = [] → fill k = true → c.readElems fill fp (.queue k) t n = .error .stall)

/-- Where result elements go (R45, R86, R87): a valid element's bits take its place in A, in scratchpad words or in Pn,
extended; an invalid element leaves the bits as they were; a lane is valid where every element written into it is; a valid
lane of A takes the tag of its word, an invalid one keeps its tag; every lane that no element reaches stays as it was. -/
def Obligations.ResultsWritten : Prop :=
  (∀ (c : Core) (fp : Nat) (t : Ty) (els : List El) (k : Nat), isBits t = true → lanesFor t els.length ≤ 16 → k < 16 →
    let r := c.writeElems fp .acc t els
    let x := laneOut t els k
    r.2 = none ∧ r.1.alane k = if lanesFor t els.length ≤ k then c.alane k
      else ⟨x.over (c.alane k).w, x.v, if x.v then tagOf (x.over (c.alane k).w) else (c.alane k).tag⟩) ∧
  (∀ (t : Ty) (els : List El) (e : Nat) (v : El) (old : W32), isBits t = true → width t ≤ 32 → els[e]? = some v →
    let x := laneOut t els (e * width t / 32)
    ((x.over old).extractLsb' (e * width t % 32) (width t)).toNat =
      (if v.v then v.b % 2 ^ width t else (old.extractLsb' (e * width t % 32) (width t)).toNat) ∧
    (x.v = true ↔ ∀ j u, j * width t / 32 = e * width t / 32 → els[j]? = some u → u.v = true)) ∧
  (∀ (c : Core) (fp : Nat) (k : BitVec 3) (ds : BitVec 10) (t : Ty) (e : El) (l : List El),
    c.writeElems fp (.reg k ds) t (e :: l) = (if e.v then c.setP k (extElem t e.b) else c, none) ∧
    (isSigned t = true → extElem t e.b = (BitVec.ofNat (width t) e.b).signExtend 64) ∧
    (isSigned t = false → extElem t e.b = (BitVec.ofNat (width t) e.b).zeroExtend 64)) ∧
  (∀ (c : Core) (fp : Nat) (k : BitVec 3) (ds : BitVec 10) (t : Ty) (els : List El) (a : Nat), KV.sorted c.spad = true →
    let o := Operand.mem k ds
    let off := (c.opAddr fp o).toNat
    off % 4 = 0 → a % 4 = 0 →
    (c.writeElems fp o t els).2 = none ∧ (c.writeElems fp o t els).1.spGet a =
      if off ≤ a ∧ a < off + 4 * lanesFor t els.length then
        let x := laneOut t els ((a - off) / 4)
        ⟨x.over (c.spGet a).w, x.v⟩
      else c.spGet a)

/-- The addresses and post-increments of the four memory modes (R41): a displacement scaled by the footprint, none, a byte
displacement, none; then Pn plus the scaled displacement, or Pn plus Pm. -/
def Obligations.AddressModes : Prop :=
  ∀ (c : Core) (fp : Nat) (n m : BitVec 3) (ds : BitVec 10),
    c.opAddr fp (.mem n ds) = c.preg n + ds.signExtend 64 * BitVec.ofNat 64 fp ∧
    c.opAddr fp (.inc n ds) = c.preg n ∧ c.opAddr fp (.off n ds) = c.preg n + ds.signExtend 64 ∧
    c.opAddr fp (.incReg n m) = c.preg n ∧
    c.opInc fp (.mem n ds) = c ∧ c.opInc fp (.off n ds) = c ∧
    (c.opInc fp (.inc n ds)).preg n = c.preg n + ds.signExtend 64 * BitVec.ofNat 64 fp ∧
    (c.opInc fp (.incReg n m)).preg n = c.preg n + c.preg m ∧
    (∀ k, k ≠ n → (c.opInc fp (.inc n ds)).preg k = c.preg k ∧ (c.opInc fp (.incReg n m)).preg k = c.preg k)

/-- The instructions of R92 to R120 and NOP, which work on their core's own registers and scratchpad. -/
def Sys2Proof.Spec.computes (i : Instr) : Bool :=
  (laneRow i).isSome || match i with
    | .nop | .pset _ | .psetHi _ | .padd _ | .paddImm _ | .pmod _ | .fmtx _ | .dot4 _ | .tags _ | .vcmp _ | .vset _
    | .vclr _ | .vcnt _ | .shuf _ | .bcast _ | .pack _ | .unpk _ | .lgath _ | .lscat _ | .fsum _ | .fdot _ | .fcvt _ => true
    | _ => false

/-- The step takes no fault: no fault of R425 is raised, and the instruction does not wait. -/
def Sys2Proof.Spec.retires (s t : State) : Prop := (t.core s.self).entered = .seq ∧ (t.core s.self).pc ≠ (s.core s.self).pc

/-- What a compute instruction that retires leaves alone (R84 to R120): every byte of memory; every other core, but the queue of
the gang neighbour that Q2 or Q3 writes to; on its own core every special register, the rest of ST, the phase log, the messages
and the accesses in flight; sticky flags are only added. -/
def Obligations.ComputeFrame : Prop :=
  ∀ (i : Instr) (s t : State), computes i = true → KV.sorted s.cores = true → exec i s = .next t → retires s t →
    let g := s.self
    sameMemory s t ∧
    (∀ k, k ≠ g → s.neighbour g true ≠ some k → s.neighbour g false ≠ some k → t.core k = s.core k) ∧
    (∀ k, k ≠ g → { t.core k with q := (s.core k).q } = s.core k) ∧
    ((∀ f, i ≠ .fmtx f) → (t.core g).specials = (s.core g).specials) ∧
    (t.core g).statusRest = (s.core g).statusRest ∧
    (s.core g).st &&& 0xFF &&& ~~~(t.core g).st = 0 ∧
    (t.core g).log = (s.core g).log ∧ (t.core g).msgs = (s.core g).msgs ∧ (t.core g).pend = (s.core g).pend


/-! ### Slots, retirement, the checks before an instruction, and faults -/

/-- Slot addresses (R32): sequential flow goes to the next slot of the line and from slot 4 to slot 0 of the next line; a slot
at a signed offset is again a slot, at the offset's distance in program order. What retirement leaves on the core: PC past the
instruction, and past its LIVE word where SP = 1 (R48); the pending prefix consumed where the instruction uses one (R81); the
CRC run on over its four covered bytes (R51); its cluster's bucket less by the units of its class (R369, R370), every other
cluster's as it was. -/
def Obligations.Retirement : Prop :=
  (∀ (pc : W64) (d : W32), slotOk pc = true →
    let pos (x : Nat) : Nat := x / 64 * 5 + x % 8
    slotOk (nextSlot pc) = true ∧ slotOk (slotPlus pc d) = true ∧
    (pos pc.toNat + 1 < 2 ^ 58 * 5 → pos (nextSlot pc).toNat = pos pc.toNat + 1) ∧
    (0 ≤ (pos pc.toNat : Int) + d.toInt → (pos pc.toNat : Int) + d.toInt < 2 ^ 58 * 5 →
      (pos (slotPlus pc d).toNat : Int) = pos pc.toNat + d.toInt)) ∧
  (∀ (s t : State) (i : Instr) (sp uses : Bool), KV.sorted t.cores = true → KV.sorted t.chips = true →
    (sp = true → s.liveMask true ≠ none) →
    let g := s.self
    let u := t.retired s i sp uses
    (u.core g).pc = (if sp then nextSlot (nextSlot (t.core g).pc) else nextSlot (t.core g).pc) ∧
    (uses = true → (u.core g).pp = false) ∧ (uses = false → (u.core g).pp = (t.core g).pp) ∧
    (∀ w, encode i = some w → (u.core g).crc = crc16 (t.core g).crc (coveredBytes w)) ∧
    (u.core g).safe = (if sp then s.liveMask true else none) ∧ (u.core g).a = (t.core g).a ∧ (u.core g).p = (t.core g).p ∧
    (u.core g).q = (t.core g).q ∧ (u.core g).spad = (t.core g).spad ∧
    (∀ j, chargeClass i = some j → (u.pwr (clusterOfCore g)).bucket =
      (t.pwr (clusterOfCore g)).bucket - ((t.pwr (clusterOfCore g)).cbwt.extractLsb' (8 * j) 8).toNat) ∧
    (∀ m, m ≠ clusterOfCore g → u.pwr m = t.pwr m) ∧ u.mem = t.mem)

/-- The checks before an element-wise instruction's effect, in the order of R53: an entry without its target bit raises CFV, a
field rule broken IILL, a prefix that the instruction does not use PFXUSE with the prefix dropped, sequential flow into a
marked slot SIGM, a misaligned local operand ALIGN; each is taken at the instruction's slot.
Readings of the model in it: log entry 95. -/
def Obligations.ChecksBeforeEffect : Prop :=
  ∀ (i : Instr) (L : LaneRow) (s : State), laneRow i = some L →
    let g := s.self
    let c := s.core g
    let t := c.ty L.f.ty
    let uses := L.f.ty == .px
    wfCore g = true → s.issues g = true →
    (c.pend.any fun p => (usesOf [L.f.od, L.f.oa, L.f.ob, L.f.oc]).clash p.dest) = false →
    (∀ src, c.entered = .checked src → c.targetBit c.pc = false → exec i s = .next (s.faultAt g .cfv 0)) ∧
    (c.entryFault = none → (L.f.sp = true → isOk (c.liveAfter c.pc) = true) →
      (L.legal t = false → exec i s = .next (s.faultAt g .iill 0)) ∧
      (uses = true → c.pp = false → exec i s = .next (s.faultAt g .iill 0)) ∧
      (L.legal t = true → uses = false → c.pp = true →
        exec i s = .next ((s.modCore g fun c => c.setPp false).faultAt g .pfxuse 0)) ∧
      (L.legal t = true → c.pp = uses → c.entered = .seq → c.targetBit c.pc = true →
        exec i s = .next (s.faultAt g .sigm 0)) ∧
      (L.legal t = true → c.pp = uses → c.seqFault = false → s.chargeFits g i = true → isMem L.f.od = true →
        (c.opAddr (fpOf L.f.ln) L.f.od).toNat % 4 ≠ 0 →
        exec i s = .next (s.faultAt g .align (c.opAddr (fpOf L.f.ln) L.f.od))))

/-- Step 1 of taking a fault (R301, R426): the fault of a revocable activation outside a gang ends the activation; its messages,
its uncommitted phase-log entries and its queue entries are discarded and its journal restored. Its trigger, with one try more,
is at the head of the queue it came from, and after SIGM, CFV, IILL or an ECCU met in fetch its code is fetched anew (R427; log
121). After LOGFULL, SPAWN or the fourth try the trigger leaves its queue instead: it goes to the region's stray ring, and a
report of KIND 1 says what faulted and what was discarded (R301, R433); a report's own trigger kills the address space (R435).
Only the core, and the cores of its gang whose heads may wait for it, change. -/
def Obligations.FaultRollsBack : Prop :=
  ∀ (s : State) (g : Nat) (code : FCode) (resume pcf addr : W64) (crc : W16) (fetched : Bool) (a : Act), KV.sorted s.cores = true →
    (s.core g).act = some a → a.gang = false → a.irrev = false → a.brec < 8 →
    let c := s.core g
    let u := s.fault g code resume pcf addr crc fetched
    let d := u.core g
    (d.act = none ∧ d.msgs = [] ∧ d.journal = [] ∧ (∀ n, d.queue n = []) ∧
      d.log = c.log.filter (fun e => !(!e.committed && e.key == a.key && e.lcn == a.lcn && e.rid == a.rid)) ∧
      d.spad = c.restoreJournal.spad ∧ d.trapActive = false) ∧
    (code ≠ .logfull → code ≠ .spawn → a.tries < 3 →
      (a.report = false → (a.trig :: (c.rq a.brec).msgs) <+: (d.rq a.brec).msgs ∧ (d.rq a.brec).tries = a.tries + 1) ∧
      (a.report = true → (d.rq a.brec).reports = a.trig :: (c.rq a.brec).reports ∧ (d.rq a.brec).rtries = a.tries + 1) ∧
      (refetches code fetched = true → d.fetch = [] ∧ d.l1 = []) ∧
      sameMemory s u ∧ sameCoresBut (g :: s.gangCores g) s u) ∧
    (code = .logfull ∨ code = .spawn ∨ 3 ≤ a.tries →
      let s1 := ((s.modCore g fun c => { c.undo with tsinf := c.tsinf &&& ~~~0x10000 }).modCore g fun c => c.leave a).noteWaits g
      (a.report = true → u = s1.kill (recAsid c.curRec) 3 code.code) ∧
      (∀ r, a.report = false → s.region a.rid = some r →
        let st := s1.strayStore (g / 64) r a.trig
        (d.rq a.brec).tries = 0 ∧ (c.rq a.brec).msgs <+: (d.rq a.brec).msgs ∧
        u = ((st.2.addSpc (g / 64) a.rid (-1)).countRecv (g / 64) a.rid 1).report g a.rid
          { Report.of 1 code.code with
            pc := pcf, addr := addr, key := a.key, lcn := a.lcn, ent := c.discard.2.2, msg := c.discard.2.1, tries := a.tries + 1
            sidx := match st.1 with
              | some k => BitVec.ofNat 32 k
              | none => 0xFFFFFFFF }))

/-- Step 2 (R426, R428): the fault of an irrevocable activation enters the handler of FHIX as a trap: TSPC the resume slot, TSST
and TSPX the status and prefix, TSADR the address, TSINF the CRC, ACT and the code; supervisor privilege, no pending prefix, PC
at the handler, a checked entry; its messages and uncommitted entries discarded; A, P and the queues kept. Where the entry of FHIX
is empty the address space is killed with HEMPTY, where it is not SUP with PRIV, cause 2 (R428). Step 3 (R426, R435, R436): a
fault of an irrevocable activation whose trap is active kills the address space, with the fault's code, and cause 1, or 3 for a
report. -/
def Obligations.FaultEscalatesOrKills : Prop :=
  (∀ (s : State) (g : Nat) (code : FCode) (resume pcf addr : W64) (crc : W16) (a : Act) (r : Region) (e : Entry),
    KV.sorted s.cores = true → (s.core g).act = some a → a.gang = false → a.irrev = true → (s.core g).trapActive = false →
    s.region a.rid = some r → s.handler (g / 64) r r.fhix = some e → e.sup = true →
    let c := s.core g
    let d := (s.fault g code resume pcf addr crc).core g
    d.tspc = resume ∧ d.tsst = c.st ∧ d.tspx = c.px ∧ d.tsadr = addr ∧
    d.tsinf = crc ++ 0#8 ++ 0#12 ++ 0#11 ++ 1#1 ++ 0#8 ++ code.code ∧ d.pc = e.pc ∧ d.entered = .checked pcf ∧
    d.pl = 1 ∧ d.pp = false ∧ d.crc = 0xFFFF ∧ d.fltpc = pcf ∧ d.act = c.act ∧ d.msgs = [] ∧
    d.log = c.log.filter (fun x => !(!x.committed && x.key == a.key && x.lcn == a.lcn && x.rid == a.rid)) ∧
    d.a = c.a ∧ d.p = c.p ∧ d.q = c.q ∧ d.spad = c.spad ∧ d.lk = c.lk ∧ d.fm = c.fm ∧ d.srseed = c.srseed ∧
    sameMemory s (s.fault g code resume pcf addr crc) ∧ sameCoresBut [g] s (s.fault g code resume pcf addr crc)) ∧
  (∀ (s : State) (g : Nat) (code : FCode) (resume pcf addr : W64) (crc : W16) (a : Act) (r : Region) (k : Space),
    KV.sorted s.cores = true → (s.core g).act = some a → a.gang = false → a.irrev = true → (s.core g).trapActive = false →
    s.region a.rid = some r → KV.find s.spaces (s.core g).asid.toNat = some k → k.killed = false →
    let t := s.fault g code resume pcf addr crc
    let dies (x : FCode) : Prop := ∃ k', KV.find t.spaces (s.core g).asid.toNat = some k' ∧ k'.killed = true ∧
      k'.code = x.code ∧ k'.cause = 2
    (s.handler (g / 64) r r.fhix = none → dies .hempty) ∧
    (∀ e, s.handler (g / 64) r r.fhix = some e → e.sup = false → dies .priv) ∧
    (s.handler (g / 64) r r.fhix = none ∨ (∃ e, s.handler (g / 64) r r.fhix = some e ∧ e.sup = false) →
      (t.core g).tspc = resume ∧ (t.core g).tsadr = addr ∧ (t.core g).fltpc = pcf ∧ (t.core g).pc = (s.core g).pc ∧
      (t.core g).act = some a ∧ (t.core g).msgs = [] ∧ sameMemory s t ∧ sameCoresBut [g] s t)) ∧
  (∀ (s : State) (g : Nat) (code : FCode) (resume pcf addr : W64) (crc : W16) (a : Act) (r : Space),
    (s.core g).act = some a → a.gang = false → a.irrev = true → (s.core g).trapActive = true →
    KV.find s.spaces (s.core g).asid.toNat = some r → r.killed = false →
    let t := s.fault g code resume pcf addr crc
    (∃ r', KV.find t.spaces (s.core g).asid.toNat = some r' ∧ r'.killed = true ∧ r'.code = code.code ∧
      r'.cause = if a.report then 3 else 1) ∧
    t.cores = s.cores ∧ sameMemory s t)

/-- The journal undoes a write (R300, R301): after words are written into a named region of a revocable activation whose journal
is empty, restoring the journal gives every word of the scratchpad its old data and validity. -/
def Obligations.JournalUndoesWrites : Prop :=
  ∀ (c : Core) (a : Act) (off o n : Nat) (l : List Lane), KV.sorted c.spad = true → c.act = some a → a.irrev = false →
    c.journal = [] → (64 * o, 64 * n) ∈ a.named → off % 4 = 0 → 64 * o ≤ off → off + 4 * l.length ≤ 64 * o + 64 * n →
    (off + 4 * l.length + 63) / 64 ≤ off / 64 + 64 →
    ∀ x, ((c.spWrite off l).restoreJournal).spGet x = c.spGet x

/-! ### Control transfers, messages, queues and gangs -/

namespace Sys2Proof.Spec
open Sys2Proof Sys2Proof.Machine

/-- A BR-format instruction is ready, and the signature it carries is its block's (R51, R333). -/
abbrev brReady (s : State) (i : Instr) (f : BR) : Prop :=
  s.canIssue i false false [f.co, f.ax] = true ∧ (s.core s.self).sigOk i f.sig = true

/-- The core goes to a target, or falls through to the next slot (R331 to R333). -/
def goesTo (t : State) (g : Nat) (i : Instr) (target : Option W64) : State :=
  t.modCore g fun c => match target with
    | some x => { c with pc := x, entered := .checked c.pc, crc := 0xFFFF, wait := .none, safe := none }
    | none => c.retire i true false none

/-- From a state `t` that holds the instruction's register effects it transfers to a target, or falls through. Outside a gang
activation, in a trap handler and on a detached member that is all; a leader's next slot goes to its attached members; an
attached member whose leader has taken its path goes on, and one that differs, or whose leader has ended, detaches (R341). -/
def transfers (s : State) (i : Instr) (t : State) (target : Option W64) : Prop :=
  let g := s.self
  let next := target.getD (nextSlot (s.core g).pc)
  ∀ a, (t.core g).act = some a →
    let alone := a.gang = false ∨ (t.core g).trapActive = true
    let member := ¬alone ∧ a.leader = false ∧ a.detached = false
    (alone ∨ a.leader = false ∧ a.detached = true → exec i s = .next (goesTo t g i target)) ∧
    (¬alone → a.leader = true → exec i s = .next (goesTo
      ((t.followers g).foldl (fun u k => u.modCore k fun c => { c with gpath := c.gpath ++ [next] }) t) g i target)) ∧
    (∀ l, member → (t.core g).gpath = next :: l →
      exec i s = .next (goesTo (t.modCore g fun c => { c with gpath := l }) g i target)) ∧
    (∀ p l, member → (t.core g).gpath = p :: l → p ≠ next → exec i s = .next (goesTo (t.modCore g Core.detach) g i target)) ∧
    (member → (t.core g).gpath = [] → t.leaderRuns g = false → exec i s = .next (goesTo (t.modCore g Core.detach) g i target))

/-- The word that a branch tests, with its validity: Pn, a lane of A, or a word of scratchpad (R331). -/
def branchWord (c : Core) (f : BR) : Nat × Bool :=
  match f.co with
  | .reg n _ => ((c.preg n).toNat, true)
  | .acc => ((c.alane (f.cnd.extractLsb' 0 4).toNat).w.toNat, (c.alane (f.cnd.extractLsb' 0 4).toNat).v)
  | o => ((c.spGet (c.opAddr 4 o).toNat).w.toNat, (c.spGet (c.opAddr 4 o).toNat).v)

/-- A local word that a branch tests is accessible and sound (R179, R183, R444). -/
abbrev wordThere (c : Core) (f : BR) : Prop :=
  branchLocal f.co = true → c.checkLocal (c.opAddr 4 f.co) 4 4 = .ok () ∧ c.sound (c.opAddr 4 f.co).toNat 4 = true

/-- The field rules of each BR-format instruction (R325 to R327, R331, R332). -/
def brLegal : Instr → Bool
  | .br f => f.cnd == 0 && absent [f.co, f.ax]
  | .bz f => testLegal f true
  | .bnz f => testLegal f true
  | .bv f => testLegal f false
  | .bnv f => testLegal f false
  | .bqe f => queueLegal f
  | .bqne f => queueLegal f
  | .loop f => f.cnd == 0 && isRegOp f.co && f.ax == .zero
  | .call f => f.cnd == 0 && absent [f.co, f.ax]
  | .calli f => f.cnd == 0 && isRegOp f.co && f.ax == .zero && f.off == 0
  | .ret f => f.cnd == 0 && absent [f.co, f.ax] && f.off == 0
  | .hend f => f.cnd == 0 && absent [f.co, f.ax] && f.off == 0
  | .migr f => f.cnd.extractLsb' 1 5 == 0 && isRegOp f.co && f.off == 0 && (match f.ax with
    | .reg _ _ => true
    | .imm v => !v.msb
    | _ => false)
  | _ => false

/-- A branch that tests a word of the core wakes the bank of a local one (R183, R331). -/
def tested (s : State) (f : BR) : State :=
  if branchLocal f.co then s.modCore s.self fun c => c.wakeBanks (c.opAddr 4 f.co).toNat 4 else s

end Sys2Proof.Spec

/-- B, BZ, BNZ, BV, BNV, BQE and BQNE complete: to the slot at OFF where their condition holds, else to the next slot (R331).
LOOP, CALL, CALLI and RET complete with the register effects and targets of R332; a CALLI or RET to an address that names no
slot raises ALIGN. A BR-format instruction with legal fields whose signature is not its block's raises SIGM and does not transfer
(R51, R333); one with illegal fields raises IILL whatever its signature (R53). Readings of the model in it: log entries 51, 115. -/
def Obligations.BranchesComplete : Prop :=
  (∀ (f : BR) (s : State),
    let c := s.core s.self
    let dest := slotPlus c.pc f.off
    (brReady s (.br f) f → f.cnd = 0 → absent [f.co, f.ax] = true → transfers s (.br f) s (some dest)) ∧
    (wordThere c f →
      let w := (branchWord c f).1
      let v := (branchWord c f).2
      (brReady s (.bz f) f → testLegal f true = true →
        transfers s (.bz f) (tested s f) (if v = true ∧ w = 0 then some dest else none)) ∧
      (brReady s (.bnz f) f → testLegal f true = true →
        transfers s (.bnz f) (tested s f) (if v = true ∧ w ≠ 0 then some dest else none)) ∧
      (brReady s (.bv f) f → testLegal f false = true →
        transfers s (.bv f) (tested s f) (if v = true then some dest else none)) ∧
      (brReady s (.bnv f) f → testLegal f false = true →
        transfers s (.bnv f) (tested s f) (if v = true then none else some dest))) ∧
    (∀ n, f.co = .queue n → f.cnd = 0 → f.ax = .zero →
      (brReady s (.bqe f) f → transfers s (.bqe f) s (if c.queue n = [] then some dest else none)) ∧
      (brReady s (.bqne f) f → transfers s (.bqne f) s (if c.queue n = [] then none else some dest)))) ∧
  (∀ (f : BR) (s : State), f.cnd = 0 →
    let c := s.core s.self
    let dest := slotPlus c.pc f.off
    let linked := s.modCore s.self fun c => { c with lk := nextSlot c.pc }
    (∀ n ds, f.co = .reg n ds → f.ax = .zero →
      (brReady s (.loop f) f → transfers s (.loop f) (s.modCore s.self fun c => c.setP n (c.preg n - 1))
        (if c.preg n - 1 = 0 then none else some dest)) ∧
      (brReady s (.calli f) f → f.off = 0 →
        (slotOk (c.preg n) = true → transfers s (.calli f) linked (some (c.preg n))) ∧
        (slotOk (c.preg n) = false → exec (.calli f) s = .next (s.faultAt s.self .align (c.preg n))))) ∧
    (absent [f.co, f.ax] = true →
      (brReady s (.call f) f → transfers s (.call f) linked (some dest)) ∧
      (brReady s (.ret f) f → f.off = 0 →
        (slotOk c.lk = true → transfers s (.ret f) s (some c.lk)) ∧
        (slotOk c.lk = false → exec (.ret f) s = .next (s.faultAt s.self .align c.lk))))) ∧
  (∀ (f : BR) (s : State) (i : Instr),
    i ∈ [Instr.br f, .bz f, .bnz f, .bv f, .bnv f, .bqe f, .bqne f, .loop f, .call f, .calli f, .ret f, .hend f, .migr f] →
    s.canIssue i false false [f.co, f.ax] = true →
    (brLegal i = true → (s.core s.self).sigOk i f.sig = false → exec i s = .next (s.faultAt s.self .sigm 0)) ∧
    (brLegal i = false → exec i s = .next (s.faultAt s.self .iill 0)))

/-- HEND and MIGR complete: with nothing owed to the activation (no access in flight, no record for a queue) and the spawn limit
kept, the last member's end commits the activation; a gang member that others outlast ends its part; MIGR first buffers its
continuation (R301, R307, R309, R325 to R327). Readings of the model in it: log entry 57. -/
def Obligations.ActivationEndCompletes : Prop :=
  (∀ (f : BR) (s : State) (a : Act), brReady s (.hend f) f → f.cnd = 0 → absent [f.co, f.ax] = true → f.off = 0 →
    (s.core s.self).act = some a → (s.core s.self).pend = [] → s.queueOwed s.self none = false →
    let n := ((s.actCores s.self).map fun k => (s.core k).spawned).sum
    let limit := match s.region a.rid with
      | some r => r.spwn
      | none => 0
    ((a.gang && s.othersRun s.self) = false → (s.team (s.self / 64) a.rid).spc + n - 1 ≤ (limit : Int) →
      exec (.hend f) s = .next (s.commitAll s.self n)) ∧
    ((a.gang && s.othersRun s.self) = false → (limit : Int) < (s.team (s.self / 64) a.rid).spc + n - 1 →
      exec (.hend f) s = .next (s.faultAt s.self .spawn 0)) ∧
    ((a.gang && s.othersRun s.self) = true → exec (.hend f) s = .next (s.modCore s.self fun c =>
      { c with act := some { a with ended := true }, wait := .none, safe := none }))) ∧
  (∀ (f : BR) (s : State) (a : Act) (k : BitVec 3) (ds : BitVec 10) (o : Nat), brReady s (.migr f) f →
    f.cnd.extractLsb' 1 5 = 0 → f.co = .reg k ds → f.off = 0 →
    (match f.ax with
      | .reg _ _ => true
      | .imm v => !v.msb
      | _ => false) = true →
    let c := s.core s.self
    let h := (c.pOrImm f.ax).toNat
    let t := mkTarget 0 (BitVec.ofNat 10 (o / 64)) (BitVec.ofNat 6 (o % 64)) (f.cnd.getLsbD 0) false (BitVec.ofNat 12 h) 0 a.rid
    c.act = some a → c.pend = [] → s.ownerCore s.self (c.preg k) = .ok o → h ≤ 4095 → s.checkTarget s.self t = .ok () →
    c.msgs.length < 64 → c.msgs.length + c.outbox.length < 128 → a.gang = false →
    s.queueOwed s.self none = false →
    let u := s.setCore s.self { c with msgs := c.msgs ++ [(⟨t, 128, c.contWords, true⟩ : OutMsg)] }
    let n := (u.core s.self).spawned
    (match s.region a.rid with
      | some r => (s.team (s.self / 64) a.rid).spc + n - 1 ≤ (r.spwn : Int)
      | none => (s.team (s.self / 64) a.rid).spc + n - 1 ≤ 0) →
    exec (.migr f) s = .next (u.commitAll s.self n))

/-- What a commit does (R301, R307, R313, R318): outside a gang the activation is over, its messages have left in program order,
its own phase-log entries are committed and no others touched, its queues are empty, its trigger's tries are forgotten, no byte
of memory changes. -/
def Obligations.CommitReleasesAll : Prop :=
  ∀ (s : State) (n : Nat) (a : Act), KV.sorted s.cores = true → (s.core s.self).act = some a → a.gang = false → a.brec < 8 →
    let g := s.self
    let c := s.core g
    let t := s.commitAll g n
    let d := t.core g
    d.act = none ∧ d.msgs = [] ∧ d.journal = [] ∧ (∀ k, d.queue k = []) ∧
    d.log = c.log.map (fun e => if !e.committed && e.key == a.key && e.lcn == a.lcn && e.rid == a.rid then { e with committed := true } else e) ∧
    (d.outbox.take c.outbox.length = c.outbox) ∧
    ((d.outbox.drop c.outbox.length).map fun p => (p.tgt, p.plen, p.words)) = c.msgs.map (fun m => (m.tgt, m.plen, m.words)) ∧
    (a.report = false → (d.rq a.brec).tries = 0) ∧ d.trapActive = false ∧ d.spad = c.spad ∧ sameMemory s t

/-- SEND, SENDR, QCNT and WAITQ complete as R323, R324, R328 and R329 say: a message is buffered with its payload, taken from
Q1's head entries or from scratchpad words; a count is written; a wait ends with the set of queues that hold entries. -/
def Obligations.MessagesAndQueuesComplete : Prop :=
  (∀ (f : M3) (s : State) (n : Nat), s.canIssue (.send f) f.sp (f.ty == .px) [f.od, f.oa, f.ob, f.oc, .queue 1] = true →
    sendLegal f ((s.core s.self).ty f.ty) false = true →
    let c := s.core s.self
    let k := (n + 63) / 64
    c.plen f.ob = .ok n → s.checkTarget s.self (c.preg (regOf f.od)) = .ok () →
    c.msgs.length < 64 → c.msgs.length + c.outbox.length < 128 →
    ends s (.send f) f.sp (f.ty == .px) ({ c.setQ 1 ((c.queue 1).drop k) with msgs := c.msgs ++ [(⟨c.preg (regOf f.od), n,
      ((((c.queue 1).take k).flatMap fun (e : QEntry) => e.toList) ++ List.replicate 128 (⟨0, false⟩ : Lane)).take (n / 4),
      false⟩ : OutMsg)] }, none)) ∧
  (∀ (f : M3) (s : State) (n : Nat), m3Ready s (.sendr f) f (fun t => sendLegal f t true) →
    let c := s.core s.self
    let off := (c.opAddr 4 f.oa).toNat
    c.checkLocals 4 [(f.oa, n, 4)] = .ok () → soundAt c 4 f.oa n → c.plen f.ob = .ok n → s.checkTarget s.self (c.preg (regOf f.od)) = .ok () →
    c.msgs.length < 64 → c.msgs.length + c.outbox.length < 128 →
    ends s (.sendr f) f.sp (f.ty == .px) (({ c.wakeBanks off n with
      msgs := c.msgs ++ [(⟨c.preg (regOf f.od), n, c.spWords off (n / 4), false⟩ : OutMsg)] }).opIncs 4 [f.oa], none)) ∧
  (∀ (f : M3) (s : State) (n : BitVec 3), m3Ready s (.qcnt f) f (fun t => fixedM3 f t .u32 0) → f.fn = 0 → oneDst f.od = true →
    absent [f.ob, f.oc] = true → f.oa = .queue n → (s.core s.self).checkLocals 4 [(f.od, 4, 4)] = .ok () →
    ends s (.qcnt f) f.sp (f.ty == .px)
      (((s.core s.self).writeElems 4 f.od .u32 [⟨((s.core s.self).queue n).length, true⟩]).1.opIncs 4 [f.od], none)) ∧
  (∀ (f : M3) (s : State) (a : Act), m3Ready s (.qcnt f) f (fun t => fixedM3 f t .u32 0) → f.fn = 1 → oneDst f.od = true →
    absent [f.oa, f.ob, f.oc] = true → (s.core s.self).act = some a → (s.core s.self).checkLocals 4 [(f.od, 4, 4)] = .ok () →
    let q := (s.core s.self).rq a.brec
    ends s (.qcnt f) f.sp (f.ty == .px)
      (((s.core s.self).writeElems 4 f.od .u32 [⟨q.msgs.length + q.spilled.length, true⟩]).1.opIncs 4 [f.od], none)) ∧
  (∀ (f : M3) (s : State), s.canIssue (.waitq f) f.sp (f.ty == .px) ([f.od, f.oa, f.ob, f.oc] ++
      (bitsOf (waitMask (s.core s.self) f.oa)).map fun k => .queue (BitVec.ofNat 3 k)) = true →
    fixedM3 f ((s.core s.self).ty f.ty) .u32 0 = true → f.fn.toNat ≤ 1 → f.oc = .zero →
    (oneDst f.od || f.od == .zero) = true → incClash f.od [f.oa, f.ob] = false →
    (isRegOp f.oa = true ∨ ∃ v, f.oa = .imm v ∧ v.getLsbD 1 = false ∧ v.extractLsb' 8 5 = 0 ∧ v.extractLsb' 0 8 ≠ 0) →
    (isRegOp f.ob = true ∨ ∃ v, f.ob = .imm v ∧ v.msb = false) →
    let c := s.core s.self
    let m := waitMask c f.oa
    (f.od = .zero ∨ c.checkLocals 4 [(f.od, 4, 4)] = .ok ()) →
    (m = 0 ∨ (f.fn = 0 ∧ c.held m ≠ 0) ∨ (f.fn = 1 ∧ c.held m = m) ∨ ∃ x, c.wait = .waitq x true) →
    ends s (.waitq f) f.sp (f.ty == .px)
      (if f.od = .zero then c else (c.writeU32 4 f.od (c.held m).toNat).opIncs 4 [f.od], none))

/-- GANG, UNGANG, REJOIN and YIELD complete as R337 and R340 to R342 say: the status is written and the activation becomes
irrevocable; status 0 forms or dissolves the gang; a leader's REJOIN takes in the members that wait at its slot, once the others
have followed its path; YIELD asks for a stop where another queue of its level or above waits. Readings of the model in it: log
entry 51. -/
def Obligations.GangsComplete : Prop :=
  (∀ (f : M3) (s : State) (a : Act), m3Ready s (.gang f) f (gangLegal f) → (oneDst f.od || f.od == .zero) = true →
    regOrImm f.oa = true → (s.core s.self).act = some a →
    (f.od = .zero ∨ (s.core s.self).checkLocals 4 [(f.od, 4, 4)] = .ok ()) →
    let g := s.self
    let m := (s.core g).pOrImm f.oa
    let st := s.gangStatus g m a.rid
    let base := 64 * (g / 64) + g % 64 / 16 * 16
    let s1 := if st = 0 then (bitsOf (m.extractLsb' 0 16)).foldl (fun t j => t.modCore (base + j) fun c =>
      c.joinGang (m.extractLsb' 0 16) (g % 64) (base + j == g) a.rid) s else s
    exec (.gang f) s = .next ((s1.modCore g fun c => ((c.writeU32 4 f.od st).opIncs 4 [f.od]).makeIrrev).retired s (.gang f)
      f.sp (f.ty == .px))) ∧
  (∀ (f : M3) (s : State) (a : Act), m3Ready s (.ungang f) f (gangLegal f) → (oneDst f.od || f.od == .zero) = true →
    f.oa = .zero → (s.core s.self).act = some a →
    (f.od = .zero ∨ (s.core s.self).checkLocals 4 [(f.od, 4, 4)] = .ok ()) →
    let g := s.self
    let st := if (s.core g).st.getLsbD 18 = false then 1 else if a.gang || s.gangSuspended g then 2 else 0
    let s1 := if st = 0 then s.dissolve g else s
    exec (.ungang f) s = .next ((s1.modCore g fun c => ((c.writeU32 4 f.od st).opIncs 4 [f.od]).makeIrrev).retired s (.ungang f)
      f.sp (f.ty == .px))) ∧
  (∀ (f : M3) (s : State) (a : Act), m3Ready s (.rejoin f) f (gangLegal f) → absent [f.od, f.oa] = true →
    (s.core s.self).act = some a →
    let out := (s.actCores s.self).filter fun k => match (s.core k).act with
      | some b => b.detached && !b.ended
      | none => false
    ((a.gang = false ∨ (a.leader = false ∧ (a.detached = false ∨ s.leaderRuns s.self = false))) →
      exec (.rejoin f) s = .next (s.retired s (.rejoin f) f.sp (f.ty == .px))) ∧
    (a.gang = true → a.leader = true → (∀ k ∈ out, (s.core k).atRejoin none = true) →
      (∀ k ∈ s.followers s.self, (s.core k).gpath = []) →
      exec (.rejoin f) s = .next (((out.filter fun k => (s.core k).atRejoin (some (s.core s.self).pc)).foldl
        (fun t k => t.modCore k fun d => d.attach (s.core s.self).fetch) s).retired s (.rejoin f) f.sp (f.ty == .px)))) ∧
  (∀ (f : M3) (s : State) (a : Act), m3Ready s (.yield f) f (fun t => f.sp && fixedM3 f t .i8 0) → f.fn = 0 →
    absent [f.od, f.oa, f.ob, f.oc] = true → (s.core s.self).act = some a → a.gang = false →
    exec (.yield f) s = .next ((if (s.core s.self).trapActive = false ∧ s.othersWait s.self (fun l => decide (l ≤ a.lr)) = true then
      s.modCore s.self fun c => { c with stopReq := true } else s).retired s (.yield f) f.sp (f.ty == .px)))

/-! ### System registers, traps, translation and the other system instructions -/

/-- SRD writes the register's value, zero-extended, to its destination; a register for supervisors raises PRIV at user privilege
(R399 to R401). SWR, with the rows of its own that SRSEED, SPCFG, SPPWR and MXRP have: a valid source is written under the
register's access codes; an invalid one writes nothing; a register that the privilege does not reach raises PRIV; SRSEED takes 1
for 0; a mailbox request whose block is in IMMEDIATE pages with R and W joins the requests of its core, one with bits 5:0 nonzero
raises ALIGN, one in the window or a PHASED page TXPERM (R345); a new split of the L1 and the scratchpad waits until nothing uses
the scratchpad; a bank's new state is taken at once or after its change completes, the source read once; writing 1 to MXRP.HLT
discards what is halted (R71, R142, R178, R183, R400). Readings of the model in it: log entry 63. -/
def Obligations.SystemRegistersComplete : Prop :=
  (∀ (f : SY) (s : State) (v : W64), s.canIssue (.srd f) f.sp false [f.oa] = true → srLegal f false s = true →
    let c := s.core s.self
    c.checkLocals 8 [(f.oa, 8, 8)] = .ok () → s.readSr s.self f.srn.toNat = some v →
    ((srdSup f.srn.toNat && c.user) = false →
      ends s (.srd f) f.sp false ((c.writeU64 8 f.oa v.toNat).opIncs 8 [f.oa], none)) ∧
    ((srdSup f.srn.toNat && c.user) = true → exec (.srd f) s = .next (s.faultAt s.self .priv 0))) ∧
  (∀ (f : SY) (s : State) (c1 : Core) (e : El) (fl : Flags), srLegal f true s = true →
    let g := s.self
    let c := s.core g
    let ready (i : Instr) : Prop := s.canIssue i f.sp false [f.oa] = true
    let n := f.srn.toNat
    let x : W64 := BitVec.ofNat 64 e.b
    let t := s.setCore g c1
    let fin (i : Instr) (u : State) : Prop :=
      exec i s = .next ((u.modCore g fun c => c.opIncs 8 [f.oa]).retired s i f.sp false)
    c.checkLocals 8 [(f.oa, 8, 8)] = .ok () → c.readElems (s.canFill g) 8 f.oa .u64 1 = .ok (c1, [e], fl) →
    (∀ i ∈ [Instr.swr f, .writeSrseed f, .writeMxrpHlt f, .writeSpcfg f, .writeSppwr f], ready i →
      (i = .writeSppwr f → ∀ w, c.wait ≠ .sp w) →
      (e.v = false → ends s i f.sp false (c1.opIncs 8 [f.oa], none)) ∧
      (e.v = true → swrPriv n c1 = true → exec i s = .next (s.faultAt g .priv 0))) ∧
    (e.v = true → swrPriv n c1 = false →
      (ready (.swr f) → n ≠ 0x082 → n ≠ 0x0A1 → fin (.swr f) (t.modCore g fun c => c.swr n x)) ∧
      (ready (.swr f) → n = 0x082 →
        (x.extractLsb' 0 6 ≠ 0 → exec (.swr f) s = .next (s.faultAt g .align x)) ∧
        (x.extractLsb' 0 6 = 0 → inWindow x = true → exec (.swr f) s = .next (s.faultAt g .txperm x)) ∧
        (∀ l, x.extractLsb' 0 6 = 0 → inWindow x = false →
          t.segs (.core g) (g / 64) (some g) (t.core g).asid (t.core g).user .rw .current 2 x 128 = .ok l →
          (l.all Seg.imm = false → exec (.swr f) s = .next (s.faultAt g .txperm x)) ∧
          (l.all Seg.imm = true → (t.core g).mbx.length < 4 → fin (.swr f) ((t.fillAll (.core g) (g / 64) l).modCore g fun c =>
            { c.makeIrrev with mbx := c.mbx ++ [⟨x, c.actRid, c.asid⟩] })))) ∧
      (ready (.swr f) → n = 0x0A1 → fin (.swr f) (let m := clusterOfCore g
        t.setPwr m { t.pwr m with thrrsn := (t.pwr m).thrrsn &&& ~~~(x.extractLsb' 0 32 &&& 0x3F) })) ∧
      (ready (.writeSrseed f) → fin (.writeSrseed f) (t.modCore g fun c =>
        { c with srseed := if x.extractLsb' 0 32 = 0 then 1 else x.extractLsb' 0 32 })) ∧
      (ready (.writeMxrpHlt f) → ∀ b, (t.mxe (clusterOfCore g)).bindOf (t.core g).actRid = some b →
        (x.getLsbD 31 && (t.mxe (clusterOfCore g)).hlt b) = true →
        fin (.writeMxrpHlt f) (t.setMxe (clusterOfCore g) ((t.mxe (clusterOfCore g)).discardHalted b))) ∧
      (ready (.writeSpcfg f) → let k := (x.extractLsb' 0 3).toNat
        k ≤ 4 → k ≠ ((t.core g).spcfg.extractLsb' 0 3).toNat → (t.core g).pend = [] → t.spadBusy g = false →
        fin (.writeSpcfg f) (t.modCore g fun c => c.setSplit k)) ∧
      (ready (.writeSppwr f) → (∀ w, c.wait ≠ .sp w) → let v : BitVec 6 := x.extractLsb' 0 6
        let d := (t.core g).askBanks v
        (d.bankPend = 0 → fin (.writeSppwr f) (t.setCore g d)) ∧
        (d.bankPend ≠ 0 → exec (.writeSppwr f) s = .next (t.setCore g { d with wait := .sp v }))))) ∧
  (∀ (f : SY) (s : State) (w : BitVec 6), srLegal f true s = true → s.canIssue (.writeSppwr f) f.sp false [f.oa] = true →
    (s.core s.self).wait = .sp w → (s.core s.self).bankPend = 0 →
    exec (.writeSppwr f) s = .next ((s.modCore s.self fun c => c.opIncs 8 [f.oa]).retired s (.writeSppwr f) f.sp false))

/-- What SWR leaves in the registers of R77 to R79, R275 and R401: the sticky flags of ST that the value names are cleared and
nothing else of ST changes; FM keeps its reserved bits and never takes a mode 0 or 7; PX never holds the type code 0xF; CEPAT
takes its fields; TSPC and TSADR take the value, TSST every field that ST has, TSPX what PX would, TSINF its fields SCRC, TNUM and
CODE, and keeps ACT and its reserved bits; each write changes its own register and nothing else of the core. Readings of the
model in it: log entry 61. -/
def Obligations.SystemWriteValues : Prop :=
  ∀ (c : Core) (v : W64),
    (∀ k, k < 32 → ((c.swr 0x010 v).st.getLsbD k =
      (c.st.getLsbD k && !((k == 0 || k == 1 || k == 2 || k == 3 || k == 4 || k == 6 || k == 7) && v.getLsbD k)))) ∧
    (c.swr 0x011 v).fm.extractLsb' 5 27 = c.fm.extractLsb' 5 27 ∧
    (c.swr 0x011 v).fm.extractLsb' 3 2 = v.extractLsb' 3 2 ∧
    ((c.swr 0x011 v).fm.extractLsb' 0 3 =
      if v.extractLsb' 0 3 = 0 ∨ v.extractLsb' 0 3 = 7 then c.fm.extractLsb' 0 3 else v.extractLsb' 0 3) ∧
    (c.swr 0x012 v).px.extractLsb' 0 4 = (if v.extractLsb' 0 4 = 0xF then 0 else v.extractLsb' 0 4) ∧
    (c.swr 0x012 v).px.extractLsb' 8 4 = (if v.extractLsb' 8 4 = 0xF then 0 else v.extractLsb' 8 4) ∧
    (c.swr 0x012 v).px.getLsbD 4 = v.getLsbD 4 ∧ 
    (∀ k, k < 64 → ((c.swr 0x070 v).cepat.getLsbD k =
      if k < 6 ∨ (8 ≤ k ∧ k < 14) ∨ (16 ≤ k ∧ k < 20) ∨ (24 ≤ k ∧ k < 32) ∨ (40 ≤ k ∧ k < 56) then v.getLsbD k
      else c.cepat.getLsbD k)) ∧
    (c.swr 0x0B2 v).tspc = v ∧ (c.swr 0x0B6 v).tsadr = v ∧ (c.swr 0x0B5 v).trapActive = c.trapActive ∧
    (∀ k, k < 32 → ((c.swr 0x0B3 v).tsst.getLsbD k =
      ((k < 5 ∨ k = 6 ∨ k = 7 ∨ (13 ≤ k ∧ k < 20) : Bool) && v.getLsbD k))) ∧
    (c.swr 0x0B4 v).tspx = (c.swr 0x012 v).px ∧
    (c.swr 0x0B5 v).tsinf.extractLsb' 48 16 = v.extractLsb' 48 16 ∧ (c.swr 0x0B5 v).tsinf.extractLsb' 28 12 = v.extractLsb' 28 12 ∧
    (c.swr 0x0B5 v).tsinf.extractLsb' 0 8 = v.extractLsb' 0 8 ∧
    (c.swr 0x0B5 v).tsinf.extractLsb' 40 8 = c.tsinf.extractLsb' 40 8 ∧
    (c.swr 0x0B5 v).tsinf.extractLsb' 8 20 = c.tsinf.extractLsb' 8 20 ∧
    c.swr 0x010 v = { c with st := (c.swr 0x010 v).st } ∧ c.swr 0x011 v = { c with fm := (c.swr 0x011 v).fm } ∧
    c.swr 0x012 v = { c with px := (c.swr 0x012 v).px } ∧ c.swr 0x070 v = { c with cepat := (c.swr 0x070 v).cepat } ∧
    c.swr 0x0B2 v = { c with tspc := v } ∧ c.swr 0x0B3 v = { c with tsst := (c.swr 0x0B3 v).tsst } ∧
    c.swr 0x0B4 v = { c with tspx := (c.swr 0x0B4 v).tspx } ∧ c.swr 0x0B5 v = { c with tsinf := (c.swr 0x0B5 v).tsinf } ∧
    c.swr 0x0B6 v = { c with tsadr := v }

/-- TRAP enters the supervisor handler of FHIX with TSPC the slot after it, the CRC through it, its number in TNUM and code 0;
with no handler, or a handler not for supervisors, the address space is killed; with a trap active it raises PRIV (R402). ERET
returns: ST, PX and the running CRC from TSST, TSPX and TSINF.SCRC, but for ST's GIN and GLD, which show the gang as it is (R338);
ACT cleared, PC the slot in TSPC, entered unchecked, a wait that the trap interrupted there going on (R240); outside a trap, at user privilege or towards a higher privilege it raises PRIV, and to an address that names no slot ALIGN (R403). -/
def Obligations.TrapsEnterAndReturn : Prop :=
  (∀ (f : M3) (s : State) (a : Act) (r : Region), m3Ready s (.trap f) f (fun t => fixedM3 f t .i8 0) → f.sp = false → f.fn = 0 →
    numOperand f.ob = true → absent [f.od, f.oa, f.oc] = true → (s.core s.self).act = some a → s.region a.rid = some r →
    let g := s.self
    let c := s.core g
    ((c.trapActive = true) → exec (.trap f) s = .next (s.faultAt g .priv 0)) ∧
    (c.trapActive = false → ∀ e, s.handler (g / 64) r r.fhix = some e → e.sup = true →
      exec (.trap f) s = .next (s.modCore g fun c => { c with
        tspc := nextSlot c.pc, tsst := c.st, tspx := c.px, tsadr := 0
        tsinf := foldInstr c.crc (.trap f) ++ 0#8 ++ (c.pOrImm f.ob).extractLsb' 0 12 ++ 0#11 ++ 1#1 ++ 0#8 ++ 0#8
        st := ((c.setPp false).setPl 1).st, pc := e.pc, entered := .checked c.pc, crc := 0xFFFF, wait := .none
        safe := none, trapWait := if c.wait.stands then some (c.pc, c.wait) else none })) ∧
    (c.trapActive = false → ∀ e, s.handler (g / 64) r r.fhix = some e → e.sup = false →
      exec (.trap f) s = .next (s.kill c.asid 2 0x07)) ∧
    (c.trapActive = false → s.handler (g / 64) r r.fhix = none → exec (.trap f) s = .next (s.kill c.asid 2 0x0E))) ∧
  (∀ (f : M3) (s : State), m3Ready s (.eret f) f (fun t => fixedM3 f t .i8 0) → f.sp = false → f.fn = 0 →
    absent [f.od, f.oa, f.ob, f.oc] = true →
    let g := s.self
    let c := s.core g
    let pl := (c.tsst.extractLsb' 14 2).toNat
    let may := c.pl ≠ 0 ∧ c.trapActive = true ∧ pl ≠ 3 ∧ pl ≤ c.pl
    (may → slotOk c.tspc = true → exec (.eret f) s = .next (s.setCore g { c with
      st := (c.tsst &&& ~~~0xC0000) ||| (c.st &&& 0xC0000), px := c.tspx, crc := c.tsinf.extractLsb' 48 16
      tsinf := c.tsinf &&& ~~~0x10000#64, pc := c.tspc, entered := .resumed, safe := none, trapWait := none
      wait := match c.trapWait with
        | some (pc, w) => if pc = c.tspc then w else .none
        | none => .none })) ∧
    (¬ may → exec (.eret f) s = .next (s.faultAt g .priv 0)) ∧
    (may → slotOk c.tspc = false → exec (.eret f) s = .next (s.faultAt g .align c.tspc)))

/-- TLBINV at supervisor privilege sends its range to every chiplet it concerns and waits; it completes when every one of them
has carried the invalidation out; at user privilege it raises PRIV (R396). Readings of the model in it: log entry 33. -/
def Obligations.TlbInvalidationCompletes : Prop :=
  ∀ (f : M3) (s : State) (i : Instr) (fn : BitVec 10) (lo hi : Nat),
    let g := s.self
    let c := s.core g
    let a := c.preg (regOf f.oa)
    let l := c.preg (regOf f.ob)
    (i = .tlbinvPage f ∧ fn = 0 ∧ canonical a = true ∧ lo = a.toNat ∧ hi = a.toNat + 1) ∨
      (i = .tlbinvRange f ∧ fn = 1 ∧ canonical a = true ∧ (l = 0 ∨ canonical (a + l - 1) = true) ∧ lo = a.toNat ∧
        hi = a.toNat + l.toNat) ∨ (i = .tlbinvAsid f ∧ fn = 2 ∧ lo = 0 ∧ hi = 2 ^ 64) →
    m3Ready s i f (fun t => tlbinvLegal f t fn) →
    ((∀ id, c.wait ≠ .tlbinv id) → c.user = true → exec i s = .next (s.faultAt g .priv 0)) ∧
    ((∀ id, c.wait ≠ .tlbinv id) → c.user = false → exec i s = .next
      ((s.invalChips.foldl (fun (t : State) n => t.modChip n fun k => { k with invals := k.invals ++ [⟨s.invalNext, c.asid, lo, hi⟩] })
        { s with invalNext := s.invalNext + 1 }).modCore g fun c => { c with wait := .tlbinv s.invalNext })) ∧
    (∀ id, c.wait = .tlbinv id → (s.chips.any fun x => x.2.invals.any fun v => v.id == id) = false →
      exec i s = .next (s.retired s i f.sp (f.ty == .px)))

/-- XLAT, SCRUB, PWRB, BRK and SIGCHK complete with the effects of R404, R406, R439, R442 and R446.
Readings of the model in it: log entry 62. -/
def Obligations.OtherSystemComplete : Prop :=
  (∀ (f : M3) (s : State), m3Ready s (.xlat f) f (fun t => fixedM3 f t .u64 1) → f.fn.toNat ≤ 3 → isRegOp f.oa = true →
    oneDst f.od = true → incClash f.od [f.oa] = false → absent [f.ob, f.oc] = true →
    (s.core s.self).checkLocals 8 [(f.od, 8, 8)] = .ok () →
    let g := s.self
    let x := s.xlat g ((s.core g).preg (regOf f.oa)) (xlatNeed f.fn)
    let s1 := match x.2 with
      | some e => s.fillTlb (.core g) (g / 64) e
      | none => s
    exec (.xlat f) s = .next ((s1.modCore g fun c => (c.writeU64 8 f.od x.1.toNat).opIncs 8 [f.od]).retired s (.xlat f) f.sp
      (f.ty == .px))) ∧
  (∀ (f : M3) (s : State) (fr : List Nat) (pa : Nat) (e : TlbEntry), m3Ready s (.scrubPage f) f (fun t => scrubLegal f t 0) →
    let g := s.self
    (s.core g).user = false → s.scrubPlace g ((s.core g).preg (regOf f.oa)) = .ok (fr, pa, e) →
    homesClash (s.core g).pend [homeOf e.leaf pa] = false →
    let t := fr.foldl (fun t k => t.scrubBytes (4096 * k) 4096) ((s.fillTlb (.core g) (g / 64) e).makeIrrev g)
    exec (.scrubPage f) s = .next (({ t with marks := t.marks.filter fun k => !fr.contains k
                                             writers := t.writers.filter fun x => !fr.contains x.1 } : State).retired s
      (.scrubPage f) f.sp (f.ty == .px))) ∧
  (∀ (f : M3) (s : State) (fr : List Nat) (pa : Nat) (e : TlbEntry), m3Ready s (.scrubLine f) f (fun t => scrubLegal f t 1) →
    let g := s.self
    (s.core g).user = false → s.scrubPlace g ((s.core g).preg (regOf f.oa)) = .ok (fr, pa, e) →
    (∀ k ∈ fr, s.marked k = false) → homesClash (s.core g).pend [homeOf e.leaf pa] = false →
    exec (.scrubLine f) s = .next (((((s.fillTlb (.core g) (g / 64) e).makeIrrev g).scrubBytes (pa / 128 * 128) 128).noteWriter
      (s.core g).asid [.pa pa]).retired s (.scrubLine f) f.sp (f.ty == .px))) ∧
  (∀ (f : M3) (s : State), m3Ready s (.pwrbCap f) f (fun t => pwrbLegal f t 0) →
    (f.od = .zero ∨ (s.core s.self).checkLocals 4 [(f.od, 4, 4)] = .ok ()) →
    let c := s.core s.self
    let d := (c.writeU32 4 f.od c.pwrcap.toNat).opIncs 4 [f.od]
    let v := (c.pOrImm f.oa).toInt
    ends s (.pwrbCap f) f.sp (f.ty == .px) ({ d with pwrcap := putField c.pwrcap 0 5 (min (max v 1) 16).toNat }, none)) ∧
  (∀ (f : M3) (s : State), m3Ready s (.pwrbGate f) f (fun t => pwrbLegal f t 1) →
    (f.od = .zero ∨ (s.core s.self).checkLocals 4 [(f.od, 4, 4)] = .ok ()) →
    let c := s.core s.self
    let d := (c.writeU32 4 f.od c.pwrcap.toNat).opIncs 4 [f.od]
    ends s (.pwrbGate f) f.sp (f.ty == .px) ({ d with pwrcap := c.pwrcap ||| 0x100 }, none)) ∧
  (∀ (f : M3) (s : State) (a : Act), m3Ready s (.brk f) f (fun t => fixedM3 f t .i8 0) → f.sp = false → f.fn = 0 →
    numOperand f.ob = true → absent [f.od, f.oa, f.oc] = true → (s.core s.self).act = some a →
    let c := s.core s.self
    let on := match s.space? c.asid with
      | some r => r.debug
      | none => false
    (on = false ∨ c.trapActive = true → exec (.brk f) s = .next (s.retired s (.brk f) f.sp (f.ty == .px))) ∧
    (on = true → c.trapActive = false → c.pend = [] → s.othersStop s.self = true →
      exec (.brk f) s = .next (s.brkAt s.self a (.brk f) ((c.pOrImm f.ob).extractLsb' 0 12).toNat))) ∧
  (∀ (sp : Bool) (sig : BitVec 16) (s : State), s.canIssue (.sigchk sp sig) sp false [] = true →
    let c := s.core s.self
    (foldInstr c.crc (.sigchk sp sig) = sig → exec (.sigchk sp sig) s = .next (s.retired s (.sigchk sp sig) sp false)) ∧
    (foldInstr c.crc (.sigchk sp sig) ≠ sig → exec (.sigchk sp sig) s = .next (s.faultAt s.self .sigm 0)))

/-- Bytes stored at their homes and scrubbed bytes, and no others, change (R438, R439): after a store to different places of
DRAM each reads what was stored, after a scrub each byte of its range reads zero and is not poisoned; every other byte of DRAM,
and after a scrub every byte of the hosts, reads as before; of the cores only L1 copies go; memory keeps its canonical form. -/
def Obligations.StoresAndScrubsTouchOnly : Prop :=
  (∀ (s : State) (asid : W16) (l : List (Nat × Byte)), Memory.wf s.mem = true → (l.map (·.1)).Nodup →
    let t := s.storeHome asid (l.map fun x => (.pa x.1, x.2))
    Memory.wf t.mem = true ∧ (∀ x ∈ l, Memory.get t.mem x.1 = x.2) ∧
    (∀ a, a ∉ l.map (·.1) → Memory.get t.mem a = Memory.get s.mem a) ∧
    (∀ k, KV.get (0 : Byte) t.hostMem k = KV.get 0 s.hostMem k) ∧ t.cores = s.cores) ∧
  (∀ (s : State) (a n : Nat), Memory.wf s.mem = true → a % 128 = 0 → n % 128 = 0 →
    let t := s.scrubBytes a n
    Memory.wf t.mem = true ∧
    (∀ x, Memory.get t.mem x = if a ≤ x ∧ x < a + n then 0 else Memory.get s.mem x) ∧
    (∀ x, t.poisonedAt (.pa x) = if a ≤ x ∧ x < a + n then false else s.poisonedAt (.pa x)) ∧
    (∀ k, KV.get (0 : Byte) t.hostMem k = KV.get 0 s.hostMem k) ∧ (∀ k, { t.core k with l1 := (s.core k).l1 } = s.core k))

/-! ### Memory, atomic, merge-log, barrier and counter instructions -/

/-- LD and LDEF complete: a load whose address lies in the scratchpad window delivers its lanes to OD at once; any other leaves
an access in flight that names OD, with the caches filled on the way (R217, R219, R222). ST completes: words for the window go
to the scratchpad, bytes for PHASED pages enter the phase log, bytes for IMMEDIATE pages leave as an access in flight, and make
the activation irrevocable, and a home that gets no byte sees no access; the log full raises LOGFULL with no effect (R207, R213, R217, R223). Readings of the model in it:
log entries 9, 87. -/
def Obligations.LoadsAndStoresComplete : Prop :=
  (∀ (f : M3) (s : State) (i : Instr) (ef : Bool) (ps : List Piece), (i = .ld f ∧ ef = false) ∨ (i = .ldef f ∧ ef = true) →
    m3Ready s i f (ldLegal f) →
    let g := s.self
    let c := s.core g
    let t := c.ty f.ty
    let fp := fpOf f.ln
    let va := c.opAddr fp f.oa
    c.checkLocals fp [(f.od, fp, 4)] = .ok () → s.globalAccess g va fp (globalAlign t) .r = .ok ps →
    c.readablePieces ps = .ok () → s.hasRoom g f.od = true → (segsOf ps = [] ∨ c.loadsOut < 16) →
    let r := (s.fillAll (.core g) (g / 64) (segsOf ps)).takeLanes g ef ps
    let s2 := r.2.modCore g fun c => (match c.destOf fp f.od with
      | .spad _ => c.wakeBanks ((s.core g).opAddr fp f.od).toNat fp
      | _ => c).opIncs fp [f.od, f.oa]
    (segsOf ps = [] → ∃ u, s2.deliver g (c.destOf fp f.od) t (r.1.map s2.laneNow) = .ok u ∧
      exec i s = .next (u.retired s i f.sp (f.ty == .px))) ∧
    (segsOf ps ≠ [] → exec i s = .next ((s2.modCore g fun d => { d with pend := d.pend ++
      [⟨.load r.1 (c.destOf fp f.od) t f.ln, ((segsOf ps).filter Seg.imm).map (·.home), c.pc, va, c.asid⟩] }).retired s i f.sp
        (f.ty == .px)))) ∧
  (∀ (f : M3) (s : State) (ps : List Piece) (c1 : Core) (lanes : List Lane),
    m3Ready s (.st f) f (fun t => isBits t && lnOk t f.ln && f.rm == .fm && f.fn == 0 && isMem f.od && storeSrc f.oa &&
      absent [f.ob, f.oc]) →
    let g := s.self
    let c := s.core g
    let t := c.ty f.ty
    let fp := fpOf f.ln
    let va := c.opAddr fp f.od
    s.globalAccess g va fp (globalAlign t) .w = .ok ps → c.checkLocals fp [(f.oa, fp, 4)] = .ok () →
    c.storeLanes (s.canFill g) fp f.oa t f.ln = .ok (c1, lanes) →
    let places := lanePlaces ps
    let words := places.zip (lanes.map (storeWord f.vp))
    let here := homeBytes words
    (here = [] ∨ c.othersOut < 16) →
    (∀ c2, c1.addEntries (c1.storeEntries (phasedBytes words)) = some c2 →
      let c3 := (places.zip lanes).foldl (fun c x => match x.1 with
        | .win off => c.spWrite off [windowWord f.vp x.2]
        | _ => c) c2
      let c4 := if here = [] then c3 else
        { c3.makeIrrev with pend := c3.pend ++ [⟨.store here, ((segsOf ps).filter Seg.imm).map (·.home), c.pc, va, c.asid⟩] }
      exec (.st f) s = .next ((((s.setCore g (c4.opIncs fp [f.od, f.oa])).fillAll (.core g) (g / 64) (segsOf ps)).l2Segs (g / 64)
        c.asid ((segsOf ps).filter fun x => x.imm && here.any fun y => x.places.contains y.1) false).retired s (.st f)
        f.sp (f.ty == .px))) ∧
    (c1.addEntries (c1.storeEntries (phasedBytes words)) = none → exec (.st f) s = .next (s.faultAt g .logfull va)))

/-- AMO and LLOG complete: an atomic with valid values goes out to its home and makes the activation irrevocable, one with an
invalid value only leaves its destination invalid; LLOG enters one merge entry per valid element (R202, R230, R231). What an
atomic does at its home (R230): FN 0 adds, 1 to 3 are AND, OR and XOR, 4 and 5 the lesser and the greater in the type's order, 6
exchanges and 7 exchanges only where memory holds the comparand. What a run does at its home at the boundary (R204, R205): a
merge combines the element with its operands and changes no other byte, a store writes the bytes of its mask and no other.
Readings of the model in it: log entries 9, 87. -/
def Obligations.AtomicsAndMergesComplete : Prop :=
  (∀ (f : M3) (s : State) (ps : List Piece) (sg : List Seg) (c1 : Core) (xs : List (List El)) (fl : Flags),
    m3Ready s (.amo f) f (fun t => wordInt t && oneElem t f.ln && f.vp == .propagate && f.rm == .fm &&
      decide (f.fn.toNat ≤ 7) && amoDst f.od && isMem f.oa && amoSrc f.ob &&
      (if f.fn = 7 then amoSrc f.oc else f.oc == .zero) && !incClash f.od [f.oa, f.ob, f.oc]) →
    let g := s.self
    let c := s.core g
    let t := c.ty f.ty
    let fp := fpOf f.ln
    let va := c.opAddr fp f.oa
    let srcs := if f.fn = 7 then [f.ob, f.oc] else [f.ob]
    (f.od = .zero ∨ c.checkLocals fp [(f.od, fp, 4)] = .ok ()) → s.globalAccess g va fp fp .rw = .ok ps →
    immediateObject ps va = .ok sg → c.checkLocals fp (srcs.map fun o => (o, fp, 4)) = .ok () →
    c.readAll (s.canFill g) fp t 1 srcs = .ok (c1, xs, fl) → s.hasRoom g f.od = true →
    let b := (xs.getD 0 []).getD 0 ⟨0, false⟩
    let m := (xs.getD 1 []).getD 0 ⟨0, true⟩
    let dest := if f.od = .zero then Dest.none else c.destOf fp f.od
    ((b.v && m.v) = true → c.othersOut < 16 →
      exec (.amo f) s = .next (((((s.setCore g c1).fillAll (.core g) (g / 64) sg).l2Segs (g / 64) c.asid sg false).modCore g fun d =>
        { (d.opIncs fp [f.od, f.oa, f.ob, f.oc]).makeIrrev with pend := d.pend ++ [⟨.amo f.fn t (sg.flatMap Seg.places)
          (BitVec.ofNat 64 b.b) (BitVec.ofNat 64 m.b) dest, sg.map (·.home), c.pc, va, c.asid⟩] }).retired s (.amo f) f.sp
            (f.ty == .px))) ∧
    ((b.v && m.v) = false → ∃ u, (s.setCore g c1).invalidate g dest (lanesFor t 1) = .ok u ∧
      exec (.amo f) s = .next ((u.modCore g fun c => c.opIncs fp [f.od, f.oa, f.ob, f.oc]).retired s (.amo f) f.sp
        (f.ty == .px)))) ∧
  (∀ (f : M3) (s : State) (ps : List Piece) (c1 c2 : Core) (els : List El) (fl : Flags),
    m3Ready s (.llog f) f (fun t => llogTy f.fn t && lnOk t f.ln && f.vp == .propagate && f.rm == .fm && isMem f.od &&
      storeSrc f.oa && absent [f.ob, f.oc]) →
    let g := s.self
    let c := s.core g
    let t := c.ty f.ty
    let fp := fpOf f.ln
    let va := c.opAddr fp f.od
    s.globalAccess g va fp (globalAlign t) .w = .ok ps → (∀ p ∈ ps, ∃ x, p = .glob x ∧ x.imm = false) →
    c.checkLocals fp [(f.oa, fp, 4)] = .ok () → c.readElems (s.canFill g) fp f.oa t (elemCount t f.ln) = .ok (c1, els, fl) →
    c1.addEntries (c1.mergeEntries f.fn.toNat t ps va els) = some c2 →
    exec (.llog f) s = .next (((s.setCore g ((c2.opIncs fp [f.od, f.oa]).orFlags
      (if f.fn == 1 && els.any fun e => e.v && isSnan t e.b then fNV else fNone))).fillAll (.core g) (g / 64) (segsOf ps)).retired s
        (.llog f) f.sp (f.ty == .px))) ∧
  (∀ (t : Ty) (m b c : Nat), wordInt t = true → m < 2 ^ width t → b < 2 ^ width t → c < 2 ^ width t →
    let w := width t
    let x : BitVec w := BitVec.ofNat w m
    let y : BitVec w := BitVec.ofNat w b
    let lt (p q : BitVec w) : Bool := if isSigned t then p.slt q else p.ult q
    amoNew 0 t m b c = some (x + y).toNat ∧ amoNew 1 t m b c = some (x &&& y).toNat ∧
    amoNew 2 t m b c = some (x ||| y).toNat ∧ amoNew 3 t m b c = some (x ^^^ y).toNat ∧
    amoNew 4 t m b c = some (if lt y x then y else x).toNat ∧ amoNew 5 t m b c = some (if lt x y then y else x).toNat ∧
    amoNew 6 t m b c = some b ∧ amoNew 7 t m b c = (if m = c then some b else none)) ∧
  (∀ (m : Memory) (e : LogEntry) (fn : Nat) (t : Ty) (k : Nat) (x : W64) (xs : List W64), Memory.wf m = true →
    e.body = .merge fn t k (x :: xs) →
    let n := width t / 8
    let at0 := e.addr + k
    let v := comb fn t (leNat ((List.range n).map fun j => Memory.get m (at0 + j))) ((xs.map (·.toNat)).foldl (comb fn t) x.toNat)
    (∀ j, j < n → Memory.get (applyRun m [e]) (at0 + j) = BitVec.ofNat 8 (v / 256 ^ j)) ∧
    (∀ a, a < at0 ∨ at0 + n ≤ a → Memory.get (applyRun m [e]) a = Memory.get m a)) ∧
  (∀ (m : Memory) (e : LogEntry) (k : BitVec 8) (v : W64), Memory.wf m = true → e.body = .store k v →
    (∀ j, j < 8 → k.getLsbD j = true → Memory.get (applyRun m [e]) (e.addr + j) = v.extractLsb' (8 * j) 8) ∧
    (∀ a, (∀ j, j < 8 → k.getLsbD j = true → a ≠ e.addr + j) → Memory.get (applyRun m [e]) a = Memory.get m a))

/-- PF, PIN, UNPIN, PHASE, FENCE and HTSET complete: a prefetch of the window or of what does not translate changes nothing but
its pointer; PIN and UNPIN write their status and, at status 0, the retention register; PHASE ends once its acquire is done, at
once in no group, and first makes the activation irrevocable and arrives at the boundary of its group; FENCE ends once no access
is out in its scope; HTSET stores its entry, or raises TXNP where the host refuses the place (R224 to R229, R330, R414). Readings of the model in it: log entries 16, 57. -/
def Obligations.MemoryControlComplete : Prop :=
  (∀ (f : M3) (s : State), m3Ready s (.pf f) f (fun t => fixedM3 f t .i8 0) → f.fn.toNat ≤ 2 → isMem f.oa = true →
    absent [f.od, f.ob, f.oc] = true →
    let g := s.self
    let c := s.core g
    let va := c.opAddr 4 f.oa
    let fin (u : State) : Prop := exec (.pf f) s = .next ((u.modCore g fun c => c.opIncs 4 [f.oa]).retired s (.pf f) f.sp
      (f.ty == .px))
    (inWindow va = true ∨ (∃ e, s.seg (.core g) (g / 64) (some g) c.asid c.user va 1 .r .current = .error e) → fin s) ∧
    (∀ x, inWindow va = false → s.seg (.core g) (g / 64) (some g) c.asid c.user va 1 .r .current = .ok x →
      (x.imm = true → fin s) ∧
      (x.imm = false → f.fn.toNat ≤ 1 → fin ((s.fillTlb (.core g) (g / 64) x.entry).l1Lines g x (f.fn == 1))) ∧
      (x.imm = false → f.fn = 2 → hkOf x.leaf = 0 →
        fin ((s.fillTlb (.core g) (g / 64) x.entry).l2Segs (g / 64) c.asid [x] false)))) ∧
  (∀ (f : M3) (s : State), m3Ready s (.pin f) f (fun t => fixedM3 f t .u64 1) → f.fn.toNat ≤ 7 →
    [f.od, f.oa, f.ob, f.oc].all isRegOp = true →
    let g := s.self
    let c := s.core g
    let b := c.preg (regOf f.oa)
    let l := c.preg (regOf f.ob)
    let w := c.preg (regOf f.oc)
    let st := (s.chip (g / 64)).pinStatus f.fn.toNat c.asid b l w
    let u := if st = 0 then s.modChip (g / 64) fun k => { k with
      rctl := k.rctl.set! f.fn.toNat (1#1 ++ 0#31 ++ c.asid ++ w.extractLsb' 0 16), rbase := k.rbase.set! f.fn.toNat b
      rlen := k.rlen.set! f.fn.toNat l, rhit := k.rhit.set! f.fn.toNat 0, rovf := k.rovf.set! f.fn.toNat 0 } else s
    exec (.pin f) s = .next ((u.modCore g fun c => c.setP (regOf f.od) (BitVec.ofNat 64 st)).retired s (.pin f) f.sp
      (f.ty == .px))) ∧
  (∀ (f : M3) (s : State), m3Ready s (.unpin f) f (fun t => fixedM3 f t .u64 1) → f.fn.toNat ≤ 7 → isRegOp f.od = true →
    absent [f.oa, f.ob, f.oc] = true →
    let g := s.self
    let c := s.core g
    let r := (s.chip (g / 64)).rctl.getD f.fn.toNat 0
    let st := if retV r = false then 2 else if retAsid r ≠ c.asid ∧ c.user = true then 1 else 0
    let u := if st = 0 then s.modChip (g / 64) fun k => { k with rctl := k.rctl.set! f.fn.toNat (r &&& 0x7FFFFFFFFFFFFFFF) } else s
    exec (.unpin f) s = .next ((u.modCore g fun c => c.setP (regOf f.od) (BitVec.ofNat 64 st)).retired s (.unpin f) f.sp
      (f.ty == .px))) ∧
  (∀ (f : M3) (s : State), m3Ready s (.phase f) f (fun t => fixedM3 f t .i8 0) → f.fn = 0 →
    absent [f.od, f.oa, f.ob, f.oc] = true →
    let g := s.self
    let c := s.core g
    (c.wait = .acquired → exec (.phase f) s = .next (s.retired s (.phase f) f.sp (f.ty == .px))) ∧
    (c.wait = .none ∨ c.wait = .again → c.group = none →
      exec (.phase f) s = .next ((s.makeIrrev g).retired s (.phase f) f.sp (f.ty == .px))) ∧
    (∀ phg, c.wait = .none ∨ c.wait = .again → c.group = some phg → c.pend = [] → s.publOpen g = false →
      (∀ m ∈ s.mxOpen g, m.op < 0xA9 ∨ 0xAD < m.op) →
      let x := s.pgroup phg
      exec (.phase f) s = .next (((s.setGroup phg { x with
        started := true, heard := if x.heard.contains g then x.heard else g :: x.heard }).modCore g fun c =>
          { c.makeIrrev with wait := .phase, act := c.makeIrrev.act.map fun a => { a with phased := true } }).noteWaits g))) ∧
  (∀ (f : M3) (s : State), m3Ready s (.fence f) f (fun t => fixedM3 f t .i8 0) → f.fn.toNat ≤ 3 →
    absent [f.od, f.oa, f.ob, f.oc] = true →
    (∀ p ∈ (s.core s.self).pend, ∀ h ∈ p.homes, inScope f.fn (s.self / 64) h = false) →
    (∀ m ∈ s.mxOpen s.self, ∀ h ∈ s.astoreHomes m, inScope f.fn (s.self / 64) h = false) →
    exec (.fence f) s = .next (s.retired s (.fence f) f.sp (f.ty == .px))) ∧
  (∀ (f : M3) (s : State) (a : Act) (r : Region), m3Ready s (.htset f) f (fun t => fixedM3 f t .u32 3) → f.fn = 0 →
    regOrImm f.oa = true → isMem f.ob = true → absent [f.od, f.oc] = true →
    let g := s.self
    let c := s.core g
    let off := (c.opAddr 16 f.ob).toNat
    let words := c.spWords off 4
    let i := (c.pOrImm f.oa).toNat
    let va := r.htab + BitVec.ofNat 64 (16 * i)
    let after (c : Core) : Core := (c.wakeBanks off 16).opIncs 16 [f.ob]
    c.checkLocals 16 [(f.ob, 16, 16)] = .ok () → soundAt c 16 f.ob 16 →
    ((∃ x ∈ words, x.v = false) → exec (.htset f) s = .next ((s.modCore g after).retired s (.htset f) f.sp (f.ty == .px))) ∧
    ((∀ x ∈ words, x.v = true) → c.act = some a → s.region a.rid = some r → i < r.htlen →
      (c.user = true → i ≠ r.fhix ∧ (words.getD 1 ⟨0, false⟩).w.getLsbD 30 = false) →
      ∀ x, s.seg (.core g) (g / 64) (some g) c.asid c.user va 16 .w .current = .ok x → x.imm = true →
        (x.places.all s.hostOk = false → exec (.htset f) s = .next (s.faultAt g .txnp va)) ∧
        (x.places.all s.hostOk = true → homesClash c.pend [x.home] = false →
        let u := (s.storeHome c.asid (x.places.zip (bytesOf (words.map (·.w))))).useSegs g [x]
        exec (.htset f) s = .next ((u.modCore g fun c => (after c).makeIrrev).retired s (.htset f) f.sp (f.ty == .px)))))

/-- The barrier instructions complete (R236, R237): BARR.init sets EXP and clears ARR and BRK; an arrival that is the last opens
the barrier, any other counts and waits; the wait ends when the generation has moved on, with BROKEN where the barrier broke
(R238); BARR.exit takes the core out. The
counter and L1 instructions complete (R232 to R234, R239): CTRSET writes the count with clean status; CTRDEC takes the value off
and latches an underflow; CTRWAIT ends when the count is low enough, gives the status to its destination and the flags to ST,
and clears both; L1CLN, L1INV and L1INV_ALL act on the L1 alone. Readings of the model in it: log entries 17, 34, 57. -/
def Obligations.BarriersAndCountersComplete : Prop :=
  (∀ (f : M3) (s : State) (va : W64) (l : List Loc) (sg : List Seg),
    let g := s.self
    let c := s.core g
    let b := s.barrAt l
    let put (x : BarrObj) : State := (s.putBarr c.asid l x).useSegs g sg
    let fin (i : Instr) (u : State) : Prop := exec i s = .next (u.retired s i f.sp (f.ty == .px))
    (m3Ready s (.barrInit f) f (fun t => barrLegal f t 1) → s.barrOperand f.oa true = .ok (va, l, sg) →
      fin (.barrInit f) ((put { b with exp := (c.pOrImm f.ob).extractLsb' 0 32, arr := 0, brk := false }).modCore g fun c =>
        (c.opIncs 4 [f.oa]).makeIrrev)) ∧
    (m3Ready s (.barrExit f) f (fun t => barrLegal f t 2) → s.barrOperand f.oa false = .ok (va, l, sg) →
      fin (.barrExit f) ((put b.exit).modCore g fun c =>
        (c.opIncs 4 [f.oa]).makeIrrev.quitBarr va)) ∧
    (m3Ready s (.barrWait f) f (fun t => barrLegal f t 0) →
      (∀ gen, c.wait = .barrier va l gen → b.gen ≠ gen → fin (.barrWait f) (s.modCore g fun c => c.opIncs 4 [f.oa])) ∧
      (c.wait = .broken va → exec (.barrWait f) s = .next (s.faultAt g .broken va)) ∧
      ((∀ v p n, c.wait ≠ .barrier v p n) → (∀ v, c.wait ≠ .broken v) → s.barrOperand f.oa false = .ok (va, l, sg) →
        ((c.barrTable.any fun x => x.1 == va) = true ∨ c.barrTable.length < 8) →
        let tab (u : State) : State := u.modCore g fun c => c.makeIrrev.joinBarr va l
        (b.exp ≤ b.arr + 1 → fin (.barrWait f) ((tab (put { b with arr := 0, gen := b.gen + 1 })).modCore g fun c =>
          c.opIncs 4 [f.oa])) ∧
        (¬ b.exp ≤ b.arr + 1 → exec (.barrWait f) s = .next ((tab (put { b with arr := b.arr + 1 })).modCore g fun c =>
          { c with wait := .barrier va l b.gen }))))) ∧
  (∀ (f : M3) (s : State),
    let g := s.self
    let c := s.core g
    let off := (c.opAddr 4 f.oa).toNat
    let v : W32 := (c.pOrImm f.ob).extractLsb' 0 32
    let lo := (c.spGet off).w
    let hi := (c.spGet (off + 4)).w
    (c.checkLocals 4 [(f.oa, 8, 8)] = .ok () →
      (m3Ready s (.ctrset f) f (ctrLegal f) →
        ends s (.ctrset f) f.sp (f.ty == .px) ((c.spWrite off [⟨v, true⟩, ⟨0, true⟩]).opIncs 4 [f.oa], none)) ∧
      (m3Ready s (.ctrdec f) f (ctrLegal f) → c.sound off 8 = true →
        ends s (.ctrdec f) f.sp (f.ty == .px)
          ((c.spWrite off [⟨if lo.toNat < v.toNat then 0 else lo - v, true⟩,
            ⟨if lo.toNat < v.toNat then (hi &&& 0xFFFF0000) ||| 1 else hi &&& 0xFFFF0001, true⟩]).opIncs 4 [f.oa], none)) ∧
      (m3Ready s (.ctrwait f) f (fun t => fixedM3 f t .u32 0) → f.fn.toNat ≤ 1 → isMem f.oa = true → regOrImm f.ob = true →
        f.oc = .zero → (if f.fn = 1 then oneDst f.od else f.od == .zero) = true → incClash f.od [f.oa] = false →
        (f.fn = 1 → c.checkLocals 4 [(f.od, 4, 4)] = .ok ()) → c.sound off 8 = true → lo ≤ v →
        let c1 := (c.spWrite off [⟨lo, true⟩, ⟨0, true⟩]).orFlags (hi.extractLsb' 16 8)
        let st := (hi.extractLsb' 24 8).toNat + (if hi.getLsbD 0 then 256 else 0)
        ends s (.ctrwait f) f.sp (f.ty == .px)
          ((if f.fn = 1 then (c1.writeElems 4 f.od .u32 [⟨st, true⟩]).1 else c1).opIncs 4 [f.od, f.oa], none))) ∧
    (m3Ready s (.l1cln f) f (fun t => fixedM3 f t .i8 0) → f.fn = 0 → absent [f.od, f.oa, f.ob, f.oc] = true →
      ends s (.l1cln f) f.sp (f.ty == .px) (c.cleanL1, none)) ∧
    (m3Ready s (.l1invAll f) f (fun t => fixedM3 f t .i8 0) → f.fn = 1 → absent [f.od, f.oa, f.ob, f.oc] = true →
      ends s (.l1invAll f) f.sp (f.ty == .px) ({ c with l1 := [] }, none)) ∧
    (m3Ready s (.l1inv f) f (fun t => fixedM3 f t .i8 0) → f.fn = 0 → isRegOp f.oa = true → isRegOp f.ob = true →
      absent [f.od, f.oc] = true →
      let b := (c.preg (regOf f.oa)).toNat
      let n := (c.preg (regOf f.ob)).toNat
      b + n ≤ 2 ^ 64 →
      ends s (.l1inv f) f.sp (f.ty == .px) ({ c with l1 := c.l1.filter fun x =>
        !(decide (0 < n) && decide (x.vline * 128 < b + n) && decide (b < x.vline * 128 + 128)) }, none)))

/-- A core reads its own PHASED stores (R200, R202): after the bytes of a store enter the log of an activation bound to a phase
group, in order and at different addresses, each of them is the byte the core reads at its address, and every other
byte it reads is as before. -/
def Obligations.OwnStoresRead : Prop :=
  ∀ (s : State) (g : Nat) (a : Act) (l : List (Nat × Byte)) (c2 : Core), KV.sorted s.cores = true →
    (s.core g).act = some a → recV (s.core g).curRec = true → (l.map (·.1)).Nodup → (∀ e ∈ (s.core g).log, e.pos ≤ (s.core g).pos) →
    (s.core g).addEntries ((s.core g).storeEntries l) = some c2 →
    let t := s.setCore g c2
    (∀ x ∈ l, t.phasedByte g x.1 = x.2) ∧ (∀ p, p ∉ l.map (·.1) → t.phasedByte g p = s.phasedByte g p)

/-! ### Engine instructions -/

namespace Sys2Proof.Spec
open Sys2Proof Sys2Proof.Machine

/-- An EN-format instruction is ready (R131). -/
abbrev enReady (s : State) (i : Instr) (f : EN) (uses : Bool) : Prop := s.canIssue i f.sp uses [f.cb, f.cp] = true

/-- The state with a command appended to the inbox of the bind of the issuer's region (R128, R133). -/
def queuedMx (s : State) (b : Nat) (cmd : MxCmd) : State :=
  let m := clusterOfCore s.self
  s.setMxe m ((s.mxe m).setQueued b ((s.mxe m).queued b ++ [cmd]))

/-- An engine instruction whose command is in place completes: its CP's send is counted, its core is `d` (R133, R322). -/
def enEnds (s : State) (i : Instr) (f : EN) (uses : Bool) (t : State) (cp : Cp) (d : Core) : Prop :=
  exec i s = .next (((t.countCp s.self cp).modCore s.self fun _ => d).retired s i f.sp uses)

/-- The inbox of bind b of the issuer's cluster takes a command of its region (R128). -/
abbrev inboxFree (s : State) (b : Nat) : Prop :=
  (s.mxe (clusterOfCore s.self)).bindOf (s.core s.self).actRid = some b ∧
    ((s.mxe (clusterOfCore s.self)).queued b).length < 16

end Sys2Proof.Spec

/-- MMA, MMAZ, ALOAD, ASTORE and ACLR complete: the command, with its block captured as it stands, enters the inbox of the bind
of its region; ASTORE steps the generator where it rounds stochastically; the activation becomes irrevocable. With no bind the
instruction raises PRIV; with the inbox full it waits (R83, R128, R131 to R133, R136 to R139). MXWAIT completes once no matrix
command of the activation is outstanding: the flags the commands latched become sticky, FN 1 writes the status of the earliest
that did not end OK, and both are cleared (R141). Readings of the model in it: log entry 43. -/
def Obligations.MatrixCommandsComplete : Prop :=
  (∀ (op : Nat) (f : EN) (s : State) (i : Instr) (cp : Cp) (c1 : Core) (block : List Lane),
    (i, op) ∈ [(Instr.mma f, 0xA9), (.mmaz f, 0xAA), (.aload f, 0xAB), (.astore f, 0xAC), (.aclr f, 0xAD)] →
    let c := s.core s.self
    let uses := mxUses op f
    enReady s i f uses → mxLegal op f c = true →
    (if isMem f.cb then c.readBlock f.cb 128 else .ok (c, [])) = .ok (c1, block) → s.checkCp s.self f.cp = .ok cp →
    let r := c1.takeSeed (op == 0xAC)
    (∀ b, inboxFree s b → enEnds s i f uses (queuedMx s b { c.mxCmd s.self op cp with
      ty := c.ty f.ty, tb := if op = 0xA9 ∨ op = 0xAA then c.fnTy f.fn else .i8, tile := f.opt.extractLsb' 0 2
      rs := f.opt.getLsbD 2, block := block, pn := if op = 0xAD then c.preg (regOf f.cb) else 0, sat := c.effsat uses
      seed := r.1 }) cp (r.2.issued [f.cb, f.cp])) ∧
    ((s.mxe (clusterOfCore s.self)).bindOf c.actRid = none → exec i s = .next (s.faultAt s.self .priv 0)) ∧
    (∀ b, (s.mxe (clusterOfCore s.self)).bindOf c.actRid = some b → 16 ≤ ((s.mxe (clusterOfCore s.self)).queued b).length →
      exec i s = .next (s.modCore s.self fun c => { c with wait := if c.wait = .none then .again else c.wait }))) ∧
  (∀ (f : M3) (s : State), m3Ready s (.mxwait f) f (fun t => fixedM3 f t .u32 0) → f.fn.toNat ≤ 1 →
    absent [f.oa, f.ob, f.oc] = true → (if f.fn = 1 then oneDst f.od else f.od == .zero) = true →
    let c := s.core s.self
    (f.fn = 1 → c.checkLocals 4 [(f.od, 4, 4)] = .ok ()) →
    (s.mxCount s.self = 0 →
      let sts := match c.mxBad with
        | some x => x.2.toNat
        | none => 0
      let d := c.orFlags c.mxFlags
      let d2 := if f.fn = 1 then (d.writeElems 4 f.od .u32 [⟨sts, true⟩]).1.opIncs 4 [f.od] else d
      ends s (.mxwait f) f.sp (f.ty == .px) ({ d2 with mxFlags := 0, mxBad := none }, none)) ∧
    (s.mxCount s.self ≠ 0 →
      exec (.mxwait f) s = .next (s.modCore s.self fun c => { c with wait := if c.wait = .none then .again else c.wait })))

/-- ECOPY and PUBL complete: the copy command enters the inbox of its cluster with its block, layout and follow-on captured;
PUBL enters its engine with the frame its address selects (R266, R267, R281, R284). ECOLL, CLGRP and CLFREE complete: the
command enters its chiplet's engine, numbered by the member's count under the handle; the answer of a group installation is
written; a held group of the address space is set draining and status 0 written, else status 1 (R287 to R290). Readings of the
model in it: log entries 30, 43. -/
def Obligations.CopiesAndCollectivesComplete : Prop :=
  (∀ (f : EN) (s : State) (c1 : Core) (block : List Lane) (cp : Cp) (lay area : Option (List Lane)),
    let g := s.self
    let c := s.core g
    enReady s (.ecopy f) f false → f.ty = .i8 → f.opt = 0 → f.sel = 0 → f.fn = 0 → isMem f.cb = true →
    cpForm f.cp = true → c.readBlock f.cb 64 = .ok (c1, block) → s.checkCp g f.cp = .ok cp →
    let h := CopyHead.of (payloadBytes block)
    (if h.lrh = 0 then Except.ok none else c.readArea ((h.lrh - 1) * 32) 32) = .ok lay →
    (if h.wantsFol then c.readArea (64 * h.foff) 144 else Except.ok none) = .ok area →
    let k := clusterOfCore g % 4
    (s.chip (g / 64)).ceCount k < 64 →
    let r := ((c1.wokenArea ((h.lrh - 1) * 32) 32 lay).wokenArea (64 * h.foff) 144 area).takeSeed (h.xop == 4)
    let put (cmd : CopyCmd) : State :=
      s.modChip (g / 64) fun n => { n with ceIn := n.ceIn.set! k (n.ceIn.getD k [] ++ [cmd]) }
    let base := { c.copyCmd g 0xA8 cp block with layout := lay.getD [], seed := r.1 }
    (area.bind (s.folOf g) = none → enEnds s (.ecopy f) f false (put { base with folBad := h.wantsFol }) cp
      (r.2.issued [f.cb, f.cp])) ∧
    (∀ x, area.bind (s.folOf g) = some x → let q := r.2.takeSeed (x.1.op == 0xAC)
      enEnds s (.ecopy f) f false ((put { base with fol := some { x.1 with seed := q.1 } }).countCp g cp) x.2
        (q.2.issued [f.cb, f.cp]).takeSeq)) ∧
  (∀ (f : EN) (s : State) (cp : Cp) (y : Seg) (p : Nat), enReady s (.publ f) f false → f.ty = .i8 → f.opt = 0 → f.sel = 0 →
    f.fn = 0 → isRegOp f.cb = true → cpForm f.cp = true → s.checkCp s.self f.cp = .ok cp →
    let g := s.self
    let c := s.core g
    let va := c.preg (regOf f.cb)
    inWindow va = false → s.seg (.core g) (g / 64) (some g) c.asid c.user va 1 .w .current = .ok y → y.leaf.getLsbD 6 = true →
    s.selectPa (.core g) (g / 64) c.asid y.leaf = .ok p →
    exec (.publ f) s = .next (((((s.fillTlb (.core g) (g / 64) y.entry).modChip (g / 64) fun k => { k with ceRun := k.ceRun ++
      [{ CopyRun.start (c.copyCmd g 0xB2 cp []) (clusterOfCore g % 4) true (.ok ()) with
        bdone := 0, sent := 0, sts := some 0, pubs := [p] }] }).countCp g cp).modCore g fun c => c.issued [f.cp]).retired s
          (.publ f) f.sp false)) ∧
  (∀ (f : EN) (s : State) (c1 : Core) (block : List Lane) (cp : Cp),
    let g := s.self
    let n := g / 64
    let c := s.core g
    enReady s (.ecoll f) f false → f.ty = .i8 → f.opt = 0 → f.sel = 0 → f.fn.toNat ≤ 2 → isMem f.cb = true →
    cpForm f.cp = true → c.readBlock f.cb 64 = .ok (c1, block) → s.checkCp g f.cp = .ok cp → (s.chip n).clIn.length < 16 →
    let cmd : CollCmd := { fn := f.fn.toNat, core := g, rid := c.actRid, asid := c.asid, user := c.user, block := block
                           cp := cp, seq := c.cseq, key := c.actKey.1, lcn := c.actKey.2, phg := recPhg c.curRec, opn := 0
                           result := none, scrc := 0xFFFFFFFF, sts := none, addr := 0, pubs := [] }
    let x := s.cgroup cmd.id
    let k := KV.get 0 x.issued n
    let put (sts : Option Byte) : State := s.modChip n fun h => { h with clIn := h.clIn ++ [{ cmd with opn := k, sts := sts }] }
    (s.collStatus cmd = none → enEnds s (.ecoll f) f false ((put none).setCgroup cmd.id { x with
      issued := KV.put n (k + 1) x.issued }) cp (c1.issued [f.cb, f.cp])) ∧
    (∀ e, s.collStatus cmd = some e → enEnds s (.ecoll f) f false (put (some e)) cp (c1.issued [f.cb, f.cp]))) ∧
  (∀ (f : M3) (s : State), m3Ready s (.clgrp f) f (fun t => fixedM3 f t .u32 0) → f.fn = 0 → oneDst f.od = true →
    isMem f.oa = true → f.oc = .zero → incClash f.od [f.oa] = false →
    (isRegOp f.ob = true ∨ ∃ v, f.ob = .imm v ∧ v.toNat ≤ 63) →
    let c := s.core s.self
    c.checkLocals 4 [(f.od, 4, 4), (f.oa, 72, 4)] = .ok () →
    (∀ id m x, c.wait = .clgrp id m (some x) → ends s (.clgrp f) f.sp (f.ty == .px)
      ((c.writeElems 4 f.od .u32 [⟨x.w.toNat, x.v⟩]).1.opIncs 4 [f.od, f.oa], none)) ∧
    ((∀ id m x, c.wait ≠ .clgrp id m x) → soundAt c 4 f.oa 72 → let off := (c.opAddr 4 f.oa).toNat
      exec (.clgrp f) s = .next (s.modCore s.self fun c => { (c.wakeBanks off 72).makeIrrev with
        wait := .clgrp (c.pOrImm f.ob).toNat (maskMembers (c.spWords off 18)) none }))) ∧
  (∀ (f : M3) (s : State), m3Ready s (.clfree f) f (fun t => fixedM3 f t .u32 0) → f.fn = 0 → regOrImm f.oa = true →
    absent [f.ob, f.oc] = true → (oneDst f.od || f.od == .zero) = true →
    (f.od = .zero ∨ (s.core s.self).checkLocals 4 [(f.od, 4, 4)] = .ok ()) →
    let c := s.core s.self
    let h := (c.pOrImm f.oa).toNat
    let x := s.cgroup (h % 64)
    let mine := h < 1024 ∧ x.state = 1 ∧ x.asid = c.asid ∧ x.gen = BitVec.ofNat 4 (h / 64)
    let fin (t : State) (st : Nat) : Prop := exec (.clfree f) s = .next
      ((t.modCore s.self fun c => (c.writeU32 4 f.od st).opIncs 4 [f.od]).retired s (.clfree f) f.sp (f.ty == .px))
    (mine → fin (s.setCgroup (h % 64) { x with state := 2 }) 0) ∧ (¬ mine → fin s 1))

/-- WSTART, WRESUME, WSTOP and WSTAT complete: the first two put their command into the inbox of the bind of their region; WSTOP
asks a running stream of the address space to stop and drops any other request; WSTAT writes the eight lanes of its reply (R165
to R170). Readings of the model in it: log entry 43. -/
def Obligations.StreamInstructionsComplete : Prop :=
  (∀ (f : EN) (s : State) (c1 : Core) (block : List Lane) (cp : Cp),
    let g := s.self
    let c := s.core g
    enReady s (.wstart f) f false → f.ty = .i8 → f.fn = 0 → f.opt = 0 → f.sel = 0 → isMem f.cb = true → cpForm f.cp = true →
    c.readBlock f.cb 128 = .ok (c1, block) → s.checkCp g f.cp = .ok cp →
    let r := c1.takeSeed true
    let cmd := { c.mxCmd g 0xB3 cp with block := block, seed := r.1 }
    (s.teamHolds (clusterOfCore g) c.actRid = false → exec (.wstart f) s = .next (s.faultAt g .priv 0)) ∧
    (s.teamHolds (clusterOfCore g) c.actRid = true → (∀ n, n < 4 → cmd.out n ≠ 0 → s.checkTarget g (cmd.out n) = .ok ()) →
      ∀ b, inboxFree s b → enEnds s (.wstart f) f false (queuedMx s b cmd) cp (r.2.issued [f.cb, f.cp]))) ∧
  (∀ (f : EN) (s : State) (cp : Cp) (b : Nat), enReady s (.wresume f) f false → f.ty = .i8 → f.fn = 0 → f.opt = 0 → f.sel = 0 →
    isRegOp f.cb = true → cpForm f.cp = true →
    let c := s.core s.self
    c.preg (regOf f.cb) = BitVec.ofNat 64 (clusterOfCore s.self) → s.checkCp s.self f.cp = .ok cp → inboxFree s b →
    enEnds s (.wresume f) f false (queuedMx s b { c.mxCmd s.self 0xB5 cp with pn := c.preg (regOf f.cb) }) cp
      (c.issued [f.cp])) ∧
  (∀ (f : M3) (s : State), m3Ready s (.wstop f) f (fun t => fixedM3 f t .i8 0) → f.fn = 0 → isRegOp f.oa = true →
    absent [f.od, f.ob, f.oc] = true →
    let id := (s.core s.self).preg (regOf f.oa)
    (∀ t, s.streamOf id (s.core s.self).asid = some t → t.state = 1 ∨ t.state = 2 →
      exec (.wstop f) s = .next ((s.setStream id.toNat { t with stopReq := true }).retired s (.wstop f) f.sp (f.ty == .px))) ∧
    ((∀ t, s.streamOf id (s.core s.self).asid = some t → t.state ≠ 1 ∧ t.state ≠ 2) →
      exec (.wstop f) s = .next (s.retired s (.wstop f) f.sp (f.ty == .px)))) ∧
  (∀ (f : M3) (s : State), m3Ready s (.wstat f) f (fun t => fixedM3 f t .u32 7) → f.fn = 0 → isRegOp f.oa = true →
    absent [f.ob, f.oc] = true → (isMem f.od || isAccOp f.od || f.od == .queue 2 || f.od == .queue 3) = true →
    let c := s.core s.self
    c.checkLocals 32 [(f.od, 32, 4)] = .ok () →
    (∀ id l, c.wait = .wstat id (some l) → s.hasRoom s.self f.od = true →
      let w := c.writeLanes 32 f.od (l.map fun x => ⟨x, BitVec.allOnes 32, true⟩)
      ends s (.wstat f) f.sp (f.ty == .px) (w.1.opIncs 32 [f.od], w.2)) ∧
    ((∀ id l, c.wait ≠ .wstat id l) → exec (.wstat f) s = .next (s.modCore s.self fun c =>
      { c with wait := .wstat (c.preg (regOf f.oa)) none })))

/-! ### Steps of a core's own units -/

/-- The steps of a core's fetch unit, banks and waits complete: a line whose checks pass enters the buffer of the four most
recent lines (of an attached gang member's trap handler without displacing what the leader forwarded), one whose parity fails is
fetched once more; a bank goes off with its contents lost, or wakes; a timeout ends a
WAITQ; the replies of WSTAT and CLGRP are made; the oldest fault found late is taken; a waiting record rises by one level for each full
64 µs (R31, R34, R170, R183, R287, R329, R349, R429). DISPATCH, CONTEXT_RESTORE, ACTIVATION_STOP and SHED_DEADLINE complete: the
record chosen by R350 starts an activation of its head with the registers of R298, in the level chosen; a saved activation comes
back; a stop that is asked for at a point where the core may be taken saves every part (R296, R298, R343, R350, R351, R356,
R359, R381). Readings of the model in it: log entries 9, 32, 52, 92. -/
def Obligations.CoreStepsComplete : Prop :=
  (∀ (g : Nat) (s : State), wfCore g = true →
    let c := s.core g
    (∀ (i : Instr) (again : Bool) (va : W64) (l : List Seg), s.issues g = true →
      (i = .lineFetch g ∧ again = false ∧ c.refetch = none ∧ s.follows g = false ∧ c.needsLine = some va) ∨
        (i = .lineRefetch g ∧ again = true ∧ c.refetch = some va) →
      s.segs (.core g) (g / 64) (some g) c.asid c.user .x .current 2 va 64 = .ok l → s.anyPoison (l.flatMap Seg.places) = false →
      let t := (s.fillAll (.core g) (g / 64) l).l2Segs (g / 64) c.asid l false
      let bits := lineBits (t.bytesAt (l.flatMap Seg.places))
      let fixed (u : State) : State := if again then u.modChip (g / 64) fun k => { k with ecccor := k.ecccor + 1 } else u
      let lost (u : State) : State := u.modChip (g / 64) fun k => { k with eccunc := k.eccunc + 1 }
      (parityOk bits = true → lineBad bits = false →
        let u := (fixed t).modCore g fun c =>
          let k := (va, bits) :: c.fetch.filter fun x => x.1 != va
          { c with fetch := if c.attached then k else k.take 4, refetch := none }
        exec i s = .next (((fixed t).followers g).foldl (fun u k => u.modCore k fun c => c.takeLines [(va, bits)]) u)) ∧
      (parityOk bits = false → exec i s = .next
        (if again then (lost t).faultAt g .eccu va else t.modCore g fun c => { c with refetch := some va }))) ∧
    (∀ b, b < 3 → c.bankPend.getLsbD b = true → s.bankBusy g b = false →
      exec (.bankOffEffective g b) s = .next (s.setCore g { c with
        sppwr := putField c.sppwr (2 * b) 2 2, bankPend := putField c.bankPend b 1 0
        spad := c.spad.filter fun x => x.1 * 4 / 64 % 3 != b, spBad := c.spBad.filter fun w => w * 4 / 64 % 3 != b })) ∧
    (∀ b, b < 3 → c.bankPend.getLsbD (3 + b) = true →
      let v := match c.wait with
        | .sp v => (v.extractLsb' (2 * b) 2).toNat
        | _ => 0
      exec (.bankWake g b) s = .next (s.setCore g { c with
        sppwr := putField c.sppwr (2 * b) 2 v, bankPend := putField c.bankPend (3 + b) 1 0 })) ∧
    (∀ t x, c.wait = .waitq (some t) x → t ≤ s.now →
      exec (.waitqTimeout g) s = .next (s.setCore g { c with wait := .waitq (some t) true })) ∧
    (∀ id, c.wait = .wstat id none →
      exec (.wstatReply g) s = .next (s.setCore g { c with wait := .wstat id (some (s.streamLanes id c.asid)) })) ∧
    (∀ id m, c.wait = .clgrp id m none → let x := s.cgroup id
      (id < 64 → x.state = 0 → m ≠ [] → (∀ n ∈ m, Config.isCompute n = true ∧ (s.chip n).peal = 6) →
        exec (.clgrpResult g) s = .next (((s.dropStale x).setCgroup id ⟨1, x.gen + 1, c.asid, m, [], 0, []⟩).modCore g fun c =>
          { c with wait := .clgrp id m (some ⟨BitVec.ofNat 32 ((x.gen + 1).toNat * 64 + id), true⟩) })) ∧
      (id < 64 → x.state ≠ 0 →
        exec (.clgrpResult g) s = .next (s.setCore g { c with wait := .clgrp id m (some ⟨0, false⟩) })) ∧
      (id < 64 → x.state = 0 → (m = [] ∨ ∃ n ∈ m, ¬ (Config.isCompute n = true ∧ (s.chip n).peal = 6)) →
        exec (.clgrpResult g) s = .next (s.setCore g { c with wait := .clgrp id m (some ⟨0xFFFFFFFF, true⟩) }))) ∧
    (∀ code p a l, c.async = (code, p, a) :: l → c.wait.yields = true → c.midPair = false →
      exec (.asyncFault g) s = .next ((s.modCore g fun c => { c with async := l }).fault g code c.pc p a c.crc)) ∧
    (∀ i t, i < 8 → (c.rq i).since = some t → s.waitingRec g i = true → t + 96000 ≤ s.now →
      let l := recLvl (c.brec.getD i 0)
      exec (.queueAgeing g i) s = .next ((s.setCore g { c with
        recq := c.recq.set! i { c.rq i with since := some (t + 96000) }
        brec := if 1 < l then c.brec.set! i (putField (c.brec.getD i 0) 53 3 (l - 1)) else c.brec }).noteWaits g))) ∧
  (∀ (g : Nat) (s : State), wfCore g = true →
    let c := s.core g
    (∀ lvl b p rep n r e, c.free = true → s.clockRuns g = true → s.streamHolds g = false → s.choose g = some (lvl, b) → c.imageOf b = none →
      (c.rq b).head? = some (p, rep, n) → s.region (recRid (c.brec.getD b 0)) = some r →
      s.handler (g / 64) r (if rep then r.fhix else tgtHix p.tgt) = some e → (!rep && tgtKind p.tgt == 1) = false →
      exec (.dispatch g) s = .next (((((s.modCore g fun c => (c.setRec b (c.rq b).pop).serve b lvl).modCore g fun c =>
        c.start (newAct g b r (recRid ((s.core g).brec.getD b 0)) (p, rep, n) e lvl false false) e)).modCore g fun c =>
          { c with gate := .running }).noteWaits g)) ∧
    (∀ lvl b m, c.free = true → s.streamHolds g = false → s.choose g = some (lvl, b) → c.imageOf b = some m → m.act.gang = false → c.brkStop.contains b = false →
      exec (.contextRestore g b) s = .next (((s.modCore g fun c => c.restore b lvl m).noteWaits g).noteWaits g)) ∧
    (∀ a pc live w crc, c.act = some a → a.gang = false → s.stopAsked g = true → s.partStop g = some (pc, live, w, crc) →
      exec (.activationStop g false) s = .next (((if a.irrev then s.modCore g Core.makeIrrev else s).modCore g fun c =>
        c.suspend pc live w crc).noteWaits g)) ∧
    (∀ a, c.act = some a → c.shedNow = true →
      (s.chip (g / 64)).shedAt.getD (c.shedClass a.brec) 0 + shcDl (s.bell.cls (c.shedClass a.brec)) * 150000 ≤ s.now →
      exec (.shedDeadline g) s = .next (s.setCore g { c with deadline := true })))

/-- What an activation finds in its registers (R76, R296, R298): P0 its key, P1 its payload's length, P2 to P7 the first six
named regions its handler binds, A and LK zero, Q0 its payload in entries of sixteen words; user or supervisor mode as its
handler entry says; FM 1, PX 0, the generator 1, the power cap 16; PC at the handler, entered as a transfer. -/
def Obligations.StartRegisters : Prop :=
  ∀ (c : Core) (a : Act) (e : Entry), a.trig.cont = false →
    let d := c.start a e
    d.act = some a ∧ d.pc = e.pc ∧ d.entered = .checked e.pc ∧ d.crc = 0xFFFF ∧ d.fm = 1 ∧ d.px = 0 ∧ d.srseed = 1 ∧
    d.pwrcap = 16 ∧ d.lk = 0 ∧ d.pl = (if e.sup then 1 else 0) ∧ d.pp = false ∧
    d.preg 0 = a.trig.key.zeroExtend 64 ∧ d.preg 1 = BitVec.ofNat 64 a.trig.plen ∧
    (∀ k : Fin 6, d.p.getD (k.val + 2) 0 = BitVec.ofNat 64 (a.named.getD k.val (0, 0)).1) ∧
    (∀ k, k < 16 → d.a.getD k ALane.start = ALane.start) ∧
    d.queue 0 = payloadEntries ((a.trig.plen + 63) / 64) (a.trig.words.map Lane.arrived) ∧
    (∀ n : BitVec 3, n ≠ 0 → d.queue n = []) ∧ d.spad = c.spad ∧ d.brec = c.brec ∧ d.log = c.log

namespace Sys2Proof.Spec
open Sys2Proof Sys2Proof.Machine

/-- The core whose queue n takes an entry that core g writes: its own, or in a gang its neighbour's for Q2 and Q3 (R317, R341).
-/
def queueCore (s : State) (g : Nat) (n : BitVec 3) : Nat :=
  if n = 1 ∨ s.runsGang g = false then g else (s.neighbour g (n == 2)).getD g

/-- The lanes that reach a destination: A, Pn where the element is valid, scratchpad words, or an entry of a queue; the entry
for a neighbour whose part has ended is dropped (R45, R46, R222, R341). -/
def arrives (s : State) (g : Nat) (d : Dest) (t : Ty) (l : List Lane) : State :=
  match d with
  | .none => s
  | .acc => s.modCore g fun c => l.zipIdx.foldl (fun c x => c.setA x.2 x.1.w x.1.v) c
  | .reg n => if (elemAt t l 0).v then s.modCore g fun c => c.setP n (extElem t (elemAt t l 0).b) else s
  | .spad off => s.modCore g fun c => c.spWrite off l
  | .queue n =>
    let k := queueCore s g n
    if k ≠ g ∧ s.runsGang k = false then s else s.modCore k fun c => c.setQ n (c.queue n ++ [entryOf l])

/-- A queue destination has room (R317). -/
def roomFor (s : State) (g : Nat) (d : Dest) : Prop :=
  ∀ n, d = .queue n → let k := queueCore s g n
    (k ≠ g ∧ s.runsGang k = false) ∨ ((s.core k).queue n).length < qDepth n

end Sys2Proof.Spec

/-- Loads return and immediate accesses are performed (R213, R220, R222, R230, R429): a load that no earlier access to its home
holds back delivers its lanes; a store puts its bytes at their homes; an atomic delivers the old value and stores the new
one. Where a home cannot answer, no byte of memory changes, the lanes of the destination become invalid with bits that nothing
constrains (Pn keeps its value), and the fault joins those the core takes before its next issue group.
Readings of the model in it: log entries 6, 91. -/
def Obligations.AccessesReturn : Prop :=
  ∀ (g k : Nat) (s : State), wfCore g = true →
    let c := s.core g
    let drop (t : State) : State := t.modCore g fun c => { c with pend := listDel c.pend k }
    let late (t : State) (f : FCode) (pc va : W64) : State := t.modCore g fun c => { c with async := c.async ++ [(f, pc, va)] }
    let spoilt (d : Dest) (n : Nat) : State := match d with
      | .reg _ => s
      | .none => s
      | x => arrives (s.drawWords n).2 g x .u32 ((s.drawWords n).1.map fun w => ⟨w, false⟩)
    (∀ src dest t ln homes pc va asid, c.pend[k]? = some ⟨.load src dest t ln, homes, pc, va, asid⟩ →
      homesClash (c.pend.take k) homes = false → roomFor s g dest →
      (s.homeFault (homePlaces src) true = none →
        let u := (homePlaces src).foldl State.hostFill s
        exec (.loadReturn g k) s = .next (drop (arrives u g dest t (src.map s.laneNow)))) ∧
      (∀ f, s.homeFault (homePlaces src) true = some f →
        exec (.loadReturn g k) s = .next (drop (late (spoilt dest src.length) f pc va)) ∧
        sameMemory s (spoilt dest src.length))) ∧
    (∀ bytes homes pc va asid, c.pend[k]? = some ⟨.store bytes, homes, pc, va, asid⟩ →
      homesClash (c.pend.take k) homes = false →
      (s.homeFault (bytes.map Prod.fst) true = none →
        exec (.immediatePerform g k) s = .next (drop (s.storeHome asid bytes))) ∧
      (∀ f, s.homeFault (bytes.map Prod.fst) true = some f →
        exec (.immediatePerform g k) s = .next (drop (late s f pc va)))) ∧
    (∀ fn t place b m dest homes pc va asid, c.pend[k]? = some ⟨.amo fn t place b m dest, homes, pc, va, asid⟩ →
      homesClash (c.pend.take k) homes = false → roomFor s g dest →
      (s.homeFault place true = none →
        let old := leNat (s.bytesAt place)
        let u := arrives s g dest t (elemLanes t old true)
        exec (.immediatePerform g k) s = .next (drop (match amoNew fn t old b.toNat m.toNat with
          | some v => u.storeHome asid (place.zip (leBytes place.length v))
          | none => u))) ∧
      (∀ f, s.homeFault place true = some f →
        exec (.immediatePerform g k) s = .next (drop (late (spoilt dest (lanesFor t 1)) f pc va)) ∧
        sameMemory s (spoilt dest (lanesFor t 1))))

/-- The steps of translation and phases complete: a walk fills its chiplet's cache; an invalidation reaches the caches of a
chiplet; a boundary's start reaches a core; the boundary, when every member has arrived, applies the log, flips publications,
advances the phase and lets every member acquire (R198, R199, R204, R211, R216, R394, R396). Readings of the model in it: log
entries 9, 48, 66. -/
def Obligations.PhaseAndWalkStepsComplete : Prop :=
  (∀ (n asid : Nat) (va leaf : W64) (size : Nat) (s : State), wfSite n = true → s.mayMiss n (BitVec.ofNat 16 asid) = true →
    tlbFind (s.chip n).tlb (BitVec.ofNat 16 asid) va = none → s.walk (BitVec.ofNat 16 asid) va = .ok (leaf, size) →
    exec (.pageWalk n asid va) s = .next (s.fillTlb .shared n ⟨BitVec.ofNat 16 asid, va.toNat / size, size, leaf, false⟩)) ∧
  (∀ (n : Nat) (v : Inval) (l : List Inval) (s : State), wfSite n = true → (s.chip n).invals = v :: l →
    exec (.tlbinvBroadcast n) s = .next ((s.invalidateAt n v).modChip n fun k => { k with invals := l })) ∧
  (∀ (g : Nat) (s : State), wfCore g = true →
    let hears (x : Nat × PGroup) : Nat × PGroup :=
      if x.2.started && (s.core g).inGroup (BitVec.ofNat 16 x.1) && !x.2.heard.contains g then
        (x.1, { x.2 with heard := g :: x.2.heard }) else x
    exec (.boundaryStart g) s = .next (({ s with groups := s.groups.map hears } : State).noteWaits g)) ∧
  (∀ (k : Nat) (s : State), let phg := BitVec.ofNat 16 k
    let x := s.pgroup phg
    let l := s.members phg
    x.started = true → (∀ g ∈ l, s.arrived phg g = true) →
    let t := (x.pubs.filter fun p => !p.2).foldl (fun t p => t.flip p.1) (s.applyLog phg)
    let t := t.setGroup phg { x with
      phase := x.phase + 1, started := false, heard := [], pubs := (x.pubs.filter fun p => p.2).map fun p => (p.1, false) }
    let t := l.foldl (fun t g => t.modCore g fun c => c.acquireFor phg) t
    let asids := l.flatMap fun g => ((t.core g).brec.toList.filter recV).map recAsid
    let t := { t with chips := t.chips.map fun y => (y.1, y.2.acquired phg (asids.filter (s.drops l y.1))) }
    exec (.phaseBarrierComplete k) s = .next (l.foldl (fun t g => t.noteWaits g) t))

/-- KILL of an address space at a chiplet completes once no core of it stands within an issue group (R89): its cores keep no
activation, log entry, translation or bind record of it; the frames it had writes pending to are marked; the chiplet's matrix
engines keep no bind, running command or stream of it, its copy, collective and send units no command or packet, its tables no
team of its regions, and copies on their way nothing of it; the chiplet no longer counts among those the kill waits for, and with
the last of them its regions are gone (R437, R438). What a kill leaves of one core (R437). Readings of the model in it: log
entries 50, 86. -/
def Obligations.KillCompletes : Prop :=
  (∀ (n asid : Nat) (r : Space) (s : State), wfSite n = true → KV.sorted s.spaces = true → KV.sorted s.cores = true →
    let a := BitVec.ofNat 16 asid
    KV.find s.spaces a.toNat = some r → r.killed = true → n ∈ r.killing → s.midGroup n a = false →
    let t := s.killAt n a
    exec (.kill n asid) s = .next t ∧
      (∃ q, KV.find t.spaces a.toNat = some q ∧ q.killed = true ∧ q.killing = r.killing.filter (· != n)) ∧
      (∀ k, k ∈ s.marks → k ∈ t.marks) ∧
      (∀ x ∈ s.cores, x.1 / 64 = n → ∀ k ∈ (s.core x.1).pendingFrames a, k ∈ t.marks) ∧
      (∀ x ∈ s.writers, x.2 = a → x.1 ∈ t.marks) ∧
      (∀ x ∈ s.cores, x.1 / 64 = n → let d := t.core x.1
        d.boundTo a = false ∧ (∀ e ∈ d.log, e.asid ≠ a) ∧ (∀ e ∈ d.tlb, e.asid ≠ a) ∧
        (x.2.boundTo a = true → x.2.asid = a → d.act = none) ∧
        (x.2.boundTo a = true → ∀ p ∈ d.outbox, p.asid ≠ a)) ∧
      (∀ x ∈ s.cores, x.1 / 64 ≠ n → (t.core x.1).brec = x.2.brec ∧ (t.core x.1).act = x.2.act ∧ (t.core x.1).log = x.2.log) ∧
      (∀ k, k = t.chip n →
        (∀ x ∈ k.mxe.toList, (∀ b, b < 16 → bindV (x.bind.getD b 0) = true → bindAsid (x.bind.getD b 0) ≠ a) ∧
          (∀ c, x.run = some c → c.cmd.asid ≠ a) ∧ (∀ c, x.stream = some c → c.cmd.asid ≠ a)) ∧
        (∀ l ∈ k.ceIn.toList, ∀ c ∈ l, c.asid ≠ a) ∧ (∀ c ∈ k.ceRun, c.cmd.asid ≠ a) ∧ (∀ c ∈ k.clIn, c.asid ≠ a) ∧
        (∀ p ∈ k.sendq, p.asid ≠ a) ∧ (∀ x ∈ k.teams, x.1 ∉ s.ridsOf a) ∧ (∀ x ∈ k.tlb, x.asid ≠ a)) ∧
      (∀ w ∈ t.writes, w.chip = n → w.asid ≠ a) ∧
      ((∀ q ∈ r.killing, q = n) → ∀ x ∈ t.regions, x.2.asid ≠ a)) ∧
  (∀ (c : Core) (asid : W16),
    let d := c.killed asid
    (∀ e ∈ d.log, e.asid ≠ asid) ∧ (∀ e ∈ d.tlb, e.asid ≠ asid) ∧
    (c.boundTo asid = true → d.boundTo asid = false) ∧
    (c.boundTo asid = true → c.act.isSome = true → c.asid = asid → d.act = none) ∧
    (c.boundTo asid = true → ∀ i, i < 8 → recAsid (c.brec.getD i 0) = asid → d.rq i = RecQ.reset ∧ d.brec.getD i 0 = 0) ∧
    (∀ i, i < 8 → recAsid (c.brec.getD i 0) ≠ asid → d.brec.getD i 0 = c.brec.getD i 0) ∧
    d.spad = c.spad ∧ d.lk = c.lk)


/-! ### Launches, the mesh and the GL links -/

/-- The launch and sweep steps complete: a well-formed packet of a consistent queue is taken, HEAD advanced, and its index range
dealt to the chiplets in shares; a core gets the next index of a share; a delay that is over frees its cluster; every region
with launches is swept, 2 µs after the sweep before (R311 to R314, R353, R371).
Readings of the model in it: log entries 68, 85. -/
def Obligations.LaunchStepsComplete : Prop :=
  ∀ s : State,
    (∀ (k : Nat) (r : Region) (places : List Loc) (q : Ring) (p : LaunchPacket) (cs : List Nat),
      let rid := BitVec.ofNat 16 k
      s.region rid = some r → s.isKilled r.asid = false → r.lq ≠ 0 → s.sec.boot ≠ 5 →
      s.ring Config.bootChip r.asid r.lq = some (places, q) → q.consistent = true → q.used ≠ 0 →
      let s0 := { s with lqBad := KV.putD false rid.toNat false s.lqBad }
      s0.packetAt Config.bootChip rid r.asid q = some (p, cs) →
      let s1 := s0.storeHome r.asid ((places.drop 16).zip (leBytes 4 (q.head + 1).toNat))
      let sizes := cs.map fun n => (n, (s1.teamCores n rid).length)
      let t := (shareRanges p.n ((sizes.map (·.2)).sum) 0 sizes).foldl (fun t x => t.giveShare rid p x) s1
      exec (.launchTake k) s = .next { t with launches := t.launches ++ [⟨rid, q.head, p.caddr, false⟩] }) ∧
    (∀ (n k j : Nat) (h : Share) (i b : Nat), wfSite n = true →
      let g := 64 * n + k % 64
      (s.chip n).shares.findIdx? (s.dealable g) = some j → (s.chip n).shares[j]? = some h → h.nextFor g = some i →
      (s.core g).recOf h.rid = some b →
      let c := s.core g
      let p := launchMessage g (recAsid (c.brec.getD b 0)) h i
      exec (.launchDeal n k) s = .next ((((s.setCore g (c.setRec b { c.rq b with msgs := (c.rq b).msgs ++ [p] })).modChip n fun x =>
        { x with shares := if (h.give g).done then listDel x.shares j else listSet x.shares j (h.give g) }).wake g).noteWaits g)) ∧
    (∀ n cl : Nat, wfSite n = true → exec (.launchSkewExpiry n cl) s = .next (s.modChip n fun k => { k with
      shares := k.shares.map fun h => if h.received + (k.lskew.extractLsb' (8 * (cl % 4)) 8).toNat * 375 ≤ s.now then
        { h with skew := h.skew &&& ~~~BitVec.ofNat 4 (2 ^ (cl % 4)) } else h })) ∧
    (let rids := (s.launches.map fun l => l.rid).eraseDups
     let old := s.sweeps.filter fun x => rids.any fun r => r.toNat == x.1
     ((∀ x ∈ old, x.2.time + 3000 ≤ s.now) →
       exec .quiescenceSweep s = .next (rids.foldl State.sweepRegion { s with sweeps := old })) ∧
     (∀ x ∈ old, s.now < x.2.time + 3000 → exec .quiescenceSweep s = .next s))

/-- The index ranges of a launch cover 0 to N − 1 once each, in the order of the chiplets, each share of a chiplet with t of the
T cores running from ⌊N·S ÷ T⌋ to ⌊N·(S + t) ÷ T⌋ (R312). -/
def Obligations.LaunchRangesPartition : Prop :=
  ∀ (n : Nat) (l : List (Nat × Nat)), 0 < (l.map (·.2)).sum →
    let r := shareRanges n ((l.map (·.2)).sum) 0 l
    r.map (·.1) = l.map (·.1) ∧ (∀ x ∈ r, x.2.1 ≤ x.2.2) ∧
    (∀ i, i < n → (r.filter fun x => decide (x.2.1 ≤ i) && decide (i < x.2.2)).length = 1) ∧
    (∀ x ∈ r, x.2.2 ≤ n) ∧
    (∀ k : Nat, r[k]? = (l[k]?).map fun x => (x.1, n * ((l.take k).map (·.2)).sum / (l.map (·.2)).sum,
      n * (((l.take k).map (·.2)).sum + x.2) / (l.map (·.2)).sum))

/-- The steps of the network interfaces, routers and side mesh complete (R246 to R250, R254, R255, R259, R444): a packet is
coded, routed, numbered and sent with a copy retained; it moves one site on, turning at its relay, or is dropped with a NACK; an
accepted one is acknowledged, entered in its flow's window and handed over in order; a damaged one is refused with CRC; ACK
frees the copy, NACK sets its delay, a delay or time that is over sends it again; a lost copy leaves a gap notice, which moves
the window; without a valid entry the packet is refused with RELAY. Readings of the model in it: log entries 36, 55, 74, 75. -/
def Obligations.MeshStepsComplete : Prop :=
  ∀ (s : State) (n i : Nat), wfSite n = true →
    (s.siteDown n = true → exec (.packetSend n i) s = .next s) ∧
    (∀ src p0 p, s.siteDown n = false → (s.waiting n)[i]? = some (src, p0) → (s.chip n).resolve p0 = some p →
      s.firstOfFlow n i src p = true → (nselV (s.nselOf n p.dch) = false ∨ (s.outFlow n p.dch p.cls).refused = true) →
      exec (.packetSend n i) s = .next ((s.unqueue n src p0).refusePacket .relay p)) ∧
    (∀ src p0 p t, s.siteDown n = false →
      (s.waiting n)[i]? = some (src, p0) → (s.chip n).resolve p0 = some p → s.firstOfFlow n i src p = true →
      nselV (s.nselOf n p.dch) = true → let f := s.outFlow n p.dch p.cls
      f.refused = false → (s.chip n).retained.length < 1024 → (f.next - f.oldest).toNat < 64 →
      let q := s.codePacket n (withRoute { p with seq := f.next, stamp := s.now % 2 ^ 48 } (s.nselOf n p.dch))
      q.2.inject n q.1 = some t →
      exec (.packetSend n i) s = .next (((t.unqueue n src p0).setOutFlow n p.dch p.cls { f with next := f.next + 1 }).modChip n
        fun k => { k with retained := k.retained ++ [⟨q.1, s.now, none, false⟩], nitx := k.nitx + 1 })) ∧
    (∀ f, s.flights[i]? = some f → f.site ≠ legEnd f.pkt → s.yields f = false →
      let p := f.pkt
      let x := nextSite p.ms f.site (legEnd p)
      let u := s.served f
      let rest := { u with flights := listDel s.flights i }
      let relay := p.rly && x == p.rch
      let q := if relay then { p with rly := false, ms := p.ms2 } else p
      let port := if relay then 5 else inPort f.site x
      (u.routerOff x = true → exec (.headerArrival i) s = .next rest) ∧
      (u.routerOff x = false → (∀ b, rest.portTake x q.ms port (if relay then 2 else 4) q.aged = some b →
        exec (.headerArrival i) s = .next { u with flights := listSet s.flights i ⟨q, x, port, b⟩ }) ∧
        (rest.portTake x q.ms port (if relay then 2 else 4) q.aged = none →
          exec (.headerArrival i) s = .next (rest.sideSend x (answerFlit 1 1 p))))) ∧
    (∀ (f : Flight) (hcrc pcrc : Bool), s.flights[i]? = some f → f.pkt.rly = false → f.site = f.pkt.dch →
      (f.direct = true ∨ s.yields f = false) →
      let p := f.pkt
      let m := f.site
      let u := { (if f.direct then s else s.served f) with flights := listDel s.flights i }
      let w := u.inFlow m p.sch p.cls
      let d := (p.seq - w.next).toNat
      ((hcrc = false ∨ (u.chip m).peal ≠ 6) → exec (.packetAccept i hcrc pcrc) s = .next u) ∧
      (hcrc = true → (u.chip m).peal = 6 → (pcrc = false ∨ codeOk p = false) →
        exec (.packetAccept i hcrc pcrc) s = .next (u.nack m 3 p)) ∧
      (hcrc = true → (u.chip m).peal = 6 → pcrc = true → codeOk p = true → (64 ≤ d ∨ w.seen.getLsbD d = true) →
        exec (.packetAccept i hcrc pcrc) s = .next (u.ack m p)) ∧
      (hcrc = true → (u.chip m).peal = 6 → pcrc = true → codeOk p = true → d < 64 → w.seen.getLsbD d = false →
        u.landFree m p = false → exec (.packetAccept i hcrc pcrc) s = .next (u.nack m 2 p)) ∧
      (∀ t, hcrc = true → (u.chip m).peal = 6 → pcrc = true → codeOk p = true → d < 64 → w.seen.getLsbD d = false →
        u.landFree m p = true → u.reserve m (orderedFlow p && d != 0) p = (none, t) →
        exec (.packetAccept i hcrc pcrc) s = .next (t.nack m 4 p)) ∧
      (∀ r t, hcrc = true → (u.chip m).peal = 6 → pcrc = true → codeOk p = true → d < 64 → w.seen.getLsbD d = false →
        u.landFree m p = true → u.reserve m (orderedFlow p && d != 0) p = (some r, t) →
        let o := InFlow.advance 64 { w with
          seen := w.seen ||| BitVec.ofNat 64 (2 ^ d), held := if orderedFlow p then w.held ++ [(r, p)] else w.held }
        exec (.packetAccept i hcrc pcrc) s = .next (((if orderedFlow p then [] else [(r, p)]) ++ o.1).foldl
          (fun t x => t.handOver m x) ((t.ack m p).setInFlow m p.sch p.cls o.2)))) ∧
    (∀ f, s.flits[i]? = some f →
      let gone := { s with flits := listDel s.flits i }
      (f.rv = false → f.site = f.tch →
        exec (.sideFlitArrival i) s = .next (gone.modChip f.tch fun k => { k with answers := k.answers ++ [f] })) ∧
      (f.rv = true → f.site = f.rch →
        exec (.sideFlitArrival i) s = .next { s with flits := listSet s.flits i { f with rv := false, ms := f.ms2 } }) ∧
      (f.site ≠ (if f.rv then f.rch else f.tch) → let x := nextSite f.ms f.site (if f.rv then f.rch else f.tch)
        exec (.sideFlitArrival i) s = .next
          (if s.routerOff x then gone else { s with flits := listSet s.flits i { f with site := x } }))) ∧
    (∀ x t r, s.takeAnswer n 0 = some (x, t) → (t.chip n).retained.find? (fun r => r.isOf x) = some r →
      exec (.ackArrive n) s = .next (((t.holdFrame n r.pkt false).modChip n fun k =>
        { k with retained := k.retained.erase r }).setOutFlow n r.pkt.dch r.pkt.cls
          ((t.outFlow n r.pkt.dch r.pkt.cls).acknowledge r.pkt.seq))) ∧
    (∀ x t j r, s.takeAnswer n 1 = some (x, t) → let u := t.modChip n fun k => { k with ninack := k.ninack + 1 }
      (u.chip n).retained.findIdx? (fun r => r.isOf x) = some j → (u.chip n).retained[j]? = some r →
      let q := r.nacked u.now x.cause
      exec (.nackArrive n) s = .next ((if x.cause = 4 then u.holdFrame n r.pkt true else u).modChip n fun k => { k with
        retained := listSet k.retained j q, niaged := if q.pkt.aged && !r.pkt.aged then k.niaged + 1 else k.niaged })) ∧
    (∀ r, s.siteDown n = false → (s.chip n).retained[i]? = some r → nselV (s.nselOf n r.pkt.dch) = true →
      (s.outFlow n r.pkt.dch r.pkt.cls).refused = false → ∀ t, s.inject n (withRoute r.pkt (s.nselOf n r.pkt.dch)) = some t →
      let again := t.modChip n fun k => { k with
        retained := listSet k.retained i ⟨withRoute r.pkt (s.nselOf n r.pkt.dch), s.now, none, r.pkt.aged⟩, niretx := k.niretx + 1 }
      (∀ due, r.resendAt = some due → due ≤ s.now → (r.pkt.aged = false ∨ r.asAged = true ∨ (s.chip n).agedOut < 4) →
        exec (.resendDelayExpiry n i) s = .next again) ∧
      (r.resendAt = none → r.lastSend + 8192 ≤ s.now → exec (.ackTimeout n i) s = .next again)) ∧
    (∀ r, (s.chip n).retained[i]? = some r → let p := r.pkt
      let t := (s.freeRetained n r).modChip n fun k => { k with eccunc := k.eccunc + 1 }
      nselV (s.nselOf n p.dch) = true → exec (.retentionCopyError n i) s = .next (((t.sideSend n
        ⟨2, 0, BitVec.ofNat 3 p.cls, p.dch, 0, p.sch, 0, false, false, false, p.seq, 0⟩).engLost p .eccu).report p.score p.srid
          { Report.of 6 FCode.eccu.code with addr := p.tgt, key := p.key })) ∧
    (∀ x t, s.takeAnswer n 2 = some (x, t) → let w := t.inFlow n x.pch x.cls.toNat
      let d := (x.seq - w.next).toNat
      d < 64 → w.seen.getLsbD d = false →
      let o := InFlow.advance 64 { w with seen := w.seen ||| BitVec.ofNat 64 (2 ^ d) }
      exec (.gapNotice n) s = .next (o.1.foldl (fun t y => t.handOver n y) (t.setInFlow n x.pch x.cls.toNat o.2)))

/-- The steps of the GL links complete (R261 to R265, R457 to R459, R509): a packing that may close is numbered, coded and sent;
a packet that comes whole in its window is held and accepted in LSEQ order, one with a bad CRC answered by a NACK and counted,
one accepted before acknowledged again; acknowledged packets leave; a NACK sends again; an external frame becomes messages; a
remote copy that is done is answered; lanes fail, a link retrains on its other half within 40 µs and goes on, or goes down, trains
every 10 ms and after 100 ms is lost. Readings of the model in it: log entries
36, 40. -/
def Obligations.LinkStepsComplete : Prop :=
  ∀ (s : State) (l i : Nat), wfEight l = true →
    let k := s.link l
    (∀ x, k.packing[i]? = some x → k.up = true → k.unacked.length < 256 → k.closable s.now i x = true →
      let q0 := { x.pkt with lseq := k.txNext }
      let c := KV.get Coder.reset k.txCode q0.cls
      let q := if glCoded q0 then (match c.pack (glWords q0) with
        | some b => { q0 with cmp := true, stored := b }
        | none => q0) else q0
      exec (.glPacketClose l i) s = .next (s.setLink l { k with
        packing := listDel k.packing i, unacked := k.unacked ++ [q], txNext := k.txNext + 1, gltx := k.gltx + 1
        txCode := if glCoded q then KV.put q.cls (c.after (glWords q)) k.txCode else k.txCode })) ∧
    (∀ q, k.up = true → k.heldFrames = [] →
      exec (.glPacketReceive l q false) s = .next (s.setLink l { k with
        answers := k.answers ++ [(false, q.lseq)], glrxbad := k.glrxbad + 1 }) ∧
      (seqGe q.lseq k.rxNext = false → exec (.glPacketReceive l q true) s = .next
        (s.setLink l { k with answers := k.answers ++ [(true, q.lseq)] }))) ∧
    (∀ q, k.up = true → k.heldFrames = [] → (q.lseq - k.rxNext).toNat < 256 → (∀ x ∈ k.rxHeld, x.lseq ≠ q.lseq) →
      exec (.glPacketReceive l q true) s = .next (State.drainGl 257 (s.setLink l { k with rxHeld := k.rxHeld ++ [q] }) l)) ∧
    (∀ c, k.rcopies[i]? = some c → c.answered = false → (c.eom = true ∨ c.sts ≠ 0) →
      let far := glOf c.smod { Packet.zero with sch := c.sch, sep := c.sep, asid := c.asid } ⟨0, 0, 0, 0⟩
      let q := glAnswer s.modid far c.key 0
        [⟨c.crc ^^^ 0xFFFFFFFF, true⟩, ⟨BitVec.ofNat 32 c.count, true⟩, ⟨c.sts.zeroExtend 32, true⟩] (some ⟨c.cmd, 0, []⟩)
      let rest := if c.eom then listDel k.rcopies i else listSet k.rcopies i { c with answered := true }
      exec (.remoteCopyDone l i) s = .next (((s.landWrites (farCmd l c.smod c.cmd)).setLink l
        { k with rcopies := rest }).glReply l { q with lseq := 0 })) ∧
    (∀ lseq q, k.unacked.find? (fun q => q.lseq == lseq) = some q →
      (∀ written, exec (.glAck l ⟨lseq, written⟩) s = .next ((s.setLink l { k with
        unacked := k.unacked.filter (fun x => x.lseq != lseq)
        lack := if seqGe lseq k.lack then lseq else k.lack }).glDone q written)) ∧
      exec (.glNack l lseq) s = .next (s.setLink l { k with glretx := k.glretx + 1 })) ∧
    (∀ stream asid fseq cmp b, k.up = true → k.heldFrames = [] → exec (.externalFrame l stream asid fseq cmp b) s = .next
      ((s.setLink l { k with answers := k.answers ++ [(true, k.rxNext)], rxNext := k.rxNext + 1 }).takeFrame l stream asid fseq cmp b)) ∧
    (∀ near far cut, let lanes := far ||| (if k.up then near &&& lanesOf k.wid else near)
      let f := { k with flm := k.flm ||| lanes, limited := k.limited || lanes != 0 }
      let b := { f with glrxbad := if cut then k.glrxbad + 1 else k.glrxbad }
      ((k.up = false ∨ lanes &&& lanesOf k.wid = 0) → exec (.laneFailure l near far cut) s = .next (s.setLink l f)) ∧
      (k.up = true → lanes &&& lanesOf k.wid ≠ 0 → otherHalf k.wid lanes = 0 →
        exec (.laneFailure l near far cut) s = .next (s.setLink l (b.goDown s.now))) ∧
      (k.up = true → lanes &&& lanesOf k.wid ≠ 0 → otherHalf k.wid lanes ≠ 0 → exec (.laneFailure l near far cut) s = .next
        (s.setLink l { b with state := 3, wid := 0, retrain := some (otherHalf k.wid lanes, s.now) }))) ∧
    (k.retrain = none → k.state = 0 → s.gateLive l = true → k.tryAt ≤ s.now →
      exec (.linkTrainRetry l) s = .next (s.setLink l { k with state := 1, tryAt := s.now + 15000000 })) ∧
    (∀ heard, k.retrain = none → k.state = 1 → s.gateLive l = true → exec (.glLinkTrained l ⟨0xFFFF, heard⟩) s = .next
      (s.setLink l (k.comeUp (if k.limited then 1 else 3)))) ∧
    (∀ h t, k.retrain = some (h, t) →
      (t + 60000 < s.now → exec (.linkTrainRetry l) s = .next (s.setLink l (k.goDown s.now))) ∧
      (∀ lanes heard, (lanes &&& lanesOf h ≠ lanesOf h ∨ t + 60000 < s.now) →
        exec (.glLinkTrained l ⟨lanes, heard⟩) s = .next (s.setLink l (k.goDown s.now))) ∧
      (∀ lanes la written, lanes &&& lanesOf h = lanesOf h → s.now ≤ t + 60000 →
        let done := k.unacked.filter fun q => seqGe la q.lseq
        let left := { k with
          unacked := k.unacked.filter fun q => !seqGe la q.lseq
          lack := if seqGe la k.lack && !done.isEmpty then la else k.lack }
        exec (.glLinkTrained l ⟨lanes, ⟨la, written⟩⟩) s = .next
          (done.foldl (fun t q => t.glDone q written) (s.setLink l (left.comeUp h))))) ∧
    (k.up = false → k.lost = false → k.downSince + 150000000 ≤ s.now →
      let u := { s with chips := s.chips.map fun (x : Nat × Chip) => (x.1, x.2.cutCopies l) }
      exec (.linkLost l) s = .next ((k.unacked ++ k.packing.map (·.pkt)).foldl State.dropHeld (u.setLink l { k with
        lost := true, unacked := [], packing := [], rxHeld := [], answers := [], rcopies := [], txCode := [], rxCode := []
        txNext := 0, rxNext := 0, lack := 0 })))

/-! ### Engine steps -/

namespace Sys2Proof.Spec
open Sys2Proof Sys2Proof.Machine

/-- The clock of a cluster's engine runs (R363, R365). -/
abbrev engineRuns (s : State) (m : Nat) : Prop := wfCluster m = true ∧ (s.chip (m / 4)).droop = false

end Sys2Proof.Spec

/-- The steps of a matrix engine complete (R122, R127, R128, R134, R136 to R139, R143, R144, R146, R369): a suspended command or
the head of the chosen bind's inbox is taken; a chunk for which the ramp and the charge allow is applied, and charged; a whole
ALOAD or ASTORE is carried out, or stops where it faults; a command that has ended delivers its record, one that faulted halts
its bind and aborts what is queued; a command whose slot has ended, or that may run no longer, is suspended. Readings of the
model in it: log entry 59. -/
def Obligations.MatrixStepsComplete : Prop :=
  ∀ (s : State) (m : Nat), engineRuns s m →
    let x := s.mxe m
    (∀ b r, x.run = none → s.nextBind m = some b → x.susp.find? (fun r => r.bind == b) = some r →
      exec (.mxeCommandStart m) s = .next
        ((s.setMxe m { x with run := some r, susp := x.susp.filter fun q => q.bind != b }).noteLent m b)) ∧
    (∀ b c l, x.run = none → s.nextBind m = some b → x.susp.find? (fun r => r.bind == b) = none → x.queued b = c :: l →
      (isStreamOp c.op && !c.abort) = false →
      exec (.mxeCommandStart m) s = .next ((s.setMxe m ((x.setQueued b l).take b c)).noteLent m b)) ∧
    (∀ r, x.run = some r → r.sts = none → s.entitled m r.bind = true →
      let stop (t : State) (e : EngErr) : State := t.setRun m { r with sts := some e.1.code, addr := e.2 }
      (r.cmd.op = 0xAB → ∀ t e, s.aloadRun m r = (t, e) → exec (.mxeChunkApply m) s = .next (match e with
        | some e => stop t e
        | none => t.setRun m { r with sts := some 0 })) ∧
      (r.cmd.op = 0xAC → ∀ t f e, s.astoreRun m r = (t, f, e) → exec (.mxeChunkApply m) s = .next (match e with
        | some e => stop t e
        | none => t.setRun m { r with sts := some 0, flags := r.flags ||| f })) ∧
      (r.cmd.op ≠ 0xAB → r.cmd.op ≠ 0xAC → x.rampOk = true → s.chargeOk m (chunkClass r.cmd.ty) = true →
        let u := (s.charge m (chunkClass r.cmd.ty)).setMxe m { x with act := x.act + 32 }
        (∀ t f k fin, u.mmaChunk m r = .ok (t, f, k, fin) → exec (.mxeChunkApply m) s = .next
          (t.setRun m { r with k := k, flags := r.flags ||| f, sts := if fin then some 0 else none })) ∧
        (∀ e, u.mmaChunk m r = .error e → exec (.mxeChunkApply m) s = .next (stop u e)))) ∧
    (∀ r f t, x.run = some r → r.sts = some f → s.mxDeliver m r f = some t →
      (stsHalts f = false → exec (.mxeComplete m) s = .next (t.setMxe m { t.mxe m with run := none })) ∧
      (stsHalts f = true → let y := ((t.mxe m).setHlt r.bind true).abortQueued r.bind
        exec (.mxeHalt m) s = .next ((t.setMxe m { y with
          run := none, halted := KV.put r.bind { r with sts := none } y.halted }).reportHalt r.cmd.outst r.addr
            (r.record (x.rows r.bind) f)))) ∧
    (let u := s.setMxe m { x with curSlot := slotAt s.now }
      let y := u.mxe m
      (∀ r, y.run = some r → r.sts = none → (slotAt s.now ≠ x.curSlot ∨ u.entitled m r.bind = false) →
        exec (.mxeSlotBoundary m) s = .next (u.setMxe m { y with run := none, susp := y.susp ++ [r] })) ∧
      (y.run = none → exec (.mxeSlotBoundary m) s = .next u))

/-- The steps of a weight stream complete (R158 to R174, R370): WSTART and WRESUME at the head of their inbox start and resume;
at a block boundary, or while it waits, the next block is executed; a stream held stops, and goes on when it is held no longer;
within a block the successor's header is prefetched; a chunk enters the staging buffer; the chunks due are applied; a fault
whose moment has come halts the bind with the exit record. Readings of the model in it: log entries 25, 106, 107. -/
def Obligations.StreamStepsComplete : Prop :=
  ∀ (s : State) (m : Nat), engineRuns s m →
    let x := s.mxe m
    (∀ b c l, x.run = none → s.nextBind m = some b → x.queued b = c :: l → c.abort = false →
      x.susp.any (fun r => r.bind == b) = false → let u := s.noteLent m b
      (x.hlt b && (KV.find x.halted b).isSome) = false →
      (c.op = 0xB3 → c.startOk = true → (u.mxe m).stream = none → exec (.streamStart m) s = .next
        (u.setMxe m { ((u.mxe m).setQueued b l).setHlt b false with stream := some (Stream.start c b) })) ∧
      (∀ t, c.op = 0xB5 → (u.mxe m).stream = some t → t.state = 4 → t.cmd.asid = c.asid → exec (.streamStart m) s = .next
        (u.setMxe m { ((u.mxe m).setQueued b l).setHlt t.bind false with
          stream := some { t with state := 1, via := c, stopReq := false, faultChunk := 0 } }))) ∧
    (∀ t, x.stream = some t → t.sts = none →
      (t.state = 3 → s.streamHeld m t.bind = false → exec (.streamStep m) s = .next (s.setStream m { t with state := 1 })) ∧
      (s.isKilled t.cmd.asid = false → s.streamHeld m t.bind = false → t.stopReq = false → s.streamSlot m t.bind = true →
        (t.state = 1 → t.busy = false → exec (.streamStep m) s = .next (s.nextBlock m t)) ∧
        (t.state = 2 → exec (.streamWaitPoll m) s = .next (s.nextBlock m t))) ∧
      (s.isKilled t.cmd.asid = false → s.streamHeld m t.bind = true → t.state = 1 → t.busy = false →
        exec (.streamStep m) s = .next (((s.dropLines (m / 4) (cmdId t.cmd.core t.cmd.seq)).setMxe m
          (x.setRows t.bind (s.streamRows m t))).setStream m
            { t with state := 3, busy := false, again := true, staged := [], ahead := none, cfault := none, sts := none })) ∧
      (∀ h, WHead.of t.header = some h → t.state = 1 → t.busy = true → t.ahead = none →
        (h.mma = false ∨ s.streamHeld m t.bind = false) → exec (.streamStep m) s = .next (s.prefetch m t h)) ∧
      (∀ h, WHead.of t.header = some h → t.state = 1 → t.busy = true →
        (s.streamSlot m t.bind = true ∨ (h.mma = false ∧ s.streamHeld m t.bind = true)) →
        (t.cfault = none → t.staged.length < 8 → t.base + t.staged.length < h.chunks → s.chargeOk m 7 = true →
          let u := s.charge m 7
          ∀ n b v, u.fetchChunk m t h (t.base + t.staged.length) (t.boff + (t.staged.map (·.1)).sum) = .ok (n, b, v) →
            exec (.wssChunkDecode m) s = .next (v.setStream m { t with staged := t.staged ++ [(n, b)] })) ∧
        (x.run = none → h.mma = false → 1 ≤ t.staged.length → ∀ v, s.streamEpi m t h = .ok v →
          exec (.mxeChunkApply m) s = .next v) ∧
        (x.run = none → h.mma = true → s.chunksDue m t h ≤ t.staged.length → x.rampOk = true →
          s.chargeOk m (chunkClass h.fmt) = true →
          ∀ v, ((s.charge m (chunkClass h.fmt)).setMxe m { x with act := x.act + 32 }).streamMma m t h (s.chunksDue m t h) = .ok v →
            exec (.mxeChunkApply m) s = .next v))) ∧
    (∀ t c a, x.stream = some t → s.haltDue m t = some (c, a) →
      let rows := s.streamRows m t
      let y := x.setRows t.bind rows
      let u := s.setMxe m (match WHead.of t.header with
        | some h => if h.tiled then y.setAt t.bind (BitVec.ofNat 2 h.atl) else y
        | none => y)
      let r := u.exitRecord m t c (t.b.extractLsb' 0 32) (t.b.extractLsb' 32 32)
        (BitVec.ofNat 32 (t.faultChunk % 2 ^ 16 * 2 ^ 16 + rows / 32))
      ∀ v, (u.dropLines (m / 4) (cmdId t.cmd.core t.cmd.seq)).exitDeliver m t.via r = some v →
        let z := ((v.mxe m).setHlt t.bind true).abortQueued t.bind
        let w := v.setMxe m { z with stream := some { t with
          state := 4, busy := false, again := true, staged := [], ahead := none, cfault := none, sts := none, flags := 0, last := c } }
        exec (.streamHalt m) s = .next
          (if c = stsDesc ∨ c = stsShape ∨ c = stsOwner then w else w.reportHalt t.via.outst a r))

/-- The steps of the copy and collective engines complete (R266, R274 to R281, R285, R286, R288, R290): a command starts with
its checks made; a step of a copy reads, transforms and sends up to 4,096 positions, its fault ending it where it stands; a
copy that has ended publishes, enters its follow-on as soon as it can, and delivers its record, with a report beside it where it
faulted; a router folds its inputs and passes them up, the root giving the result; a member sends it on its way, then publishes
and delivers its record; a draining group becomes free. Readings of the model in it: log entries 30, 31, 46, 55, 90. -/
def Obligations.CopyStepsComplete : Prop :=
  ∀ (s : State) (n i : Nat), wfSite n = true →
    let k := s.chip n
    (∀ c l, k.ceIn.getD (i % 4) [] = c :: l → s.copyHeld n c = false → exec (.copyStart n i) s = .next (s.modChip n fun k =>
      { k with ceIn := k.ceIn.set! (i % 4) l, ceRun := k.ceRun ++
        [CopyRun.start c (i % 4) (c.wellFormed (s.core c.core).spsize) (s.copyCheck n c)] })) ∧
    (∀ r, k.ceRun[i]? = some r → r.cmd.op = 0xA8 → r.sts = none → s.copyHeld n r.cmd = false →
      r.mayStep (k.flowBusy i r) = true → s.chargeOk (4 * n + r.inbox) 7 = true →
      let u := s.charge (4 * n + r.inbox) 7
      let h := r.cmd.head
      let put (t : State) (q : CopyRun) : Prop :=
        exec (.copyChunkDecode n i) s = .next (t.modChip n fun k => { k with ceRun := listSet k.ceRun i q })
      let takes (w : Except CopyErr (State × CopyRun)) : Prop :=
        (∀ t q, w = .ok (t, q) → put t q) ∧
        (∀ f a, w = .error (f, a) →
          put u { r with sts := some f, addr := a, failing := if h.xop = 2 ∨ h.xop = 3 then r.chunks else 0xFFFF })
      (h.rmt = true → takes (u.remoteStep n r)) ∧
      (h.rmt = false →
        ((h.xop = 0 ∨ h.xop = 1) → takes (u.plainStep r r.stepEnd)) ∧ (h.xop = 2 → takes (u.packStep r r.stepEnd)) ∧
        (h.xop = 3 → takes (u.unpackStep r r.stepEnd)) ∧ (h.xop = 4 → takes (u.convStep r r.stepEnd)) ∧
        (∀ t q, h.xop = 5 → u.dealAll r.stepEnd 65 r = (t, q) → put t q))) ∧
    (∀ r f, k.ceRun[i]? = some r → r.ends = some f → r.foi = none →
      let pub := f == 0 && (r.cmd.op == 0xB2 || r.cmd.head.pub)
      let l := s.copyLanded n r.cmd
      let r1 := { r with pubs := [] }
      let s0 := (if pub then r.pubs.foldl (fun t p => t.publish r.cmd.phg r.cmd.core p) l else l).putCopy n i r1
      let ends (t : State) : Prop :=
        (quietSts f = true → exec (.copyComplete n i) s = .next t) ∧ (quietSts f = false → exec (.copyFault n i) s = .next t)
      (s0.folEnd r1 (f == 0) = none → ends s0) ∧
      (∀ s1 foi, s0.folEnd r1 (f == 0) = some (s1, foi) →
        let s2 := s1.putCopy n i { r1 with foi := some foi, cmd := { r.cmd with fol := none } }
        (s2.deliverRecord r.cmd.outst1 r.cmd.seq r.cmd.asid (0x50 + r.inbox) (r.record f pub foi) = none → ends s2) ∧
        (∀ s3, s2.deliverRecord r.cmd.outst1 r.cmd.seq r.cmd.asid (0x50 + r.inbox) (r.record f pub foi) = some s3 →
          let t := s3.modChip n fun k => { k with ceRun := listDel k.ceRun i }
          ends (if quietSts f then t else t.reportHalt r.cmd.outst1 r.addr (r.record f pub foi))))) ∧
    (let id := i % 64
      let x := s.cgroup id
      x.state ≠ 0 → n ∈ s.treeSites x.members → KV.find x.parts n = none → s.collHeld id x.cur = false →
      (∀ q ∈ s.treeChildren x.members n, KV.find x.parts q ≠ none) → (n ∈ x.members → s.collOf id x.cur n ≠ none) →
      let own := (s.collOf id x.cur n).map fun c => s.contribute id x.cur n c
      let u := (own.map (·.2)).getD s
      let parts := (s.treeChildren x.members n).foldl (fun l q => KV.put q ((KV.find x.parts q).getD (some [])) l) []
      let inputs := match own with
        | some o => KV.put n o.1 parts
        | none => parts
      let any := x.members.findSome? fun m => (s.chip m).clIn.find? fun c => c.id == id && c.gen == x.gen && c.opn == x.cur
      let fn := match any with
        | some c => c.opf
        | none => 0
      let ty := match any with
        | some c => c.ty
        | none => .i32
      let r := foldParts fn ty (inputs.map (·.2))
      (n ≠ s.treeRoot x.members → exec (.collectiveCombine i n) s = .next (u.setCgroup id { x with parts := KV.put n r x.parts })) ∧
      (n = s.treeRoot x.members → exec (.collectiveCombine i n) s = .next (u.collFinish id r))) ∧
    (∀ c, k.clIn[i]? = some c →
      let drop (t : State) : State := t.modChip n fun h => { h with clIn := listDel h.clIn i }
      let put (t : State) (c : CollCmd) : State := t.modChip n fun h => { h with clIn := listSet h.clIn i c }
      (∀ f, c.sts = some f → (f ≠ 0 ∨ c.result = none) → let u := s.endCmd n c.core c.seq
        ∀ o, u.deliverRecord c.outst c.seq c.asid 0x58 (c.record f false []) = o →
        exec (.collectiveComplete n i) s = .next (match o with
          | none => u
          | some t => if quietSts f then drop t else (drop t).reportHalt c.outst c.addr (c.record f false []))) ∧
      (∀ b, c.sts = none → c.result = some b → s.shedOn n c.rid = false → s.collHeld c.id c.opn = false →
        (∀ t u, s.collWrite c b = .ok (t, u) →
          exec (.collectiveComplete n i) s = .next (put t { c with sts := some 0, pubs := u.eraseDups })) ∧
        (∀ f a, s.collWrite c b = .error (f, a) →
          exec (.collectiveComplete n i) s = .next (put s { c with sts := some f, addr := a }))) ∧
      (∀ b, c.sts = some 0 → c.result = some b → let c1 := { c with pubs := [] }
        let t := if c.pub then c.pubs.foldl (fun t p => t.publish c.phg c.core p) (s.endCmd n c.core c.seq) else s
        let u := (put t c1).endCmd n c.core c.seq
        ∀ o, u.deliverRecord c.outst c.seq c.asid 0x58 (c.record 0 (c.pub && c.shd && c.takes) (if c.takes then b else [])) = o →
        exec (.collectiveComplete n i) s = .next (match o with
          | none => u
          | some t => drop t))) ∧
    ((s.cgroup (i % 64)).state = 2 → (∀ h ∈ s.chips, ∀ c ∈ h.2.clIn,
        c.id = i % 64 → c.gen = (s.cgroup (i % 64)).gen → c.refused = true) →
      exec (.groupDrained i) s = .next (s.setCgroup (i % 64) { s.cgroup (i % 64) with state := 0 }))

/-! ### Firmware calls, the host, bring-up, security and power -/

namespace Sys2Proof.Spec
open Sys2Proof Sys2Proof.Machine

/-- The oldest request of a core is `q`, its block readable at places `l` with the bytes `b`, its header right (R346). -/
abbrev mbxHas (s : State) (g code : Nat) (q : MbxReq) (l : List Loc) (b : List Byte) : Prop :=
  wfCore g = true ∧ (s.core g).mbx.head? = some q ∧ s.mbxBlock g q = some (l, b) ∧ callCode b = code ∧ callZero b = true

/-- The row of a call answers the request with `a` from the state `t` its effect leaves. -/
def mbxAnswers (s : State) (g : Nat) (i : Instr) (q : MbxReq) (l : List Loc) (b : List Byte) (a : Answer) (t : State) : Prop :=
  exec i s = .next (t.answer g q l (fieldOf b 4 4) a)

/-- Host port `p`, on a chiplet that serves it, holds a command of a code (R410, R448). -/
abbrev cmdHas (s : State) (p code : Nat) : Prop :=
  wfEight p = true ∧ (s.port p).busy = true ∧ (s.port p).arg 0 2 = code ∧ s.siteDown (Config.hostPortChip p) = false

end Sys2Proof.Spec

/-- The calls of the management-core mailbox complete with the statuses and effects of R347.
Readings of the model in it: log entries 45, 70, 71. -/
def Obligations.MailboxCallsComplete : Prop :=
  ∀ (s : State) (g code : Nat) (q : MbxReq) (l : List Loc) (b : List Byte), mbxHas s g code q l b →
    let rid := reqRid b
    let n := reqChip b
    let site := Config.isCompute n = true ∧ (s.chip n).peal = 6
    (code = 1 → ∀ k r, s.loadRcb (g / 64) q.asid (reqVa b) = .ok r → s.region (BitVec.ofNat 16 k) = none →
      s.regionAt q.asid r.rcb = none → mbxAnswers s g (.registerRcb g k) q l b
        ⟨.ok, [(16, leBytes 2 (BitVec.ofNat 16 k).toNat)]⟩ (s.setRegion (BitVec.ofNat 16 k) r)) ∧
    (∀ r, s.region rid = some r → r.asid = q.asid →
      (code = 2 → ∀ x, s.loadRcb (g / 64) q.asid r.rcb = .ok x →
        mbxAnswers s g (.updateRcb g) q l b (Answer.of .ok) (s.setRegion rid x)) ∧
      (code = 3 → let busy := s.hasTeam rid || s.launching rid
        (busy = true → mbxAnswers s g (.unregisterRcb g) q l b (Answer.of .busy) s) ∧
        (busy = false → mbxAnswers s g (.unregisterRcb g) q l b (Answer.of .ok) (s.dropRegion rid))) ∧
      (site →
        (code = 4 → fieldOf b 32 1 < 2 → ∀ grant binds,
          let x := s.formTeam n rid r (BitVec.ofNat 64 (fieldOf b 24 8)) grant ((fieldOf b 32 1).testBit 0) binds
          mbxAnswers s g (.teamCall g grant binds) q l b ⟨if x.1 = 0 then .refused else .ok, [(40, leBytes 8 x.1.toNat)]⟩ x.2) ∧
        (code = 5 → (s.team n rid).mask ≠ 0 →
          (s.teamIdle n rid = true →
            mbxAnswers s g (.releaseCall g) q l b (Answer.of .ok) (s.dropTeam n rid)) ∧
          (s.teamIdle n rid = false → mbxAnswers s g (.releaseCall g) q l b (Answer.of .busy) s)) ∧
        (code = 7 → ∀ i m p, reqCore b < 64 → (s.core (64 * n + reqCore b)).recOf rid = some i →
          (s.core (64 * n + reqCore b)).imageOf i = some m → s.callBuffer g q (reqVa b) m.bytes.length = some p →
          mbxAnswers s g (.ctxrd g) q l b ⟨.ok, [(40, leBytes 4 m.bytes.length)]⟩ (s.storeHome q.asid (p.zip m.bytes))) ∧
        (code = 9 → (s.team n rid).mask ≠ 0 → ∀ dest cores, s.mayMigrate n rid = true → s.canHost n dest rid r cores = true →
          mbxAnswers s g (.migrateCall g dest cores) q l b ⟨.ok, [(40, leBytes 2 dest)]⟩ (s.migrate n dest rid r cores)))) ∧
    (code = 6 → mbxAnswers s g (.wstopCall g) q l b (Answer.of .ok) (s.wstopAsk (reqVa b) q.asid)) ∧
    (code = 8 → ∀ p, fieldOf b 16 1 < 8 → s.callBuffer g q (reqVa b) 32 = some p → let x := s.link (fieldOf b 16 1)
      mbxAnswers s g (.glcnt g) q l b (Answer.of .ok) (s.storeHome q.asid (p.zip (leBytes 8 x.gltx.toNat ++
        leBytes 8 x.glretx.toNat ++ leBytes 8 x.glrxbad.toNat ++ leBytes 8 x.glxdrop.toNat))))

/-- The commands of the management page complete with the statuses and results of R410, R412, R413, R415, R419, R423 and R446.
Readings of the model in it: log entries 79, 80, 81, 82. -/
def Obligations.HostCommandsComplete : Prop :=
  ∀ (s : State) (p : Nat),
    let h := s.port p
    let a := BitVec.ofNat 16 (h.arg 8 2)
    let fin (i : Instr) (t : State) (sts : CallSts) (res : List Byte) : Prop := exec i s = .next (t.finishCmd p sts res)
    (cmdHas s p 1 → ∀ k, let tw := h.arg 16 8
      h.arg 8 8 % 2 ^ 21 = 0 → tw % 4096 = 0 → canonical (BitVec.ofNat 64 tw) = true → h.arg 24 4 < 2 ^ 20 →
      let r : Space := ⟨h.arg 8 8, BitVec.ofNat 64 tw, BitVec.ofNat 20 (h.arg 24 4), false, [], 0, 0, false⟩
      s.asidFree (BitVec.ofNat 16 k) = true →
      fin (.asnew p k) { s with spaces := KV.put (BitVec.ofNat 16 k).toNat r s.spaces } .ok
        (leBytes 2 (BitVec.ofNat 16 k).toNat)) ∧
    (cmdHas s p 2 → ∀ r, KV.find s.spaces a.toNat = some r → fin (.askill p) (s.kill a 5 0) .ok []) ∧
    (∀ l, h.blocks = some l →
      (cmdHas s p 3 → s.lives a = true → (∀ k ∈ l, s.blockThere k = true ∧ (KV.get 0 s.owner k = 0 ∨ KV.get 0 s.owner k = a)) →
        fin (.grantCmd p) { s with owner := l.foldl (fun t k => KV.put k a t) s.owner } .ok []) ∧
      (cmdHas s p 4 → ∀ r, KV.find s.spaces a.toNat = some r → r.killed = true → r.killing = [] →
        (∀ k ∈ l, KV.get 0 s.owner k = 0 ∨ KV.get 0 s.owner k = a) →
        fin (.revokeCmd p) { s with owner := l.foldl (fun t k => KV.del k t) s.owner } .ok [])) ∧
    (cmdHas s p 5 → ∀ k r, s.lives a = true → s.loadRcb Config.bootChip a (BitVec.ofNat 64 (h.arg 16 8)) = .ok r →
      r.parent = 0 → s.regionAt a r.rcb = none → s.region (BitVec.ofNat 16 k) = none →
      fin (.rootreg p k) (s.setRegion (BitVec.ofNat 16 k) r) .ok (leBytes 2 (BitVec.ofNat 16 k).toNat)) ∧
    (cmdHas s p 6 → let w := h.arg 8 2
      let asid : W16 := BitVec.ofNat 16 (h.arg 10 2)
      let x : Window := { KV.get ⟨0, 0, [], 0⟩ s.windows w with asid := asid, lq := BitVec.ofNat 64 (h.arg 16 8) }
      w < 1024 → (asid = 0 ∨ s.lives asid = true) →
      fin (.winbind p) { s with windows := KV.put w x s.windows } .ok []) ∧
    (cmdHas s p 7 → let asid : W16 := BitVec.ofNat 16 (h.arg 10 2)
      h.arg 8 1 < 16 → h.arg 16 8 % 4096 = 0 →
      (asid = 0 → fin (.apbind p) { s with apertures := KV.del (h.arg 8 1) s.apertures } .ok []) ∧
      let x : Aperture := ⟨asid, BitVec.ofNat 64 (h.arg 16 8), (h.cmdByte 12).getLsbD 0⟩
      (asid ≠ 0 → s.lives asid = true → fin (.apbind p) { s with apertures := KV.put (h.arg 8 1) x s.apertures } .ok [])) ∧
    (cmdHas s p 8 → s.sec.boot ≠ 5 → s.sec.stopped = false →
      (s.sec.key = none → fin (.attestCmd p) s .noid []) ∧
      (s.sec.key ≠ none → let b := s.attestation ((List.range 32).map fun k => h.cmdByte (8 + k))
        fin (.attestCmd p) (s.putBytes ((Loc.span (busPlace p (h.arg 40 8)) b.length).zip b)) .ok [])) ∧
    (cmdHas s p 9 → (∀ x, s.sec.writePolicy (BitVec.ofNat 32 (h.arg 8 4)) = some x → fin (.almpolCmd p) { s with sec := x } .ok []) ∧
      (s.sec.writePolicy (BitVec.ofNat 32 (h.arg 8 4)) = none → fin (.almpolCmd p) s .refused [])) ∧
    (∀ r, KV.find s.spaces (h.arg 8 2) = some r →
      let q := { r with debug := (h.cmdByte 10).getLsbD 0 }
      (cmdHas s p 10 → fin (.debugCmd p) { s with spaces := KV.put (h.arg 8 2) q s.spaces } .ok []) ∧
      (cmdHas s p 12 → fin (.causeOf p) s .ok (if r.killed then leBytes 1 r.cause ++ [r.code] else [0, 0]))) ∧
    (cmdHas s p 11 → let g := 64 * h.arg 8 2 + h.arg 10 1
      h.arg 10 1 < 64 → (s.core g).brkStop ≠ [] →
      fin (.resumeBrk p) ((s.modCore g fun c => { c with brkStop := (s.core g).brkStop.tail }).noteWaits g) .ok []) ∧
    (∀ (sites : List Nat) (readOk : Bool) (ask : W32), wfEight p = true → s.romWaits = true → s.sec.offers.head? = some p →
      let x : Security := { s.sec with offers := s.sec.offers.tail }
      let image := s.bytesAt ((busPlace p h.imgadr.toNat).span h.imglen.toNat)
      let code := imgRefusal image readOk (if x.boot = 0 then 1 else 2) x.minsvn
      (code ≠ 0 → exec (.imggo p sites readOk ask) s = .next { s with sec := { x with refused := code } }) ∧
      (code = 0 → x.boot = 0 → exec (.imggo p sites readOk ask) s = .next
        { s with sec := { x with boot := 2, firmware := imgDigest image, fwsvn := imgSvn image } }) ∧
      (code = 0 → x.boot ≠ 0 → exec (.imggo p sites readOk ask) s = .next { s with sec := { x with
        boot := 3, config := imgDigest image
        isolate := sites.filter fun n => wfSite n && n != Config.bootChip
        minsvn := raiseMinsvn x.minsvn ask x.fwsvn } }))

/-- The accesses of the host complete (R407 to R409, R412 to R414, R448): a write to the management page or a window lands byte by
byte, and a DOOR, IMGGO or RING write acts, but not through a port whose chiplet is fenced or has failed; a RING write puts the staged packet at TAIL; an aperture access reads or writes its places,
a refused one is counted; a port's cache drops a range; a port trains down. Readings of the model in it: log entry 82. -/
def Obligations.HostAccessesComplete : Prop :=
  (∀ (s : State) (p off : Nat) (b : List Byte), wfEight p = true → off + b.length ≤ 0x10000 →
    let t := s.setPort p (b.zipIdx.foldl (fun (h : HostPort) y =>
      h.writeByte s.imagePage (decide (4 ≤ s.sec.boot)) (off + y.2) y.1) (s.port p))
    (s.siteDown (Config.hostPortChip p) = true → exec (.managementPageWrite p off b) s = .next s) ∧
    (s.siteDown (Config.hostPortChip p) = false → hits off b.length 0x404 4 = false → hits off b.length 0x200 4 = false →
      hits off b.length 0x1C 4 = true → exec (.managementPageWrite p off b) s = .next (t.offer p)) ∧
    (s.siteDown (Config.hostPortChip p) = false → hits off b.length 0x404 4 = false → hits off b.length 0x1C 4 = false →
      (hits off b.length 0x200 4 = false → b ≠ [] → exec (.managementPageWrite p off b) s = .next t) ∧
      (hits off b.length 0x200 4 = true → exec (.managementPageWrite p off b) s = .next (t.door p)))) ∧
  (∀ (s : State) (p w off : Nat) (b : List Byte), wfEight p = true → w < 1024 → b ≠ [] → off + b.length ≤ 256 →
    s.siteDown (Config.hostPortChip p) = false →
    let x := KV.get ⟨0, 0, [], 0⟩ s.windows w
    let stage := b.zipIdx.foldl (fun t y => if off + y.2 < 256 then KV.putD 0 (off + y.2) y.1 t else t) x.stage
    exec (.managementPageWrite p (0x10000 + 4096 * w + off) b) s =
      .next { s with windows := KV.put w { x with stage := stage } s.windows }) ∧
  (∀ (s : State) (w : Nat) (d l : List Loc) (q : Ring), w < 1024 → let x := KV.get ⟨0, 0, [], 0⟩ s.windows w
    x.asid ≠ 0 → s.isKilled x.asid = false → s.sec.boot ≠ 5 → s.ring Config.bootChip x.asid x.lq = some (d, q) →
    q.used < 2 ^ q.log2n → d.any Loc.isHost = false →
    s.placesAs Config.bootChip x.asid false (q.base + BitVec.ofNat 64 (256 * (q.tail.toNat % 2 ^ q.log2n))) 256 .w true = .ok l →
    exec (.ringWrite w) s = .next ((s.storeHome x.asid (l.zip x.packet)).storeHome x.asid
      ((d.drop 20).zip (leBytes 4 (q.tail + 1).toNat)))) ∧
  (∀ (s : State) (ap off len : Nat) (a : W16) (l : List Seg), s.apertureSegs ap off len false = some (a, l) →
    exec (.apertureRead ap off len) s = .next
      { s.l2Segs (Config.hostPortChip 0) a l false with apRead := some (s.bytesAt (l.flatMap Seg.places)) }) ∧
  (∀ (s : State) (ap off : Nat) (b : List Byte),
    (∀ a l, s.apertureSegs ap off b.length true = some (a, l) →
      exec (.apertureWrite ap off b) s = .next ((s.storeHome a (apertureStores l b)).l2Segs (Config.hostPortChip 0) a
        (l.filter fun x => x.imm || x.leaf.getLsbD 6) false)) ∧
    (s.apertureSegs ap off b.length true = none → exec (.apertureWrite ap off b) s = .next { s with
      apref := putField s.apref 32 32 (min (2 ^ 32 - 1) ((s.apref.extractLsb' 32 32).toNat + 1)) })) ∧
  (∀ (s : State) (p pasid lo hi : Nat), wfEight p = true → s.hostPending p pasid lo hi = false →
    exec (.hostInvalidationRequest p pasid lo hi) s = .next (s.setPort p { s.port p with atc := (s.port p).atc.filter fun x =>
      !(x.1 == pasid && decide (x.2 * 4096 < hi) && decide (lo < x.2 * 4096 + 4096)) })) ∧
  (∀ (s : State) (p w : Nat), wfEight p = true → w = 8 ∨ w = 4 → w < (s.port p).width →
    exec (.hostPortLaneFault p w) s = .next (s.setPort p { s.port p with width := w }))

/-- Bring-up, failure in service, the tamper alarm and RESET complete (R28, R418, R420, R423, R447 to R456).
Readings and choices of the model in it: log entries 1 to 4, 8, 37, 84, 117, 119. -/
def Obligations.BringUpAndAlarmComplete : Prop :=
  ∀ (s : State) (n : Nat),
    (∀ t, t = ((List.range 576).filter fun n => Config.isEdge n && s.peal n == 0).foldl (fun t n => t.setPeal n 1) s →
      exec .powerGood s = .next { t with sec := t.sec.derive }) ∧
    (wfSite n = true →
      (s.peal n = 1 → ∀ l, exec (.clockLock n (some l)) s = .next (s.setPeal n 2) ∧
        exec (.clockLock n none) s = .next ((s.fail n).endPass1)) ∧
      (s.peal n = 2 → ∀ h l, l = h.getD [] →
        (∀ k, s.clockOf n l = some k → exec (.clockLock n h) s = .next ((s.setPeal n 3).powerNeighbours n)) ∧
        (s.clockOf n l = none → exec (.clockLock n h) s = .next ((s.fail n).endPass1))) ∧
      (s.peal n = 3 → exec (.selftestDone n 0) s = .next (s.setPeal n 4) ∧
        exec (.selftestDone n 1) s = .next ((s.fail n).endPass1) ∧
        exec (.selftestDone n 2) s = .next ((s.isolate n).endPass1)) ∧
      (s.peal n = 4 → exec (.linksTrained n []) s = .next ((s.setPeal n 5).endPass1)) ∧
      (∀ l, pealLimit (s.peal n) = some l → (s.chip n).pealSince + l ≤ s.now →
        (s.peal n = 5 → exec (.stateLimitExpiry n) s = .next ((s.isolate n).fillTables.bootDone)) ∧
        (s.peal n ≠ 5 → exec (.stateLimitExpiry n) s = .next ((s.fail n).endPass1))) ∧
      (s.peal n = 5 → s.sec.boot = 3 → (s.peal (s.feeder n) = 6 ∨ s.peal (s.feeder n) = 8) →
        ∀ got good, good = (match got with
          | some b => Config.isMemory n || imgDigest b == s.sec.firmware
          | none => false) →
        (good = true → exec (.configTransfer n got) s = .next
          ((if n ∈ s.sec.isolate then s.isolate n else s.setPeal n 6).fillTables.bootDone)) ∧
        (good = false → 2 ≤ (s.chip n).tries → exec (.configTransfer n got) s = .next ((s.isolate n).fillTables.bootDone)) ∧
        (good = false → (s.chip n).tries < 2 →
          exec (.configTransfer n got) s = .next (s.modChip n fun k => { k with tries := k.tries + 1 }))) ∧
      (s.peal n = 6 → ∀ iso, exec (.siteFailureInService n iso) s = .next (s.siteFailure n iso))) ∧
    (s.sec.boot = 3 → s.pass1Over = true → s.peal Config.bootChip = 5 →
      exec .pealPass2 s = .next ((s.setPeal Config.bootChip 6).fillTables.bootDone)) ∧
    (∀ k, k < 4 →
      (s.sec.window = none →
        exec (.sensorTrip k) s = .next { s with sec := { s.sec with window := some (s.now, BitVec.ofNat 4 (2 ^ k)) } }) ∧
      (∀ t b, s.sec.window = some (t, b) → s.now < t + 1500 →
        exec (.sensorTrip k) s = .next { s with sec := { s.sec with window := some (t, b ||| BitVec.ofNat 4 (2 ^ k)) } })) ∧
    (∀ t bits, s.sec.window = some (t, bits) → t + 1500 ≤ s.now → exec .alarmEvent s = .next (s.alarm bits)) ∧
    (s.sec.erasing = true → exec .eraseComplete s = .next
      { s with sec := { s.sec with keyStore := some [], key := none, erasing := false } }) ∧
    (∀ x, x = (match s.sec.window with
        | some w => s.alarm w.2
        | none => s).sec →
      exec .resetAll s = .next { State.reset with
        turns := s.turns, self := s.self, fresh := s.fresh, mem := s.mem, hostMem := s.hostMem, hostRefuse := s.hostRefuse
        sec := { Security.reset with
          keyStore := if x.erasing then some [] else x.keyStore, acnt := x.acnt, minsvn := x.minsvn } })

/-- The alarm counter (R421): an alarm event raises it by one, but not past 2^32 − 1; RESET counts an event whose window is open,
and otherwise leaves it, as the erasure of the key store does. Of the event's policy (R422, R423): under 0 nothing else changes,
under 1 and 2 the module halts with every address space killed, under 2 it also stops and begins to erase; memory and the cores
stay as they are. Readings of the model in it: log entries 50, 117. -/
def Obligations.AlarmCounter : Prop :=
  ∀ (s : State) (bits : BitVec 4), KV.sorted s.spaces = true → (∀ x ∈ s.spaces, x.1 < 65536) →
    let t := s.alarm bits
    let p := strictest s.sec.almpol bits
    t.sec.acnt = (if s.sec.acnt = 0xFFFFFFFF then s.sec.acnt else s.sec.acnt + 1) ∧
    (∀ u, exec .resetAll s = .next u →
      (s.sec.window = none → u.sec.acnt = s.sec.acnt) ∧ (∀ k b, s.sec.window = some (k, b) → u.sec.acnt = (s.alarm b).sec.acnt)) ∧
    (∀ u, exec .eraseComplete s = .next u → u.sec.acnt = s.sec.acnt) ∧
    (∀ k u, s.sec.window = none → exec (.sensorTrip k) s = .next u → u.sec.acnt = s.sec.acnt) ∧
    (∀ k b u, s.sec.window = some (k, b) → k + 1500 ≤ s.now → exec .alarmEvent s = .next u → u = s.alarm b) ∧
    t.sec.lat = s.sec.lat ||| bits ∧ t.sec.window = none ∧ sameMemory s t ∧ t.cores = s.cores ∧
    (p = 0 → t.sec.boot = s.sec.boot ∧ t.sec.stopped = s.sec.stopped ∧ t.sec.erasing = s.sec.erasing ∧ t.spaces = s.spaces) ∧
    (p ≠ 0 → t.sec.boot = 5 ∧ (∀ x ∈ t.spaces, x.2.killed = true) ∧ t.sec.stopped = (s.sec.stopped || p == 2) ∧
      t.sec.erasing = (s.sec.erasing || p == 2))

/-- Clocks, droops, buckets, ramps and gating complete, and a budget period begins (R146, R364 to R366, R369, R372, R373, R379):
what it grants never passes what S leaves (R366).
Telemetry, staleness and shedding complete (R375, R377, R378, R380 to R382): a new frame with MEAS sets the level, which falls
at once and rises by the hysteresis; without one for 1 ms it is stale, and after 40 ms the level is 512; a class is restored
after its hold; a notice reaches a router; the deadline of a class passes. Readings of the model in it: log entries 38, 85, 112,
130. -/
def Obligations.PowerStepsComplete : Prop :=
  (∀ (s : State) (n g m : Nat),
    (wfSite n = true → exec (.droopStart n) s = .next (s.modChip n fun k => { k with droop := true }) ∧
      exec (.droopClear n) s = .next (s.modChip n fun k => { k with droop := false })) ∧
    (wfCore g = true → let c := s.core g
      (∀ f, (s.chip (g / 64)).droop = false → (s.chip (g / 64)).hops.find? (fun h => h.1 == g) = some (g, f) →
        exec (.clockHop g) s = .next ((s.modChip (g / 64) fun k => { k with hops := k.hops.filter fun h => h.1 != g }).modCore g
          fun c => { c with pwrst := putField c.pwrst 16 10 f })) ∧
      (∀ t, c.gate = .holding t → c.idle = true → t + c.gateHold.toNat * 1500 ≤ s.now →
        exec (.holdExpiry g) s = .next (s.setCore g { c with gate := .gated })) ∧
      (c.gate = .gated → let p := s.pwr (clusterOfCore g)
        exec (.wakeRequest g) s = .next ((s.setCore g { c with gate := .waking none }).setPwr (clusterOfCore g) { p with
          wakes := if p.wakes.contains (g % 16) then p.wakes else p.wakes ++ [g % 16] })) ∧
      (∀ t, c.gate = .waking (some t) → t + 375 ≤ s.now →
        exec (.wakeComplete g) s = .next ((s.setCore g { c with gate := .running }).noteWaits g))) ∧
    (wfCluster m = true → let p := s.pwr m
      let x := s.mxe m
      (p.refillAt ≤ s.now → exec (.chargeBucketRefill m) s = .next (s.setPwr m { p with
        bucket := min 4096 (p.bucket + p.rate), refillAt := s.now / 64 * 64 + 64 })) ∧
      (x.rampAt ≤ s.now → let want := x.actPrev - s.fallOf x - x.act
        let w4 := (p.cbwt.extractLsb' 32 8).toNat
        ((x.burn + want) / 32 * w4 ≤ p.bucket → exec (.rampWindow m) s = .next ((s.setPwr m { p with
          bucket := p.bucket - (x.burn + want) / 32 * w4
          thrrsn := if want = 0 then p.thrrsn else p.thrrsn ||| 0x404 }).setMxe m { x with
            actPrev := x.act + want, act := 0, burn := (x.burn + want) % 32, rampAt := s.now / 1500 * 1500 + 1500 })) ∧
        (p.bucket < (x.burn + want) / 32 * w4 →
          let k := p.bucket / w4
          let burn := want - min want (32 * ((x.burn + want) / 32 - k))
          exec (.rampWindow m) s = .next ((s.setPwr m { p with
            bucket := p.bucket - k * w4, thrrsn := p.thrrsn ||| (if want = 0 then 0 else 0x404) ||| 0x202 }).setMxe m { x with
              actPrev := x.act + burn, act := 0, burn := x.burn + burn - 32 * k, rampAt := s.now / 1500 * 1500 + 1500 }))) ∧
      (p.inrushAt ≤ s.now → let l := admitted p.lastAdmit p.wakes
        exec (.inrushWindow m) s = .next (l.foldl (fun t c => t.modCore (64 * (m / 4) + 16 * (m % 4) + c) fun c =>
          { c with gate := .waking (some s.now) }) (s.setPwr m { p with
            wakes := p.wakes.filter fun c => !l.contains c, lastAdmit := l.getLastD p.lastAdmit
            inrushAt := s.now / 375 * 375 + 375 })))) ∧
    (∀ avail l, totalOf (s.grants avail l) ≤ avail) ∧
    (s.bell.periodAt ≤ s.now → ∀ seen clocks rates hot,
      let b := s.bell.listen (s.chip Config.carillonRoot).notice s.now
      let u := { s with bell := { b.period seen.draw with periodAt := s.now / 15000 * 15000 + 15000 } }
      let p := u.period seen clocks rates hot
      let ms := (u.chips.map (·.1)).flatMap fun n => if Config.isCompute n then [4 * n, 4 * n + 1, 4 * n + 2, 4 * n + 3] else []
      exec (.budgetPeriod seen clocks rates hot) s = .next
        ((p.units.foldl (fun t c => t.setClocks p c) (ms.foldl (fun t m => t.periodCluster p m) u)).hurryAll ms))) ∧
  (∀ s : State,
    (∀ b, s.bell.accepts b = true →
      let x := { s.bell with lastSeq := some (frameSeq b) }
      (frameMeas b = false → exec (.telemetryFrame b) s = .next { s with bell := x }) ∧
      (frameMeas b = true → let y := { x with lastMeas := s.now, stale := false, fallback := false }
        let l := if y.en then levelStep y.level (y.newLevel b) y.hysl else 1024
        exec (.telemetryFrame b) s = .next (({ s with bell := y } : State).decide378 l ((frameSeq b).extractLsb' 0 24)))) ∧
    (∀ b, s.bell.accepts b = false → exec (.telemetryFrame b) s = .next s) ∧
    (s.bell.stale = false → s.bell.lastMeas + 1500000 ≤ s.now →
      exec .telemetryStale s = .next { s with bell := { s.bell with stale := true, staleSince := s.now } }) ∧
    (s.bell.stale = true → s.bell.en = true → s.bell.fallback = false → s.bell.staleSince + 60000000 ≤ s.now →
      exec .staleFallback s = .next (({ s with bell := { s.bell with fallback := true } } : State).decide378 512 s.bell.fseq)) ∧
    (∀ c t, c < 8 → s.bell.hold.getD c none = some t → s.bell.shed.getLsbD c = true →
      t + shcRhold (s.bell.cls c) * 1500000 ≤ s.now → exec (.restoreHoldExpiry c) s = .next
        (({ s with bell := { s.bell with shed := s.bell.shed &&& ~~~BitVec.ofNat 8 (2 ^ c), hold := s.bell.hold.set! c none } } :
          State).sendNotice s.bell)) ∧
    (∀ n x l, wfSite n = true → (s.chip n).noticeIn = x :: l →
      let gs := (s.cores.filter fun (y : Nat × Core) => y.1 / 64 == n).map (·.1)
      let since := Vector.ofFn fun c =>
        if x.shm.getLsbD c.val && !(s.chip n).notice.shm.getLsbD c.val then x.t0 else (s.chip n).shedAt.getD c.val 0
      let t := gs.foldl (fun t g => t.modCore g fun c => c.noticed x.shm)
        (s.modChip n fun k => { k with notice := x, noticeIn := l, shedAt := since })
      let v := t.regions.foldl (fun t (y : Nat × Region) => t.shedReport n (s.chip n).notice x (BitVec.ofNat 16 y.1) y.2) t
      let w := if n = Config.carillonRoot then { v with bell := v.bell.endFall x } else v
      let u := [0, 1, 2, 3].foldl (fun t c => t.engineClock (4 * n + c) (t.pwr (4 * n + c)).engClk) w
      exec (.shedNotice n) s = .next (gs.foldl (fun t g => (t.stopClock g).noteWaits g) u)))


/-! ### The machine -/

/-- The shifts (R94): the count is b mod w, from the low bits of b read as unsigned; SHL gives a × 2^k wrapped, SHR the bits of
a shifted right with zeros, SRA with copies of bit w − 1, ROT the bits of a rotated left; these are the operations of the
element-wise rows that the four instructions have. -/
def Obligations.ShiftResults : Prop :=
  ∀ (f : M3) (t : Ty) (m : RMode) (r : W32) (a b : Nat), isInt t = true → a < 2 ^ width t → b < 2 ^ width t →
    let w := width t
    let k := b % w
    let row (i : Instr) (is : Nat → Prop) : Prop :=
      ∃ L v, laneRow i = some L ∧ L.f = f ∧ L.srcs = [f.oa, f.ob] ∧ L.op t m r [a, b] = (v, fNone) ∧ v < 2 ^ w ∧ is v
    row (.shl f) (fun v => v = a * 2 ^ k % 2 ^ w) ∧ row (.shr f) (fun v => v = a / 2 ^ k) ∧
    row (.sra f) (fun v => ∀ j, j < w → v.testBit j = if j + k < w then a.testBit (j + k) else a.testBit (w - 1)) ∧
    row (.rot f) (fun v => ∀ j, j < w → v.testBit ((j + k) % w) = a.testBit j)

/-- PSET (R100): FN 0 sets Pd to IMM32 sign-extended to 64 bits; FN 1, PSET.hi, sets Pd[63:32] to IMM32 and keeps Pd[31:0];
where OA is not zero the instruction raises IILL; a 64-bit constant takes both, PSET then PSET.hi. -/
def Obligations.PointerConstants : Prop :=
  (∀ (f : MI) (s : State), KV.sorted s.cores = true → ptrReady s (.pset f) (miAsM3 f) [f.od] → f.oa = .zero → ∃ t,
    exec (.pset f) s = .next t ∧ (t.core s.self).preg (regOf f.od) = f.imm.signExtend 64 ∧
    (∀ k, k ≠ regOf f.od → (t.core s.self).preg k = (s.core s.self).preg k)) ∧
  (∀ (f : MI) (s : State), KV.sorted s.cores = true → ptrReady s (.psetHi f) (miAsM3 f) [f.od] → f.oa = .zero → ∃ t,
    exec (.psetHi f) s = .next t ∧ ((t.core s.self).preg (regOf f.od)).extractLsb' 32 32 = f.imm ∧
    ((t.core s.self).preg (regOf f.od)).extractLsb' 0 32 = ((s.core s.self).preg (regOf f.od)).extractLsb' 0 32 ∧
    (∀ k, k ≠ regOf f.od → (t.core s.self).preg k = (s.core s.self).preg k)) ∧
  (∀ (f : MI) (s : State) (i : Instr), i = .pset f ∨ i = .psetHi f → ptrReady s i (miAsM3 f) [f.od] → f.oa ≠ .zero →
    exec i s = .next (s.faultAt s.self .iill 0)) ∧
  (∀ (f h : MI) (s t : State) (x : W64), KV.sorted s.cores = true → ptrReady s (.pset f) (miAsM3 f) [f.od] → f.oa = .zero →
    exec (.pset f) s = .next t → ptrReady t (.psetHi h) (miAsM3 h) [h.od] → h.oa = .zero → h.od = f.od →
    f.imm = x.extractLsb' 0 32 → h.imm = x.extractLsb' 32 32 →
    ∃ u, exec (.psetHi h) t = .next u ∧ (u.core s.self).preg (regOf f.od) = x)

/-- The registers that show what runs (R197, R320, R385): PHNUM is the current phase of the core's group, 0 in none; REGID the
region of the running activation and ASIDR its address space, 0 when none runs, their upper bits zero; SRD reads them at any
privilege, a valid SWR of them raises PRIV at every privilege, and after reset each reads 0. Readings of the model in it: log
entry 49. -/
def Obligations.ShowingRegisters : Prop :=
  (∀ (s : State) (g : Nat),
    (∀ q, (s.core g).group = some q → s.readSr g 0x023 = some (s.pgroup q).phase) ∧
    ((s.core g).group = none → s.readSr g 0x023 = some 0) ∧
    (∀ a, (s.core g).act = some a → s.readSr g 0x080 = some (a.rid.zeroExtend 64) ∧
      s.readSr g 0x0B0 = some ((recAsid ((s.core g).brec.getD a.brec 0)).zeroExtend 64)) ∧
    ((s.core g).act = none → s.readSr g 0x080 = some 0 ∧ s.readSr g 0x0B0 = some 0)) ∧
  (∀ n ∈ [0x023, 0x080, 0x0B0], srdSup n = false ∧ (∀ c : Core, swrPriv n c = true) ∧
    ∀ g, State.reset.readSr g n = some 0) ∧
  (∀ (f : SY) (s : State) (v : W64), f.srn.toNat ∈ [0x023, 0x080, 0x0B0] → s.readSr s.self f.srn.toNat = some v →
    s.canIssue (.srd f) f.sp false [f.oa] = true → srLegal f false s = true →
    (s.core s.self).checkLocals 8 [(f.oa, 8, 8)] = .ok () →
    ends s (.srd f) f.sp false (((s.core s.self).writeU64 8 f.oa v.toNat).opIncs 8 [f.oa], none)) ∧
  (∀ (f : SY) (s : State) (c1 : Core) (e : El) (fl : Flags), f.srn.toNat ∈ [0x023, 0x080, 0x0B0] →
    s.canIssue (.swr f) f.sp false [f.oa] = true → srLegal f true s = true →
    (s.core s.self).checkLocals 8 [(f.oa, 8, 8)] = .ok () →
    (s.core s.self).readElems (s.canFill s.self) 8 f.oa .u64 1 = .ok (c1, [e], fl) → e.v = true →
    exec (.swr f) s = .next (s.faultAt s.self .priv 0))

/-- A step runs the instruction decoded at PC: with nothing else for the core in hand to do, the slot in its fetch buffer whose
word decodes to `i` is carried out as `exec i`. A turn of the schedule first moves the time on, lets an error strike if it names
one and takes what comes from outside if it names that, then carries out the row of an agent, or lets another core take its
turn. Readings of the model in it: log entry 5. -/
def Obligations.StepRunsDecoded : Prop :=
  (∀ (s : State) (w : Slot) (i : Instr), s.turns = [] →
    let c := s.core s.self
    c.act ≠ none → s.killDue (s.self / 64) c.asid = false → s.hopping s.self = false → c.async = [] →
    s.stopsNow s.self = false → s.drains s.self = false → (c.wait = .none ∨ c.pend = []) → s.waitRow s.self = none →
    c.refetch = none → c.slot? = some w → decode w = .ok i →
    (spOf i = true → c.line (nextSlot c.pc) ≠ none) → step s = exec i s) ∧
  (∀ (s : State) (t : Turn) (ts : List Turn), s.turns = t :: ts →
    let u := (({ s with turns := ts, now := s.now + t.dt } : State).struck t.upset).given t.input
    (∀ i, t.ev = some i → i.form = .agent → step s = exec i u) ∧
    (∀ g, t.ev = none → t.core = some g → step s = stepCore { u with self := g }) ∧
    (t.ev = none → t.core = none → step s = .next u)) ∧
  (∀ s : State, s.turns = [] → step s = stepCore s)

/-- Words written out from the spec's encodings decode to the instructions they stand for. -/
def Obligations.DecodeWords : Prop :=
  decode 0x4057_8000_8000_0400_2801_0000 = .ok (.fadd ⟨false, .f32, 15, .propagate, .fm, 0, .acc, .mem 1 0, .inc 2 1, .zero⟩) ∧
  decode 0xE038_8000_0100_F000_0000_0000 = .ok (.srd ⟨false, .u64, 1, .propagate, .fm, 0, 0x010, .reg 4 0, .zero, .zero⟩) ∧
  decode 0xE200_0000_0000_0000_C011_0000 = .ok (.trap ⟨false, .i8, 0, .propagate, .fm, 0, .zero, .zero, .imm 17, .zero⟩) ∧
  decode 0xA948_0009_0800_0C00_0000_0000 = .ok (.mma ⟨false, .bf16, 9, .mem 2 0, .mem 3 0, 0, 0⟩) ∧
  decode 0 = .ok .nop ∧ decode 0xEF00_0000_0000_0000_0000_0071 = .error .liveWord

/-- Decoding gives back every well-formed instruction that was encoded, whatever its operands. -/
def Obligations.DecodeEncode : Prop :=
  ∀ (i : Instr) (w : Slot), i.wf = true → encode i = some w → decode w = .ok i

/-- A slot that decodes has one meaning: its instruction is well formed and encodes to that very slot. -/
def Obligations.EncodeDecode : Prop :=
  ∀ (w : Slot) (i : Instr), decode w = .ok i → i.wf = true ∧ encode i = some w

/-- Every step keeps memory in its canonical form: addresses strictly rising, no entry that an unlisted address would read.
Readings of the model in it: log entry 1. -/
def Obligations.MemoryStaysCanonical : Prop :=
  ∀ s t : State, Memory.wf s.mem = true → step s = .next t → Memory.wf t.mem = true

/-- The state after reset has canonical memory and no core, chiplet or address space in use; ST and PX read 0, FM 1, SRSEED 1,
the running CRC 0xFFFF on every core (R51, R76 to R80), every chiplet is OFF (R447). Choices of the model in it: log entries 1,
2. -/
def Obligations.ResetState : Prop :=
  Memory.wf State.reset.mem = true ∧ State.reset.cores = [] ∧ State.reset.chips = [] ∧ State.reset.spaces = [] ∧
  (∀ g, let c := State.reset.core g
    c.st = 0 ∧ c.fm = 1 ∧ c.px = 0 ∧ c.srseed = 1 ∧ c.crc = 0xFFFF ∧ c.act = none) ∧
  (∀ n, (State.reset.chip n).peal = 0)
end

