-- ==== Sys2Proof/Laws/Issue.lean ====
section
/-! SUPPORT. What the issue of an instruction does once its checks pass (R53), and what each check that fails does. -/

namespace Sys2Proof.Machine

/-- The checks of R53 that `canIssue` gathers, one by one. -/
theorem canIssue_iff {s : State} {i : Instr} {sp uses : Bool} {ops : List Operand} :
    s.canIssue i sp uses ops = true ↔
      wfCore s.self = true ∧ s.issues s.self = true ∧
      ((s.core s.self).pend.any fun p => (usesOf ops).clash p.dest) = false ∧ (s.core s.self).entryFault = none ∧
      (s.core s.self).seqFault = false ∧ (s.core s.self).pp = uses ∧ s.chargeFits s.self i = true ∧
      (sp = true → isOk ((s.core s.self).liveAfter (s.core s.self).pc) = true) := by
  cases sp <;> simp [State.canIssue, and_assoc]

/-- An instruction that can issue and whose field rules hold does what its body says. -/
theorem issue_body {i : Instr} {h : Core → Shape} {body : State → Except Exn Res} {s : State} {sp uses : Bool}
    {ops : List Operand} (hs : h (s.core s.self) = ⟨sp, uses, true, usesOf ops⟩) (hr : s.canIssue i sp uses ops = true) :
    issue i h body s = match body s with
      | .error (.flt f a) => s.faultAt s.self f a
      | .error .stall => s.modCore s.self fun c => { c with wait := if c.wait = .none then .again else c.wait }
      | .ok (.done t) => t.retired s i sp uses
      | .ok (.hold t) => t
      | .ok (.gone t) => t := by
  obtain ⟨-, h2, h3, h4, h5, h6, h7, h8⟩ := canIssue_iff.1 hr
  have hl : (if sp = true then ((s.core s.self).liveAfter (s.core s.self).pc).map some else .ok none) =
      .ok (s.liveMask sp) := by
    cases sp
    · rfl
    · have := h8 rfl
      simp only [State.liveMask, if_true]
      cases hm : (s.core s.self).liveAfter (s.core s.self).pc <;> simp_all [isOk, Except.map]
  cases uses <;> simp only [issue, hs, h2, h3, h4, hl, h5, h6, h7, State.retired, Bool.not_true, Bool.and_true,
    Bool.and_false, Bool.not_false, Bool.or_false, Bool.false_eq_true, if_false] <;> rfl

/-- The row of such an instruction, on a core that exists. -/
theorem coreRow_body {i : Instr} {h : Core → Shape} {body : State → Except Exn Res} {s : State} {sp uses : Bool}
    {ops : List Operand} (hs : h (s.core s.self) = ⟨sp, uses, true, usesOf ops⟩) (hr : s.canIssue i sp uses ops = true) :
    coreRow i h body s = .next (match body s with
      | .error (.flt f a) => s.faultAt s.self f a
      | .error .stall => s.modCore s.self fun c => { c with wait := if c.wait = .none then .again else c.wait }
      | .ok (.done t) => t.retired s i sp uses
      | .ok (.hold t) => t
      | .ok (.gone t) => t) := by
  rw [coreRow, onCore, if_pos (canIssue_iff.1 hr).1, issue_body hs hr]

/-- An instruction whose body completes retires. -/
theorem coreRow_done {i : Instr} {h : Core → Shape} {body : State → Except Exn Res} {s t : State} {sp uses : Bool}
    {ops : List Operand} (hs : h (s.core s.self) = ⟨sp, uses, true, usesOf ops⟩) (hr : s.canIssue i sp uses ops = true)
    (hb : body s = .ok (.done t)) : coreRow i h body s = .next (t.retired s i sp uses) := by
  rw [coreRow_body hs hr, hb]

/-- An instruction that goes elsewhere by itself. -/
theorem coreRow_gone {i : Instr} {h : Core → Shape} {body : State → Except Exn Res} {s t : State} {sp uses : Bool}
    {ops : List Operand} (hs : h (s.core s.self) = ⟨sp, uses, true, usesOf ops⟩) (hr : s.canIssue i sp uses ops = true)
    (hb : body s = .ok (.gone t)) : coreRow i h body s = .next t := by
  rw [coreRow_body hs hr, hb]

/-- An instruction that waits with part of its effect made. -/
theorem coreRow_hold {i : Instr} {h : Core → Shape} {body : State → Except Exn Res} {s t : State} {sp uses : Bool}
    {ops : List Operand} (hs : h (s.core s.self) = ⟨sp, uses, true, usesOf ops⟩) (hr : s.canIssue i sp uses ops = true)
    (hb : body s = .ok (.hold t)) : coreRow i h body s = .next t := by
  rw [coreRow_body hs hr, hb]

/-- An instruction that faults is taken at its slot (R426). -/
theorem coreRow_fault {i : Instr} {h : Core → Shape} {body : State → Except Exn Res} {s : State} {sp uses : Bool}
    {ops : List Operand} {f : FCode} {a : W64} (hs : h (s.core s.self) = ⟨sp, uses, true, usesOf ops⟩)
    (hr : s.canIssue i sp uses ops = true) (hb : body s = .error (.flt f a)) :
    coreRow i h body s = .next (s.faultAt s.self f a) := by
  rw [coreRow_body hs hr, hb]

end Sys2Proof.Machine
end

