-- ==== Sys2Proof/Laws/State.lean ====
section
/-! SUPPORT. What each update of the state leaves alone, field by field, and what reading a unit after writing one gives. -/

namespace Sys2Proof.KV
variable {α : Type}

theorem find_put_self (k : Nat) (v : α) (l : List (Nat × α)) : find (put k v l) k = some v := by
  induction l with
  | nil => simp [put, find]
  | cons x t ih => obtain ⟨j, w⟩ := x; unfold put; split <;> [simp [find]; split <;> [simp [find]; (simp [find, ih]; omega)]]

theorem find_put_ne {k j : Nat} (h : j ≠ k) (v : α) (l : List (Nat × α)) : find (put k v l) j = find l j := by
  induction l with
  | nil => simp [put, find, h.symm]
  | cons x t ih =>
    obtain ⟨i, w⟩ := x
    unfold put
    split
    · simp [find, h.symm]
    · split
      · subst_vars; simp [find, h.symm]
      · simp [find, ih]

theorem find_del_ne {k j : Nat} (h : j ≠ k) (l : List (Nat × α)) : find (del k l) j = find l j := by
  induction l with
  | nil => rfl
  | cons x t ih =>
    obtain ⟨i, w⟩ := x
    unfold del
    split
    · subst_vars; simp [find, h.symm]
    · simp [find, ih]

theorem sorted_tail {x : Nat × α} {l : List (Nat × α)} (h : sorted (x :: l) = true) : sorted l = true := by
  cases l with
  | nil => rfl
  | cons y t => obtain ⟨i, v⟩ := x; obtain ⟨j, w⟩ := y; simp [sorted] at h; exact h.2

/-- The first key of a rising list is below the others. -/
theorem sorted_lt {i : Nat} {v : α} {l : List (Nat × α)} (h : sorted ((i, v) :: l) = true) : ∀ x ∈ l, i < x.1 := by
  induction l generalizing i v with
  | nil => simp
  | cons y t ih =>
    obtain ⟨j, w⟩ := y
    simp [sorted] at h
    intro x hx
    rcases List.mem_cons.1 hx with rfl | hx
    · exact h.1
    · exact Nat.lt_trans h.1 (ih h.2 x hx)

theorem sorted_cons {i : Nat} {v : α} {l : List (Nat × α)} (h : sorted l = true) (b : ∀ x ∈ l, i < x.1) :
    sorted ((i, v) :: l) = true := by
  cases l with
  | nil => rfl
  | cons y t => obtain ⟨j, w⟩ := y; simp [sorted, h]; exact b (j, w) (by simp)

theorem find_none {k : Nat} {l : List (Nat × α)} (b : ∀ x ∈ l, k < x.1) : find l k = none := by
  induction l with
  | nil => rfl
  | cons y t ih =>
    obtain ⟨j, w⟩ := y
    have := b (j, w) (by simp)
    simp only [find]
    rw [if_neg (by simp at this; omega), ih fun x hx => b x (by simp [hx])]

theorem find_del_self {k : Nat} {l : List (Nat × α)} (h : sorted l = true) : find (del k l) k = none := by
  induction l with
  | nil => rfl
  | cons y t ih =>
    obtain ⟨j, w⟩ := y
    unfold del
    split
    · subst_vars; exact find_none (sorted_lt h)
    · simp only [find]; rw [if_neg (by omega), ih (sorted_tail h)]

theorem mem_put {k : Nat} {v : α} {l : List (Nat × α)} {x : Nat × α} (h : x ∈ put k v l) : x = (k, v) ∨ x ∈ l := by
  induction l with
  | nil => simpa [put] using h
  | cons y t ih =>
    obtain ⟨j, w⟩ := y
    unfold put at h
    split at h
    · simpa using h
    · split at h
      · rcases List.mem_cons.1 h with h | h <;> simp [h]
      · rcases List.mem_cons.1 h with h | h
        · simp [h]
        · rcases ih h with h | h <;> simp [h]

theorem mem_del {k : Nat} {l : List (Nat × α)} {x : Nat × α} (h : x ∈ del k l) : x ∈ l := by
  induction l with
  | nil => simp [del] at h
  | cons y t ih =>
    obtain ⟨j, w⟩ := y
    unfold del at h
    split at h
    · simp [h]
    · rcases List.mem_cons.1 h with h | h
      · simp [h]
      · simp [ih h]

theorem sorted_put {k : Nat} {v : α} {l : List (Nat × α)} (h : sorted l = true) : sorted (put k v l) = true := by
  induction l with
  | nil => rfl
  | cons y t ih =>
    obtain ⟨j, w⟩ := y
    unfold put
    split
    · rename_i hk
      refine sorted_cons h fun x hx => ?_
      rcases List.mem_cons.1 hx with rfl | hx
      · exact hk
      · exact Nat.lt_trans hk (sorted_lt h x hx)
    · split
      · subst_vars; exact sorted_cons (sorted_tail h) (sorted_lt h)
      · refine sorted_cons (ih (sorted_tail h)) fun x hx => ?_
        rcases mem_put hx with rfl | hx
        · simp only; omega
        · exact sorted_lt h x hx

theorem sorted_del {k : Nat} {l : List (Nat × α)} (h : sorted l = true) : sorted (del k l) = true := by
  induction l with
  | nil => rfl
  | cons y t ih =>
    obtain ⟨j, w⟩ := y
    unfold del
    split
    · exact sorted_tail h
    · exact sorted_cons (ih (sorted_tail h)) fun x hx => sorted_lt h x (mem_del hx)

variable [DecidableEq α]

theorem sorted_putD {d : α} {k : Nat} {v : α} {l : List (Nat × α)} (h : sorted l = true) : sorted (putD d k v l) = true := by
  unfold putD; split <;> [exact sorted_del h; exact sorted_put h]

theorem get_putD_self {d : α} {k : Nat} {v : α} {l : List (Nat × α)} (h : sorted l = true) : get d (putD d k v l) k = v := by
  unfold putD get
  split
  · subst_vars; simp [find_del_self h]
  · simp [find_put_self]

theorem get_putD_ne {d : α} {k j : Nat} (h : j ≠ k) (v : α) (l : List (Nat × α)) : get d (putD d k v l) j = get d l j := by
  unfold putD get; split <;> simp [find_del_ne h, find_put_ne h]

end Sys2Proof.KV

namespace Sys2Proof.Machine

/-! ### A unit after a unit is written -/

theorem State.core_setCore_self {s : State} (h : KV.sorted s.cores = true) (g : Nat) (c : Core) : (s.setCore g c).core g = c :=
  KV.get_putD_self h

@[simp] theorem State.core_setCore_ne {s : State} {g k : Nat} (h : k ≠ g) (c : Core) : (s.setCore g c).core k = s.core k :=
  KV.get_putD_ne h c s.cores

theorem State.core_modCore_self {s : State} (h : KV.sorted s.cores = true) (g : Nat) (f : Core → Core) :
    (s.modCore g f).core g = f (s.core g) := State.core_setCore_self h g _

@[simp] theorem State.core_modCore_ne {s : State} {g k : Nat} (h : k ≠ g) (f : Core → Core) :
    (s.modCore g f).core k = s.core k := State.core_setCore_ne h _

theorem State.sorted_setCore {s : State} (h : KV.sorted s.cores = true) (g : Nat) (c : Core) :
    KV.sorted (s.setCore g c).cores = true := KV.sorted_putD h

theorem State.chip_setChip_self {s : State} (h : KV.sorted s.chips = true) (n : Nat) (c : Chip) :
    (s.setChip n c).chip n = c := KV.get_putD_self h

@[simp] theorem State.chip_setChip_ne {s : State} {n k : Nat} (h : k ≠ n) (c : Chip) : (s.setChip n c).chip k = s.chip k :=
  KV.get_putD_ne h c s.chips

theorem State.chip_modChip_self {s : State} (h : KV.sorted s.chips = true) (n : Nat) (f : Chip → Chip) :
    (s.modChip n f).chip n = f (s.chip n) := State.chip_setChip_self h n _

@[simp] theorem State.chip_modChip_ne {s : State} {n k : Nat} (h : k ≠ n) (f : Chip → Chip) :
    (s.modChip n f).chip k = s.chip k := State.chip_setChip_ne h _

theorem State.sorted_setChip {s : State} (h : KV.sorted s.chips = true) (n : Nat) (c : Chip) :
    KV.sorted (s.setChip n c).chips = true := KV.sorted_putD h

@[simp] theorem State.core_modChip (s : State) (n : Nat) (f : Chip → Chip) (g : Nat) : (s.modChip n f).core g = s.core g := rfl
@[simp] theorem State.core_setMxe (s : State) (m : Nat) (x : Mxe) (g : Nat) : (s.setMxe m x).core g = s.core g := rfl
@[simp] theorem State.core_setPwr (s : State) (m : Nat) (p : ClusterPwr) (g : Nat) : (s.setPwr m p).core g = s.core g := rfl
@[simp] theorem State.chip_modCore (s : State) (g : Nat) (f : Core → Core) (n : Nat) : (s.modCore g f).chip n = s.chip n := rfl
@[simp] theorem State.chip_setCore (s : State) (g : Nat) (c : Core) (n : Nat) : (s.setCore g c).chip n = s.chip n := rfl
@[simp] theorem State.region_modCore (s : State) (g : Nat) (f : Core → Core) (r : W16) : (s.modCore g f).region r = s.region r := rfl
@[simp] theorem State.region_modChip (s : State) (n : Nat) (f : Chip → Chip) (r : W16) : (s.modChip n f).region r = s.region r := rfl

/-! ### Fields left alone -/


@[simp] theorem State.setCore_turns (s : State) (g : Nat) (c : Core) : (s.setCore g c).turns = s.turns := rfl
@[simp] theorem State.setCore_self (s : State) (g : Nat) (c : Core) : (s.setCore g c).self = s.self := rfl
@[simp] theorem State.setCore_fresh (s : State) (g : Nat) (c : Core) : (s.setCore g c).fresh = s.fresh := rfl
@[simp] theorem State.setCore_now (s : State) (g : Nat) (c : Core) : (s.setCore g c).now = s.now := rfl
@[simp] theorem State.setCore_mem (s : State) (g : Nat) (c : Core) : (s.setCore g c).mem = s.mem := rfl
@[simp] theorem State.setCore_poison (s : State) (g : Nat) (c : Core) : (s.setCore g c).poison = s.poison := rfl
@[simp] theorem State.setCore_hostMem (s : State) (g : Nat) (c : Core) : (s.setCore g c).hostMem = s.hostMem := rfl
@[simp] theorem State.setCore_hostRefuse (s : State) (g : Nat) (c : Core) : (s.setCore g c).hostRefuse = s.hostRefuse := rfl
@[simp] theorem State.setCore_owner (s : State) (g : Nat) (c : Core) : (s.setCore g c).owner = s.owner := rfl
@[simp] theorem State.setCore_marks (s : State) (g : Nat) (c : Core) : (s.setCore g c).marks = s.marks := rfl
@[simp] theorem State.setCore_writers (s : State) (g : Nat) (c : Core) : (s.setCore g c).writers = s.writers := rfl
@[simp] theorem State.setCore_spaces (s : State) (g : Nat) (c : Core) : (s.setCore g c).spaces = s.spaces := rfl
@[simp] theorem State.setCore_regions (s : State) (g : Nat) (c : Core) : (s.setCore g c).regions = s.regions := rfl
@[simp] theorem State.setCore_groups (s : State) (g : Nat) (c : Core) : (s.setCore g c).groups = s.groups := rfl
@[simp] theorem State.setCore_cgroups (s : State) (g : Nat) (c : Core) : (s.setCore g c).cgroups = s.cgroups := rfl
@[simp] theorem State.setCore_chips (s : State) (g : Nat) (c : Core) : (s.setCore g c).chips = s.chips := rfl
@[simp] theorem State.setCore_flights (s : State) (g : Nat) (c : Core) : (s.setCore g c).flights = s.flights := rfl
@[simp] theorem State.setCore_flits (s : State) (g : Nat) (c : Core) : (s.setCore g c).flits = s.flits := rfl
@[simp] theorem State.setCore_writes (s : State) (g : Nat) (c : Core) : (s.setCore g c).writes = s.writes := rfl
@[simp] theorem State.setCore_links (s : State) (g : Nat) (c : Core) : (s.setCore g c).links = s.links := rfl
@[simp] theorem State.setCore_ports (s : State) (g : Nat) (c : Core) : (s.setCore g c).ports = s.ports := rfl
@[simp] theorem State.setCore_modid (s : State) (g : Nat) (c : Core) : (s.setCore g c).modid = s.modid := rfl
@[simp] theorem State.setCore_evhead (s : State) (g : Nat) (c : Core) : (s.setCore g c).evhead = s.evhead := rfl
@[simp] theorem State.setCore_evlost (s : State) (g : Nat) (c : Core) : (s.setCore g c).evlost = s.evlost := rfl
@[simp] theorem State.setCore_evring (s : State) (g : Nat) (c : Core) : (s.setCore g c).evring = s.evring := rfl
@[simp] theorem State.setCore_apref (s : State) (g : Nat) (c : Core) : (s.setCore g c).apref = s.apref := rfl
@[simp] theorem State.setCore_windows (s : State) (g : Nat) (c : Core) : (s.setCore g c).windows = s.windows := rfl
@[simp] theorem State.setCore_apertures (s : State) (g : Nat) (c : Core) : (s.setCore g c).apertures = s.apertures := rfl
@[simp] theorem State.setCore_apRead (s : State) (g : Nat) (c : Core) : (s.setCore g c).apRead = s.apRead := rfl
@[simp] theorem State.setCore_launches (s : State) (g : Nat) (c : Core) : (s.setCore g c).launches = s.launches := rfl
@[simp] theorem State.setCore_sweeps (s : State) (g : Nat) (c : Core) : (s.setCore g c).sweeps = s.sweeps := rfl
@[simp] theorem State.setCore_lqBad (s : State) (g : Nat) (c : Core) : (s.setCore g c).lqBad = s.lqBad := rfl
@[simp] theorem State.setCore_csgen (s : State) (g : Nat) (c : Core) : (s.setCore g c).csgen = s.csgen := rfl
@[simp] theorem State.setCore_everReady (s : State) (g : Nat) (c : Core) : (s.setCore g c).everReady = s.everReady := rfl
@[simp] theorem State.setCore_carillon (s : State) (g : Nat) (c : Core) : (s.setCore g c).carillon = s.carillon := rfl
@[simp] theorem State.setCore_invalNext (s : State) (g : Nat) (c : Core) : (s.setCore g c).invalNext = s.invalNext := rfl
@[simp] theorem State.setCore_bell (s : State) (g : Nat) (c : Core) : (s.setCore g c).bell = s.bell := rfl
@[simp] theorem State.setCore_sec (s : State) (g : Nat) (c : Core) : (s.setCore g c).sec = s.sec := rfl

@[simp] theorem State.modCore_turns (s : State) (g : Nat) (f : Core → Core) : (s.modCore g f).turns = s.turns := rfl
@[simp] theorem State.modCore_self (s : State) (g : Nat) (f : Core → Core) : (s.modCore g f).self = s.self := rfl
@[simp] theorem State.modCore_fresh (s : State) (g : Nat) (f : Core → Core) : (s.modCore g f).fresh = s.fresh := rfl
@[simp] theorem State.modCore_now (s : State) (g : Nat) (f : Core → Core) : (s.modCore g f).now = s.now := rfl
@[simp] theorem State.modCore_mem (s : State) (g : Nat) (f : Core → Core) : (s.modCore g f).mem = s.mem := rfl
@[simp] theorem State.modCore_poison (s : State) (g : Nat) (f : Core → Core) : (s.modCore g f).poison = s.poison := rfl
@[simp] theorem State.modCore_hostMem (s : State) (g : Nat) (f : Core → Core) : (s.modCore g f).hostMem = s.hostMem := rfl
@[simp] theorem State.modCore_hostRefuse (s : State) (g : Nat) (f : Core → Core) : (s.modCore g f).hostRefuse = s.hostRefuse := rfl
@[simp] theorem State.modCore_owner (s : State) (g : Nat) (f : Core → Core) : (s.modCore g f).owner = s.owner := rfl
@[simp] theorem State.modCore_marks (s : State) (g : Nat) (f : Core → Core) : (s.modCore g f).marks = s.marks := rfl
@[simp] theorem State.modCore_writers (s : State) (g : Nat) (f : Core → Core) : (s.modCore g f).writers = s.writers := rfl
@[simp] theorem State.modCore_spaces (s : State) (g : Nat) (f : Core → Core) : (s.modCore g f).spaces = s.spaces := rfl
@[simp] theorem State.modCore_regions (s : State) (g : Nat) (f : Core → Core) : (s.modCore g f).regions = s.regions := rfl
@[simp] theorem State.modCore_groups (s : State) (g : Nat) (f : Core → Core) : (s.modCore g f).groups = s.groups := rfl
@[simp] theorem State.modCore_cgroups (s : State) (g : Nat) (f : Core → Core) : (s.modCore g f).cgroups = s.cgroups := rfl
@[simp] theorem State.modCore_chips (s : State) (g : Nat) (f : Core → Core) : (s.modCore g f).chips = s.chips := rfl
@[simp] theorem State.modCore_flights (s : State) (g : Nat) (f : Core → Core) : (s.modCore g f).flights = s.flights := rfl
@[simp] theorem State.modCore_flits (s : State) (g : Nat) (f : Core → Core) : (s.modCore g f).flits = s.flits := rfl
@[simp] theorem State.modCore_writes (s : State) (g : Nat) (f : Core → Core) : (s.modCore g f).writes = s.writes := rfl
@[simp] theorem State.modCore_links (s : State) (g : Nat) (f : Core → Core) : (s.modCore g f).links = s.links := rfl
@[simp] theorem State.modCore_ports (s : State) (g : Nat) (f : Core → Core) : (s.modCore g f).ports = s.ports := rfl
@[simp] theorem State.modCore_modid (s : State) (g : Nat) (f : Core → Core) : (s.modCore g f).modid = s.modid := rfl
@[simp] theorem State.modCore_evhead (s : State) (g : Nat) (f : Core → Core) : (s.modCore g f).evhead = s.evhead := rfl
@[simp] theorem State.modCore_evlost (s : State) (g : Nat) (f : Core → Core) : (s.modCore g f).evlost = s.evlost := rfl
@[simp] theorem State.modCore_evring (s : State) (g : Nat) (f : Core → Core) : (s.modCore g f).evring = s.evring := rfl
@[simp] theorem State.modCore_apref (s : State) (g : Nat) (f : Core → Core) : (s.modCore g f).apref = s.apref := rfl
@[simp] theorem State.modCore_windows (s : State) (g : Nat) (f : Core → Core) : (s.modCore g f).windows = s.windows := rfl
@[simp] theorem State.modCore_apertures (s : State) (g : Nat) (f : Core → Core) : (s.modCore g f).apertures = s.apertures := rfl
@[simp] theorem State.modCore_apRead (s : State) (g : Nat) (f : Core → Core) : (s.modCore g f).apRead = s.apRead := rfl
@[simp] theorem State.modCore_launches (s : State) (g : Nat) (f : Core → Core) : (s.modCore g f).launches = s.launches := rfl
@[simp] theorem State.modCore_sweeps (s : State) (g : Nat) (f : Core → Core) : (s.modCore g f).sweeps = s.sweeps := rfl
@[simp] theorem State.modCore_lqBad (s : State) (g : Nat) (f : Core → Core) : (s.modCore g f).lqBad = s.lqBad := rfl
@[simp] theorem State.modCore_csgen (s : State) (g : Nat) (f : Core → Core) : (s.modCore g f).csgen = s.csgen := rfl
@[simp] theorem State.modCore_everReady (s : State) (g : Nat) (f : Core → Core) : (s.modCore g f).everReady = s.everReady := rfl
@[simp] theorem State.modCore_carillon (s : State) (g : Nat) (f : Core → Core) : (s.modCore g f).carillon = s.carillon := rfl
@[simp] theorem State.modCore_invalNext (s : State) (g : Nat) (f : Core → Core) : (s.modCore g f).invalNext = s.invalNext := rfl
@[simp] theorem State.modCore_bell (s : State) (g : Nat) (f : Core → Core) : (s.modCore g f).bell = s.bell := rfl
@[simp] theorem State.modCore_sec (s : State) (g : Nat) (f : Core → Core) : (s.modCore g f).sec = s.sec := rfl

@[simp] theorem State.setChip_turns (s : State) (n : Nat) (c : Chip) : (s.setChip n c).turns = s.turns := rfl
@[simp] theorem State.setChip_self (s : State) (n : Nat) (c : Chip) : (s.setChip n c).self = s.self := rfl
@[simp] theorem State.setChip_fresh (s : State) (n : Nat) (c : Chip) : (s.setChip n c).fresh = s.fresh := rfl
@[simp] theorem State.setChip_now (s : State) (n : Nat) (c : Chip) : (s.setChip n c).now = s.now := rfl
@[simp] theorem State.setChip_mem (s : State) (n : Nat) (c : Chip) : (s.setChip n c).mem = s.mem := rfl
@[simp] theorem State.setChip_poison (s : State) (n : Nat) (c : Chip) : (s.setChip n c).poison = s.poison := rfl
@[simp] theorem State.setChip_hostMem (s : State) (n : Nat) (c : Chip) : (s.setChip n c).hostMem = s.hostMem := rfl
@[simp] theorem State.setChip_hostRefuse (s : State) (n : Nat) (c : Chip) : (s.setChip n c).hostRefuse = s.hostRefuse := rfl
@[simp] theorem State.setChip_owner (s : State) (n : Nat) (c : Chip) : (s.setChip n c).owner = s.owner := rfl
@[simp] theorem State.setChip_marks (s : State) (n : Nat) (c : Chip) : (s.setChip n c).marks = s.marks := rfl
@[simp] theorem State.setChip_writers (s : State) (n : Nat) (c : Chip) : (s.setChip n c).writers = s.writers := rfl
@[simp] theorem State.setChip_spaces (s : State) (n : Nat) (c : Chip) : (s.setChip n c).spaces = s.spaces := rfl
@[simp] theorem State.setChip_regions (s : State) (n : Nat) (c : Chip) : (s.setChip n c).regions = s.regions := rfl
@[simp] theorem State.setChip_groups (s : State) (n : Nat) (c : Chip) : (s.setChip n c).groups = s.groups := rfl
@[simp] theorem State.setChip_cgroups (s : State) (n : Nat) (c : Chip) : (s.setChip n c).cgroups = s.cgroups := rfl
@[simp] theorem State.setChip_cores (s : State) (n : Nat) (c : Chip) : (s.setChip n c).cores = s.cores := rfl
@[simp] theorem State.setChip_flights (s : State) (n : Nat) (c : Chip) : (s.setChip n c).flights = s.flights := rfl
@[simp] theorem State.setChip_flits (s : State) (n : Nat) (c : Chip) : (s.setChip n c).flits = s.flits := rfl
@[simp] theorem State.setChip_writes (s : State) (n : Nat) (c : Chip) : (s.setChip n c).writes = s.writes := rfl
@[simp] theorem State.setChip_links (s : State) (n : Nat) (c : Chip) : (s.setChip n c).links = s.links := rfl
@[simp] theorem State.setChip_ports (s : State) (n : Nat) (c : Chip) : (s.setChip n c).ports = s.ports := rfl
@[simp] theorem State.setChip_modid (s : State) (n : Nat) (c : Chip) : (s.setChip n c).modid = s.modid := rfl
@[simp] theorem State.setChip_evhead (s : State) (n : Nat) (c : Chip) : (s.setChip n c).evhead = s.evhead := rfl
@[simp] theorem State.setChip_evlost (s : State) (n : Nat) (c : Chip) : (s.setChip n c).evlost = s.evlost := rfl
@[simp] theorem State.setChip_evring (s : State) (n : Nat) (c : Chip) : (s.setChip n c).evring = s.evring := rfl
@[simp] theorem State.setChip_apref (s : State) (n : Nat) (c : Chip) : (s.setChip n c).apref = s.apref := rfl
@[simp] theorem State.setChip_windows (s : State) (n : Nat) (c : Chip) : (s.setChip n c).windows = s.windows := rfl
@[simp] theorem State.setChip_apertures (s : State) (n : Nat) (c : Chip) : (s.setChip n c).apertures = s.apertures := rfl
@[simp] theorem State.setChip_apRead (s : State) (n : Nat) (c : Chip) : (s.setChip n c).apRead = s.apRead := rfl
@[simp] theorem State.setChip_launches (s : State) (n : Nat) (c : Chip) : (s.setChip n c).launches = s.launches := rfl
@[simp] theorem State.setChip_sweeps (s : State) (n : Nat) (c : Chip) : (s.setChip n c).sweeps = s.sweeps := rfl
@[simp] theorem State.setChip_lqBad (s : State) (n : Nat) (c : Chip) : (s.setChip n c).lqBad = s.lqBad := rfl
@[simp] theorem State.setChip_csgen (s : State) (n : Nat) (c : Chip) : (s.setChip n c).csgen = s.csgen := rfl
@[simp] theorem State.setChip_everReady (s : State) (n : Nat) (c : Chip) : (s.setChip n c).everReady = s.everReady := rfl
@[simp] theorem State.setChip_carillon (s : State) (n : Nat) (c : Chip) : (s.setChip n c).carillon = s.carillon := rfl
@[simp] theorem State.setChip_invalNext (s : State) (n : Nat) (c : Chip) : (s.setChip n c).invalNext = s.invalNext := rfl
@[simp] theorem State.setChip_bell (s : State) (n : Nat) (c : Chip) : (s.setChip n c).bell = s.bell := rfl
@[simp] theorem State.setChip_sec (s : State) (n : Nat) (c : Chip) : (s.setChip n c).sec = s.sec := rfl

@[simp] theorem State.modChip_turns (s : State) (n : Nat) (f : Chip → Chip) : (s.modChip n f).turns = s.turns := rfl
@[simp] theorem State.modChip_self (s : State) (n : Nat) (f : Chip → Chip) : (s.modChip n f).self = s.self := rfl
@[simp] theorem State.modChip_fresh (s : State) (n : Nat) (f : Chip → Chip) : (s.modChip n f).fresh = s.fresh := rfl
@[simp] theorem State.modChip_now (s : State) (n : Nat) (f : Chip → Chip) : (s.modChip n f).now = s.now := rfl
@[simp] theorem State.modChip_mem (s : State) (n : Nat) (f : Chip → Chip) : (s.modChip n f).mem = s.mem := rfl
@[simp] theorem State.modChip_poison (s : State) (n : Nat) (f : Chip → Chip) : (s.modChip n f).poison = s.poison := rfl
@[simp] theorem State.modChip_hostMem (s : State) (n : Nat) (f : Chip → Chip) : (s.modChip n f).hostMem = s.hostMem := rfl
@[simp] theorem State.modChip_hostRefuse (s : State) (n : Nat) (f : Chip → Chip) : (s.modChip n f).hostRefuse = s.hostRefuse := rfl
@[simp] theorem State.modChip_owner (s : State) (n : Nat) (f : Chip → Chip) : (s.modChip n f).owner = s.owner := rfl
@[simp] theorem State.modChip_marks (s : State) (n : Nat) (f : Chip → Chip) : (s.modChip n f).marks = s.marks := rfl
@[simp] theorem State.modChip_writers (s : State) (n : Nat) (f : Chip → Chip) : (s.modChip n f).writers = s.writers := rfl
@[simp] theorem State.modChip_spaces (s : State) (n : Nat) (f : Chip → Chip) : (s.modChip n f).spaces = s.spaces := rfl
@[simp] theorem State.modChip_regions (s : State) (n : Nat) (f : Chip → Chip) : (s.modChip n f).regions = s.regions := rfl
@[simp] theorem State.modChip_groups (s : State) (n : Nat) (f : Chip → Chip) : (s.modChip n f).groups = s.groups := rfl
@[simp] theorem State.modChip_cgroups (s : State) (n : Nat) (f : Chip → Chip) : (s.modChip n f).cgroups = s.cgroups := rfl
@[simp] theorem State.modChip_cores (s : State) (n : Nat) (f : Chip → Chip) : (s.modChip n f).cores = s.cores := rfl
@[simp] theorem State.modChip_flights (s : State) (n : Nat) (f : Chip → Chip) : (s.modChip n f).flights = s.flights := rfl
@[simp] theorem State.modChip_flits (s : State) (n : Nat) (f : Chip → Chip) : (s.modChip n f).flits = s.flits := rfl
@[simp] theorem State.modChip_writes (s : State) (n : Nat) (f : Chip → Chip) : (s.modChip n f).writes = s.writes := rfl
@[simp] theorem State.modChip_links (s : State) (n : Nat) (f : Chip → Chip) : (s.modChip n f).links = s.links := rfl
@[simp] theorem State.modChip_ports (s : State) (n : Nat) (f : Chip → Chip) : (s.modChip n f).ports = s.ports := rfl
@[simp] theorem State.modChip_modid (s : State) (n : Nat) (f : Chip → Chip) : (s.modChip n f).modid = s.modid := rfl
@[simp] theorem State.modChip_evhead (s : State) (n : Nat) (f : Chip → Chip) : (s.modChip n f).evhead = s.evhead := rfl
@[simp] theorem State.modChip_evlost (s : State) (n : Nat) (f : Chip → Chip) : (s.modChip n f).evlost = s.evlost := rfl
@[simp] theorem State.modChip_evring (s : State) (n : Nat) (f : Chip → Chip) : (s.modChip n f).evring = s.evring := rfl
@[simp] theorem State.modChip_apref (s : State) (n : Nat) (f : Chip → Chip) : (s.modChip n f).apref = s.apref := rfl
@[simp] theorem State.modChip_windows (s : State) (n : Nat) (f : Chip → Chip) : (s.modChip n f).windows = s.windows := rfl
@[simp] theorem State.modChip_apertures (s : State) (n : Nat) (f : Chip → Chip) : (s.modChip n f).apertures = s.apertures := rfl
@[simp] theorem State.modChip_apRead (s : State) (n : Nat) (f : Chip → Chip) : (s.modChip n f).apRead = s.apRead := rfl
@[simp] theorem State.modChip_launches (s : State) (n : Nat) (f : Chip → Chip) : (s.modChip n f).launches = s.launches := rfl
@[simp] theorem State.modChip_sweeps (s : State) (n : Nat) (f : Chip → Chip) : (s.modChip n f).sweeps = s.sweeps := rfl
@[simp] theorem State.modChip_lqBad (s : State) (n : Nat) (f : Chip → Chip) : (s.modChip n f).lqBad = s.lqBad := rfl
@[simp] theorem State.modChip_csgen (s : State) (n : Nat) (f : Chip → Chip) : (s.modChip n f).csgen = s.csgen := rfl
@[simp] theorem State.modChip_everReady (s : State) (n : Nat) (f : Chip → Chip) : (s.modChip n f).everReady = s.everReady := rfl
@[simp] theorem State.modChip_carillon (s : State) (n : Nat) (f : Chip → Chip) : (s.modChip n f).carillon = s.carillon := rfl
@[simp] theorem State.modChip_invalNext (s : State) (n : Nat) (f : Chip → Chip) : (s.modChip n f).invalNext = s.invalNext := rfl
@[simp] theorem State.modChip_bell (s : State) (n : Nat) (f : Chip → Chip) : (s.modChip n f).bell = s.bell := rfl
@[simp] theorem State.modChip_sec (s : State) (n : Nat) (f : Chip → Chip) : (s.modChip n f).sec = s.sec := rfl

@[simp] theorem State.setMxe_turns (s : State) (m : Nat) (x : Mxe) : (s.setMxe m x).turns = s.turns := rfl
@[simp] theorem State.setMxe_self (s : State) (m : Nat) (x : Mxe) : (s.setMxe m x).self = s.self := rfl
@[simp] theorem State.setMxe_fresh (s : State) (m : Nat) (x : Mxe) : (s.setMxe m x).fresh = s.fresh := rfl
@[simp] theorem State.setMxe_now (s : State) (m : Nat) (x : Mxe) : (s.setMxe m x).now = s.now := rfl
@[simp] theorem State.setMxe_mem (s : State) (m : Nat) (x : Mxe) : (s.setMxe m x).mem = s.mem := rfl
@[simp] theorem State.setMxe_poison (s : State) (m : Nat) (x : Mxe) : (s.setMxe m x).poison = s.poison := rfl
@[simp] theorem State.setMxe_hostMem (s : State) (m : Nat) (x : Mxe) : (s.setMxe m x).hostMem = s.hostMem := rfl
@[simp] theorem State.setMxe_hostRefuse (s : State) (m : Nat) (x : Mxe) : (s.setMxe m x).hostRefuse = s.hostRefuse := rfl
@[simp] theorem State.setMxe_owner (s : State) (m : Nat) (x : Mxe) : (s.setMxe m x).owner = s.owner := rfl
@[simp] theorem State.setMxe_marks (s : State) (m : Nat) (x : Mxe) : (s.setMxe m x).marks = s.marks := rfl
@[simp] theorem State.setMxe_writers (s : State) (m : Nat) (x : Mxe) : (s.setMxe m x).writers = s.writers := rfl
@[simp] theorem State.setMxe_spaces (s : State) (m : Nat) (x : Mxe) : (s.setMxe m x).spaces = s.spaces := rfl
@[simp] theorem State.setMxe_regions (s : State) (m : Nat) (x : Mxe) : (s.setMxe m x).regions = s.regions := rfl
@[simp] theorem State.setMxe_groups (s : State) (m : Nat) (x : Mxe) : (s.setMxe m x).groups = s.groups := rfl
@[simp] theorem State.setMxe_cgroups (s : State) (m : Nat) (x : Mxe) : (s.setMxe m x).cgroups = s.cgroups := rfl
@[simp] theorem State.setMxe_cores (s : State) (m : Nat) (x : Mxe) : (s.setMxe m x).cores = s.cores := rfl
@[simp] theorem State.setMxe_flights (s : State) (m : Nat) (x : Mxe) : (s.setMxe m x).flights = s.flights := rfl
@[simp] theorem State.setMxe_flits (s : State) (m : Nat) (x : Mxe) : (s.setMxe m x).flits = s.flits := rfl
@[simp] theorem State.setMxe_writes (s : State) (m : Nat) (x : Mxe) : (s.setMxe m x).writes = s.writes := rfl
@[simp] theorem State.setMxe_links (s : State) (m : Nat) (x : Mxe) : (s.setMxe m x).links = s.links := rfl
@[simp] theorem State.setMxe_ports (s : State) (m : Nat) (x : Mxe) : (s.setMxe m x).ports = s.ports := rfl
@[simp] theorem State.setMxe_modid (s : State) (m : Nat) (x : Mxe) : (s.setMxe m x).modid = s.modid := rfl
@[simp] theorem State.setMxe_evhead (s : State) (m : Nat) (x : Mxe) : (s.setMxe m x).evhead = s.evhead := rfl
@[simp] theorem State.setMxe_evlost (s : State) (m : Nat) (x : Mxe) : (s.setMxe m x).evlost = s.evlost := rfl
@[simp] theorem State.setMxe_evring (s : State) (m : Nat) (x : Mxe) : (s.setMxe m x).evring = s.evring := rfl
@[simp] theorem State.setMxe_apref (s : State) (m : Nat) (x : Mxe) : (s.setMxe m x).apref = s.apref := rfl
@[simp] theorem State.setMxe_windows (s : State) (m : Nat) (x : Mxe) : (s.setMxe m x).windows = s.windows := rfl
@[simp] theorem State.setMxe_apertures (s : State) (m : Nat) (x : Mxe) : (s.setMxe m x).apertures = s.apertures := rfl
@[simp] theorem State.setMxe_apRead (s : State) (m : Nat) (x : Mxe) : (s.setMxe m x).apRead = s.apRead := rfl
@[simp] theorem State.setMxe_launches (s : State) (m : Nat) (x : Mxe) : (s.setMxe m x).launches = s.launches := rfl
@[simp] theorem State.setMxe_sweeps (s : State) (m : Nat) (x : Mxe) : (s.setMxe m x).sweeps = s.sweeps := rfl
@[simp] theorem State.setMxe_lqBad (s : State) (m : Nat) (x : Mxe) : (s.setMxe m x).lqBad = s.lqBad := rfl
@[simp] theorem State.setMxe_csgen (s : State) (m : Nat) (x : Mxe) : (s.setMxe m x).csgen = s.csgen := rfl
@[simp] theorem State.setMxe_everReady (s : State) (m : Nat) (x : Mxe) : (s.setMxe m x).everReady = s.everReady := rfl
@[simp] theorem State.setMxe_carillon (s : State) (m : Nat) (x : Mxe) : (s.setMxe m x).carillon = s.carillon := rfl
@[simp] theorem State.setMxe_invalNext (s : State) (m : Nat) (x : Mxe) : (s.setMxe m x).invalNext = s.invalNext := rfl
@[simp] theorem State.setMxe_bell (s : State) (m : Nat) (x : Mxe) : (s.setMxe m x).bell = s.bell := rfl
@[simp] theorem State.setMxe_sec (s : State) (m : Nat) (x : Mxe) : (s.setMxe m x).sec = s.sec := rfl

@[simp] theorem State.setPwr_turns (s : State) (m : Nat) (p : ClusterPwr) : (s.setPwr m p).turns = s.turns := rfl
@[simp] theorem State.setPwr_self (s : State) (m : Nat) (p : ClusterPwr) : (s.setPwr m p).self = s.self := rfl
@[simp] theorem State.setPwr_fresh (s : State) (m : Nat) (p : ClusterPwr) : (s.setPwr m p).fresh = s.fresh := rfl
@[simp] theorem State.setPwr_now (s : State) (m : Nat) (p : ClusterPwr) : (s.setPwr m p).now = s.now := rfl
@[simp] theorem State.setPwr_mem (s : State) (m : Nat) (p : ClusterPwr) : (s.setPwr m p).mem = s.mem := rfl
@[simp] theorem State.setPwr_poison (s : State) (m : Nat) (p : ClusterPwr) : (s.setPwr m p).poison = s.poison := rfl
@[simp] theorem State.setPwr_hostMem (s : State) (m : Nat) (p : ClusterPwr) : (s.setPwr m p).hostMem = s.hostMem := rfl
@[simp] theorem State.setPwr_hostRefuse (s : State) (m : Nat) (p : ClusterPwr) : (s.setPwr m p).hostRefuse = s.hostRefuse := rfl
@[simp] theorem State.setPwr_owner (s : State) (m : Nat) (p : ClusterPwr) : (s.setPwr m p).owner = s.owner := rfl
@[simp] theorem State.setPwr_marks (s : State) (m : Nat) (p : ClusterPwr) : (s.setPwr m p).marks = s.marks := rfl
@[simp] theorem State.setPwr_writers (s : State) (m : Nat) (p : ClusterPwr) : (s.setPwr m p).writers = s.writers := rfl
@[simp] theorem State.setPwr_spaces (s : State) (m : Nat) (p : ClusterPwr) : (s.setPwr m p).spaces = s.spaces := rfl
@[simp] theorem State.setPwr_regions (s : State) (m : Nat) (p : ClusterPwr) : (s.setPwr m p).regions = s.regions := rfl
@[simp] theorem State.setPwr_groups (s : State) (m : Nat) (p : ClusterPwr) : (s.setPwr m p).groups = s.groups := rfl
@[simp] theorem State.setPwr_cgroups (s : State) (m : Nat) (p : ClusterPwr) : (s.setPwr m p).cgroups = s.cgroups := rfl
@[simp] theorem State.setPwr_cores (s : State) (m : Nat) (p : ClusterPwr) : (s.setPwr m p).cores = s.cores := rfl
@[simp] theorem State.setPwr_flights (s : State) (m : Nat) (p : ClusterPwr) : (s.setPwr m p).flights = s.flights := rfl
@[simp] theorem State.setPwr_flits (s : State) (m : Nat) (p : ClusterPwr) : (s.setPwr m p).flits = s.flits := rfl
@[simp] theorem State.setPwr_writes (s : State) (m : Nat) (p : ClusterPwr) : (s.setPwr m p).writes = s.writes := rfl
@[simp] theorem State.setPwr_links (s : State) (m : Nat) (p : ClusterPwr) : (s.setPwr m p).links = s.links := rfl
@[simp] theorem State.setPwr_ports (s : State) (m : Nat) (p : ClusterPwr) : (s.setPwr m p).ports = s.ports := rfl
@[simp] theorem State.setPwr_modid (s : State) (m : Nat) (p : ClusterPwr) : (s.setPwr m p).modid = s.modid := rfl
@[simp] theorem State.setPwr_evhead (s : State) (m : Nat) (p : ClusterPwr) : (s.setPwr m p).evhead = s.evhead := rfl
@[simp] theorem State.setPwr_evlost (s : State) (m : Nat) (p : ClusterPwr) : (s.setPwr m p).evlost = s.evlost := rfl
@[simp] theorem State.setPwr_evring (s : State) (m : Nat) (p : ClusterPwr) : (s.setPwr m p).evring = s.evring := rfl
@[simp] theorem State.setPwr_apref (s : State) (m : Nat) (p : ClusterPwr) : (s.setPwr m p).apref = s.apref := rfl
@[simp] theorem State.setPwr_windows (s : State) (m : Nat) (p : ClusterPwr) : (s.setPwr m p).windows = s.windows := rfl
@[simp] theorem State.setPwr_apertures (s : State) (m : Nat) (p : ClusterPwr) : (s.setPwr m p).apertures = s.apertures := rfl
@[simp] theorem State.setPwr_apRead (s : State) (m : Nat) (p : ClusterPwr) : (s.setPwr m p).apRead = s.apRead := rfl
@[simp] theorem State.setPwr_launches (s : State) (m : Nat) (p : ClusterPwr) : (s.setPwr m p).launches = s.launches := rfl
@[simp] theorem State.setPwr_sweeps (s : State) (m : Nat) (p : ClusterPwr) : (s.setPwr m p).sweeps = s.sweeps := rfl
@[simp] theorem State.setPwr_lqBad (s : State) (m : Nat) (p : ClusterPwr) : (s.setPwr m p).lqBad = s.lqBad := rfl
@[simp] theorem State.setPwr_csgen (s : State) (m : Nat) (p : ClusterPwr) : (s.setPwr m p).csgen = s.csgen := rfl
@[simp] theorem State.setPwr_everReady (s : State) (m : Nat) (p : ClusterPwr) : (s.setPwr m p).everReady = s.everReady := rfl
@[simp] theorem State.setPwr_carillon (s : State) (m : Nat) (p : ClusterPwr) : (s.setPwr m p).carillon = s.carillon := rfl
@[simp] theorem State.setPwr_invalNext (s : State) (m : Nat) (p : ClusterPwr) : (s.setPwr m p).invalNext = s.invalNext := rfl
@[simp] theorem State.setPwr_bell (s : State) (m : Nat) (p : ClusterPwr) : (s.setPwr m p).bell = s.bell := rfl
@[simp] theorem State.setPwr_sec (s : State) (m : Nat) (p : ClusterPwr) : (s.setPwr m p).sec = s.sec := rfl

@[simp] theorem State.setTeam_turns (s : State) (n : Nat) (r : W16) (t : Team) : (s.setTeam n r t).turns = s.turns := rfl
@[simp] theorem State.setTeam_self (s : State) (n : Nat) (r : W16) (t : Team) : (s.setTeam n r t).self = s.self := rfl
@[simp] theorem State.setTeam_fresh (s : State) (n : Nat) (r : W16) (t : Team) : (s.setTeam n r t).fresh = s.fresh := rfl
@[simp] theorem State.setTeam_now (s : State) (n : Nat) (r : W16) (t : Team) : (s.setTeam n r t).now = s.now := rfl
@[simp] theorem State.setTeam_mem (s : State) (n : Nat) (r : W16) (t : Team) : (s.setTeam n r t).mem = s.mem := rfl
@[simp] theorem State.setTeam_poison (s : State) (n : Nat) (r : W16) (t : Team) : (s.setTeam n r t).poison = s.poison := rfl
@[simp] theorem State.setTeam_hostMem (s : State) (n : Nat) (r : W16) (t : Team) : (s.setTeam n r t).hostMem = s.hostMem := rfl
@[simp] theorem State.setTeam_hostRefuse (s : State) (n : Nat) (r : W16) (t : Team) : (s.setTeam n r t).hostRefuse = s.hostRefuse := rfl
@[simp] theorem State.setTeam_owner (s : State) (n : Nat) (r : W16) (t : Team) : (s.setTeam n r t).owner = s.owner := rfl
@[simp] theorem State.setTeam_marks (s : State) (n : Nat) (r : W16) (t : Team) : (s.setTeam n r t).marks = s.marks := rfl
@[simp] theorem State.setTeam_writers (s : State) (n : Nat) (r : W16) (t : Team) : (s.setTeam n r t).writers = s.writers := rfl
@[simp] theorem State.setTeam_spaces (s : State) (n : Nat) (r : W16) (t : Team) : (s.setTeam n r t).spaces = s.spaces := rfl
@[simp] theorem State.setTeam_regions (s : State) (n : Nat) (r : W16) (t : Team) : (s.setTeam n r t).regions = s.regions := rfl
@[simp] theorem State.setTeam_groups (s : State) (n : Nat) (r : W16) (t : Team) : (s.setTeam n r t).groups = s.groups := rfl
@[simp] theorem State.setTeam_cgroups (s : State) (n : Nat) (r : W16) (t : Team) : (s.setTeam n r t).cgroups = s.cgroups := rfl
@[simp] theorem State.setTeam_cores (s : State) (n : Nat) (r : W16) (t : Team) : (s.setTeam n r t).cores = s.cores := rfl
@[simp] theorem State.setTeam_flights (s : State) (n : Nat) (r : W16) (t : Team) : (s.setTeam n r t).flights = s.flights := rfl
@[simp] theorem State.setTeam_flits (s : State) (n : Nat) (r : W16) (t : Team) : (s.setTeam n r t).flits = s.flits := rfl
@[simp] theorem State.setTeam_writes (s : State) (n : Nat) (r : W16) (t : Team) : (s.setTeam n r t).writes = s.writes := rfl
@[simp] theorem State.setTeam_links (s : State) (n : Nat) (r : W16) (t : Team) : (s.setTeam n r t).links = s.links := rfl
@[simp] theorem State.setTeam_ports (s : State) (n : Nat) (r : W16) (t : Team) : (s.setTeam n r t).ports = s.ports := rfl
@[simp] theorem State.setTeam_modid (s : State) (n : Nat) (r : W16) (t : Team) : (s.setTeam n r t).modid = s.modid := rfl
@[simp] theorem State.setTeam_evhead (s : State) (n : Nat) (r : W16) (t : Team) : (s.setTeam n r t).evhead = s.evhead := rfl
@[simp] theorem State.setTeam_evlost (s : State) (n : Nat) (r : W16) (t : Team) : (s.setTeam n r t).evlost = s.evlost := rfl
@[simp] theorem State.setTeam_evring (s : State) (n : Nat) (r : W16) (t : Team) : (s.setTeam n r t).evring = s.evring := rfl
@[simp] theorem State.setTeam_apref (s : State) (n : Nat) (r : W16) (t : Team) : (s.setTeam n r t).apref = s.apref := rfl
@[simp] theorem State.setTeam_windows (s : State) (n : Nat) (r : W16) (t : Team) : (s.setTeam n r t).windows = s.windows := rfl
@[simp] theorem State.setTeam_apertures (s : State) (n : Nat) (r : W16) (t : Team) : (s.setTeam n r t).apertures = s.apertures := rfl
@[simp] theorem State.setTeam_apRead (s : State) (n : Nat) (r : W16) (t : Team) : (s.setTeam n r t).apRead = s.apRead := rfl
@[simp] theorem State.setTeam_launches (s : State) (n : Nat) (r : W16) (t : Team) : (s.setTeam n r t).launches = s.launches := rfl
@[simp] theorem State.setTeam_sweeps (s : State) (n : Nat) (r : W16) (t : Team) : (s.setTeam n r t).sweeps = s.sweeps := rfl
@[simp] theorem State.setTeam_lqBad (s : State) (n : Nat) (r : W16) (t : Team) : (s.setTeam n r t).lqBad = s.lqBad := rfl
@[simp] theorem State.setTeam_csgen (s : State) (n : Nat) (r : W16) (t : Team) : (s.setTeam n r t).csgen = s.csgen := rfl
@[simp] theorem State.setTeam_everReady (s : State) (n : Nat) (r : W16) (t : Team) : (s.setTeam n r t).everReady = s.everReady := rfl
@[simp] theorem State.setTeam_carillon (s : State) (n : Nat) (r : W16) (t : Team) : (s.setTeam n r t).carillon = s.carillon := rfl
@[simp] theorem State.setTeam_invalNext (s : State) (n : Nat) (r : W16) (t : Team) : (s.setTeam n r t).invalNext = s.invalNext := rfl
@[simp] theorem State.setTeam_bell (s : State) (n : Nat) (r : W16) (t : Team) : (s.setTeam n r t).bell = s.bell := rfl
@[simp] theorem State.setTeam_sec (s : State) (n : Nat) (r : W16) (t : Team) : (s.setTeam n r t).sec = s.sec := rfl

@[simp] theorem State.setLink_turns (s : State) (l : Nat) (k : GlLink) : (s.setLink l k).turns = s.turns := rfl
@[simp] theorem State.setLink_self (s : State) (l : Nat) (k : GlLink) : (s.setLink l k).self = s.self := rfl
@[simp] theorem State.setLink_fresh (s : State) (l : Nat) (k : GlLink) : (s.setLink l k).fresh = s.fresh := rfl
@[simp] theorem State.setLink_now (s : State) (l : Nat) (k : GlLink) : (s.setLink l k).now = s.now := rfl
@[simp] theorem State.setLink_mem (s : State) (l : Nat) (k : GlLink) : (s.setLink l k).mem = s.mem := rfl
@[simp] theorem State.setLink_poison (s : State) (l : Nat) (k : GlLink) : (s.setLink l k).poison = s.poison := rfl
@[simp] theorem State.setLink_hostMem (s : State) (l : Nat) (k : GlLink) : (s.setLink l k).hostMem = s.hostMem := rfl
@[simp] theorem State.setLink_hostRefuse (s : State) (l : Nat) (k : GlLink) : (s.setLink l k).hostRefuse = s.hostRefuse := rfl
@[simp] theorem State.setLink_owner (s : State) (l : Nat) (k : GlLink) : (s.setLink l k).owner = s.owner := rfl
@[simp] theorem State.setLink_marks (s : State) (l : Nat) (k : GlLink) : (s.setLink l k).marks = s.marks := rfl
@[simp] theorem State.setLink_writers (s : State) (l : Nat) (k : GlLink) : (s.setLink l k).writers = s.writers := rfl
@[simp] theorem State.setLink_spaces (s : State) (l : Nat) (k : GlLink) : (s.setLink l k).spaces = s.spaces := rfl
@[simp] theorem State.setLink_regions (s : State) (l : Nat) (k : GlLink) : (s.setLink l k).regions = s.regions := rfl
@[simp] theorem State.setLink_groups (s : State) (l : Nat) (k : GlLink) : (s.setLink l k).groups = s.groups := rfl
@[simp] theorem State.setLink_cgroups (s : State) (l : Nat) (k : GlLink) : (s.setLink l k).cgroups = s.cgroups := rfl
@[simp] theorem State.setLink_cores (s : State) (l : Nat) (k : GlLink) : (s.setLink l k).cores = s.cores := rfl
@[simp] theorem State.setLink_chips (s : State) (l : Nat) (k : GlLink) : (s.setLink l k).chips = s.chips := rfl
@[simp] theorem State.setLink_flights (s : State) (l : Nat) (k : GlLink) : (s.setLink l k).flights = s.flights := rfl
@[simp] theorem State.setLink_flits (s : State) (l : Nat) (k : GlLink) : (s.setLink l k).flits = s.flits := rfl
@[simp] theorem State.setLink_writes (s : State) (l : Nat) (k : GlLink) : (s.setLink l k).writes = s.writes := rfl
@[simp] theorem State.setLink_ports (s : State) (l : Nat) (k : GlLink) : (s.setLink l k).ports = s.ports := rfl
@[simp] theorem State.setLink_modid (s : State) (l : Nat) (k : GlLink) : (s.setLink l k).modid = s.modid := rfl
@[simp] theorem State.setLink_evhead (s : State) (l : Nat) (k : GlLink) : (s.setLink l k).evhead = s.evhead := rfl
@[simp] theorem State.setLink_evlost (s : State) (l : Nat) (k : GlLink) : (s.setLink l k).evlost = s.evlost := rfl
@[simp] theorem State.setLink_evring (s : State) (l : Nat) (k : GlLink) : (s.setLink l k).evring = s.evring := rfl
@[simp] theorem State.setLink_apref (s : State) (l : Nat) (k : GlLink) : (s.setLink l k).apref = s.apref := rfl
@[simp] theorem State.setLink_windows (s : State) (l : Nat) (k : GlLink) : (s.setLink l k).windows = s.windows := rfl
@[simp] theorem State.setLink_apertures (s : State) (l : Nat) (k : GlLink) : (s.setLink l k).apertures = s.apertures := rfl
@[simp] theorem State.setLink_apRead (s : State) (l : Nat) (k : GlLink) : (s.setLink l k).apRead = s.apRead := rfl
@[simp] theorem State.setLink_launches (s : State) (l : Nat) (k : GlLink) : (s.setLink l k).launches = s.launches := rfl
@[simp] theorem State.setLink_sweeps (s : State) (l : Nat) (k : GlLink) : (s.setLink l k).sweeps = s.sweeps := rfl
@[simp] theorem State.setLink_lqBad (s : State) (l : Nat) (k : GlLink) : (s.setLink l k).lqBad = s.lqBad := rfl
@[simp] theorem State.setLink_csgen (s : State) (l : Nat) (k : GlLink) : (s.setLink l k).csgen = s.csgen := rfl
@[simp] theorem State.setLink_everReady (s : State) (l : Nat) (k : GlLink) : (s.setLink l k).everReady = s.everReady := rfl
@[simp] theorem State.setLink_carillon (s : State) (l : Nat) (k : GlLink) : (s.setLink l k).carillon = s.carillon := rfl
@[simp] theorem State.setLink_invalNext (s : State) (l : Nat) (k : GlLink) : (s.setLink l k).invalNext = s.invalNext := rfl
@[simp] theorem State.setLink_bell (s : State) (l : Nat) (k : GlLink) : (s.setLink l k).bell = s.bell := rfl
@[simp] theorem State.setLink_sec (s : State) (l : Nat) (k : GlLink) : (s.setLink l k).sec = s.sec := rfl

@[simp] theorem State.setPort_turns (s : State) (p : Nat) (h : HostPort) : (s.setPort p h).turns = s.turns := rfl
@[simp] theorem State.setPort_self (s : State) (p : Nat) (h : HostPort) : (s.setPort p h).self = s.self := rfl
@[simp] theorem State.setPort_fresh (s : State) (p : Nat) (h : HostPort) : (s.setPort p h).fresh = s.fresh := rfl
@[simp] theorem State.setPort_now (s : State) (p : Nat) (h : HostPort) : (s.setPort p h).now = s.now := rfl
@[simp] theorem State.setPort_mem (s : State) (p : Nat) (h : HostPort) : (s.setPort p h).mem = s.mem := rfl
@[simp] theorem State.setPort_poison (s : State) (p : Nat) (h : HostPort) : (s.setPort p h).poison = s.poison := rfl
@[simp] theorem State.setPort_hostMem (s : State) (p : Nat) (h : HostPort) : (s.setPort p h).hostMem = s.hostMem := rfl
@[simp] theorem State.setPort_hostRefuse (s : State) (p : Nat) (h : HostPort) : (s.setPort p h).hostRefuse = s.hostRefuse := rfl
@[simp] theorem State.setPort_owner (s : State) (p : Nat) (h : HostPort) : (s.setPort p h).owner = s.owner := rfl
@[simp] theorem State.setPort_marks (s : State) (p : Nat) (h : HostPort) : (s.setPort p h).marks = s.marks := rfl
@[simp] theorem State.setPort_writers (s : State) (p : Nat) (h : HostPort) : (s.setPort p h).writers = s.writers := rfl
@[simp] theorem State.setPort_spaces (s : State) (p : Nat) (h : HostPort) : (s.setPort p h).spaces = s.spaces := rfl
@[simp] theorem State.setPort_regions (s : State) (p : Nat) (h : HostPort) : (s.setPort p h).regions = s.regions := rfl
@[simp] theorem State.setPort_groups (s : State) (p : Nat) (h : HostPort) : (s.setPort p h).groups = s.groups := rfl
@[simp] theorem State.setPort_cgroups (s : State) (p : Nat) (h : HostPort) : (s.setPort p h).cgroups = s.cgroups := rfl
@[simp] theorem State.setPort_cores (s : State) (p : Nat) (h : HostPort) : (s.setPort p h).cores = s.cores := rfl
@[simp] theorem State.setPort_chips (s : State) (p : Nat) (h : HostPort) : (s.setPort p h).chips = s.chips := rfl
@[simp] theorem State.setPort_flights (s : State) (p : Nat) (h : HostPort) : (s.setPort p h).flights = s.flights := rfl
@[simp] theorem State.setPort_flits (s : State) (p : Nat) (h : HostPort) : (s.setPort p h).flits = s.flits := rfl
@[simp] theorem State.setPort_writes (s : State) (p : Nat) (h : HostPort) : (s.setPort p h).writes = s.writes := rfl
@[simp] theorem State.setPort_links (s : State) (p : Nat) (h : HostPort) : (s.setPort p h).links = s.links := rfl
@[simp] theorem State.setPort_modid (s : State) (p : Nat) (h : HostPort) : (s.setPort p h).modid = s.modid := rfl
@[simp] theorem State.setPort_evhead (s : State) (p : Nat) (h : HostPort) : (s.setPort p h).evhead = s.evhead := rfl
@[simp] theorem State.setPort_evlost (s : State) (p : Nat) (h : HostPort) : (s.setPort p h).evlost = s.evlost := rfl
@[simp] theorem State.setPort_evring (s : State) (p : Nat) (h : HostPort) : (s.setPort p h).evring = s.evring := rfl
@[simp] theorem State.setPort_apref (s : State) (p : Nat) (h : HostPort) : (s.setPort p h).apref = s.apref := rfl
@[simp] theorem State.setPort_windows (s : State) (p : Nat) (h : HostPort) : (s.setPort p h).windows = s.windows := rfl
@[simp] theorem State.setPort_apertures (s : State) (p : Nat) (h : HostPort) : (s.setPort p h).apertures = s.apertures := rfl
@[simp] theorem State.setPort_apRead (s : State) (p : Nat) (h : HostPort) : (s.setPort p h).apRead = s.apRead := rfl
@[simp] theorem State.setPort_launches (s : State) (p : Nat) (h : HostPort) : (s.setPort p h).launches = s.launches := rfl
@[simp] theorem State.setPort_sweeps (s : State) (p : Nat) (h : HostPort) : (s.setPort p h).sweeps = s.sweeps := rfl
@[simp] theorem State.setPort_lqBad (s : State) (p : Nat) (h : HostPort) : (s.setPort p h).lqBad = s.lqBad := rfl
@[simp] theorem State.setPort_csgen (s : State) (p : Nat) (h : HostPort) : (s.setPort p h).csgen = s.csgen := rfl
@[simp] theorem State.setPort_everReady (s : State) (p : Nat) (h : HostPort) : (s.setPort p h).everReady = s.everReady := rfl
@[simp] theorem State.setPort_carillon (s : State) (p : Nat) (h : HostPort) : (s.setPort p h).carillon = s.carillon := rfl
@[simp] theorem State.setPort_invalNext (s : State) (p : Nat) (h : HostPort) : (s.setPort p h).invalNext = s.invalNext := rfl
@[simp] theorem State.setPort_bell (s : State) (p : Nat) (h : HostPort) : (s.setPort p h).bell = s.bell := rfl
@[simp] theorem State.setPort_sec (s : State) (p : Nat) (h : HostPort) : (s.setPort p h).sec = s.sec := rfl

@[simp] theorem State.setGroup_turns (s : State) (r : W16) (x : PGroup) : (s.setGroup r x).turns = s.turns := rfl
@[simp] theorem State.setGroup_self (s : State) (r : W16) (x : PGroup) : (s.setGroup r x).self = s.self := rfl
@[simp] theorem State.setGroup_fresh (s : State) (r : W16) (x : PGroup) : (s.setGroup r x).fresh = s.fresh := rfl
@[simp] theorem State.setGroup_now (s : State) (r : W16) (x : PGroup) : (s.setGroup r x).now = s.now := rfl
@[simp] theorem State.setGroup_mem (s : State) (r : W16) (x : PGroup) : (s.setGroup r x).mem = s.mem := rfl
@[simp] theorem State.setGroup_poison (s : State) (r : W16) (x : PGroup) : (s.setGroup r x).poison = s.poison := rfl
@[simp] theorem State.setGroup_hostMem (s : State) (r : W16) (x : PGroup) : (s.setGroup r x).hostMem = s.hostMem := rfl
@[simp] theorem State.setGroup_hostRefuse (s : State) (r : W16) (x : PGroup) : (s.setGroup r x).hostRefuse = s.hostRefuse := rfl
@[simp] theorem State.setGroup_owner (s : State) (r : W16) (x : PGroup) : (s.setGroup r x).owner = s.owner := rfl
@[simp] theorem State.setGroup_marks (s : State) (r : W16) (x : PGroup) : (s.setGroup r x).marks = s.marks := rfl
@[simp] theorem State.setGroup_writers (s : State) (r : W16) (x : PGroup) : (s.setGroup r x).writers = s.writers := rfl
@[simp] theorem State.setGroup_spaces (s : State) (r : W16) (x : PGroup) : (s.setGroup r x).spaces = s.spaces := rfl
@[simp] theorem State.setGroup_regions (s : State) (r : W16) (x : PGroup) : (s.setGroup r x).regions = s.regions := rfl
@[simp] theorem State.setGroup_cgroups (s : State) (r : W16) (x : PGroup) : (s.setGroup r x).cgroups = s.cgroups := rfl
@[simp] theorem State.setGroup_cores (s : State) (r : W16) (x : PGroup) : (s.setGroup r x).cores = s.cores := rfl
@[simp] theorem State.setGroup_chips (s : State) (r : W16) (x : PGroup) : (s.setGroup r x).chips = s.chips := rfl
@[simp] theorem State.setGroup_flights (s : State) (r : W16) (x : PGroup) : (s.setGroup r x).flights = s.flights := rfl
@[simp] theorem State.setGroup_flits (s : State) (r : W16) (x : PGroup) : (s.setGroup r x).flits = s.flits := rfl
@[simp] theorem State.setGroup_writes (s : State) (r : W16) (x : PGroup) : (s.setGroup r x).writes = s.writes := rfl
@[simp] theorem State.setGroup_links (s : State) (r : W16) (x : PGroup) : (s.setGroup r x).links = s.links := rfl
@[simp] theorem State.setGroup_ports (s : State) (r : W16) (x : PGroup) : (s.setGroup r x).ports = s.ports := rfl
@[simp] theorem State.setGroup_modid (s : State) (r : W16) (x : PGroup) : (s.setGroup r x).modid = s.modid := rfl
@[simp] theorem State.setGroup_evhead (s : State) (r : W16) (x : PGroup) : (s.setGroup r x).evhead = s.evhead := rfl
@[simp] theorem State.setGroup_evlost (s : State) (r : W16) (x : PGroup) : (s.setGroup r x).evlost = s.evlost := rfl
@[simp] theorem State.setGroup_evring (s : State) (r : W16) (x : PGroup) : (s.setGroup r x).evring = s.evring := rfl
@[simp] theorem State.setGroup_apref (s : State) (r : W16) (x : PGroup) : (s.setGroup r x).apref = s.apref := rfl
@[simp] theorem State.setGroup_windows (s : State) (r : W16) (x : PGroup) : (s.setGroup r x).windows = s.windows := rfl
@[simp] theorem State.setGroup_apertures (s : State) (r : W16) (x : PGroup) : (s.setGroup r x).apertures = s.apertures := rfl
@[simp] theorem State.setGroup_apRead (s : State) (r : W16) (x : PGroup) : (s.setGroup r x).apRead = s.apRead := rfl
@[simp] theorem State.setGroup_launches (s : State) (r : W16) (x : PGroup) : (s.setGroup r x).launches = s.launches := rfl
@[simp] theorem State.setGroup_sweeps (s : State) (r : W16) (x : PGroup) : (s.setGroup r x).sweeps = s.sweeps := rfl
@[simp] theorem State.setGroup_lqBad (s : State) (r : W16) (x : PGroup) : (s.setGroup r x).lqBad = s.lqBad := rfl
@[simp] theorem State.setGroup_csgen (s : State) (r : W16) (x : PGroup) : (s.setGroup r x).csgen = s.csgen := rfl
@[simp] theorem State.setGroup_everReady (s : State) (r : W16) (x : PGroup) : (s.setGroup r x).everReady = s.everReady := rfl
@[simp] theorem State.setGroup_carillon (s : State) (r : W16) (x : PGroup) : (s.setGroup r x).carillon = s.carillon := rfl
@[simp] theorem State.setGroup_invalNext (s : State) (r : W16) (x : PGroup) : (s.setGroup r x).invalNext = s.invalNext := rfl
@[simp] theorem State.setGroup_bell (s : State) (r : W16) (x : PGroup) : (s.setGroup r x).bell = s.bell := rfl
@[simp] theorem State.setGroup_sec (s : State) (r : W16) (x : PGroup) : (s.setGroup r x).sec = s.sec := rfl

@[simp] theorem State.setCgroup_turns (s : State) (k : Nat) (x : CGroup) : (s.setCgroup k x).turns = s.turns := rfl
@[simp] theorem State.setCgroup_self (s : State) (k : Nat) (x : CGroup) : (s.setCgroup k x).self = s.self := rfl
@[simp] theorem State.setCgroup_fresh (s : State) (k : Nat) (x : CGroup) : (s.setCgroup k x).fresh = s.fresh := rfl
@[simp] theorem State.setCgroup_now (s : State) (k : Nat) (x : CGroup) : (s.setCgroup k x).now = s.now := rfl
@[simp] theorem State.setCgroup_mem (s : State) (k : Nat) (x : CGroup) : (s.setCgroup k x).mem = s.mem := rfl
@[simp] theorem State.setCgroup_poison (s : State) (k : Nat) (x : CGroup) : (s.setCgroup k x).poison = s.poison := rfl
@[simp] theorem State.setCgroup_hostMem (s : State) (k : Nat) (x : CGroup) : (s.setCgroup k x).hostMem = s.hostMem := rfl
@[simp] theorem State.setCgroup_hostRefuse (s : State) (k : Nat) (x : CGroup) : (s.setCgroup k x).hostRefuse = s.hostRefuse := rfl
@[simp] theorem State.setCgroup_owner (s : State) (k : Nat) (x : CGroup) : (s.setCgroup k x).owner = s.owner := rfl
@[simp] theorem State.setCgroup_marks (s : State) (k : Nat) (x : CGroup) : (s.setCgroup k x).marks = s.marks := rfl
@[simp] theorem State.setCgroup_writers (s : State) (k : Nat) (x : CGroup) : (s.setCgroup k x).writers = s.writers := rfl
@[simp] theorem State.setCgroup_spaces (s : State) (k : Nat) (x : CGroup) : (s.setCgroup k x).spaces = s.spaces := rfl
@[simp] theorem State.setCgroup_regions (s : State) (k : Nat) (x : CGroup) : (s.setCgroup k x).regions = s.regions := rfl
@[simp] theorem State.setCgroup_groups (s : State) (k : Nat) (x : CGroup) : (s.setCgroup k x).groups = s.groups := rfl
@[simp] theorem State.setCgroup_cores (s : State) (k : Nat) (x : CGroup) : (s.setCgroup k x).cores = s.cores := rfl
@[simp] theorem State.setCgroup_chips (s : State) (k : Nat) (x : CGroup) : (s.setCgroup k x).chips = s.chips := rfl
@[simp] theorem State.setCgroup_flights (s : State) (k : Nat) (x : CGroup) : (s.setCgroup k x).flights = s.flights := rfl
@[simp] theorem State.setCgroup_flits (s : State) (k : Nat) (x : CGroup) : (s.setCgroup k x).flits = s.flits := rfl
@[simp] theorem State.setCgroup_writes (s : State) (k : Nat) (x : CGroup) : (s.setCgroup k x).writes = s.writes := rfl
@[simp] theorem State.setCgroup_links (s : State) (k : Nat) (x : CGroup) : (s.setCgroup k x).links = s.links := rfl
@[simp] theorem State.setCgroup_ports (s : State) (k : Nat) (x : CGroup) : (s.setCgroup k x).ports = s.ports := rfl
@[simp] theorem State.setCgroup_modid (s : State) (k : Nat) (x : CGroup) : (s.setCgroup k x).modid = s.modid := rfl
@[simp] theorem State.setCgroup_evhead (s : State) (k : Nat) (x : CGroup) : (s.setCgroup k x).evhead = s.evhead := rfl
@[simp] theorem State.setCgroup_evlost (s : State) (k : Nat) (x : CGroup) : (s.setCgroup k x).evlost = s.evlost := rfl
@[simp] theorem State.setCgroup_evring (s : State) (k : Nat) (x : CGroup) : (s.setCgroup k x).evring = s.evring := rfl
@[simp] theorem State.setCgroup_apref (s : State) (k : Nat) (x : CGroup) : (s.setCgroup k x).apref = s.apref := rfl
@[simp] theorem State.setCgroup_windows (s : State) (k : Nat) (x : CGroup) : (s.setCgroup k x).windows = s.windows := rfl
@[simp] theorem State.setCgroup_apertures (s : State) (k : Nat) (x : CGroup) : (s.setCgroup k x).apertures = s.apertures := rfl
@[simp] theorem State.setCgroup_apRead (s : State) (k : Nat) (x : CGroup) : (s.setCgroup k x).apRead = s.apRead := rfl
@[simp] theorem State.setCgroup_launches (s : State) (k : Nat) (x : CGroup) : (s.setCgroup k x).launches = s.launches := rfl
@[simp] theorem State.setCgroup_sweeps (s : State) (k : Nat) (x : CGroup) : (s.setCgroup k x).sweeps = s.sweeps := rfl
@[simp] theorem State.setCgroup_lqBad (s : State) (k : Nat) (x : CGroup) : (s.setCgroup k x).lqBad = s.lqBad := rfl
@[simp] theorem State.setCgroup_csgen (s : State) (k : Nat) (x : CGroup) : (s.setCgroup k x).csgen = s.csgen := rfl
@[simp] theorem State.setCgroup_everReady (s : State) (k : Nat) (x : CGroup) : (s.setCgroup k x).everReady = s.everReady := rfl
@[simp] theorem State.setCgroup_carillon (s : State) (k : Nat) (x : CGroup) : (s.setCgroup k x).carillon = s.carillon := rfl
@[simp] theorem State.setCgroup_invalNext (s : State) (k : Nat) (x : CGroup) : (s.setCgroup k x).invalNext = s.invalNext := rfl
@[simp] theorem State.setCgroup_bell (s : State) (k : Nat) (x : CGroup) : (s.setCgroup k x).bell = s.bell := rfl
@[simp] theorem State.setCgroup_sec (s : State) (k : Nat) (x : CGroup) : (s.setCgroup k x).sec = s.sec := rfl

@[simp] theorem Core.setP_pc (c : Core) (n : BitVec 3) (v : W64) : (c.setP n v).pc = c.pc := rfl
@[simp] theorem Core.setP_a (c : Core) (n : BitVec 3) (v : W64) : (c.setP n v).a = c.a := rfl
@[simp] theorem Core.setP_q (c : Core) (n : BitVec 3) (v : W64) : (c.setP n v).q = c.q := rfl
@[simp] theorem Core.setP_lk (c : Core) (n : BitVec 3) (v : W64) : (c.setP n v).lk = c.lk := rfl
@[simp] theorem Core.setP_st (c : Core) (n : BitVec 3) (v : W64) : (c.setP n v).st = c.st := rfl
@[simp] theorem Core.setP_fm (c : Core) (n : BitVec 3) (v : W64) : (c.setP n v).fm = c.fm := rfl
@[simp] theorem Core.setP_px (c : Core) (n : BitVec 3) (v : W64) : (c.setP n v).px = c.px := rfl
@[simp] theorem Core.setP_srseed (c : Core) (n : BitVec 3) (v : W64) : (c.setP n v).srseed = c.srseed := rfl
@[simp] theorem Core.setP_spcfg (c : Core) (n : BitVec 3) (v : W64) : (c.setP n v).spcfg = c.spcfg := rfl
@[simp] theorem Core.setP_sppwr (c : Core) (n : BitVec 3) (v : W64) : (c.setP n v).sppwr = c.sppwr := rfl
@[simp] theorem Core.setP_bankPend (c : Core) (n : BitVec 3) (v : W64) : (c.setP n v).bankPend = c.bankPend := rfl
@[simp] theorem Core.setP_spad (c : Core) (n : BitVec 3) (v : W64) : (c.setP n v).spad = c.spad := rfl
@[simp] theorem Core.setP_land (c : Core) (n : BitVec 3) (v : W64) : (c.setP n v).land = c.land := rfl
@[simp] theorem Core.setP_spBad (c : Core) (n : BitVec 3) (v : W64) : (c.setP n v).spBad = c.spBad := rfl
@[simp] theorem Core.setP_spill (c : Core) (n : BitVec 3) (v : W64) : (c.setP n v).spill = c.spill := rfl
@[simp] theorem Core.setP_log (c : Core) (n : BitVec 3) (v : W64) : (c.setP n v).log = c.log := rfl
@[simp] theorem Core.setP_pos (c : Core) (n : BitVec 3) (v : W64) : (c.setP n v).pos = c.pos := rfl
@[simp] theorem Core.setP_cepat (c : Core) (n : BitVec 3) (v : W64) : (c.setP n v).cepat = c.cepat := rfl
@[simp] theorem Core.setP_gmask (c : Core) (n : BitVec 3) (v : W64) : (c.setP n v).gmask = c.gmask := rfl
@[simp] theorem Core.setP_gangRid (c : Core) (n : BitVec 3) (v : W64) : (c.setP n v).gangRid = c.gangRid := rfl
@[simp] theorem Core.setP_mbx (c : Core) (n : BitVec 3) (v : W64) : (c.setP n v).mbx = c.mbx := rfl
@[simp] theorem Core.setP_brec (c : Core) (n : BitVec 3) (v : W64) : (c.setP n v).brec = c.brec := rfl
@[simp] theorem Core.setP_brshc (c : Core) (n : BitVec 3) (v : W64) : (c.setP n v).brshc = c.brshc := rfl
@[simp] theorem Core.setP_pwrst (c : Core) (n : BitVec 3) (v : W64) : (c.setP n v).pwrst = c.pwrst := rfl
@[simp] theorem Core.setP_pwrcap (c : Core) (n : BitVec 3) (v : W64) : (c.setP n v).pwrcap = c.pwrcap := rfl
@[simp] theorem Core.setP_tspc (c : Core) (n : BitVec 3) (v : W64) : (c.setP n v).tspc = c.tspc := rfl
@[simp] theorem Core.setP_tsst (c : Core) (n : BitVec 3) (v : W64) : (c.setP n v).tsst = c.tsst := rfl
@[simp] theorem Core.setP_tspx (c : Core) (n : BitVec 3) (v : W64) : (c.setP n v).tspx = c.tspx := rfl
@[simp] theorem Core.setP_tsinf (c : Core) (n : BitVec 3) (v : W64) : (c.setP n v).tsinf = c.tsinf := rfl
@[simp] theorem Core.setP_tsadr (c : Core) (n : BitVec 3) (v : W64) : (c.setP n v).tsadr = c.tsadr := rfl
@[simp] theorem Core.setP_fltpc (c : Core) (n : BitVec 3) (v : W64) : (c.setP n v).fltpc = c.fltpc := rfl
@[simp] theorem Core.setP_fltdis (c : Core) (n : BitVec 3) (v : W64) : (c.setP n v).fltdis = c.fltdis := rfl
@[simp] theorem Core.setP_crc (c : Core) (n : BitVec 3) (v : W64) : (c.setP n v).crc = c.crc := rfl
@[simp] theorem Core.setP_entered (c : Core) (n : BitVec 3) (v : W64) : (c.setP n v).entered = c.entered := rfl
@[simp] theorem Core.setP_fetch (c : Core) (n : BitVec 3) (v : W64) : (c.setP n v).fetch = c.fetch := rfl
@[simp] theorem Core.setP_refetch (c : Core) (n : BitVec 3) (v : W64) : (c.setP n v).refetch = c.refetch := rfl
@[simp] theorem Core.setP_safe (c : Core) (n : BitVec 3) (v : W64) : (c.setP n v).safe = c.safe := rfl
@[simp] theorem Core.setP_act (c : Core) (n : BitVec 3) (v : W64) : (c.setP n v).act = c.act := rfl
@[simp] theorem Core.setP_journal (c : Core) (n : BitVec 3) (v : W64) : (c.setP n v).journal = c.journal := rfl
@[simp] theorem Core.setP_msgs (c : Core) (n : BitVec 3) (v : W64) : (c.setP n v).msgs = c.msgs := rfl
@[simp] theorem Core.setP_outbox (c : Core) (n : BitVec 3) (v : W64) : (c.setP n v).outbox = c.outbox := rfl
@[simp] theorem Core.setP_pend (c : Core) (n : BitVec 3) (v : W64) : (c.setP n v).pend = c.pend := rfl
@[simp] theorem Core.setP_wait (c : Core) (n : BitVec 3) (v : W64) : (c.setP n v).wait = c.wait := rfl
@[simp] theorem Core.setP_trapWait (c : Core) (n : BitVec 3) (v : W64) : (c.setP n v).trapWait = c.trapWait := rfl
@[simp] theorem Core.setP_cur (c : Core) (n : BitVec 3) (v : W64) : (c.setP n v).cur = c.cur := rfl
@[simp] theorem Core.setP_owed (c : Core) (n : BitVec 3) (v : W64) : (c.setP n v).owed = c.owed := rfl
@[simp] theorem Core.setP_gpath (c : Core) (n : BitVec 3) (v : W64) : (c.setP n v).gpath = c.gpath := rfl
@[simp] theorem Core.setP_recq (c : Core) (n : BitVec 3) (v : W64) : (c.setP n v).recq = c.recq := rfl
@[simp] theorem Core.setP_served (c : Core) (n : BitVec 3) (v : W64) : (c.setP n v).served = c.served := rfl
@[simp] theorem Core.setP_stopReq (c : Core) (n : BitVec 3) (v : W64) : (c.setP n v).stopReq = c.stopReq := rfl
@[simp] theorem Core.setP_deadline (c : Core) (n : BitVec 3) (v : W64) : (c.setP n v).deadline = c.deadline := rfl
@[simp] theorem Core.setP_brkStop (c : Core) (n : BitVec 3) (v : W64) : (c.setP n v).brkStop = c.brkStop := rfl
@[simp] theorem Core.setP_cseq (c : Core) (n : BitVec 3) (v : W64) : (c.setP n v).cseq = c.cseq := rfl
@[simp] theorem Core.setP_mxFlags (c : Core) (n : BitVec 3) (v : W64) : (c.setP n v).mxFlags = c.mxFlags := rfl
@[simp] theorem Core.setP_mxBad (c : Core) (n : BitVec 3) (v : W64) : (c.setP n v).mxBad = c.mxBad := rfl
@[simp] theorem Core.setP_sent (c : Core) (n : BitVec 3) (v : W64) : (c.setP n v).sent = c.sent := rfl
@[simp] theorem Core.setP_sentBase (c : Core) (n : BitVec 3) (v : W64) : (c.setP n v).sentBase = c.sentBase := rfl
@[simp] theorem Core.setP_reports (c : Core) (n : BitVec 3) (v : W64) : (c.setP n v).reports = c.reports := rfl
@[simp] theorem Core.setP_l1 (c : Core) (n : BitVec 3) (v : W64) : (c.setP n v).l1 = c.l1 := rfl
@[simp] theorem Core.setP_tlb (c : Core) (n : BitVec 3) (v : W64) : (c.setP n v).tlb = c.tlb := rfl
@[simp] theorem Core.setP_gate (c : Core) (n : BitVec 3) (v : W64) : (c.setP n v).gate = c.gate := rfl
@[simp] theorem Core.setP_gateHold (c : Core) (n : BitVec 3) (v : W64) : (c.setP n v).gateHold = c.gateHold := rfl
@[simp] theorem Core.setP_async (c : Core) (n : BitVec 3) (v : W64) : (c.setP n v).async = c.async := rfl

@[simp] theorem Core.setQ_pc (c : Core) (n : BitVec 3) (l : List QEntry) : (c.setQ n l).pc = c.pc := rfl
@[simp] theorem Core.setQ_a (c : Core) (n : BitVec 3) (l : List QEntry) : (c.setQ n l).a = c.a := rfl
@[simp] theorem Core.setQ_p (c : Core) (n : BitVec 3) (l : List QEntry) : (c.setQ n l).p = c.p := rfl
@[simp] theorem Core.setQ_lk (c : Core) (n : BitVec 3) (l : List QEntry) : (c.setQ n l).lk = c.lk := rfl
@[simp] theorem Core.setQ_st (c : Core) (n : BitVec 3) (l : List QEntry) : (c.setQ n l).st = c.st := rfl
@[simp] theorem Core.setQ_fm (c : Core) (n : BitVec 3) (l : List QEntry) : (c.setQ n l).fm = c.fm := rfl
@[simp] theorem Core.setQ_px (c : Core) (n : BitVec 3) (l : List QEntry) : (c.setQ n l).px = c.px := rfl
@[simp] theorem Core.setQ_srseed (c : Core) (n : BitVec 3) (l : List QEntry) : (c.setQ n l).srseed = c.srseed := rfl
@[simp] theorem Core.setQ_spcfg (c : Core) (n : BitVec 3) (l : List QEntry) : (c.setQ n l).spcfg = c.spcfg := rfl
@[simp] theorem Core.setQ_sppwr (c : Core) (n : BitVec 3) (l : List QEntry) : (c.setQ n l).sppwr = c.sppwr := rfl
@[simp] theorem Core.setQ_bankPend (c : Core) (n : BitVec 3) (l : List QEntry) : (c.setQ n l).bankPend = c.bankPend := rfl
@[simp] theorem Core.setQ_spad (c : Core) (n : BitVec 3) (l : List QEntry) : (c.setQ n l).spad = c.spad := rfl
@[simp] theorem Core.setQ_land (c : Core) (n : BitVec 3) (l : List QEntry) : (c.setQ n l).land = c.land := rfl
@[simp] theorem Core.setQ_spBad (c : Core) (n : BitVec 3) (l : List QEntry) : (c.setQ n l).spBad = c.spBad := rfl
@[simp] theorem Core.setQ_spill (c : Core) (n : BitVec 3) (l : List QEntry) : (c.setQ n l).spill = c.spill := rfl
@[simp] theorem Core.setQ_log (c : Core) (n : BitVec 3) (l : List QEntry) : (c.setQ n l).log = c.log := rfl
@[simp] theorem Core.setQ_pos (c : Core) (n : BitVec 3) (l : List QEntry) : (c.setQ n l).pos = c.pos := rfl
@[simp] theorem Core.setQ_cepat (c : Core) (n : BitVec 3) (l : List QEntry) : (c.setQ n l).cepat = c.cepat := rfl
@[simp] theorem Core.setQ_gmask (c : Core) (n : BitVec 3) (l : List QEntry) : (c.setQ n l).gmask = c.gmask := rfl
@[simp] theorem Core.setQ_gangRid (c : Core) (n : BitVec 3) (l : List QEntry) : (c.setQ n l).gangRid = c.gangRid := rfl
@[simp] theorem Core.setQ_mbx (c : Core) (n : BitVec 3) (l : List QEntry) : (c.setQ n l).mbx = c.mbx := rfl
@[simp] theorem Core.setQ_brec (c : Core) (n : BitVec 3) (l : List QEntry) : (c.setQ n l).brec = c.brec := rfl
@[simp] theorem Core.setQ_brshc (c : Core) (n : BitVec 3) (l : List QEntry) : (c.setQ n l).brshc = c.brshc := rfl
@[simp] theorem Core.setQ_pwrst (c : Core) (n : BitVec 3) (l : List QEntry) : (c.setQ n l).pwrst = c.pwrst := rfl
@[simp] theorem Core.setQ_pwrcap (c : Core) (n : BitVec 3) (l : List QEntry) : (c.setQ n l).pwrcap = c.pwrcap := rfl
@[simp] theorem Core.setQ_tspc (c : Core) (n : BitVec 3) (l : List QEntry) : (c.setQ n l).tspc = c.tspc := rfl
@[simp] theorem Core.setQ_tsst (c : Core) (n : BitVec 3) (l : List QEntry) : (c.setQ n l).tsst = c.tsst := rfl
@[simp] theorem Core.setQ_tspx (c : Core) (n : BitVec 3) (l : List QEntry) : (c.setQ n l).tspx = c.tspx := rfl
@[simp] theorem Core.setQ_tsinf (c : Core) (n : BitVec 3) (l : List QEntry) : (c.setQ n l).tsinf = c.tsinf := rfl
@[simp] theorem Core.setQ_tsadr (c : Core) (n : BitVec 3) (l : List QEntry) : (c.setQ n l).tsadr = c.tsadr := rfl
@[simp] theorem Core.setQ_fltpc (c : Core) (n : BitVec 3) (l : List QEntry) : (c.setQ n l).fltpc = c.fltpc := rfl
@[simp] theorem Core.setQ_fltdis (c : Core) (n : BitVec 3) (l : List QEntry) : (c.setQ n l).fltdis = c.fltdis := rfl
@[simp] theorem Core.setQ_crc (c : Core) (n : BitVec 3) (l : List QEntry) : (c.setQ n l).crc = c.crc := rfl
@[simp] theorem Core.setQ_entered (c : Core) (n : BitVec 3) (l : List QEntry) : (c.setQ n l).entered = c.entered := rfl
@[simp] theorem Core.setQ_fetch (c : Core) (n : BitVec 3) (l : List QEntry) : (c.setQ n l).fetch = c.fetch := rfl
@[simp] theorem Core.setQ_refetch (c : Core) (n : BitVec 3) (l : List QEntry) : (c.setQ n l).refetch = c.refetch := rfl
@[simp] theorem Core.setQ_safe (c : Core) (n : BitVec 3) (l : List QEntry) : (c.setQ n l).safe = c.safe := rfl
@[simp] theorem Core.setQ_act (c : Core) (n : BitVec 3) (l : List QEntry) : (c.setQ n l).act = c.act := rfl
@[simp] theorem Core.setQ_journal (c : Core) (n : BitVec 3) (l : List QEntry) : (c.setQ n l).journal = c.journal := rfl
@[simp] theorem Core.setQ_msgs (c : Core) (n : BitVec 3) (l : List QEntry) : (c.setQ n l).msgs = c.msgs := rfl
@[simp] theorem Core.setQ_outbox (c : Core) (n : BitVec 3) (l : List QEntry) : (c.setQ n l).outbox = c.outbox := rfl
@[simp] theorem Core.setQ_pend (c : Core) (n : BitVec 3) (l : List QEntry) : (c.setQ n l).pend = c.pend := rfl
@[simp] theorem Core.setQ_wait (c : Core) (n : BitVec 3) (l : List QEntry) : (c.setQ n l).wait = c.wait := rfl
@[simp] theorem Core.setQ_trapWait (c : Core) (n : BitVec 3) (l : List QEntry) : (c.setQ n l).trapWait = c.trapWait := rfl
@[simp] theorem Core.setQ_cur (c : Core) (n : BitVec 3) (l : List QEntry) : (c.setQ n l).cur = c.cur := rfl
@[simp] theorem Core.setQ_owed (c : Core) (n : BitVec 3) (l : List QEntry) : (c.setQ n l).owed = c.owed := rfl
@[simp] theorem Core.setQ_gpath (c : Core) (n : BitVec 3) (l : List QEntry) : (c.setQ n l).gpath = c.gpath := rfl
@[simp] theorem Core.setQ_recq (c : Core) (n : BitVec 3) (l : List QEntry) : (c.setQ n l).recq = c.recq := rfl
@[simp] theorem Core.setQ_served (c : Core) (n : BitVec 3) (l : List QEntry) : (c.setQ n l).served = c.served := rfl
@[simp] theorem Core.setQ_stopReq (c : Core) (n : BitVec 3) (l : List QEntry) : (c.setQ n l).stopReq = c.stopReq := rfl
@[simp] theorem Core.setQ_deadline (c : Core) (n : BitVec 3) (l : List QEntry) : (c.setQ n l).deadline = c.deadline := rfl
@[simp] theorem Core.setQ_brkStop (c : Core) (n : BitVec 3) (l : List QEntry) : (c.setQ n l).brkStop = c.brkStop := rfl
@[simp] theorem Core.setQ_cseq (c : Core) (n : BitVec 3) (l : List QEntry) : (c.setQ n l).cseq = c.cseq := rfl
@[simp] theorem Core.setQ_mxFlags (c : Core) (n : BitVec 3) (l : List QEntry) : (c.setQ n l).mxFlags = c.mxFlags := rfl
@[simp] theorem Core.setQ_mxBad (c : Core) (n : BitVec 3) (l : List QEntry) : (c.setQ n l).mxBad = c.mxBad := rfl
@[simp] theorem Core.setQ_sent (c : Core) (n : BitVec 3) (l : List QEntry) : (c.setQ n l).sent = c.sent := rfl
@[simp] theorem Core.setQ_sentBase (c : Core) (n : BitVec 3) (l : List QEntry) : (c.setQ n l).sentBase = c.sentBase := rfl
@[simp] theorem Core.setQ_reports (c : Core) (n : BitVec 3) (l : List QEntry) : (c.setQ n l).reports = c.reports := rfl
@[simp] theorem Core.setQ_l1 (c : Core) (n : BitVec 3) (l : List QEntry) : (c.setQ n l).l1 = c.l1 := rfl
@[simp] theorem Core.setQ_tlb (c : Core) (n : BitVec 3) (l : List QEntry) : (c.setQ n l).tlb = c.tlb := rfl
@[simp] theorem Core.setQ_gate (c : Core) (n : BitVec 3) (l : List QEntry) : (c.setQ n l).gate = c.gate := rfl
@[simp] theorem Core.setQ_gateHold (c : Core) (n : BitVec 3) (l : List QEntry) : (c.setQ n l).gateHold = c.gateHold := rfl
@[simp] theorem Core.setQ_async (c : Core) (n : BitVec 3) (l : List QEntry) : (c.setQ n l).async = c.async := rfl

@[simp] theorem Core.setA_pc (c : Core) (k : Nat) (w : W32) (v : Bool) : (c.setA k w v).pc = c.pc := rfl
@[simp] theorem Core.setA_p (c : Core) (k : Nat) (w : W32) (v : Bool) : (c.setA k w v).p = c.p := rfl
@[simp] theorem Core.setA_q (c : Core) (k : Nat) (w : W32) (v : Bool) : (c.setA k w v).q = c.q := rfl
@[simp] theorem Core.setA_lk (c : Core) (k : Nat) (w : W32) (v : Bool) : (c.setA k w v).lk = c.lk := rfl
@[simp] theorem Core.setA_st (c : Core) (k : Nat) (w : W32) (v : Bool) : (c.setA k w v).st = c.st := rfl
@[simp] theorem Core.setA_fm (c : Core) (k : Nat) (w : W32) (v : Bool) : (c.setA k w v).fm = c.fm := rfl
@[simp] theorem Core.setA_px (c : Core) (k : Nat) (w : W32) (v : Bool) : (c.setA k w v).px = c.px := rfl
@[simp] theorem Core.setA_srseed (c : Core) (k : Nat) (w : W32) (v : Bool) : (c.setA k w v).srseed = c.srseed := rfl
@[simp] theorem Core.setA_spcfg (c : Core) (k : Nat) (w : W32) (v : Bool) : (c.setA k w v).spcfg = c.spcfg := rfl
@[simp] theorem Core.setA_sppwr (c : Core) (k : Nat) (w : W32) (v : Bool) : (c.setA k w v).sppwr = c.sppwr := rfl
@[simp] theorem Core.setA_bankPend (c : Core) (k : Nat) (w : W32) (v : Bool) : (c.setA k w v).bankPend = c.bankPend := rfl
@[simp] theorem Core.setA_spad (c : Core) (k : Nat) (w : W32) (v : Bool) : (c.setA k w v).spad = c.spad := rfl
@[simp] theorem Core.setA_land (c : Core) (k : Nat) (w : W32) (v : Bool) : (c.setA k w v).land = c.land := rfl
@[simp] theorem Core.setA_spBad (c : Core) (k : Nat) (w : W32) (v : Bool) : (c.setA k w v).spBad = c.spBad := rfl
@[simp] theorem Core.setA_spill (c : Core) (k : Nat) (w : W32) (v : Bool) : (c.setA k w v).spill = c.spill := rfl
@[simp] theorem Core.setA_log (c : Core) (k : Nat) (w : W32) (v : Bool) : (c.setA k w v).log = c.log := rfl
@[simp] theorem Core.setA_pos (c : Core) (k : Nat) (w : W32) (v : Bool) : (c.setA k w v).pos = c.pos := rfl
@[simp] theorem Core.setA_cepat (c : Core) (k : Nat) (w : W32) (v : Bool) : (c.setA k w v).cepat = c.cepat := rfl
@[simp] theorem Core.setA_gmask (c : Core) (k : Nat) (w : W32) (v : Bool) : (c.setA k w v).gmask = c.gmask := rfl
@[simp] theorem Core.setA_gangRid (c : Core) (k : Nat) (w : W32) (v : Bool) : (c.setA k w v).gangRid = c.gangRid := rfl
@[simp] theorem Core.setA_mbx (c : Core) (k : Nat) (w : W32) (v : Bool) : (c.setA k w v).mbx = c.mbx := rfl
@[simp] theorem Core.setA_brec (c : Core) (k : Nat) (w : W32) (v : Bool) : (c.setA k w v).brec = c.brec := rfl
@[simp] theorem Core.setA_brshc (c : Core) (k : Nat) (w : W32) (v : Bool) : (c.setA k w v).brshc = c.brshc := rfl
@[simp] theorem Core.setA_pwrst (c : Core) (k : Nat) (w : W32) (v : Bool) : (c.setA k w v).pwrst = c.pwrst := rfl
@[simp] theorem Core.setA_pwrcap (c : Core) (k : Nat) (w : W32) (v : Bool) : (c.setA k w v).pwrcap = c.pwrcap := rfl
@[simp] theorem Core.setA_tspc (c : Core) (k : Nat) (w : W32) (v : Bool) : (c.setA k w v).tspc = c.tspc := rfl
@[simp] theorem Core.setA_tsst (c : Core) (k : Nat) (w : W32) (v : Bool) : (c.setA k w v).tsst = c.tsst := rfl
@[simp] theorem Core.setA_tspx (c : Core) (k : Nat) (w : W32) (v : Bool) : (c.setA k w v).tspx = c.tspx := rfl
@[simp] theorem Core.setA_tsinf (c : Core) (k : Nat) (w : W32) (v : Bool) : (c.setA k w v).tsinf = c.tsinf := rfl
@[simp] theorem Core.setA_tsadr (c : Core) (k : Nat) (w : W32) (v : Bool) : (c.setA k w v).tsadr = c.tsadr := rfl
@[simp] theorem Core.setA_fltpc (c : Core) (k : Nat) (w : W32) (v : Bool) : (c.setA k w v).fltpc = c.fltpc := rfl
@[simp] theorem Core.setA_fltdis (c : Core) (k : Nat) (w : W32) (v : Bool) : (c.setA k w v).fltdis = c.fltdis := rfl
@[simp] theorem Core.setA_crc (c : Core) (k : Nat) (w : W32) (v : Bool) : (c.setA k w v).crc = c.crc := rfl
@[simp] theorem Core.setA_entered (c : Core) (k : Nat) (w : W32) (v : Bool) : (c.setA k w v).entered = c.entered := rfl
@[simp] theorem Core.setA_fetch (c : Core) (k : Nat) (w : W32) (v : Bool) : (c.setA k w v).fetch = c.fetch := rfl
@[simp] theorem Core.setA_refetch (c : Core) (k : Nat) (w : W32) (v : Bool) : (c.setA k w v).refetch = c.refetch := rfl
@[simp] theorem Core.setA_safe (c : Core) (k : Nat) (w : W32) (v : Bool) : (c.setA k w v).safe = c.safe := rfl
@[simp] theorem Core.setA_act (c : Core) (k : Nat) (w : W32) (v : Bool) : (c.setA k w v).act = c.act := rfl
@[simp] theorem Core.setA_journal (c : Core) (k : Nat) (w : W32) (v : Bool) : (c.setA k w v).journal = c.journal := rfl
@[simp] theorem Core.setA_msgs (c : Core) (k : Nat) (w : W32) (v : Bool) : (c.setA k w v).msgs = c.msgs := rfl
@[simp] theorem Core.setA_outbox (c : Core) (k : Nat) (w : W32) (v : Bool) : (c.setA k w v).outbox = c.outbox := rfl
@[simp] theorem Core.setA_pend (c : Core) (k : Nat) (w : W32) (v : Bool) : (c.setA k w v).pend = c.pend := rfl
@[simp] theorem Core.setA_wait (c : Core) (k : Nat) (w : W32) (v : Bool) : (c.setA k w v).wait = c.wait := rfl
@[simp] theorem Core.setA_trapWait (c : Core) (k : Nat) (w : W32) (v : Bool) : (c.setA k w v).trapWait = c.trapWait := rfl
@[simp] theorem Core.setA_cur (c : Core) (k : Nat) (w : W32) (v : Bool) : (c.setA k w v).cur = c.cur := rfl
@[simp] theorem Core.setA_owed (c : Core) (k : Nat) (w : W32) (v : Bool) : (c.setA k w v).owed = c.owed := rfl
@[simp] theorem Core.setA_gpath (c : Core) (k : Nat) (w : W32) (v : Bool) : (c.setA k w v).gpath = c.gpath := rfl
@[simp] theorem Core.setA_recq (c : Core) (k : Nat) (w : W32) (v : Bool) : (c.setA k w v).recq = c.recq := rfl
@[simp] theorem Core.setA_served (c : Core) (k : Nat) (w : W32) (v : Bool) : (c.setA k w v).served = c.served := rfl
@[simp] theorem Core.setA_stopReq (c : Core) (k : Nat) (w : W32) (v : Bool) : (c.setA k w v).stopReq = c.stopReq := rfl
@[simp] theorem Core.setA_deadline (c : Core) (k : Nat) (w : W32) (v : Bool) : (c.setA k w v).deadline = c.deadline := rfl
@[simp] theorem Core.setA_brkStop (c : Core) (k : Nat) (w : W32) (v : Bool) : (c.setA k w v).brkStop = c.brkStop := rfl
@[simp] theorem Core.setA_cseq (c : Core) (k : Nat) (w : W32) (v : Bool) : (c.setA k w v).cseq = c.cseq := rfl
@[simp] theorem Core.setA_mxFlags (c : Core) (k : Nat) (w : W32) (v : Bool) : (c.setA k w v).mxFlags = c.mxFlags := rfl
@[simp] theorem Core.setA_mxBad (c : Core) (k : Nat) (w : W32) (v : Bool) : (c.setA k w v).mxBad = c.mxBad := rfl
@[simp] theorem Core.setA_sent (c : Core) (k : Nat) (w : W32) (v : Bool) : (c.setA k w v).sent = c.sent := rfl
@[simp] theorem Core.setA_sentBase (c : Core) (k : Nat) (w : W32) (v : Bool) : (c.setA k w v).sentBase = c.sentBase := rfl
@[simp] theorem Core.setA_reports (c : Core) (k : Nat) (w : W32) (v : Bool) : (c.setA k w v).reports = c.reports := rfl
@[simp] theorem Core.setA_l1 (c : Core) (k : Nat) (w : W32) (v : Bool) : (c.setA k w v).l1 = c.l1 := rfl
@[simp] theorem Core.setA_tlb (c : Core) (k : Nat) (w : W32) (v : Bool) : (c.setA k w v).tlb = c.tlb := rfl
@[simp] theorem Core.setA_gate (c : Core) (k : Nat) (w : W32) (v : Bool) : (c.setA k w v).gate = c.gate := rfl
@[simp] theorem Core.setA_gateHold (c : Core) (k : Nat) (w : W32) (v : Bool) : (c.setA k w v).gateHold = c.gateHold := rfl
@[simp] theorem Core.setA_async (c : Core) (k : Nat) (w : W32) (v : Bool) : (c.setA k w v).async = c.async := rfl

@[simp] theorem Core.setRec_pc (c : Core) (i : Nat) (r : RecQ) : (c.setRec i r).pc = c.pc := rfl
@[simp] theorem Core.setRec_a (c : Core) (i : Nat) (r : RecQ) : (c.setRec i r).a = c.a := rfl
@[simp] theorem Core.setRec_p (c : Core) (i : Nat) (r : RecQ) : (c.setRec i r).p = c.p := rfl
@[simp] theorem Core.setRec_q (c : Core) (i : Nat) (r : RecQ) : (c.setRec i r).q = c.q := rfl
@[simp] theorem Core.setRec_lk (c : Core) (i : Nat) (r : RecQ) : (c.setRec i r).lk = c.lk := rfl
@[simp] theorem Core.setRec_st (c : Core) (i : Nat) (r : RecQ) : (c.setRec i r).st = c.st := rfl
@[simp] theorem Core.setRec_fm (c : Core) (i : Nat) (r : RecQ) : (c.setRec i r).fm = c.fm := rfl
@[simp] theorem Core.setRec_px (c : Core) (i : Nat) (r : RecQ) : (c.setRec i r).px = c.px := rfl
@[simp] theorem Core.setRec_srseed (c : Core) (i : Nat) (r : RecQ) : (c.setRec i r).srseed = c.srseed := rfl
@[simp] theorem Core.setRec_spcfg (c : Core) (i : Nat) (r : RecQ) : (c.setRec i r).spcfg = c.spcfg := rfl
@[simp] theorem Core.setRec_sppwr (c : Core) (i : Nat) (r : RecQ) : (c.setRec i r).sppwr = c.sppwr := rfl
@[simp] theorem Core.setRec_bankPend (c : Core) (i : Nat) (r : RecQ) : (c.setRec i r).bankPend = c.bankPend := rfl
@[simp] theorem Core.setRec_spad (c : Core) (i : Nat) (r : RecQ) : (c.setRec i r).spad = c.spad := rfl
@[simp] theorem Core.setRec_land (c : Core) (i : Nat) (r : RecQ) : (c.setRec i r).land = c.land := rfl
@[simp] theorem Core.setRec_spBad (c : Core) (i : Nat) (r : RecQ) : (c.setRec i r).spBad = c.spBad := rfl
@[simp] theorem Core.setRec_spill (c : Core) (i : Nat) (r : RecQ) : (c.setRec i r).spill = c.spill := rfl
@[simp] theorem Core.setRec_log (c : Core) (i : Nat) (r : RecQ) : (c.setRec i r).log = c.log := rfl
@[simp] theorem Core.setRec_pos (c : Core) (i : Nat) (r : RecQ) : (c.setRec i r).pos = c.pos := rfl
@[simp] theorem Core.setRec_cepat (c : Core) (i : Nat) (r : RecQ) : (c.setRec i r).cepat = c.cepat := rfl
@[simp] theorem Core.setRec_gmask (c : Core) (i : Nat) (r : RecQ) : (c.setRec i r).gmask = c.gmask := rfl
@[simp] theorem Core.setRec_gangRid (c : Core) (i : Nat) (r : RecQ) : (c.setRec i r).gangRid = c.gangRid := rfl
@[simp] theorem Core.setRec_mbx (c : Core) (i : Nat) (r : RecQ) : (c.setRec i r).mbx = c.mbx := rfl
@[simp] theorem Core.setRec_brec (c : Core) (i : Nat) (r : RecQ) : (c.setRec i r).brec = c.brec := rfl
@[simp] theorem Core.setRec_brshc (c : Core) (i : Nat) (r : RecQ) : (c.setRec i r).brshc = c.brshc := rfl
@[simp] theorem Core.setRec_pwrst (c : Core) (i : Nat) (r : RecQ) : (c.setRec i r).pwrst = c.pwrst := rfl
@[simp] theorem Core.setRec_pwrcap (c : Core) (i : Nat) (r : RecQ) : (c.setRec i r).pwrcap = c.pwrcap := rfl
@[simp] theorem Core.setRec_tspc (c : Core) (i : Nat) (r : RecQ) : (c.setRec i r).tspc = c.tspc := rfl
@[simp] theorem Core.setRec_tsst (c : Core) (i : Nat) (r : RecQ) : (c.setRec i r).tsst = c.tsst := rfl
@[simp] theorem Core.setRec_tspx (c : Core) (i : Nat) (r : RecQ) : (c.setRec i r).tspx = c.tspx := rfl
@[simp] theorem Core.setRec_tsinf (c : Core) (i : Nat) (r : RecQ) : (c.setRec i r).tsinf = c.tsinf := rfl
@[simp] theorem Core.setRec_tsadr (c : Core) (i : Nat) (r : RecQ) : (c.setRec i r).tsadr = c.tsadr := rfl
@[simp] theorem Core.setRec_fltpc (c : Core) (i : Nat) (r : RecQ) : (c.setRec i r).fltpc = c.fltpc := rfl
@[simp] theorem Core.setRec_fltdis (c : Core) (i : Nat) (r : RecQ) : (c.setRec i r).fltdis = c.fltdis := rfl
@[simp] theorem Core.setRec_crc (c : Core) (i : Nat) (r : RecQ) : (c.setRec i r).crc = c.crc := rfl
@[simp] theorem Core.setRec_entered (c : Core) (i : Nat) (r : RecQ) : (c.setRec i r).entered = c.entered := rfl
@[simp] theorem Core.setRec_fetch (c : Core) (i : Nat) (r : RecQ) : (c.setRec i r).fetch = c.fetch := rfl
@[simp] theorem Core.setRec_refetch (c : Core) (i : Nat) (r : RecQ) : (c.setRec i r).refetch = c.refetch := rfl
@[simp] theorem Core.setRec_safe (c : Core) (i : Nat) (r : RecQ) : (c.setRec i r).safe = c.safe := rfl
@[simp] theorem Core.setRec_act (c : Core) (i : Nat) (r : RecQ) : (c.setRec i r).act = c.act := rfl
@[simp] theorem Core.setRec_journal (c : Core) (i : Nat) (r : RecQ) : (c.setRec i r).journal = c.journal := rfl
@[simp] theorem Core.setRec_msgs (c : Core) (i : Nat) (r : RecQ) : (c.setRec i r).msgs = c.msgs := rfl
@[simp] theorem Core.setRec_outbox (c : Core) (i : Nat) (r : RecQ) : (c.setRec i r).outbox = c.outbox := rfl
@[simp] theorem Core.setRec_pend (c : Core) (i : Nat) (r : RecQ) : (c.setRec i r).pend = c.pend := rfl
@[simp] theorem Core.setRec_wait (c : Core) (i : Nat) (r : RecQ) : (c.setRec i r).wait = c.wait := rfl
@[simp] theorem Core.setRec_trapWait (c : Core) (i : Nat) (r : RecQ) : (c.setRec i r).trapWait = c.trapWait := rfl
@[simp] theorem Core.setRec_cur (c : Core) (i : Nat) (r : RecQ) : (c.setRec i r).cur = c.cur := rfl
@[simp] theorem Core.setRec_owed (c : Core) (i : Nat) (r : RecQ) : (c.setRec i r).owed = c.owed := rfl
@[simp] theorem Core.setRec_gpath (c : Core) (i : Nat) (r : RecQ) : (c.setRec i r).gpath = c.gpath := rfl
@[simp] theorem Core.setRec_served (c : Core) (i : Nat) (r : RecQ) : (c.setRec i r).served = c.served := rfl
@[simp] theorem Core.setRec_stopReq (c : Core) (i : Nat) (r : RecQ) : (c.setRec i r).stopReq = c.stopReq := rfl
@[simp] theorem Core.setRec_deadline (c : Core) (i : Nat) (r : RecQ) : (c.setRec i r).deadline = c.deadline := rfl
@[simp] theorem Core.setRec_brkStop (c : Core) (i : Nat) (r : RecQ) : (c.setRec i r).brkStop = c.brkStop := rfl
@[simp] theorem Core.setRec_cseq (c : Core) (i : Nat) (r : RecQ) : (c.setRec i r).cseq = c.cseq := rfl
@[simp] theorem Core.setRec_mxFlags (c : Core) (i : Nat) (r : RecQ) : (c.setRec i r).mxFlags = c.mxFlags := rfl
@[simp] theorem Core.setRec_mxBad (c : Core) (i : Nat) (r : RecQ) : (c.setRec i r).mxBad = c.mxBad := rfl
@[simp] theorem Core.setRec_sent (c : Core) (i : Nat) (r : RecQ) : (c.setRec i r).sent = c.sent := rfl
@[simp] theorem Core.setRec_sentBase (c : Core) (i : Nat) (r : RecQ) : (c.setRec i r).sentBase = c.sentBase := rfl
@[simp] theorem Core.setRec_reports (c : Core) (i : Nat) (r : RecQ) : (c.setRec i r).reports = c.reports := rfl
@[simp] theorem Core.setRec_l1 (c : Core) (i : Nat) (r : RecQ) : (c.setRec i r).l1 = c.l1 := rfl
@[simp] theorem Core.setRec_tlb (c : Core) (i : Nat) (r : RecQ) : (c.setRec i r).tlb = c.tlb := rfl
@[simp] theorem Core.setRec_gate (c : Core) (i : Nat) (r : RecQ) : (c.setRec i r).gate = c.gate := rfl
@[simp] theorem Core.setRec_gateHold (c : Core) (i : Nat) (r : RecQ) : (c.setRec i r).gateHold = c.gateHold := rfl
@[simp] theorem Core.setRec_async (c : Core) (i : Nat) (r : RecQ) : (c.setRec i r).async = c.async := rfl

@[simp] theorem Core.setPp_pc (c : Core) (b : Bool) : (c.setPp b).pc = c.pc := rfl
@[simp] theorem Core.setPp_a (c : Core) (b : Bool) : (c.setPp b).a = c.a := rfl
@[simp] theorem Core.setPp_p (c : Core) (b : Bool) : (c.setPp b).p = c.p := rfl
@[simp] theorem Core.setPp_q (c : Core) (b : Bool) : (c.setPp b).q = c.q := rfl
@[simp] theorem Core.setPp_lk (c : Core) (b : Bool) : (c.setPp b).lk = c.lk := rfl
@[simp] theorem Core.setPp_fm (c : Core) (b : Bool) : (c.setPp b).fm = c.fm := rfl
@[simp] theorem Core.setPp_px (c : Core) (b : Bool) : (c.setPp b).px = c.px := rfl
@[simp] theorem Core.setPp_srseed (c : Core) (b : Bool) : (c.setPp b).srseed = c.srseed := rfl
@[simp] theorem Core.setPp_spcfg (c : Core) (b : Bool) : (c.setPp b).spcfg = c.spcfg := rfl
@[simp] theorem Core.setPp_sppwr (c : Core) (b : Bool) : (c.setPp b).sppwr = c.sppwr := rfl
@[simp] theorem Core.setPp_bankPend (c : Core) (b : Bool) : (c.setPp b).bankPend = c.bankPend := rfl
@[simp] theorem Core.setPp_spad (c : Core) (b : Bool) : (c.setPp b).spad = c.spad := rfl
@[simp] theorem Core.setPp_land (c : Core) (b : Bool) : (c.setPp b).land = c.land := rfl
@[simp] theorem Core.setPp_spBad (c : Core) (b : Bool) : (c.setPp b).spBad = c.spBad := rfl
@[simp] theorem Core.setPp_spill (c : Core) (b : Bool) : (c.setPp b).spill = c.spill := rfl
@[simp] theorem Core.setPp_log (c : Core) (b : Bool) : (c.setPp b).log = c.log := rfl
@[simp] theorem Core.setPp_pos (c : Core) (b : Bool) : (c.setPp b).pos = c.pos := rfl
@[simp] theorem Core.setPp_cepat (c : Core) (b : Bool) : (c.setPp b).cepat = c.cepat := rfl
@[simp] theorem Core.setPp_gmask (c : Core) (b : Bool) : (c.setPp b).gmask = c.gmask := rfl
@[simp] theorem Core.setPp_gangRid (c : Core) (b : Bool) : (c.setPp b).gangRid = c.gangRid := rfl
@[simp] theorem Core.setPp_mbx (c : Core) (b : Bool) : (c.setPp b).mbx = c.mbx := rfl
@[simp] theorem Core.setPp_brec (c : Core) (b : Bool) : (c.setPp b).brec = c.brec := rfl
@[simp] theorem Core.setPp_brshc (c : Core) (b : Bool) : (c.setPp b).brshc = c.brshc := rfl
@[simp] theorem Core.setPp_pwrst (c : Core) (b : Bool) : (c.setPp b).pwrst = c.pwrst := rfl
@[simp] theorem Core.setPp_pwrcap (c : Core) (b : Bool) : (c.setPp b).pwrcap = c.pwrcap := rfl
@[simp] theorem Core.setPp_tspc (c : Core) (b : Bool) : (c.setPp b).tspc = c.tspc := rfl
@[simp] theorem Core.setPp_tsst (c : Core) (b : Bool) : (c.setPp b).tsst = c.tsst := rfl
@[simp] theorem Core.setPp_tspx (c : Core) (b : Bool) : (c.setPp b).tspx = c.tspx := rfl
@[simp] theorem Core.setPp_tsinf (c : Core) (b : Bool) : (c.setPp b).tsinf = c.tsinf := rfl
@[simp] theorem Core.setPp_tsadr (c : Core) (b : Bool) : (c.setPp b).tsadr = c.tsadr := rfl
@[simp] theorem Core.setPp_fltpc (c : Core) (b : Bool) : (c.setPp b).fltpc = c.fltpc := rfl
@[simp] theorem Core.setPp_fltdis (c : Core) (b : Bool) : (c.setPp b).fltdis = c.fltdis := rfl
@[simp] theorem Core.setPp_crc (c : Core) (b : Bool) : (c.setPp b).crc = c.crc := rfl
@[simp] theorem Core.setPp_entered (c : Core) (b : Bool) : (c.setPp b).entered = c.entered := rfl
@[simp] theorem Core.setPp_fetch (c : Core) (b : Bool) : (c.setPp b).fetch = c.fetch := rfl
@[simp] theorem Core.setPp_refetch (c : Core) (b : Bool) : (c.setPp b).refetch = c.refetch := rfl
@[simp] theorem Core.setPp_safe (c : Core) (b : Bool) : (c.setPp b).safe = c.safe := rfl
@[simp] theorem Core.setPp_act (c : Core) (b : Bool) : (c.setPp b).act = c.act := rfl
@[simp] theorem Core.setPp_journal (c : Core) (b : Bool) : (c.setPp b).journal = c.journal := rfl
@[simp] theorem Core.setPp_msgs (c : Core) (b : Bool) : (c.setPp b).msgs = c.msgs := rfl
@[simp] theorem Core.setPp_outbox (c : Core) (b : Bool) : (c.setPp b).outbox = c.outbox := rfl
@[simp] theorem Core.setPp_pend (c : Core) (b : Bool) : (c.setPp b).pend = c.pend := rfl
@[simp] theorem Core.setPp_wait (c : Core) (b : Bool) : (c.setPp b).wait = c.wait := rfl
@[simp] theorem Core.setPp_trapWait (c : Core) (b : Bool) : (c.setPp b).trapWait = c.trapWait := rfl
@[simp] theorem Core.setPp_cur (c : Core) (b : Bool) : (c.setPp b).cur = c.cur := rfl
@[simp] theorem Core.setPp_owed (c : Core) (b : Bool) : (c.setPp b).owed = c.owed := rfl
@[simp] theorem Core.setPp_gpath (c : Core) (b : Bool) : (c.setPp b).gpath = c.gpath := rfl
@[simp] theorem Core.setPp_recq (c : Core) (b : Bool) : (c.setPp b).recq = c.recq := rfl
@[simp] theorem Core.setPp_served (c : Core) (b : Bool) : (c.setPp b).served = c.served := rfl
@[simp] theorem Core.setPp_stopReq (c : Core) (b : Bool) : (c.setPp b).stopReq = c.stopReq := rfl
@[simp] theorem Core.setPp_deadline (c : Core) (b : Bool) : (c.setPp b).deadline = c.deadline := rfl
@[simp] theorem Core.setPp_brkStop (c : Core) (b : Bool) : (c.setPp b).brkStop = c.brkStop := rfl
@[simp] theorem Core.setPp_cseq (c : Core) (b : Bool) : (c.setPp b).cseq = c.cseq := rfl
@[simp] theorem Core.setPp_mxFlags (c : Core) (b : Bool) : (c.setPp b).mxFlags = c.mxFlags := rfl
@[simp] theorem Core.setPp_mxBad (c : Core) (b : Bool) : (c.setPp b).mxBad = c.mxBad := rfl
@[simp] theorem Core.setPp_sent (c : Core) (b : Bool) : (c.setPp b).sent = c.sent := rfl
@[simp] theorem Core.setPp_sentBase (c : Core) (b : Bool) : (c.setPp b).sentBase = c.sentBase := rfl
@[simp] theorem Core.setPp_reports (c : Core) (b : Bool) : (c.setPp b).reports = c.reports := rfl
@[simp] theorem Core.setPp_l1 (c : Core) (b : Bool) : (c.setPp b).l1 = c.l1 := rfl
@[simp] theorem Core.setPp_tlb (c : Core) (b : Bool) : (c.setPp b).tlb = c.tlb := rfl
@[simp] theorem Core.setPp_gate (c : Core) (b : Bool) : (c.setPp b).gate = c.gate := rfl
@[simp] theorem Core.setPp_gateHold (c : Core) (b : Bool) : (c.setPp b).gateHold = c.gateHold := rfl
@[simp] theorem Core.setPp_async (c : Core) (b : Bool) : (c.setPp b).async = c.async := rfl

@[simp] theorem Core.setPl_pc (c : Core) (k : Nat) : (c.setPl k).pc = c.pc := rfl
@[simp] theorem Core.setPl_a (c : Core) (k : Nat) : (c.setPl k).a = c.a := rfl
@[simp] theorem Core.setPl_p (c : Core) (k : Nat) : (c.setPl k).p = c.p := rfl
@[simp] theorem Core.setPl_q (c : Core) (k : Nat) : (c.setPl k).q = c.q := rfl
@[simp] theorem Core.setPl_lk (c : Core) (k : Nat) : (c.setPl k).lk = c.lk := rfl
@[simp] theorem Core.setPl_fm (c : Core) (k : Nat) : (c.setPl k).fm = c.fm := rfl
@[simp] theorem Core.setPl_px (c : Core) (k : Nat) : (c.setPl k).px = c.px := rfl
@[simp] theorem Core.setPl_srseed (c : Core) (k : Nat) : (c.setPl k).srseed = c.srseed := rfl
@[simp] theorem Core.setPl_spcfg (c : Core) (k : Nat) : (c.setPl k).spcfg = c.spcfg := rfl
@[simp] theorem Core.setPl_sppwr (c : Core) (k : Nat) : (c.setPl k).sppwr = c.sppwr := rfl
@[simp] theorem Core.setPl_bankPend (c : Core) (k : Nat) : (c.setPl k).bankPend = c.bankPend := rfl
@[simp] theorem Core.setPl_spad (c : Core) (k : Nat) : (c.setPl k).spad = c.spad := rfl
@[simp] theorem Core.setPl_land (c : Core) (k : Nat) : (c.setPl k).land = c.land := rfl
@[simp] theorem Core.setPl_spBad (c : Core) (k : Nat) : (c.setPl k).spBad = c.spBad := rfl
@[simp] theorem Core.setPl_spill (c : Core) (k : Nat) : (c.setPl k).spill = c.spill := rfl
@[simp] theorem Core.setPl_log (c : Core) (k : Nat) : (c.setPl k).log = c.log := rfl
@[simp] theorem Core.setPl_pos (c : Core) (k : Nat) : (c.setPl k).pos = c.pos := rfl
@[simp] theorem Core.setPl_cepat (c : Core) (k : Nat) : (c.setPl k).cepat = c.cepat := rfl
@[simp] theorem Core.setPl_gmask (c : Core) (k : Nat) : (c.setPl k).gmask = c.gmask := rfl
@[simp] theorem Core.setPl_gangRid (c : Core) (k : Nat) : (c.setPl k).gangRid = c.gangRid := rfl
@[simp] theorem Core.setPl_mbx (c : Core) (k : Nat) : (c.setPl k).mbx = c.mbx := rfl
@[simp] theorem Core.setPl_brec (c : Core) (k : Nat) : (c.setPl k).brec = c.brec := rfl
@[simp] theorem Core.setPl_brshc (c : Core) (k : Nat) : (c.setPl k).brshc = c.brshc := rfl
@[simp] theorem Core.setPl_pwrst (c : Core) (k : Nat) : (c.setPl k).pwrst = c.pwrst := rfl
@[simp] theorem Core.setPl_pwrcap (c : Core) (k : Nat) : (c.setPl k).pwrcap = c.pwrcap := rfl
@[simp] theorem Core.setPl_tspc (c : Core) (k : Nat) : (c.setPl k).tspc = c.tspc := rfl
@[simp] theorem Core.setPl_tsst (c : Core) (k : Nat) : (c.setPl k).tsst = c.tsst := rfl
@[simp] theorem Core.setPl_tspx (c : Core) (k : Nat) : (c.setPl k).tspx = c.tspx := rfl
@[simp] theorem Core.setPl_tsinf (c : Core) (k : Nat) : (c.setPl k).tsinf = c.tsinf := rfl
@[simp] theorem Core.setPl_tsadr (c : Core) (k : Nat) : (c.setPl k).tsadr = c.tsadr := rfl
@[simp] theorem Core.setPl_fltpc (c : Core) (k : Nat) : (c.setPl k).fltpc = c.fltpc := rfl
@[simp] theorem Core.setPl_fltdis (c : Core) (k : Nat) : (c.setPl k).fltdis = c.fltdis := rfl
@[simp] theorem Core.setPl_crc (c : Core) (k : Nat) : (c.setPl k).crc = c.crc := rfl
@[simp] theorem Core.setPl_entered (c : Core) (k : Nat) : (c.setPl k).entered = c.entered := rfl
@[simp] theorem Core.setPl_fetch (c : Core) (k : Nat) : (c.setPl k).fetch = c.fetch := rfl
@[simp] theorem Core.setPl_refetch (c : Core) (k : Nat) : (c.setPl k).refetch = c.refetch := rfl
@[simp] theorem Core.setPl_safe (c : Core) (k : Nat) : (c.setPl k).safe = c.safe := rfl
@[simp] theorem Core.setPl_act (c : Core) (k : Nat) : (c.setPl k).act = c.act := rfl
@[simp] theorem Core.setPl_journal (c : Core) (k : Nat) : (c.setPl k).journal = c.journal := rfl
@[simp] theorem Core.setPl_msgs (c : Core) (k : Nat) : (c.setPl k).msgs = c.msgs := rfl
@[simp] theorem Core.setPl_outbox (c : Core) (k : Nat) : (c.setPl k).outbox = c.outbox := rfl
@[simp] theorem Core.setPl_pend (c : Core) (k : Nat) : (c.setPl k).pend = c.pend := rfl
@[simp] theorem Core.setPl_wait (c : Core) (k : Nat) : (c.setPl k).wait = c.wait := rfl
@[simp] theorem Core.setPl_trapWait (c : Core) (k : Nat) : (c.setPl k).trapWait = c.trapWait := rfl
@[simp] theorem Core.setPl_cur (c : Core) (k : Nat) : (c.setPl k).cur = c.cur := rfl
@[simp] theorem Core.setPl_owed (c : Core) (k : Nat) : (c.setPl k).owed = c.owed := rfl
@[simp] theorem Core.setPl_gpath (c : Core) (k : Nat) : (c.setPl k).gpath = c.gpath := rfl
@[simp] theorem Core.setPl_recq (c : Core) (k : Nat) : (c.setPl k).recq = c.recq := rfl
@[simp] theorem Core.setPl_served (c : Core) (k : Nat) : (c.setPl k).served = c.served := rfl
@[simp] theorem Core.setPl_stopReq (c : Core) (k : Nat) : (c.setPl k).stopReq = c.stopReq := rfl
@[simp] theorem Core.setPl_deadline (c : Core) (k : Nat) : (c.setPl k).deadline = c.deadline := rfl
@[simp] theorem Core.setPl_brkStop (c : Core) (k : Nat) : (c.setPl k).brkStop = c.brkStop := rfl
@[simp] theorem Core.setPl_cseq (c : Core) (k : Nat) : (c.setPl k).cseq = c.cseq := rfl
@[simp] theorem Core.setPl_mxFlags (c : Core) (k : Nat) : (c.setPl k).mxFlags = c.mxFlags := rfl
@[simp] theorem Core.setPl_mxBad (c : Core) (k : Nat) : (c.setPl k).mxBad = c.mxBad := rfl
@[simp] theorem Core.setPl_sent (c : Core) (k : Nat) : (c.setPl k).sent = c.sent := rfl
@[simp] theorem Core.setPl_sentBase (c : Core) (k : Nat) : (c.setPl k).sentBase = c.sentBase := rfl
@[simp] theorem Core.setPl_reports (c : Core) (k : Nat) : (c.setPl k).reports = c.reports := rfl
@[simp] theorem Core.setPl_l1 (c : Core) (k : Nat) : (c.setPl k).l1 = c.l1 := rfl
@[simp] theorem Core.setPl_tlb (c : Core) (k : Nat) : (c.setPl k).tlb = c.tlb := rfl
@[simp] theorem Core.setPl_gate (c : Core) (k : Nat) : (c.setPl k).gate = c.gate := rfl
@[simp] theorem Core.setPl_gateHold (c : Core) (k : Nat) : (c.setPl k).gateHold = c.gateHold := rfl
@[simp] theorem Core.setPl_async (c : Core) (k : Nat) : (c.setPl k).async = c.async := rfl

end Sys2Proof.Machine
end

