-- ==== Sys2Proof/Laws/Memory.lean ====
section
/-! SUPPORT. Memory: a read after a write, and that every operation that writes memory keeps its canonical form. -/

namespace Sys2Proof.Machine

theorem Memory.wf_iff {m : Memory} : Memory.wf m = true ↔ KV.sorted m = true ∧ ∀ x ∈ m, x.2 ≠ 0 := by
  simp [Memory.wf]

/-- A byte reads as it was written. -/
theorem Memory.get_put_self {m : Memory} (h : Memory.wf m = true) (a : Nat) (b : Byte) : Memory.get (Memory.put m a b) a = b :=
  KV.get_putD_self (Memory.wf_iff.1 h).1

/-- Every other byte reads as before. -/
theorem Memory.get_put_ne {a k : Nat} (h : k ≠ a) (m : Memory) (b : Byte) : Memory.get (Memory.put m a b) k = Memory.get m k :=
  KV.get_putD_ne h b m

theorem Memory.wf_put {m : Memory} (h : Memory.wf m = true) (a : Nat) (b : Byte) : Memory.wf (Memory.put m a b) = true := by
  rw [Memory.wf_iff] at h ⊢
  refine ⟨KV.sorted_putD h.1, fun x hx => ?_⟩
  unfold Memory.put KV.putD at hx
  split at hx
  · exact h.2 x (KV.mem_del hx)
  · rcases KV.mem_put hx with rfl | hx
    · assumption
    · exact h.2 x hx

/-- A fold of operations each of which keeps the form keeps it. -/
theorem Memory.wf_foldl {α β : Type} (p : β → Memory) {f : β → α → β} (l : List α)
    (h : ∀ b a, Memory.wf (p b) = true → Memory.wf (p (f b a)) = true) (b : β) (hb : Memory.wf (p b) = true) :
    Memory.wf (p (l.foldl f b)) = true := by
  induction l generalizing b with
  | nil => exact hb
  | cons a l ih => exact ih _ (h b a hb)

theorem Memory.wf_filter {m : Memory} (h : Memory.wf m = true) (q : Host.Cell → Bool) : Memory.wf (m.filter q) = true := by
  rw [Memory.wf_iff] at h ⊢
  refine ⟨?_, fun x hx => h.2 x (List.mem_filter.1 hx).1⟩
  obtain ⟨hs, -⟩ := h
  induction m with
  | nil => rfl
  | cons y t ih =>
    simp only [List.filter]
    split
    · obtain ⟨i, v⟩ := y
      exact KV.sorted_cons (ih (KV.sorted_tail hs)) fun x hx => KV.sorted_lt hs x (List.mem_filter.1 hx).1
    · exact ih (KV.sorted_tail hs)

theorem State.wf_putByte {s : State} (h : Memory.wf s.mem = true) (l : Loc) (b : Byte) :
    Memory.wf (s.putByte l b).mem = true := by
  cases l
  · exact Memory.wf_put h _ _
  · exact h

theorem State.wf_putBytes {s : State} (h : Memory.wf s.mem = true) (l : List (Loc × Byte)) :
    Memory.wf (s.putBytes l).mem = true := Memory.wf_foldl State.mem l (fun _ _ ht => State.wf_putByte ht _ _) s h

theorem State.hostFill_mem (s : State) (l : Loc) : (s.hostFill l).mem = s.mem := by
  unfold State.hostFill; split <;> [rfl; (split <;> rfl)]

theorem State.wf_storeHome {s : State} (h : Memory.wf s.mem = true) (asid : W16) (l : List (Loc × Byte)) :
    Memory.wf (s.storeHome asid l).mem = true := by
  refine State.wf_putBytes ?_ l
  exact Memory.wf_foldl State.mem l (fun t x ht => by rw [State.hostFill_mem]; exact ht) s h

theorem wf_applyRun {m : Memory} (h : Memory.wf m = true) (l : List LogEntry) : Memory.wf (applyRun m l) = true := by
  unfold applyRun
  split
  · exact h
  · split
    · refine Memory.wf_foldl id _ (fun b a hb => ?_) m h
      dsimp only [id] at hb ⊢
      split
      · refine Memory.wf_foldl id _ (fun b j hb => ?_) b hb
        dsimp only [id] at hb ⊢
        split <;> [exact Memory.wf_put hb _ _; exact hb]
      · exact hb
    · dsimp only
      split
      · exact h
      · exact Memory.wf_foldl id _ (fun b x hb => Memory.wf_put hb _ _) m h

theorem State.wf_applyLog {s : State} (h : Memory.wf s.mem = true) (phg : W16) : Memory.wf (s.applyLog phg).mem = true :=
  Memory.wf_foldl id _ (fun _ l hb => wf_applyRun hb l) s.mem h

theorem State.wf_zeroBytes {s : State} (h : Memory.wf s.mem = true) (a n : Nat) : Memory.wf (s.zeroBytes a n).mem = true :=
  Memory.wf_filter h _

theorem State.wf_publish {s : State} (h : Memory.wf s.mem = true) (phg : W16) (g sel : Nat) :
    Memory.wf (s.publish phg g sel).mem = true := by
  unfold State.publish
  dsimp only
  split <;> [exact h; exact State.wf_putByte h _ _]

theorem State.wf_flip {s : State} (h : Memory.wf s.mem = true) (pa : Nat) : Memory.wf (s.flip pa).mem = true := by
  unfold State.flip
  exact State.wf_putBytes (by exact h) _

theorem State.wf_resetModule {s : State} (h : Memory.wf s.mem = true) : Memory.wf s.resetModule.mem = true := h

theorem State.wf_reset : Memory.wf State.reset.mem = true := rfl

end Sys2Proof.Machine
end

