-- ==== Sys2Proof/Laws/Operands.lean ====
section
/-! SUPPORT. What pushing a queue entry, working on the own core and acting on a unit can do: one lemma each, cited in
place of unfolding them. -/

namespace Sys2Proof.Machine

/-- A row that acts on a core acts on one that exists; on another it is the fault that names no unit. -/
theorem onCore_next {g : Nat} {s t : State} {f : State → State} :
    onCore g s f = .next t ↔ wfCore g = true ∧ f s = t := by
  unfold onCore
  split <;> simp_all

/-- A push gives the entry to the core itself, to a running gang neighbour, or to nobody (R317, R341). -/
theorem pushQ_cases {s t : State} {g : Nat} {n : BitVec 3} {e : QEntry} (h : s.pushQ g n e = .ok t) :
    t = s ∨ ∃ k, ((s.core k).queue n).length < qDepth n ∧
      t = s.modCore k fun c => c.setQ n (c.queue n ++ [e]) := by
  simp only [State.pushQ] at h
  repeat' split at h
  all_goals first
    | (cases h; exact .inl rfl)
    | (simp only [Except.ok.injEq] at h; exact .inr ⟨_, by omega, h.symm⟩)
    | cases h

/-- A push leaves every memory as it was. -/
theorem pushQ_memory {s t : State} {g : Nat} {n : BitVec 3} {e : QEntry} (h : s.pushQ g n e = .ok t) :
    t.mem = s.mem ∧ t.hostMem = s.hostMem ∧ t.self = s.self := by
  rcases pushQ_cases h with rfl | ⟨k, -, rfl⟩
  · exact ⟨rfl, rfl, rfl⟩
  · exact ⟨rfl, rfl, rfl⟩

/-- Work on the own core that completes leaves the core it computed, and its entry pushed. -/
theorem onOwnCore_done {w : Work} {s : State} {r : Core × Push} (h : w (s.core s.self) (s.canFill s.self) = .ok r)
    (hp : ∀ n e, r.2 = some (n, e) → isOk ((s.setCore s.self r.1).pushQ s.self n e) = true) :
    onOwnCore w s = .ok (.done (s.written r)) := by
  obtain ⟨c, p⟩ := r
  cases p with
  | none => simp [onOwnCore, h, State.written]
  | some q =>
    obtain ⟨n, e⟩ := q
    have := hp n e rfl
    cases ht : (s.setCore s.self c).pushQ s.self n e <;> simp_all [onOwnCore, State.written, isOk]

/-- Everything work on the own core can answer. -/
theorem onOwnCore_cases (w : Work) (s : State) :
    (∃ x, onOwnCore w s = .error x) ∨
      ∃ r, w (s.core s.self) (s.canFill s.self) = .ok r ∧ onOwnCore w s = .ok (.done (s.written r)) := by
  cases h : w (s.core s.self) (s.canFill s.self) with
  | error x => exact .inl ⟨x, by simp [onOwnCore, h]⟩
  | ok r =>
    obtain ⟨c, p⟩ := r
    cases p with
    | none => exact .inr ⟨_, rfl, by simp [onOwnCore, h, State.written]⟩
    | some q =>
      obtain ⟨n, e⟩ := q
      cases ht : (s.setCore s.self c).pushQ s.self n e with
      | error x => exact .inl ⟨x, by simp [onOwnCore, h, ht]⟩
      | ok t => exact .inr ⟨_, rfl, by simp [onOwnCore, h, State.written, ht]⟩

/-- Writing back work on the own core leaves every memory as it was. -/
theorem written_memory (s : State) (r : Core × Push) :
    (s.written r).mem = s.mem ∧ (s.written r).hostMem = s.hostMem ∧ (s.written r).self = s.self := by
  unfold State.written
  split
  · exact ⟨rfl, rfl, rfl⟩
  · split
    · rename_i h
      have := pushQ_memory h
      exact this
    · exact ⟨rfl, rfl, rfl⟩

/-- Taking charge and retiring leave every memory as it was. -/
theorem retired_memory (t s : State) (i : Instr) (sp uses : Bool) :
    (t.retired s i sp uses).mem = t.mem ∧ (t.retired s i sp uses).hostMem = t.hostMem := by
  unfold State.retired State.chargeFor
  split <;> exact ⟨rfl, rfl⟩

end Sys2Proof.Machine
end

