-- ==== Sys2Proof/Laws/PerInstr.lean ====
section
/-! SUPPORT. Laws of each instruction as syntax: a well-formed row of a core is the instruction that its own opcode and
fields name (R52), and a row of another agent has no opcode. -/

namespace Sys2Proof.Laws.Codec

/-- The row of an instruction's opcode and fields is the instruction. -/
def Statement (i : Instr) : Prop := i.wf = true → i.form = .agent ∨ i.form.toInstr = .ok i

theorem nop : Statement .nop := fun _ => .inr rfl
theorem add (f : M3) : Statement (.add f) := fun _ => .inr rfl
theorem sub (f : M3) : Statement (.sub f) := fun _ => .inr rfl
theorem mul (f : M3) : Statement (.mul f) := fun _ => .inr rfl
theorem mulh (f : M3) : Statement (.mulh f) := fun _ => .inr rfl
theorem div (f : M3) : Statement (.div f) := fun _ => .inr rfl
theorem rem (f : M3) : Statement (.rem f) := fun _ => .inr rfl
theorem mac (f : M3) : Statement (.mac f) := fun _ => .inr rfl
theorem dot4 (f : M3) : Statement (.dot4 f) := fun _ => .inr rfl
theorem adds (f : M3) : Statement (.adds f) := fun _ => .inr rfl
theorem subs (f : M3) : Statement (.subs f) := fun _ => .inr rfl
theorem neg (f : M3) : Statement (.neg f) := fun _ => .inr rfl
theorem absI (f : M3) : Statement (.absI f) := fun _ => .inr rfl
theorem minI (f : M3) : Statement (.minI f) := fun _ => .inr rfl
theorem maxI (f : M3) : Statement (.maxI f) := fun _ => .inr rfl
theorem andI (f : M3) : Statement (.andI f) := fun _ => .inr rfl
theorem orI (f : M3) : Statement (.orI f) := fun _ => .inr rfl
theorem xorI (f : M3) : Statement (.xorI f) := fun _ => .inr rfl
theorem notI (f : M3) : Statement (.notI f) := fun _ => .inr rfl
theorem shl (f : M3) : Statement (.shl f) := fun _ => .inr rfl
theorem shr (f : M3) : Statement (.shr f) := fun _ => .inr rfl
theorem sra (f : M3) : Statement (.sra f) := fun _ => .inr rfl
theorem rot (f : M3) : Statement (.rot f) := fun _ => .inr rfl
theorem clz (f : M3) : Statement (.clz f) := fun _ => .inr rfl
theorem popc (f : M3) : Statement (.popc f) := fun _ => .inr rfl
theorem mov (f : M3) : Statement (.mov f) := fun _ => .inr rfl
theorem cmpeq (f : M3) : Statement (.cmpeq f) := fun _ => .inr rfl
theorem cmpne (f : M3) : Statement (.cmpne f) := fun _ => .inr rfl
theorem cmplt (f : M3) : Statement (.cmplt f) := fun _ => .inr rfl
theorem cmple (f : M3) : Statement (.cmple f) := fun _ => .inr rfl
theorem sel (f : M3) : Statement (.sel f) := fun _ => .inr rfl
theorem tags (f : M3) : Statement (.tags f) := fun _ => .inr rfl
theorem ldi (f : MI) : Statement (.ldi f) := fun _ => .inr rfl
theorem addImm (f : MI) : Statement (.addImm f) := fun _ => .inr rfl
theorem subImm (f : MI) : Statement (.subImm f) := fun _ => .inr rfl
theorem mulImm (f : MI) : Statement (.mulImm f) := fun _ => .inr rfl
theorem andImm (f : MI) : Statement (.andImm f) := fun _ => .inr rfl
theorem orImm (f : MI) : Statement (.orImm f) := fun _ => .inr rfl
theorem xorImm (f : MI) : Statement (.xorImm f) := fun _ => .inr rfl
theorem minImm (f : MI) : Statement (.minImm f) := fun _ => .inr rfl
theorem maxImm (f : MI) : Statement (.maxImm f) := fun _ => .inr rfl
theorem cmpeqImm (f : MI) : Statement (.cmpeqImm f) := fun _ => .inr rfl
theorem cmpneImm (f : MI) : Statement (.cmpneImm f) := fun _ => .inr rfl
theorem cmpltImm (f : MI) : Statement (.cmpltImm f) := fun _ => .inr rfl
theorem cmpleImm (f : MI) : Statement (.cmpleImm f) := fun _ => .inr rfl
theorem pset (f : MI) : Statement (.pset f) := fun h => .inr (by simp [Instr.wf] at h; simp [Instr.form, Form.toInstr, miRow, h])
theorem psetHi (f : MI) : Statement (.psetHi f) := fun h => .inr (by simp [Instr.wf] at h; simp [Instr.form, Form.toInstr, miRow, h])
theorem padd (f : M3) : Statement (.padd f) := fun _ => .inr rfl
theorem paddImm (f : MI) : Statement (.paddImm f) := fun _ => .inr rfl
theorem pmod (f : M3) : Statement (.pmod f) := fun _ => .inr rfl
theorem fadd (f : M3) : Statement (.fadd f) := fun _ => .inr rfl
theorem fsub (f : M3) : Statement (.fsub f) := fun _ => .inr rfl
theorem fmul (f : M3) : Statement (.fmul f) := fun _ => .inr rfl
theorem fma (f : M3) : Statement (.fma f) := fun _ => .inr rfl
theorem fnma (f : M3) : Statement (.fnma f) := fun _ => .inr rfl
theorem fdiv (f : M3) : Statement (.fdiv f) := fun _ => .inr rfl
theorem fsqrt (f : M3) : Statement (.fsqrt f) := fun _ => .inr rfl
theorem frcp (f : M3) : Statement (.frcp f) := fun _ => .inr rfl
theorem frsq (f : M3) : Statement (.frsq f) := fun _ => .inr rfl
theorem fmin (f : M3) : Statement (.fmin f) := fun _ => .inr rfl
theorem fmax (f : M3) : Statement (.fmax f) := fun _ => .inr rfl
theorem fabs (f : M3) : Statement (.fabs f) := fun _ => .inr rfl
theorem fneg (f : M3) : Statement (.fneg f) := fun _ => .inr rfl
theorem fcmp (f : M3) : Statement (.fcmp f) := fun _ => .inr rfl
theorem fclass (f : M3) : Statement (.fclass f) := fun _ => .inr rfl
theorem frndi (f : M3) : Statement (.frndi f) := fun _ => .inr rfl
theorem fexp2f (f : M3) : Statement (.fexp2f f) := fun _ => .inr rfl
theorem flog2f (f : M3) : Statement (.flog2f f) := fun _ => .inr rfl
theorem fscale (f : M3) : Statement (.fscale f) := fun _ => .inr rfl
theorem fgetexp (f : M3) : Statement (.fgetexp f) := fun _ => .inr rfl
theorem fcvt (f : M3) : Statement (.fcvt f) := fun _ => .inr rfl
theorem fsum (f : M3) : Statement (.fsum f) := fun _ => .inr rfl
theorem fdot (f : M3) : Statement (.fdot f) := fun _ => .inr rfl
theorem faddImm (f : MI) : Statement (.faddImm f) := fun _ => .inr rfl
theorem fmulImm (f : MI) : Statement (.fmulImm f) := fun _ => .inr rfl
theorem fsubImm (f : MI) : Statement (.fsubImm f) := fun _ => .inr rfl
theorem vcmp (f : M3) : Statement (.vcmp f) := fun _ => .inr rfl
theorem vset (f : M3) : Statement (.vset f) := fun _ => .inr rfl
theorem vclr (f : M3) : Statement (.vclr f) := fun _ => .inr rfl
theorem vcnt (f : M3) : Statement (.vcnt f) := fun _ => .inr rfl
theorem shuf (f : M3) : Statement (.shuf f) := fun _ => .inr rfl
theorem bcast (f : M3) : Statement (.bcast f) := fun _ => .inr rfl
theorem pack (f : M3) : Statement (.pack f) := fun _ => .inr rfl
theorem unpk (f : M3) : Statement (.unpk f) := fun _ => .inr rfl
theorem lgath (f : M3) : Statement (.lgath f) := fun _ => .inr rfl
theorem lscat (f : M3) : Statement (.lscat f) := fun _ => .inr rfl
theorem fmtx (f : M3) : Statement (.fmtx f) := fun h => .inr (by simp [Instr.wf] at h; simp [Instr.form, Form.toInstr, m3Row, h])
theorem ld (f : M3) : Statement (.ld f) := fun _ => .inr rfl
theorem st (f : M3) : Statement (.st f) := fun _ => .inr rfl
theorem ldef (f : M3) : Statement (.ldef f) := fun _ => .inr rfl
theorem pf (f : M3) : Statement (.pf f) := fun _ => .inr rfl
theorem pin (f : M3) : Statement (.pin f) := fun _ => .inr rfl
theorem unpin (f : M3) : Statement (.unpin f) := fun _ => .inr rfl
theorem phase (f : M3) : Statement (.phase f) := fun _ => .inr rfl
theorem fence (f : M3) : Statement (.fence f) := fun _ => .inr rfl
theorem amo (f : M3) : Statement (.amo f) := fun _ => .inr rfl
theorem llog (f : M3) : Statement (.llog f) := fun _ => .inr rfl
theorem barrInit (f : M3) : Statement (.barrInit f) := fun h => .inr (by simp [Instr.wf] at h; simp [Instr.form, Form.toInstr, m3Row, h])
theorem barrWait (f : M3) : Statement (.barrWait f) := fun h => .inr (by simp [Instr.wf] at h; simp [Instr.form, Form.toInstr, m3Row, h])
theorem barrExit (f : M3) : Statement (.barrExit f) := fun h => .inr (by simp [Instr.wf] at h; simp [Instr.form, Form.toInstr, m3Row, h])
theorem ctrset (f : M3) : Statement (.ctrset f) := fun _ => .inr rfl
theorem ctrdec (f : M3) : Statement (.ctrdec f) := fun _ => .inr rfl
theorem ctrwait (f : M3) : Statement (.ctrwait f) := fun _ => .inr rfl
theorem l1cln (f : M3) : Statement (.l1cln f) := fun _ => .inr rfl
theorem l1inv (f : M3) : Statement (.l1inv f) := fun h => .inr (by simp [Instr.wf] at h; simp [Instr.form, Form.toInstr, m3Row, h])
theorem l1invAll (f : M3) : Statement (.l1invAll f) := fun h => .inr (by simp [Instr.wf] at h; simp [Instr.form, Form.toInstr, m3Row, h])
theorem send (f : M3) : Statement (.send f) := fun _ => .inr rfl
theorem sendr (f : M3) : Statement (.sendr f) := fun _ => .inr rfl
theorem migr (f : BR) : Statement (.migr f) := fun _ => .inr rfl
theorem hend (f : BR) : Statement (.hend f) := fun _ => .inr rfl
theorem qcnt (f : M3) : Statement (.qcnt f) := fun _ => .inr rfl
theorem htset (f : M3) : Statement (.htset f) := fun _ => .inr rfl
theorem waitq (f : M3) : Statement (.waitq f) := fun _ => .inr rfl
theorem ecopy (f : EN) : Statement (.ecopy f) := fun _ => .inr rfl
theorem mma (f : EN) : Statement (.mma f) := fun _ => .inr rfl
theorem mmaz (f : EN) : Statement (.mmaz f) := fun _ => .inr rfl
theorem aload (f : EN) : Statement (.aload f) := fun _ => .inr rfl
theorem astore (f : EN) : Statement (.astore f) := fun _ => .inr rfl
theorem aclr (f : EN) : Statement (.aclr f) := fun _ => .inr rfl
theorem mxwait (f : M3) : Statement (.mxwait f) := fun _ => .inr rfl
theorem ecoll (f : EN) : Statement (.ecoll f) := fun _ => .inr rfl
theorem clgrp (f : M3) : Statement (.clgrp f) := fun _ => .inr rfl
theorem clfree (f : M3) : Statement (.clfree f) := fun _ => .inr rfl
theorem publ (f : EN) : Statement (.publ f) := fun _ => .inr rfl
theorem wstart (f : EN) : Statement (.wstart f) := fun _ => .inr rfl
theorem wstop (f : M3) : Statement (.wstop f) := fun _ => .inr rfl
theorem wresume (f : EN) : Statement (.wresume f) := fun _ => .inr rfl
theorem wstat (f : M3) : Statement (.wstat f) := fun _ => .inr rfl
theorem br (f : BR) : Statement (.br f) := fun _ => .inr rfl
theorem bz (f : BR) : Statement (.bz f) := fun _ => .inr rfl
theorem bnz (f : BR) : Statement (.bnz f) := fun _ => .inr rfl
theorem bv (f : BR) : Statement (.bv f) := fun _ => .inr rfl
theorem bnv (f : BR) : Statement (.bnv f) := fun _ => .inr rfl
theorem bqe (f : BR) : Statement (.bqe f) := fun _ => .inr rfl
theorem bqne (f : BR) : Statement (.bqne f) := fun _ => .inr rfl
theorem loop (f : BR) : Statement (.loop f) := fun _ => .inr rfl
theorem call (f : BR) : Statement (.call f) := fun _ => .inr rfl
theorem calli (f : BR) : Statement (.calli f) := fun _ => .inr rfl
theorem ret (f : BR) : Statement (.ret f) := fun _ => .inr rfl
theorem gang (f : M3) : Statement (.gang f) := fun _ => .inr rfl
theorem ungang (f : M3) : Statement (.ungang f) := fun _ => .inr rfl
theorem rejoin (f : M3) : Statement (.rejoin f) := fun _ => .inr rfl
theorem yield (f : M3) : Statement (.yield f) := fun _ => .inr rfl
theorem srd (f : SY) : Statement (.srd f) := fun _ => .inr rfl
theorem swr (f : SY) : Statement (.swr f) := fun h => .inr (by simp [Instr.wf, swrOwnRow] at h; simp [Instr.form, Form.toInstr, syRow, h])
theorem trap (f : M3) : Statement (.trap f) := fun h => .inr (by simp [Instr.wf] at h; simp [Instr.form, Form.toInstr, m3Row, h])
theorem eret (f : M3) : Statement (.eret f) := fun h => .inr (by simp [Instr.wf] at h; simp [Instr.form, Form.toInstr, m3Row, h])
theorem tlbinvPage (f : M3) : Statement (.tlbinvPage f) := fun h => .inr (by simp [Instr.wf] at h; simp [Instr.form, Form.toInstr, m3Row, h])
theorem tlbinvRange (f : M3) : Statement (.tlbinvRange f) := fun h => .inr (by simp [Instr.wf] at h; simp [Instr.form, Form.toInstr, m3Row, h])
theorem tlbinvAsid (f : M3) : Statement (.tlbinvAsid f) := fun h => .inr (by simp [Instr.wf] at h; simp [Instr.form, Form.toInstr, m3Row, h])
theorem xlat (f : M3) : Statement (.xlat f) := fun _ => .inr rfl
theorem scrubPage (f : M3) : Statement (.scrubPage f) := fun h => .inr (by simp [Instr.wf] at h; simp [Instr.form, Form.toInstr, m3Row, h])
theorem scrubLine (f : M3) : Statement (.scrubLine f) := fun h => .inr (by simp [Instr.wf] at h; simp [Instr.form, Form.toInstr, m3Row, h])
theorem pwrbCap (f : M3) : Statement (.pwrbCap f) := fun h => .inr (by simp [Instr.wf] at h; simp [Instr.form, Form.toInstr, m3Row, h])
theorem pwrbGate (f : M3) : Statement (.pwrbGate f) := fun h => .inr (by simp [Instr.wf] at h; simp [Instr.form, Form.toInstr, m3Row, h])
theorem brk (f : M3) : Statement (.brk f) := fun h => .inr (by simp [Instr.wf] at h; simp [Instr.form, Form.toInstr, m3Row, h])
theorem sigchk (sp : Bool) (s : BitVec 16) : Statement (.sigchk sp s) := fun _ => .inr rfl
theorem lineFetch (g : Nat) : Statement (.lineFetch g) := fun _ => .inl rfl
theorem lineRefetch (g : Nat) : Statement (.lineRefetch g) := fun _ => .inl rfl
theorem writeSpcfg (f : SY) : Statement (.writeSpcfg f) := fun h => .inr (by simp [Instr.wf] at h; simp [Instr.form, Form.toInstr, syRow, h])
theorem writeSppwr (f : SY) : Statement (.writeSppwr f) := fun h => .inr (by simp [Instr.wf] at h; simp [Instr.form, Form.toInstr, syRow, h])
theorem bankOffEffective (g bank : Nat) : Statement (.bankOffEffective g bank) := fun _ => .inl rfl
theorem bankWake (g bank : Nat) : Statement (.bankWake g bank) := fun _ => .inl rfl
theorem writeSrseed (f : SY) : Statement (.writeSrseed f) := fun h => .inr (by simp [Instr.wf] at h; simp [Instr.form, Form.toInstr, syRow, h])
theorem writeMxrpHlt (f : SY) : Statement (.writeMxrpHlt f) := fun h => .inr (by simp [Instr.wf] at h; simp [Instr.form, Form.toInstr, syRow, h])
theorem registerRcb (g rid : Nat) : Statement (.registerRcb g rid) := fun _ => .inl rfl
theorem updateRcb (g : Nat) : Statement (.updateRcb g) := fun _ => .inl rfl
theorem unregisterRcb (g : Nat) : Statement (.unregisterRcb g) := fun _ => .inl rfl
theorem teamCall (g : Nat) (grant : W64) (binds : List MxGrant) : Statement (.teamCall g grant binds) := fun _ => .inl rfl
theorem releaseCall (g : Nat) : Statement (.releaseCall g) := fun _ => .inl rfl
theorem wstopCall (g : Nat) : Statement (.wstopCall g) := fun _ => .inl rfl
theorem ctxrd (g : Nat) : Statement (.ctxrd g) := fun _ => .inl rfl
theorem glcnt (g : Nat) : Statement (.glcnt g) := fun _ => .inl rfl
theorem migrateCall (g dest : Nat) (cores : List Nat) : Statement (.migrateCall g dest cores) := fun _ => .inl rfl
theorem imggo (port : Nat) (sites : List Nat) (readOk : Bool) (askSvn : W32) : Statement (.imggo port sites readOk askSvn) := fun _ => .inl rfl
theorem asnew (port asid : Nat) : Statement (.asnew port asid) := fun _ => .inl rfl
theorem askill (port : Nat) : Statement (.askill port) := fun _ => .inl rfl
theorem grantCmd (port : Nat) : Statement (.grantCmd port) := fun _ => .inl rfl
theorem revokeCmd (port : Nat) : Statement (.revokeCmd port) := fun _ => .inl rfl
theorem rootreg (port rid : Nat) : Statement (.rootreg port rid) := fun _ => .inl rfl
theorem winbind (port : Nat) : Statement (.winbind port) := fun _ => .inl rfl
theorem apbind (port : Nat) : Statement (.apbind port) := fun _ => .inl rfl
theorem attestCmd (port : Nat) : Statement (.attestCmd port) := fun _ => .inl rfl
theorem almpolCmd (port : Nat) : Statement (.almpolCmd port) := fun _ => .inl rfl
theorem debugCmd (port : Nat) : Statement (.debugCmd port) := fun _ => .inl rfl
theorem resumeBrk (port : Nat) : Statement (.resumeBrk port) := fun _ => .inl rfl
theorem causeOf (port : Nat) : Statement (.causeOf port) := fun _ => .inl rfl
theorem managementPageWrite (port off : Nat) (bytes : List Byte) : Statement (.managementPageWrite port off bytes) := fun _ => .inl rfl
theorem ringWrite (w : Nat) : Statement (.ringWrite w) := fun _ => .inl rfl
theorem apertureRead (ap off len : Nat) : Statement (.apertureRead ap off len) := fun _ => .inl rfl
theorem apertureWrite (ap off : Nat) (bytes : List Byte) : Statement (.apertureWrite ap off bytes) := fun _ => .inl rfl
theorem hostInvalidationRequest (port pasid lo hi : Nat) : Statement (.hostInvalidationRequest port pasid lo hi) := fun _ => .inl rfl
theorem powerGood : Statement .powerGood := fun _ => .inl rfl
theorem clockLock (n : Nat) (holds : Option (List Nat)) : Statement (.clockLock n holds) := fun _ => .inl rfl
theorem selftestDone (n result : Nat) : Statement (.selftestDone n result) := fun _ => .inl rfl
theorem linksTrained (n : Nat) (untrained : List Nat) : Statement (.linksTrained n untrained) := fun _ => .inl rfl
theorem stateLimitExpiry (n : Nat) : Statement (.stateLimitExpiry n) := fun _ => .inl rfl
theorem pealPass2 : Statement .pealPass2 := fun _ => .inl rfl
theorem configTransfer (n : Nat) (got : Option (List Byte)) : Statement (.configTransfer n got) := fun _ => .inl rfl
theorem siteFailureInService (n : Nat) (isolated : Bool) : Statement (.siteFailureInService n isolated) := fun _ => .inl rfl
theorem sensorTrip (sensor : Nat) : Statement (.sensorTrip sensor) := fun _ => .inl rfl
theorem alarmEvent : Statement .alarmEvent := fun _ => .inl rfl
theorem eraseComplete : Statement .eraseComplete := fun _ => .inl rfl
theorem telemetryFrame (bytes : List Byte) : Statement (.telemetryFrame bytes) := fun _ => .inl rfl
theorem telemetryStale : Statement .telemetryStale := fun _ => .inl rfl
theorem staleFallback : Statement .staleFallback := fun _ => .inl rfl
theorem restoreHoldExpiry (cls : Nat) : Statement (.restoreHoldExpiry cls) := fun _ => .inl rfl
theorem shedNotice (n : Nat) : Statement (.shedNotice n) := fun _ => .inl rfl
theorem shedDeadline (g : Nat) : Statement (.shedDeadline g) := fun _ => .inl rfl
theorem budgetPeriod (seen : Measured) (clocks : List (Nat × Nat × Nat)) (rates : List (Nat × Nat)) (hot : List (Nat × BitVec 6)) : Statement (.budgetPeriod seen clocks rates hot) := fun _ => .inl rfl
theorem clockHop (g : Nat) : Statement (.clockHop g) := fun _ => .inl rfl
theorem droopStart (n : Nat) : Statement (.droopStart n) := fun _ => .inl rfl
theorem droopClear (n : Nat) : Statement (.droopClear n) := fun _ => .inl rfl
theorem chargeBucketRefill (m : Nat) : Statement (.chargeBucketRefill m) := fun _ => .inl rfl
theorem rampWindow (m : Nat) : Statement (.rampWindow m) := fun _ => .inl rfl
theorem holdExpiry (g : Nat) : Statement (.holdExpiry g) := fun _ => .inl rfl
theorem wakeRequest (g : Nat) : Statement (.wakeRequest g) := fun _ => .inl rfl
theorem inrushWindow (m : Nat) : Statement (.inrushWindow m) := fun _ => .inl rfl
theorem wakeComplete (g : Nat) : Statement (.wakeComplete g) := fun _ => .inl rfl
theorem launchSkewExpiry (n cl : Nat) : Statement (.launchSkewExpiry n cl) := fun _ => .inl rfl
theorem launchTake (rid : Nat) : Statement (.launchTake rid) := fun _ => .inl rfl
theorem launchDeal (n i : Nat) : Statement (.launchDeal n i) := fun _ => .inl rfl
theorem quiescenceSweep : Statement .quiescenceSweep := fun _ => .inl rfl
theorem queueAgeing (g rec : Nat) : Statement (.queueAgeing g rec) := fun _ => .inl rfl
theorem dispatch (g : Nat) : Statement (.dispatch g) := fun _ => .inl rfl
theorem activationStop (g : Nat) (ask : Bool) : Statement (.activationStop g ask) := fun _ => .inl rfl
theorem contextRestore (g rec : Nat) : Statement (.contextRestore g rec) := fun _ => .inl rfl
theorem kill (n asid : Nat) : Statement (.kill n asid) := fun _ => .inl rfl
theorem asyncFault (g : Nat) : Statement (.asyncFault g) := fun _ => .inl rfl
theorem loadReturn (g i : Nat) : Statement (.loadReturn g i) := fun _ => .inl rfl
theorem immediatePerform (g i : Nat) : Statement (.immediatePerform g i) := fun _ => .inl rfl
theorem clgrpResult (g : Nat) : Statement (.clgrpResult g) := fun _ => .inl rfl
theorem wstatReply (g : Nat) : Statement (.wstatReply g) := fun _ => .inl rfl
theorem pageWalk (n asid : Nat) (va : W64) : Statement (.pageWalk n asid va) := fun _ => .inl rfl
theorem tlbinvBroadcast (n : Nat) : Statement (.tlbinvBroadcast n) := fun _ => .inl rfl
theorem boundaryStart (g : Nat) : Statement (.boundaryStart g) := fun _ => .inl rfl
theorem phaseBarrierComplete (phg : Nat) : Statement (.phaseBarrierComplete phg) := fun _ => .inl rfl
theorem packetSend (n i : Nat) : Statement (.packetSend n i) := fun _ => .inl rfl
theorem headerArrival (i : Nat) : Statement (.headerArrival i) := fun _ => .inl rfl
theorem packetAccept (i : Nat) (hcrcOk pcrcOk : Bool) : Statement (.packetAccept i hcrcOk pcrcOk) := fun _ => .inl rfl
theorem gapNotice (n : Nat) : Statement (.gapNotice n) := fun _ => .inl rfl
theorem sideFlitArrival (i : Nat) : Statement (.sideFlitArrival i) := fun _ => .inl rfl
theorem ackArrive (n : Nat) : Statement (.ackArrive n) := fun _ => .inl rfl
theorem nackArrive (n : Nat) : Statement (.nackArrive n) := fun _ => .inl rfl
theorem resendDelayExpiry (n i : Nat) : Statement (.resendDelayExpiry n i) := fun _ => .inl rfl
theorem ackTimeout (n i : Nat) : Statement (.ackTimeout n i) := fun _ => .inl rfl
theorem retentionCopyError (n i : Nat) : Statement (.retentionCopyError n i) := fun _ => .inl rfl
theorem glPacketClose (l i : Nat) : Statement (.glPacketClose l i) := fun _ => .inl rfl
theorem glPacketReceive (l : Nat) (p : GlPacket) (crcOk : Bool) : Statement (.glPacketReceive l p crcOk) := fun _ => .inl rfl
theorem remoteCopyDone (l i : Nat) : Statement (.remoteCopyDone l i) := fun _ => .inl rfl
theorem glAck (l : Nat) (heard : GlHeard) : Statement (.glAck l heard) := fun _ => .inl rfl
theorem glNack (l : Nat) (lseq : W32) : Statement (.glNack l lseq) := fun _ => .inl rfl
theorem externalFrame (l : Nat) (stream asid : W16) (fseq : W32) (cmp : Bool) (payload : List Byte) : Statement (.externalFrame l stream asid fseq cmp payload) := fun _ => .inl rfl
theorem laneFailure (l : Nat) (near far : W16) (cut : Bool) : Statement (.laneFailure l near far cut) := fun _ => .inl rfl
theorem linkTrainRetry (l : Nat) : Statement (.linkTrainRetry l) := fun _ => .inl rfl
theorem linkLost (l : Nat) : Statement (.linkLost l) := fun _ => .inl rfl
theorem mxeCommandStart (m : Nat) : Statement (.mxeCommandStart m) := fun _ => .inl rfl
theorem mxeChunkApply (m : Nat) : Statement (.mxeChunkApply m) := fun _ => .inl rfl
theorem mxeComplete (m : Nat) : Statement (.mxeComplete m) := fun _ => .inl rfl
theorem mxeHalt (m : Nat) : Statement (.mxeHalt m) := fun _ => .inl rfl
theorem mxeSlotBoundary (m : Nat) : Statement (.mxeSlotBoundary m) := fun _ => .inl rfl
theorem streamStart (m : Nat) : Statement (.streamStart m) := fun _ => .inl rfl
theorem streamStep (m : Nat) : Statement (.streamStep m) := fun _ => .inl rfl
theorem streamWaitPoll (m : Nat) : Statement (.streamWaitPoll m) := fun _ => .inl rfl
theorem wssChunkDecode (m : Nat) : Statement (.wssChunkDecode m) := fun _ => .inl rfl
theorem streamHalt (m : Nat) : Statement (.streamHalt m) := fun _ => .inl rfl
theorem copyStart (n inbox : Nat) : Statement (.copyStart n inbox) := fun _ => .inl rfl
theorem copyChunkDecode (n i : Nat) : Statement (.copyChunkDecode n i) := fun _ => .inl rfl
theorem copyComplete (n i : Nat) : Statement (.copyComplete n i) := fun _ => .inl rfl
theorem copyFault (n i : Nat) : Statement (.copyFault n i) := fun _ => .inl rfl
theorem collectiveCombine (id : Nat) (n : Nat) : Statement (.collectiveCombine id n) := fun _ => .inl rfl
theorem collectiveComplete (n i : Nat) : Statement (.collectiveComplete n i) := fun _ => .inl rfl
theorem groupDrained (id : Nat) : Statement (.groupDrained id) := fun _ => .inl rfl
theorem resetAll : Statement .resetAll := fun _ => .inl rfl
theorem waitqTimeout (g : Nat) : Statement (.waitqTimeout g) := fun _ => .inl rfl
theorem glLinkTrained (l : Nat) (ended : GlTraining) : Statement (.glLinkTrained l ended) := fun _ => .inl rfl
theorem hostPortLaneFault (port width : Nat) : Statement (.hostPortLaneFault port width) := fun _ => .inl rfl

end Sys2Proof.Laws.Codec
end

