-- ==== Sys2Proof/Tests/Slice0.lean ====
section
/-! SUPPORT. The model's own tests: ill-formed terms refused, words decoded, and for each statement with hypotheses a
concrete state and operands that meet them. Expected values come from the spec or from the statements' own premises. -/

namespace Sys2Proof.Tests
set_option Elab.async false
open Sys2Proof Sys2Proof.Machine Sys2Proof.Machine.Num Sys2Proof.Spec

/-- The instruction as the next one of the core in hand. -/
def placed (i : Instr) (s : State) : State := s.withFetchWord 96 ((encode i).getD 0).toNat

/-- M3 fields in their plainest form. -/
def m3 (ty : Ty) (ln : BitVec 4) (fn : BitVec 10) (od oa ob oc : Operand) : M3 :=
  ⟨false, ty, ln, .propagate, .fm, fn, od, oa, ob, oc⟩
def mi (ty : Ty) (ln : BitVec 4) (fn : BitVec 10) (od oa : Operand) (imm : W32) : MI :=
  ⟨false, ty, ln, .propagate, .fm, fn, od, oa, imm⟩

/-- Pn, and the word Pn names. -/
abbrev rg (n : BitVec 3) : Operand := .reg n 0
abbrev at0 (n : BitVec 3) : Operand := .mem n 0

/-- The activation of the bench: region 1, key 5, logical core 3. -/
def labAct : Act := { placedAct with rid := 1, key := 5, lcn := 3 }

/-- Three large pages of address space 1: PHASED at 0, IMMEDIATE and executable at 2 MiB, homed at an L2 slice at 4 MiB. -/
def labTlb : List TlbEntry := [⟨1, 0, 0x200000, 0x40000207, false⟩, ⟨1, 1, 0x200000, 0x4020022F, false⟩,
  ⟨1, 2, 0x200000, 0x0100000040400227, false⟩]

/-- A core with an activation, a full set of pointers, two queues and a few scratchpad words. -/
def labCore : Core := { Core.reset with
  act := some labAct, brec := Core.reset.brec.set! 0 (mkRec false 3 1 1 1), tlb := labTlb
  p := #v[0x400, 0x100, 0x200, 0x300, 0x1000, 0x201000, mkTarget 0 50 1 false false 1 0 1, 0x505]
  q := Core.reset.q.set! 0 [payloadEntry] |>.set! 4 [payloadEntry]
  spad := (List.range 512).map fun k => (k, (⟨BitVec.ofNat 32 (k + 1), true⟩ : Lane)) }
where payloadEntry : QEntry := Vector.replicate 16 ⟨7, true⟩

/-- A registered region of address space 1 with a handler table of eight entries at 2 MiB. -/
def labRegion : Region where
  rcb := 0x210000
  raw := []
  asid := 1
  parent := 0
  cores := 16
  mxs := 0
  pwr := 0
  mem := 0
  spwn := 0
  prio := 3
  shc := 0
  fdom := 0
  htlen := 8
  fhix := 7
  htab := 0x200000
  lq := 0
  stray := 0
  phg := 1
  ovfr := 0
  ovfa := 0
  shrpt := false
  nr := []
  depth := 1

/-- Entries 1, for users, and 7, for supervisors, of the handler table. -/
def labMem : List Host.Cell :=
  [(0x40200017, 0x80), (0x40200019, 8), (0x4020001A, 0x20), (0x40200077, 0xC0), (0x40200079, 4), (0x4020007A, 0x20)]

/-- The bench: chiplet 50 READY with a team of region 1 on its cores, core 3200 running. -/
def lab : State := { State.reset with
  cores := [(3200, labCore)]
  mem := labMem
  spaces := [(1, ⟨0, 0x10000, 0, false, [], 0, 0, false⟩)]
  regions := [(1, labRegion)]
  chips := [(50, { Chip.reset with peal := 6, nsel := [(0, 0x8000), (50, 0x8000)], tlb := labTlb, teams := [(1, ⟨0xFFFF, 0, 0, 0⟩)]
                                   mxe := Vector.replicate 4 { Mxe.reset with
      rid := Vector.replicate 16 1, bind := Mxe.reset.bind.set! 0 0x800F0001 } })] }

/-- The bench with its core, its activation or its chiplet changed. -/
def labC (f : Core → Core) : State := lab.modCore 3200 f
def labA (f : Act → Act) : State := labC fun c => { c with act := some (f labAct) }
def labS (f : Chip → Chip) : State := lab.modChip 50 f

/-- The value of a computation that gives one. -/
def okOr {ε α : Type} (d : α) : Except ε α → α
  | .ok a => a
  | .error _ => d

/-! ### Compute instructions -/

/-- The premises of ElementwiseCompletes at a state. -/
def elementReady (s : State) (i : Instr) : Bool :=
  match laneRow i with
  | none => false
  | some L =>
    let c := s.core s.self
    let t := c.ty L.f.ty
    let fp := fpOf L.f.ln
    let by4 := 4 * lanesFor t (elemsFor L.f.od t L.f.ln)
    s.canIssue i L.f.sp (L.f.ty == .px) [L.f.od, L.f.oa, L.f.ob, L.f.oc] && L.legal t &&
      isOk (c.checkLocals fp ((L.f.od, by4, 4) :: L.srcs.map fun o => (o, by4, 4))) &&
      isOk (c.readAll (s.canFill s.self) fp t (elemsFor L.f.od t L.f.ln) L.srcs) && s.hasRoom s.self L.f.od

theorem witness_ElementwiseCompletes_int : ([.add, .sub, .mul, .mulh, .div, .rem, .adds, .subs, .minI, .maxI, .andI,
    .orI, .xorI, .shl, .shr, .sra, .rot, .cmpeq, .cmpne, .cmplt, .cmple] : List (M3 → Instr)).all
      (fun i => elementReady lab (i (m3 .i32 3 0 .acc (at0 1) (.inc 2 1) .zero))) = true ∧
    ([.mac, .sel] : List (M3 → Instr)).all (fun i => elementReady lab (i (m3 .u64 1 0 .acc .acc (at0 2) (.imm 3)))) = true ∧
    ([.neg, .absI, .notI, .clz, .popc, .mov] : List (M3 → Instr)).all
      (fun i => elementReady lab (i (m3 .i8 0 0 (rg 3) (.queue 4) .zero .zero))) = true := by decide +kernel

theorem witness_ElementwiseCompletes_float : ([.fadd, .fsub, .fmul, .fdiv, .fmin, .fmax, .fcmp, .fscale] :
    List (M3 → Instr)).all (fun i => elementReady lab (i (m3 .f32 3 0 .acc (at0 1) (.inc 2 1) .zero))) = true ∧
    ([.fma, .fnma] : List (M3 → Instr)).all (fun i => elementReady lab (i (m3 .bf16 7 0 (.queue 1) .acc (at0 2) .acc))) = true ∧
    ([.fsqrt, .frcp, .frsq, .fabs, .fneg, .fclass, .frndi, .fexp2f, .flog2f, .fgetexp] : List (M3 → Instr)).all
      (fun i => elementReady lab (i (m3 .f32 0 0 .acc (rg 3) .zero .zero))) = true := by decide +kernel

theorem witness_ElementwiseCompletes_imm : ([.addImm, .subImm, .mulImm, .andImm, .orImm, .xorImm, .minImm, .maxImm, .cmpeqImm,
    .cmpneImm, .cmpltImm, .cmpleImm, .ldi] : List (MI → Instr)).all
      (fun i => elementReady lab (i (mi .i16 15 0 .acc (if i (mi .i8 0 0 .acc .acc 0) = .ldi (mi .i8 0 0 .acc .acc 0) then .zero
        else at0 1) 0xFFFF8000))) = true ∧
    ([.faddImm, .fmulImm, .fsubImm] : List (MI → Instr)).all
      (fun i => elementReady lab (i (mi .f16 7 0 .acc (at0 1) 0x3F800000))) = true := by decide +kernel

/-- Operands for each clause, named after their instruction. -/
abbrev ps : MI := mi .i64 1 0 (rg 3) .zero 0x80000000
abbrev psh : MI := mi .i64 1 1 (rg 3) .zero 0x80000000
abbrev pad : M3 := m3 .i64 1 3 (rg 3) (rg 1) (rg 2) .zero
abbrev pacc : M3 := m3 .i64 1 3 (rg 3) (rg 1) .acc .zero
abbrev pai : MI := mi .i64 1 0 (rg 3) (rg 1) 0xFFFFFFFF
abbrev pmo : M3 := m3 .i64 1 0 (rg 3) (rg 1) (.imm 8191) (.imm 63)
abbrev fmx : M3 := ⟨false, .bf16, 0, .propagate, .fm, 0x1A, .zero, .zero, .zero, .zero⟩

theorem witness_PointersAndPrefixComplete : lab.canIssue .nop false false [] = true ∧
    ptrReady lab (.pset ps) (miAsM3 ps) [ps.od] ∧ ptrReady lab (.psetHi psh) (miAsM3 psh) [psh.od] ∧
    (ptrReady lab (.padd pad) pad [pad.od, pad.oa, pad.ob] ∧ pad.fn.toNat ≤ 3) ∧
    ptrReady lab (.padd pacc) pacc [pacc.od, pacc.oa, pacc.ob] ∧
    ptrReady lab (.paddImm pai) (miAsM3 pai) [pai.od, pai.oa] ∧
    ptrReady lab (.pmod pmo) pmo [pmo.od, pmo.oa, pmo.ob] ∧
    (lab.canIssue (.fmtx fmx) false false [] = true ∧ fmtxLegal fmx = true) := by decide +kernel

abbrev dot : M3 := m3 .i32 0 0 .acc (at0 1) .acc (at0 2)
abbrev tg : M3 := m3 .u32 3 0 (.inc 1 1) .acc .zero .zero
abbrev vc : M3 := m3 .i16 1 5 .acc (at0 1) (.imm 3) .zero
abbrev vs : M3 := m3 .u32 15 0 .acc .zero .zero .zero
abbrev vsm : M3 := m3 .u32 2 0 (.inc 1 (-1)) .zero .zero .zero
abbrev vn : M3 := m3 .u32 15 0 (rg 2) (at0 1) .zero .zero
abbrev shu : M3 := m3 .u8 0 0 .acc (at0 1) (at0 2) .zero
abbrev bca : M3 := m3 .u32 3 0 (.queue 1) (at0 1) (.imm 8190) .zero
abbrev pk : M3 := m3 .u8 0 1 .acc (at0 1) (at0 2) .zero
abbrev upk : M3 := m3 .i32 3 1 .acc (at0 1) .zero .zero
abbrev lga : M3 := m3 .u32 1 0 .acc (at0 1) (at0 2) .zero
abbrev lsc : M3 := m3 .u32 1 0 (at0 1) .acc (at0 2) .zero

/-- The reads of the sources, from the running core, both in turn. -/
def reads2 (fp : Nat) (a b : Operand) (t u : Ty) (n m : Nat) : Bool := isOk do
  let (c1, _, _) ← labCore.readElems (lab.canFill 3200) fp a t n
  c1.readElems (lab.canFill 3200) fp b u m

theorem witness_LaneInstructionsComplete :
    (m3Ready lab (.dot4 dot) dot (fun t => legalM3 dot t (t == .i32 || t == .u32) false (decide (dot.fn.toNat ≤ 2)) 3 false) ∧
      labCore.checkLocals 4 [(dot.od, 4, 4), (dot.oa, 4, 4), (dot.ob, 4, 4), (dot.oc, 4, 4)] = .ok () ∧ isOk (do
        let (c1, _) ← labCore.dot4Lanes (lab.canFill 3200) 4 dot.oa 1
        let (c2, _) ← c1.dot4Lanes (lab.canFill 3200) 4 dot.ob 1
        c2.readElems (lab.canFill 3200) 4 dot.oc .i32 1) = true) ∧
    (m3Ready lab (.tags tg) tg (fun t => legalM3 tg t (t == .u32) false (tg.fn == 0) 1 false && tg.vp == .propagate &&
      tg.oa == .acc) ∧ labCore.checkLocals 16 [(tg.od, 16, 4)] = .ok ()) ∧
    (m3Ready lab (.vcmp vc) vc (fun t => legalM3 vc t (isInt t || isVF t) false (decide (vc.fn.toNat ≤ 5)) 2 false) ∧
      labCore.checkLocals 8 [(vc.od, 8, 4), (vc.oa, 8, 4), (vc.ob, 8, 4)] = .ok () ∧ reads2 8 vc.oa vc.ob .i16 .i16 4 4 = true) ∧
    (∀ f ∈ [vs, vsm], (m3Ready lab (.vset f) f (vsetLegal f) ∧ m3Ready lab (.vclr f) f (vsetLegal f)) ∧
      labCore.checkLocals (fpOf f.ln) [(f.od, fpOf f.ln, 4)] = .ok () ∧ soundAt labCore (fpOf f.ln) f.od (fpOf f.ln)) ∧
    (m3Ready lab (.vcnt vn) vn (fun t => legalM3 vn t (t == .u32) false (vn.fn == 0) 1 true && vn.vp == .propagate) ∧
      labCore.checkLocals 64 [(vn.od, 4, 4), (vn.oa, 64, 4)] = .ok () ∧
      isOk (labCore.readLanes (lab.canFill 3200) 64 vn.oa 16) = true) ∧
    (m3Ready lab (.shuf shu) shu (fun t => legalM3 shu t (isBits t) false (shu.fn == 0) 2 false) ∧
      labCore.checkLocals 4 [(shu.od, 4, 4), (shu.oa, 4, 4), (shu.ob, 4, 4)] = .ok () ∧ reads2 4 shu.oa shu.ob .u8 .u8 4 4 = true) ∧
    (m3Ready lab (.bcast bca) bca (fun t => legalM3 bca t (isBits t) false (bca.fn == 0) 2 false &&
      (isRegOp bca.ob || isImmOp bca.ob)) ∧ labCore.checkLocals 16 [(bca.od, 16, 4), (bca.oa, 16, 4)] = .ok () ∧
      lab.hasRoom 3200 bca.od = true ∧ isOk (labCore.readElems (lab.canFill 3200) 16 bca.oa .u32 4) = true) ∧
    (m3Ready lab (.pack pk) pk (fun t =>
      legalM3 pk t (t == .i8 || t == .u8 || t == .i16 || t == .u16) false (decide (pk.fn.toNat ≤ 1)) 2 false) ∧
      labCore.checkLocals 4 [(pk.od, 4, 4), (pk.oa, 4, 4), (pk.ob, 4, 4)] = .ok () ∧ reads2 4 pk.oa pk.ob .u16 .u16 2 2 = true) ∧
    (m3Ready lab (.unpk upk) upk (fun t =>
      legalM3 upk t (t == .i16 || t == .u16 || t == .i32 || t == .u32) false (decide (upk.fn.toNat ≤ 1)) 1 false) ∧
      labCore.checkLocals 16 [(upk.od, 16, 4), (upk.oa, 16, 4)] = .ok () ∧
      isOk (labCore.readElems (lab.canFill 3200) 16 upk.oa .i16 8) = true) := by decide +kernel

/-- The words that the indices at P2 name from the base at P1. -/
def gathWords (f : M3) : Bool := isOk do
  let (_, b, _) ← labCore.readElems (lab.canFill 3200) 8 f.ob .u32 2
  let addrs := (List.range 2).map fun j => gathAddr (labCore.opAddr 8 (at0 1)) f.vp (b.getD j ⟨0, false⟩)
  labCore.checkGath addrs
  labCore.readableGath addrs

theorem witness_LaneInstructionsComplete_gather :
    (m3Ready lab (.lgath lga) lga (fun t => legalM3 lga t (gathTy t) false (lga.fn == 0) 2 false && isMem lga.oa) ∧
      labCore.checkLocals 8 [(lga.od, 8, 4)] = .ok () ∧ (labCore.opAddr 8 lga.oa).toNat % 4 = 0 ∧
      labCore.checkLocals 8 [(lga.ob, 8, 4)] = .ok () ∧ gathWords lga = true) ∧
    (m3Ready lab (.lscat lsc) lsc (fun t => legalM3 lsc t (gathTy t) false (lsc.fn == 0) 2 false && isMem lsc.od) ∧
      (labCore.opAddr 8 lsc.od).toNat % 4 = 0 ∧ labCore.checkLocals 8 [(lsc.oa, 8, 4), (lsc.ob, 8, 4)] = .ok () ∧
      reads2 8 lsc.oa lsc.ob .u32 .u32 2 2 = true ∧ gathWords lsc = true) := by decide +kernel

abbrev fsu : M3 := m3 .f32 3 0 .acc (at0 1) .zero .zero
abbrev fdo : M3 := m3 .f32 3 0 (rg 3) (at0 1) (at0 2) .zero
abbrev fcv : M3 := m3 .f32 3 2 .acc (at0 1) .zero .zero
abbrev fcb : M3 := m3 .e2m1 4 10 .acc (at0 1) .zero .zero

/-- A fold of one signalling NaN gives the canonical NaN and NV (R60, R73). -/
theorem test_fold_nan : Num.foldStart .f32 0x7F800001 = (0x7FC00000, 0x10) := by decide +kernel

theorem witness_FoldsAndConversionsComplete :
    (m3Ready lab (.fsum fsu) fsu (fun t => legalM3 fsu t (isVF t) true (fsu.fn == 0) 1 true) ∧
      labCore.checkLocals 16 [(fsu.od, 4, 4), (fsu.oa, 16, 4)] = .ok () ∧
      isOk (labCore.readElems (lab.canFill 3200) 16 fsu.oa .f32 4) = true) ∧
    (m3Ready lab (.fdot fdo) fdo (fun t => legalM3 fdo t (isVF t) true (fdo.fn == 0) 2 true) ∧
      labCore.checkLocals 16 [(fdo.od, 4, 4), (fdo.oa, 16, 4), (fdo.ob, 16, 4)] = .ok () ∧
      reads2 16 fdo.oa fdo.ob .f32 .f32 4 4 = true) ∧
    (∀ x ∈ [(fcv, Ty.i32), (fcb, Ty.f32)], let f := x.1
      let n := cvtCount f f.ty
      (lab.canIssue (.fcvt f) f.sp (cvtUses f) [f.od, f.oa] = true ∧ cvtLegal f labCore = true) ∧
      labCore.cvtSource f.fn = some (x.2, false) ∧ labCore.checkLocals (fpOf f.ln)
        [(f.od, 4 * cvtLanes (cvtBytes f.ty n), 4), (f.oa, 4 * cvtLanes (cvtBytes x.2 n), 4)] = .ok () ∧
      isOk (labCore.cvtRead (lab.canFill 3200) f (fpOf f.ln) x.2 false n) = true) := by decide +kernel

/-- The state that an answer gives. -/
def after (o : Out) : State :=
  match o with
  | .next t => t
  | _ => lab

theorem witness_IntegerResults : (∀ t ∈ [Ty.i8, .i64, .u8, .u64], isInt t = true ∧ 0 < 2 ^ width t ∧ 2 ^ width t - 1 < 2 ^ width t) ∧
    isSigned .i64 = true ∧ isSigned .u8 = false := by decide

theorem witness_SourceElements : (∀ t ∈ [Ty.u8, .f32], isBits t = true ∧ 0 < elemCount t 15 ∧ lanesFor t (elemCount t 15) ≤ 16) ∧
    width .u64 = 64 ∧ isInt .u8 = true ∧ (∃ q rest, labCore.queue 4 = q :: rest) ∧ labCore.queue 5 = [] :=
  ⟨by decide, rfl, rfl, ⟨_, _, rfl⟩, rfl⟩

theorem witness_ResultsWritten : (isBits .i16 = true ∧ lanesFor .i16 [(⟨1, true⟩ : El), ⟨2, false⟩].length ≤ 16 ∧ width .i16 ≤ 32 ∧
    [(⟨1, true⟩ : El), ⟨2, false⟩][1]? = some ⟨2, false⟩) ∧ isSigned .i16 = true ∧ isSigned .u16 = false ∧
    KV.sorted labCore.spad = true ∧ (labCore.opAddr 8 (at0 1)).toNat % 4 = 0 := by decide +kernel

theorem witness_ComputeFrame : let i := Instr.fadd (m3 .f32 3 0 .acc (at0 1) (.inc 2 1) .zero)
    computes i = true ∧ KV.sorted lab.cores = true ∧ exec i lab = .next (after (exec i lab)) ∧ retires lab (after (exec i lab)) ∧
    lab.neighbour 3200 true = none := ⟨by decide, by decide +kernel, rfl, by unfold retires; decide +kernel, by decide +kernel⟩

theorem witness_Retirement : (slotOk 0x104 = true ∧ slotOk 0x103 = true) ∧ KV.sorted lab.cores = true ∧ KV.sorted lab.chips = true ∧
    (placed (.yield { m3 .i8 0 0 .zero .zero .zero .zero with sp := true }) lab).liveMask true ≠ none ∧
    chargeClass (.fadd dot) = some 1 ∧ chargeClass .nop = none := by decide +kernel

/-- A line at 0 whose first slot is marked as a target. -/
def marked (c : Core) : Core := { c with fetch := [(0, mkLine [0, 0, 0, 0, 0] 0 1)] }

abbrev fad : M3 := m3 .f32 3 0 .acc (at0 1) (at0 2) .zero

theorem witness_ChecksBeforeEffect : wfCore 3200 = true ∧ lab.issues 3200 = true ∧ labCore.pend = [] ∧
    (∃ src, ({ labCore with entered := .checked 0 } : Core).entered = .checked src) ∧ labCore.targetBit 0 = false ∧
    labCore.entryFault = none ∧ legalM3 { fad with fn := 1 } .f32 true true false 2 false = false ∧ labCore.pp = false ∧
    legalM3 fad .f32 true true true 2 false = true ∧ (labCore.setPp true).pp = true ∧
    (marked { labCore with entered := .seq }).targetBit 0 = true ∧ labCore.seqFault = false ∧
    lab.chargeFits 3200 (.fadd fad) = true ∧ (labCore.opAddr 16 (.off 1 2)).toNat % 4 ≠ 0 :=
  ⟨by decide, by decide +kernel, rfl, ⟨0, rfl⟩, by decide +kernel⟩

theorem witness_FaultRollsBack : (labCore.act = some labAct ∧ labAct.gang = false ∧ labAct.irrev = false ∧ labAct.brec < 8 ∧
    FCode.align ≠ .logfull ∧ FCode.align ≠ .spawn ∧ labAct.tries < 3 ∧ labAct.report = false) ∧
    ({ labAct with report := true, tries := 2 } : Act).report = true ∧ refetches .cfv false = true ∧ refetches .eccu true = true ∧
    refetches .eccu false = false ∧
    (∀ a ∈ [{ labAct with tries := 3 }, { labAct with tries := 3, report := true }], let s := labA fun _ => a
      (s.core 3200).act = some a ∧ a.gang = false ∧ a.irrev = false ∧ 3 ≤ a.tries ∧ s.region a.rid = some labRegion) := by
  decide +kernel

/-- A region whose FHIX is `k`: entry 0 is empty, entry 1 not for supervisors. -/
def labFhix (k : Nat) : State := { labA fun a => { a with irrev := true } with regions := [(1, { labRegion with fhix := k })] }

theorem witness_FaultEscalatesOrKills : let s := labA fun a => { a with irrev := true }
    ((s.core 3200).trapActive = false ∧ s.region 1 = some labRegion ∧
      s.handler 50 labRegion labRegion.fhix = some ⟨0x200400, true, 0⟩) ∧
    ({ s.core 3200 with tsinf := 0x10000 } : Core).trapActive = true ∧
    (∀ k ∈ [0, 1], ((labFhix k).core 3200).trapActive = false ∧ (labFhix k).region 1 = some { labRegion with fhix := k }) ∧
    (labFhix 0).handler 50 { labRegion with fhix := 0 } 0 = none ∧
    ((labFhix 1).handler 50 { labRegion with fhix := 1 } 1).map (·.sup) = some false ∧
    KV.find s.spaces (s.core 3200).asid.toNat = some ⟨0, 0x10000, 0, false, [], 0, 0, false⟩ := by decide +kernel

theorem witness_JournalUndoesWrites : let a : Act := { labAct with named := [(0, 4096)] }
    KV.sorted labCore.spad = true ∧ a.irrev = false ∧ labCore.journal = [] ∧ (64 * 0, 64 * 64) ∈ a.named ∧ 4092 % 4 = 0 ∧
    4092 + 4 * [(⟨1, true⟩ : Lane)].length ≤ 64 * 64 ∧ (4092 + 4 + 63) / 64 ≤ 4092 / 64 + 64 := by decide +kernel

abbrev br (co ax : Operand) (off : W32) : BR := ⟨0, 0, co, ax, off⟩

/-- The branch with the signature of its block. -/
def signed (i : BR → Instr) (f : BR) (s : State) : BR :=
  { f with sig := crc16 (foldInstr (s.core s.self).crc (i f)) [0x01] }

abbrev bq : BR := signed .br (br .zero .zero 5) lab
abbrev bt (i : BR → Instr) (co : Operand) : BR := signed i (br co .zero 0xFFFFFFFF) lab
abbrev lnk : State := labC fun c => { c with lk := 0x207 }

theorem witness_BranchesComplete :
    (brReady lab (.br bq) bq ∧ absent [bq.co, bq.ax] = true) ∧
    (∀ co ∈ [rg 1, at0 1], (∀ i ∈ [Instr.bz, .bnz], brReady lab (i (bt i co)) (bt i co) ∧ testLegal (bt i co) true = true) ∧
      wordThere labCore (br co .zero 0)) ∧
    (∀ i ∈ [Instr.bv, .bnv], brReady lab (i (bt i .acc)) (bt i .acc) ∧ testLegal (bt i .acc) false = true) ∧
    (∀ i ∈ [Instr.bqe, .bqne], ∀ n ∈ [(4 : BitVec 3), 5], brReady lab (i (bt i (.queue n))) (bt i (.queue n))) ∧
    (∀ n ∈ [(1 : BitVec 3), 6], brReady lab (.loop (bt .loop (rg n))) (bt .loop (rg n))) ∧
    (let f (n : BitVec 3) := signed .calli (br (rg n) .zero 0) lab;
      brReady lab (.calli (f 1)) (f 1) ∧ slotOk (labCore.preg 1) = true ∧ brReady lab (.calli (f 7)) (f 7) ∧
      slotOk (labCore.preg 7) = false) ∧
    brReady lab (.call (bt .call .zero)) (bt .call .zero) ∧
    (let f := signed .ret (br .zero .zero 0) lab;
      brReady lab (.ret f) f ∧ slotOk labCore.lk = true ∧ brReady lnk (.ret f) f ∧ slotOk (lnk.core 3200).lk = false) ∧
    (∀ x ∈ [(Instr.br, Operand.zero), (.bz, rg 1), (.bnz, rg 1), (.bv, .acc), (.bnv, .acc), (.bqe, .queue 4), (.bqne, .queue 4),
        (.loop, rg 1), (.call, .zero), (.calli, rg 1), (.ret, .zero), (.hend, .zero)],
      lab.canIssue (x.1 (br x.2 .zero 0)) false false [x.2, .zero] = true ∧ brLegal (x.1 (br x.2 .zero 0)) = true ∧
        labCore.sigOk (x.1 (br x.2 .zero 0)) 0x1234 = false ∧ brLegal (x.1 (br x.2 .acc 0)) = false ∧
        lab.canIssue (x.1 (br x.2 .acc 0)) false false [x.2, .acc] = true) ∧
    (let f := br (rg 0) (.imm 17) 0; lab.canIssue (.migr f) false false [rg 0, .imm 17] = true ∧ brLegal (.migr f) = true ∧
      labCore.sigOk (.migr f) 0x1234 = false ∧ brLegal (.migr (br (rg 0) (.imm 0x1000) 0)) = false) := by decide +kernel

abbrev hd : BR := signed .hend (br .zero .zero 0) lab
abbrev mg : BR := signed .migr (br (rg 0) (.imm 17) 0) lab
abbrev labM : State := labC fun c => c.setP 0 0x400000

/-- The bench in a gang of cores 3200 and 3201, core 3200 its leader. -/
def labGang : State :=
  let put (g : Nat) (lead : Bool) (s : State) := s.modCore g fun _ => { labCore with
    gmask := 3, st := if lead then 0xC0000 else 0x80000, act := some { labAct with gang := true, leader := lead } }
  put 3201 false (put 3200 true lab)

/-- The gang with its member 3201 at work, which has the paths `l` to take. -/
def labMember (l : List W64) (out ended : Bool) : State :=
  { (labGang.modCore 3201 fun c => { c with gpath := l, act := c.act.map fun a => { a with detached := out } }).modCore 3200 fun c =>
      { c with act := c.act.map fun a => { a with ended := ended } } with self := 3201 }

/-- What a transfer of each kind of core asks: a leader, a detached member, a member on its leader's path, off it, and without one. -/
theorem witness_BranchesComplete_gang :
    (brReady labGang (.br bq) bq ∧ (labGang.core 3200).trapActive = false ∧ labGang.followers 3200 = [3201]) ∧
    (∀ s ∈ [labMember [] true false, labMember [64, 65] false false, labMember [65] false false, labMember [] false true],
      brReady s (.br bq) bq ∧ (s.core s.self).trapActive = false) ∧ slotPlus labCore.pc bq.off = 64 ∧
    (labMember [] false true).leaderRuns 3201 = false := by decide +kernel

theorem witness_ActivationEndCompletes :
    (brReady lab (.hend hd) hd ∧ labCore.pend = [] ∧ lab.queueOwed 3200 none = false ∧ (lab.team 50 1).spc + 0 - 1 ≤ 0 ∧
      (labAct.gang && lab.othersRun 3200) = false) ∧
    (let s := labS fun k => { k with teams := [(1, ⟨0xFFFF, 5, 0, 0⟩)] };
      brReady s (.hend hd) hd ∧ (0 : Int) < (s.team 50 1).spc + 0 - 1) ∧
    (brReady labGang (.hend hd) hd ∧ labGang.othersRun 3200 = true ∧ labGang.queueOwed 3200 none = false) ∧
    (brReady labM (.migr mg) mg ∧ labM.ownerCore 3200 0x400000 = .ok 3200 ∧
      labM.checkTarget 3200 (mkTarget 0 50 0 false false 17 0 1) = .ok () ∧ labM.queueOwed 3200 none = false) := by
  decide +kernel

theorem witness_CommitReleasesAll : KV.sorted lab.cores = true ∧ (lab.core lab.self).act = some labAct ∧ labAct.gang = false ∧
    labAct.brec < 8 ∧ labAct.report = false := by decide +kernel

abbrev snd : M3 := m3 .u32 0 0 (rg 6) .zero (.imm 512) .zero
abbrev sdr : M3 := m3 .u32 0 0 (rg 6) (.inc 1 1) (.imm 0) .zero
abbrev qct : M3 := m3 .u32 0 0 (rg 2) (.queue 4) .zero .zero
abbrev qcr : M3 := m3 .u32 0 1 (at0 1) .zero .zero .zero
abbrev wtq (fn : BitVec 10) (mask : BitVec 13) : M3 := m3 .u32 0 fn (rg 2) (.imm mask) (.imm 0) .zero

theorem witness_MessagesAndQueuesComplete :
    (m3Ready lab (.send snd) snd (fun t => sendLegal snd t false) ∧ labCore.plen snd.ob = .ok 512 ∧
      lab.checkTarget 3200 (labCore.preg 6) = .ok ()) ∧
    (m3Ready lab (.sendr sdr) sdr (fun t => sendLegal sdr t true) ∧ labCore.plen sdr.ob = .ok 0 ∧
      labCore.checkLocals 4 [(sdr.oa, 0, 4)] = .ok () ∧ soundAt labCore 4 sdr.oa 0) ∧
    (m3Ready lab (.qcnt qct) qct (fun t => fixedM3 qct t .u32 0) ∧ oneDst qct.od = true) ∧
    (m3Ready lab (.qcnt qcr) qcr (fun t => fixedM3 qcr t .u32 0) ∧ labCore.checkLocals 4 [(qcr.od, 4, 4)] = .ok ()) ∧
    (∀ f ∈ [wtq 0 0x11, wtq 1 0x10], m3Ready lab (.waitq f) f (fun t => fixedM3 f t .u32 0) ∧
      (if f.fn = 0 then labCore.held (waitMask labCore f.oa) ≠ 0 else labCore.held (waitMask labCore f.oa) = waitMask labCore f.oa)) ∧
    (let s := labC fun c => { c with wait := .waitq (some 5) true };
      m3Ready s (.waitq (wtq 0 0x20)) (wtq 0 0x20) (fun t => fixedM3 (wtq 0 0x20) t .u32 0)) := by decide +kernel

abbrev gng : M3 := m3 .u32 0 0 (rg 2) (.imm 3) .zero .zero
abbrev ung : M3 := m3 .u32 0 0 .zero .zero .zero .zero
abbrev yld : M3 := { m3 .i8 0 0 .zero .zero .zero .zero with sp := true }
abbrev labTwo : State := lab.modCore 3201 fun _ => { labCore with act := none }

theorem witness_GangsComplete :
    (m3Ready labTwo (.gang gng) gng (gangLegal gng) ∧ labTwo.gangStatus 3200 3 1 = 0 ∧ lab.gangStatus 3200 3 1 = 2) ∧
    (m3Ready lab (.ungang ung) ung (gangLegal ung) ∧ m3Ready labGang (.ungang ung) ung (gangLegal ung)) ∧
    (m3Ready lab (.rejoin ung) ung (gangLegal ung) ∧ labAct.gang = false) ∧
    (m3Ready labGang (.rejoin ung) ung (gangLegal ung) ∧ (labGang.actCores 3200) = [3200, 3201] ∧
      (∀ k ∈ labGang.followers 3200, (labGang.core k).gpath = [])) ∧
    m3Ready (placed (.yield yld) lab) (.yield yld) yld (fun t => yld.sp && fixedM3 yld t .i8 0) := by decide +kernel

abbrev sy (srn : BitVec 12) (oa : Operand) : SY := ⟨false, .u64, 1, .propagate, .fm, 0, srn, oa, .zero, .zero⟩
/-- The bench at supervisor privilege, its core then changed. -/
def labSup (f : Core → Core) : State := labC fun c => f (c.setPl 1)
abbrev labHlt : State := labS fun k => { k with mxe := k.mxe.set! 0 { k.mxe.getD 0 Mxe.reset with rp := [(0, 0x80000000)] } }

/-- SWR of a register from a source: ready, with the source's validity. -/
def swrReady (s : State) (i : SY → Instr) (f : SY) (v : Bool) : Bool :=
  let c := s.core s.self
  s.canIssue (i f) f.sp false [f.oa] && srLegal f true s && isOk (c.checkLocals 8 [(f.oa, 8, 8)]) &&
    match c.readElems (s.canFill s.self) 8 f.oa .u64 1 with
    | .ok (c1, [e], _) => e.v == v && (!v || !swrPriv f.srn.toNat c1)
    | _ => false

theorem witness_SystemRegistersComplete :
    (lab.canIssue (.srd (sy 0x010 (rg 2))) false false [rg 2] = true ∧ srLegal (sy 0x010 (rg 2)) false lab = true ∧
      lab.readSr 3200 0x010 = some 0 ∧ (srdSup 0x010 && labCore.user) = false) ∧
    (lab.canIssue (.srd (sy 0x0B2 (at0 1))) false false [at0 1] = true ∧ srLegal (sy 0x0B2 (at0 1)) false lab = true ∧
      lab.readSr 3200 0x0B2 = some 0 ∧ (srdSup 0x0B2 && labCore.user) = true) ∧
    (∀ i ∈ [(Instr.swr, (0x010 : BitVec 12)), (.writeSrseed, 0x013), (.writeMxrpHlt, 0x020), (.writeSpcfg, 0x021),
      (.writeSppwr, 0x022)], swrReady lab i.1 (sy i.2 .acc) false = true) ∧
    (swrReady lab .swr (sy 0x011 (rg 2)) true = true ∧ swrReady lab .writeSrseed (sy 0x013 (rg 2)) true = true ∧
      swrReady (labSup id) .swr (sy 0x0A1 (rg 2)) true = true ∧ swrPriv 0x0A1 labCore = true) ∧
    (let s := labHlt.modCore 3200 fun c => c.setP 2 0x80000000;
      swrReady s .writeMxrpHlt (sy 0x020 (rg 2)) true = true ∧ (s.mxe 200).bindOf 1 = some 0 ∧ (s.mxe 200).hlt 0 = true) ∧
    (let s := labSup fun c => c.setP 2 4;
      swrReady s .writeSpcfg (sy 0x021 (rg 2)) true = true ∧ (4 : Nat) ≠ ((s.core 3200).spcfg.extractLsb' 0 3).toNat ∧
      s.spadBusy 3200 = false) ∧
    (swrReady lab .writeSppwr (sy 0x022 (rg 2)) true = true ∧ (labCore.askBanks 0).bankPend = 0) ∧
    (let s := labC fun c => c.setP 2 0x2A;
      swrReady s .writeSppwr (sy 0x022 (rg 2)) true = true ∧ ((s.core 3200).askBanks 0x2A).bankPend ≠ 0) ∧
    (let s := labC fun c => { c with wait := .sp 0 }
     swrReady s .writeSppwr (sy 0x022 (rg 2)) true = true ∧ (s.core 3200).bankPend = 0) ∧
    (let s := labSup fun c => c.setP 2 0x201010; swrReady s .swr (sy 0x082 (rg 2)) true = true) ∧
    (0x201010 : W64).extractLsb' 0 6 ≠ 0 ∧
    (let s := labSup fun c => c.setP 2 0x1000; swrReady s .swr (sy 0x082 (rg 2)) true = true) ∧
    (lab.segs (.core 3200) 50 (some 3200) 1 false .rw .current 2 0x1000 128).map (fun l => l.all Seg.imm) = .ok false ∧
    (let s := labSup fun c => c.setP 2 0x201000; swrReady s .swr (sy 0x082 (rg 2)) true = true) ∧
    (lab.segs (.core 3200) 50 (some 3200) 1 false .rw .current 2 0x201000 128).map (fun l => l.all Seg.imm) = .ok true ∧
    inWindow 0x201000 = false ∧ inWindow (BitVec.ofNat 64 windowBase) = true ∧ labCore.mbx.length < 4 := by decide +kernel

abbrev trp : M3 := m3 .i8 0 0 .zero .zero (.imm 4095) .zero
abbrev ert : M3 := m3 .i8 0 0 .zero .zero .zero .zero
/-- The bench in a trap that returns to a slot. -/
def labTrap (pc : W64) : State := labSup fun c => { c with tsinf := 0x10000, tspc := pc }

theorem witness_TrapsEnterAndReturn : m3Ready lab (.trap trp) trp (fun t => fixedM3 trp t .i8 0) ∧ numOperand trp.ob = true ∧
    (let s := labTrap 0; m3Ready s (.trap trp) trp (fun t => fixedM3 trp t .i8 0) ∧ (s.core 3200).trapActive = true) ∧
    lab.handler 50 labRegion 7 = some ⟨0x200400, true, 0⟩ ∧ lab.handler 50 labRegion 1 = some ⟨0x200800, false, 0⟩ ∧
    lab.handler 50 labRegion 0 = none ∧
    (let s := labTrap 0x204; m3Ready s (.eret ert) ert (fun t => fixedM3 ert t .i8 0) ∧
      slotOk 0x204 = true ∧ (s.core 3200).pl ≠ 0 ∧ (s.core 3200).trapActive = true ∧
      ((s.core 3200).tsst.extractLsb' 14 2).toNat ≤ (s.core 3200).pl) ∧
    (let s := labTrap 0x205; m3Ready s (.eret ert) ert (fun t => fixedM3 ert t .i8 0) ∧ slotOk 0x205 = false ∧
      (s.core 3200).pl ≠ 0 ∧ (s.core 3200).trapActive = true) ∧
    (m3Ready lab (.eret ert) ert (fun t => fixedM3 ert t .i8 0) ∧ labCore.pl = 0) ∧
    (let s := (labTrap 0x204).modCore 3200 fun c => { c with trapWait := some (0x204, .waitq none false) };
      m3Ready s (.eret ert) ert (fun t => fixedM3 ert t .i8 0) ∧ slotOk (s.core 3200).tspc = true ∧ (s.core 3200).trapActive = true) := by decide +kernel

abbrev tlp : M3 := m3 .u64 1 0 .zero (rg 4) .zero .zero
abbrev tlr : M3 := m3 .u64 1 1 .zero (rg 4) (rg 2) .zero
abbrev tla : M3 := m3 .u64 1 2 .zero .zero .zero .zero
abbrev labInv : State := labSup fun c => { c with wait := .tlbinv 7 }

theorem witness_TlbInvalidationCompletes : (∀ x ∈ [(Instr.tlbinvPage, tlp, (0 : BitVec 10)), (.tlbinvRange, tlr, 1), (.tlbinvAsid, tla, 2)],
      ∀ s ∈ [lab, labSup id, labInv], m3Ready s (x.1 x.2.1) x.2.1 (fun t => tlbinvLegal x.2.1 t x.2.2)) ∧
    canonical (labCore.preg 4) = true ∧ canonical (labCore.preg 4 + labCore.preg 2 - 1) = true ∧ labCore.wait = .none ∧
    labCore.user = true ∧ ((labSup id).core 3200).user = false ∧
    (labInv.chips.any fun x => x.2.invals.any fun v => v.id == 7) = false := by decide +kernel

abbrev xla : M3 := m3 .u64 1 3 (rg 2) (rg 4) .zero .zero
abbrev scp : M3 := m3 .u64 1 0 .zero (rg 5) .zero .zero
abbrev scl : M3 := m3 .u64 1 1 .zero (rg 5) .zero .zero
abbrev pwc : M3 := m3 .u32 0 0 (rg 2) (.imm 16) .zero .zero
abbrev pwg : M3 := m3 .u32 0 1 .zero .zero .zero .zero
abbrev labDbg : State := { lab with spaces := [(1, ⟨0, 0x10000, 0, false, [], 0, 0, true⟩)] }

theorem witness_OtherSystemComplete : m3Ready lab (.xlat xla) xla (fun t => fixedM3 xla t .u64 1) ∧
    (let s := labSup id; m3Ready s (.scrubPage scp) scp (fun t => scrubLegal scp t 0) ∧
      m3Ready s (.scrubLine scl) scl (fun t => scrubLegal scl t 1) ∧ (s.core 3200).user = false ∧
      s.scrubPlace 3200 0x201000 = .ok ([0x40201], 0x40201000, ⟨1, 1, 0x200000, 0x4020022F, false⟩) ∧ s.marked 0x40201 = false) ∧
    m3Ready lab (.pwrbCap pwc) pwc (fun t => pwrbLegal pwc t 0) ∧ m3Ready lab (.pwrbGate pwg) pwg (fun t => pwrbLegal pwg t 1) ∧
    (∀ s ∈ [lab, labDbg], m3Ready s (.brk trp) trp (fun t => fixedM3 trp t .i8 0) ∧ s.othersStop 3200 = true) ∧
    lab.canIssue (.sigchk false 0) false false [] = true := by decide +kernel

theorem witness_StoresAndScrubsTouchOnly : Memory.wf lab.mem = true ∧
    (([(5, 0xFF), (0x40200017, 0)] : List (Nat × Byte)).map (·.1)).Nodup ∧ 0x40200000 % 128 = 0 := by decide +kernel

abbrev ldm (od oa : Operand) : M3 := m3 .u32 3 0 od oa .zero .zero
/-- The bench with P0 the base of the scratchpad window. -/
abbrev labWin : State := labC fun c => c.setP 0 (BitVec.ofNat 64 windowBase)
abbrev sto (od oa : Operand) : M3 := m3 .u32 3 0 od oa .zero .zero

/-- A core whose phase log holds 16,384 runs: stores and merges in turn at one place. -/
def fullLog (c : Core) : Core := { c with log := (List.range 16384).map fun k =>
  ⟨0x40010000, if k % 2 = 0 then .store 0xFF 0 else .merge 0 .u32 0 [1], 3, 5, 1, 1, false, false, k, 1⟩ }

/-- A load of four lanes at an address translates, to sound words. -/
def soundLoad (s : State) (va : W64) : Bool := isOk do
  let ps ← s.globalAccess s.self va 16 4 .r
  (s.core s.self).readablePieces ps

theorem witness_LoadsAndStoresComplete :
    (m3Ready labWin (.ld (ldm .acc (.off 0 16))) (ldm .acc (.off 0 16)) (ldLegal (ldm .acc (.off 0 16))) ∧
      (labWin.globalAccess 3200 (BitVec.ofNat 64 (windowBase + 16)) 16 4 .r).map segsOf = .ok [] ∧ soundLoad labWin (BitVec.ofNat 64 (windowBase + 16)) = true) ∧
    (∀ i ∈ [Instr.ld, .ldef], m3Ready lab (i (ldm (at0 1) (at0 4))) (ldm (at0 1) (at0 4)) (ldLegal (ldm (at0 1) (at0 4)))) ∧
    ((lab.globalAccess 3200 0x1000 16 4 .r).map (fun l => (segsOf l).length) = .ok 1 ∧ labCore.loadsOut < 16 ∧ soundLoad lab 0x1000 = true ∧
      labCore.checkLocals 16 [(at0 1, 16, 4)] = .ok ()) ∧
    (∀ d ∈ [at0 4, at0 5], m3Ready lab (.st (sto d .acc)) (sto d .acc) (fun t => isBits t && lnOk t 3 && storeSrc .acc) ∧
      isOk (lab.globalAccess 3200 (labCore.opAddr 16 d) 16 4 .w) = true ∧
      isOk (labCore.storeLanes (lab.canFill 3200) 16 .acc .u32 3) = true) ∧
    labCore.othersOut < 16 ∧ (labCore.addEntries (labCore.storeEntries [(0x40001000, 7)])).isSome = true := by decide +kernel

theorem witness_LoadsAndStoresComplete_full :
    ((fullLog labCore).addEntries ((fullLog labCore).storeEntries [(0x40001000, 7)])).isNone = true := by decide +kernel

abbrev amo (fn : BitVec 10) (ob oc : Operand) : M3 := m3 .u32 0 fn (rg 2) (at0 5) ob oc
abbrev llg : M3 := m3 .f32 1 1 (at0 4) (at0 1) .zero .zero

theorem witness_AtomicsAndMergesComplete :
    (∀ f ∈ [amo 7 (.imm 1) (.imm 2), amo 0 .acc .zero], m3Ready lab (.amo f) f (fun t => wordInt t && oneElem t f.ln &&
      f.vp == .propagate && f.rm == .fm && decide (f.fn.toNat ≤ 7) && amoDst f.od && isMem f.oa && amoSrc f.ob &&
      (if f.fn = 7 then amoSrc f.oc else f.oc == .zero) && !incClash f.od [f.oa, f.ob, f.oc]) ∧
      isOk (do immediateObject (← lab.globalAccess 3200 0x201000 4 4 .rw) 0x201000) = true ∧
      isOk (labCore.readAll (lab.canFill 3200) 4 .u32 1 (if f.fn = 7 then [f.ob, f.oc] else [f.ob])) = true) ∧
    (labCore.alane 0).v = false ∧ labCore.othersOut < 16 ∧
    (m3Ready lab (.llog llg) llg (fun t => llogTy llg.fn t && lnOk t llg.ln && llg.vp == .propagate && llg.rm == .fm &&
      isMem llg.od && storeSrc llg.oa && absent [llg.ob, llg.oc]) ∧
      isOk (do
        let ps ← lab.globalAccess 3200 0x1000 8 4 .w
        let (c1, els, _) ← labCore.readElems (lab.canFill 3200) 8 (at0 1) .f32 2
        match c1.addEntries (c1.mergeEntries 1 .f32 ps 0x1000 els) with
        | some c => .ok c
        | none => .error Exn.stall) = true) ∧ wordInt .i64 = true := by decide +kernel

/-- The worked example of R206: w holds 1.0 at 0x40001004; a core adds 2^24 and 1.0, the next 1.0 and 1.0; two cores store 5.0 and
7.0 to u. -/
def mergeLogs : List (Nat × Core) :=
  let c (lcn : W16) (l : List (Nat × LogBody)) : Core := { labCore with log := l.map fun x =>
    ⟨x.1, x.2, lcn, 5, 1, 1, true, false, 0, 1⟩ }
  let add (x : W64) : Nat × LogBody := (0x40001000, .merge 1 .f32 4 [x])
  [(14180, c 14180 [add 0x4B800000, add 0x3F800000]), (14181, c 14181 [add 0x3F800000, add 0x3F800000,
    (0x40001008, .store 0x0F 0x40E00000)]), (14245, c 14245 [(0x40001008, .store 0x0F 0x40A00000)])]

theorem test_merge_order : (let s := { lab with cores := mergeLogs, mem := [(0x40001006, 0x80), (0x40001007, 0x3F)] }.applyLog 1
    (s.paNat 0x40001004 4, s.paNat 0x40001008 4, s.paNat 0x40001000 4, s.paNat 4 4)) = (0x4B800001, 0x40A00000, 0, 0) := by
  decide +kernel

theorem witness_AtomicsAndMergesComplete_runs : Memory.wf [(0x40001006, 0x80), (0x40001007, 0x3F)] = true ∧
    ((mergeLogs.getD 0 (0, Core.reset)).2.log.map (·.body))[0]? = some (.merge 1 .f32 4 [0x4B800000]) ∧
    ((mergeLogs.getD 2 (0, Core.reset)).2.log.map (·.body))[0]? = some (.store 0x0F 0x40A00000) := by decide +kernel

abbrev pft (fn : BitVec 10) (oa : Operand) : M3 := m3 .i8 0 fn .zero oa .zero .zero
abbrev pnn : M3 := m3 .u64 1 7 (rg 0) (rg 1) (rg 2) (rg 3)
abbrev upn : M3 := m3 .u64 1 7 (rg 0) .zero .zero .zero
abbrev phs : M3 := m3 .i8 0 0 .zero .zero .zero .zero
abbrev fnc (k : BitVec 10) : M3 := m3 .i8 0 k .zero .zero .zero .zero
abbrev hts (k : BitVec 13) : M3 := m3 .u32 3 0 .zero (.imm k) (at0 1) .zero
abbrev labHt : State := labC fun c => c.spStore 0x100 [⟨1, true⟩, ⟨0x80000000, true⟩, ⟨0x200400, true⟩, ⟨0, true⟩]

/-- The handler table in a page of the host behind port 0, which the host refuses. -/
abbrev labFar : State := { labHt with regions := [(1, { labRegion with htab := 0x600000 })], hostRefuse := [hostKey 0 0 0] }.modCore
  3200 fun c => { c with tlb := ⟨1, 3, 0x200000, 0x020000000000022F, false⟩ :: c.tlb }

theorem witness_MemoryControlComplete_refused : m3Ready labFar (.htset (hts 6)) (hts 6) (fun t => fixedM3 (hts 6) t .u32 3) ∧
    (labFar.seg (.core 3200) 50 (some 3200) 1 true 0x600060 16 .w .current).map (fun x => (x.imm, x.places.all labFar.hostOk)) =
      .ok (true, false) := by decide +kernel

theorem witness_MemoryControlComplete :
    (∀ f ∈ [pft 0 (at0 4), pft 1 (at0 4), pft 2 (at0 4), pft 0 (at0 5), pft 0 (.off 0 511)],
      m3Ready lab (.pf f) f (fun t => fixedM3 f t .i8 0) ∧ f.fn.toNat ≤ 2 ∧ isMem f.oa = true) ∧
    (lab.seg (.core 3200) 50 (some 3200) 1 true 0x1000 1 .r .current).map Seg.imm = .ok false ∧
    (lab.seg (.core 3200) 50 (some 3200) 1 true 0x201000 1 .r .current).map Seg.imm = .ok true ∧
    (isOk (lab.seg (.core 3200) 50 (some 3200) 1 true 0x700000 1 .r .current) = false ∧ inWindow (labWin.core 3200 |>.preg 0) = true) ∧
    (m3Ready lab (.pin pnn) pnn (fun t => fixedM3 pnn t .u64 1) ∧ m3Ready lab (.unpin upn) upn (fun t => fixedM3 upn t .u64 1)) ∧
    (m3Ready lab (.phase phs) phs (fun t => fixedM3 phs t .i8 0) ∧ labCore.wait = .none ∧ labCore.group = some 1 ∧ lab.publOpen 3200 = false ∧
      lab.mxOpen 3200 = []) ∧
    (let s := labC fun c => { c with wait := .acquired }; m3Ready s (.phase phs) phs (fun t => fixedM3 phs t .i8 0)) ∧
    (let s := labC fun c => { c with brec := c.brec.set! 0 0, tlb := [] };
      m3Ready s (.phase phs) phs (fun t => fixedM3 phs t .i8 0) ∧ (s.core 3200).wait = .none ∧ (s.core 3200).group = none) ∧
    (∀ k ∈ [(0 : BitVec 10), 3], m3Ready lab (.fence (fnc k)) (fnc k) (fun t => fixedM3 (fnc k) t .i8 0)) ∧
    (∀ s ∈ [lab, labHt], m3Ready s (.htset (hts 6)) (hts 6) (fun t => fixedM3 (hts 6) t .u32 3) ∧
      (s.core 3200).checkLocals 16 [(at0 1, 16, 16)] = .ok () ∧ soundAt (s.core 3200) 16 (at0 1) 16 ∧ s.region 1 = some labRegion) ∧
    (lab.seg (.core 3200) 50 (some 3200) 1 true 0x200060 16 .w .current).map Seg.imm = .ok true ∧
    (∃ x ∈ (labC fun c => c.spStore 0x100 [⟨0, false⟩]).core 3200 |>.spWords 0x100 4, x.v = false) ∧
    (∀ x ∈ (labHt.core 3200).spWords 0x100 4, x.v = true) := by decide +kernel

abbrev bri : M3 := m3 .u32 0 1 .zero (at0 5) (.imm 2) .zero
abbrev brx (fn : BitVec 10) : M3 := m3 .u32 0 fn .zero (at0 5) .zero .zero
/-- The bench with a barrier of two at 0x201000, one of whose members has arrived. -/
abbrev labBar : State := { lab with mem := labMem ++ [(0x40201000, 2), (0x40201004, 1)] }
abbrev barPlace : List Loc := Loc.span (.pa 0x40201000) 16
abbrev csd (ob : Operand) : M3 := m3 .u32 0 0 .zero (at0 1) ob .zero
abbrev cwt (fn : BitVec 10) (od : Operand) : M3 := m3 .u32 0 fn od (at0 1) (.imm 65) .zero
abbrev nop3 (fn : BitVec 10) : M3 := m3 .i8 0 fn .zero .zero .zero .zero
abbrev l1r : M3 := m3 .i8 0 0 .zero (rg 1) (rg 2) .zero

theorem witness_BarriersAndCountersComplete :
    (∀ s ∈ [lab, labBar], m3Ready s (.barrInit bri) bri (fun t => barrLegal bri t 1) ∧
      m3Ready s (.barrExit (brx 2)) (brx 2) (fun t => barrLegal (brx 2) t 2) ∧
      m3Ready s (.barrWait (brx 0)) (brx 0) (fun t => barrLegal (brx 0) t 0) ∧
      (s.barrOperand (at0 5) false).map (fun x => (x.1, x.2.1)) = .ok (0x201000, barPlace)) ∧
    ((labBar.barrAt barPlace).exp ≤ (labBar.barrAt barPlace).arr + 1 ∧ labCore.barrTable.length < 8) ∧
    (let b := ({ lab with mem := labMem ++ [(0x40201000, 2)] } : State).barrAt barPlace; ¬ b.exp ≤ b.arr + 1) ∧
    (let s := labC fun c => { c with wait := .barrier 0x201000 barPlace 1 };
      m3Ready s (.barrWait (brx 0)) (brx 0) (fun t => barrLegal (brx 0) t 0) ∧ (s.barrAt barPlace).gen ≠ 1) ∧
    (let s := labC fun c => { c with wait := .broken 0x201000 }; m3Ready s (.barrWait (brx 0)) (brx 0) (fun t => barrLegal (brx 0) t 0)) ∧
    labCore.checkLocals 4 [(at0 1, 8, 8)] = .ok () ∧ labCore.sound 0x100 8 = true ∧ (labCore.opAddr 4 (at0 1)).toNat = 0x100 ∧
    (∀ o ∈ [Operand.imm 5, .imm 4097], m3Ready lab (.ctrset (csd o)) (csd o) (ctrLegal (csd o)) ∧
      m3Ready lab (.ctrdec (csd o)) (csd o) (ctrLegal (csd o))) ∧
    (∀ f ∈ [cwt 0 .zero, cwt 1 (rg 2)], m3Ready lab (.ctrwait f) f (fun t => fixedM3 f t .u32 0)) ∧
    (labCore.spGet 0x100).w ≤ 65 ∧
    m3Ready lab (.l1cln (nop3 0)) (nop3 0) (fun t => fixedM3 (nop3 0) t .i8 0) ∧
    m3Ready lab (.l1invAll (nop3 1)) (nop3 1) (fun t => fixedM3 (nop3 1) t .i8 0) ∧
    (m3Ready lab (.l1inv l1r) l1r (fun t => fixedM3 l1r t .i8 0) ∧ (labCore.preg 1).toNat + (labCore.preg 2).toNat ≤ 2 ^ 64) := by
  decide +kernel

theorem witness_OwnStoresRead : KV.sorted lab.cores = true ∧ recV labCore.curRec = true ∧ labCore.log = [] ∧
    (([(0x40001000, 7), (0x40001001, 9)] : List (Nat × Byte)).map (·.1)).Nodup ∧
    (labCore.addEntries (labCore.storeEntries [(0x40001000, 7), (0x40001001, 9)])).isSome = true := by decide +kernel

abbrev en (ty : Ty) (fn : BitVec 10) (cb cp : Operand) (opt : BitVec 16) : EN := ⟨false, ty, fn, cb, cp, opt, 0⟩
abbrev mma1 : EN := en .bf16 9 (at0 2) (at0 3) 0
abbrev mma2 : EN := en .bf16 9 (.imm 0) (rg 6) 7
abbrev ald : EN := en .f32 0 (at0 2) (.queue 4) 3
abbrev ast : EN := en .e2m1 0 (at0 2) (.imm 0) 0
abbrev acl : EN := en .i8 0 (rg 3) (at0 3) 0
/-- The matrix instructions with their opcodes and fields. -/
abbrev mxs : List (Instr × Nat × EN) :=
  [(.mma mma1, 0xA9, mma1), (.mma mma2, 0xA9, mma2), (.mmaz mma1, 0xAA, mma1), (.aload ald, 0xAB, ald), (.astore ast, 0xAC, ast),
    (.aclr acl, 0xAD, acl)]
/-- The bench with the inboxes of chiplet 50 changed, and with a command in them for the activation in hand. -/
def labInbox (l : List MxCmd) : State := labS fun k => { k with
  mxe := k.mxe.set! 0 { k.mxe.getD 0 Mxe.reset with inbox := [(0, l)] } }
abbrev labCmd : MxCmd := labCore.mxCmd 3200 0xA9 .none
abbrev mxw (fn : BitVec 10) (od : Operand) : M3 := m3 .u32 0 fn od .zero .zero .zero

theorem witness_MatrixCommandsComplete :
    (∀ x ∈ mxs, enReady lab x.1 x.2.2 (mxUses x.2.1 x.2.2) ∧ mxLegal x.2.1 x.2.2 labCore = true ∧
      isOk (if isMem x.2.2.cb then labCore.readBlock x.2.2.cb 128 else .ok (labCore, [])) = true ∧
      isOk (lab.checkCp 3200 x.2.2.cp) = true) ∧
    inboxFree lab 0 ∧
    (let s := labA fun a => { a with rid := 2 }; enReady s (.mma mma1) mma1 false ∧ (s.mxe 200).bindOf (s.core 3200).actRid = none) ∧
    (let s := labInbox (List.replicate 16 labCmd);
      enReady s (.mma mma1) mma1 false ∧ (s.mxe 200).bindOf 1 = some 0 ∧ 16 ≤ ((s.mxe 200).queued 0).length) ∧
    (∀ f ∈ [mxw 0 .zero, mxw 1 (rg 2)], ∀ s ∈ [lab, labInbox [labCmd]], m3Ready s (.mxwait f) f (fun t => fixedM3 f t .u32 0)) ∧
    lab.mxCount 3200 = 0 ∧ (labInbox [labCmd]).mxCount 3200 = 1 := by decide +kernel

abbrev eco : EN := en .i8 0 (at0 2) (at0 3) 0
/-- A copy block that asks for a follow-on, an ASTORE in the area at 0x400. -/
abbrev labFol : State := labC fun c => (c.spStore 0x234 [⟨0x100000, true⟩, ⟨16, true⟩]).spStore 0x480
  [⟨0xAAC, true⟩, ⟨0, true⟩, ⟨0, true⟩, ⟨0, true⟩]
/-- A collective block of 64 bytes for group 5 of generation 3, root chiplet 50. -/
abbrev labColl : State := { labC fun c => c.spStore 0x200 ([0x1000, 0, 0x2000, 0, 64, 0x3200C5, 0, 0, 0, 0, 0, 0, 0, 0, 0, 0].map
  fun w => ⟨w, true⟩) with cgroups := [(5, ⟨1, 3, 1, [50], [], 0, []⟩)] }
abbrev pub : EN := en .i8 0 (rg 4) (at0 3) 0
/-- A twin page at 6 MiB whose select word lies in the page at 2 MiB. -/
abbrev labTwin : State := labC fun c => { c.setP 4 0x600000 with
  tlb := [⟨1, 0x600, 0x1000, 0x40300247, false⟩, ⟨1, 0x10, 0x1000, 0x40200227, false⟩] }
abbrev clg : M3 := m3 .u32 0 0 (rg 2) (at0 1) (.imm 63) .zero
abbrev clf (k : BitVec 13) : M3 := m3 .u32 0 0 (rg 2) (.imm k) .zero .zero

theorem witness_CopiesAndCollectivesComplete :
    (∀ s ∈ [lab, labFol], enReady s (.ecopy eco) eco false ∧ isOk ((s.core 3200).readBlock (at0 2) 64) = true ∧
      s.checkCp 3200 (at0 3) = .ok (.counter 0x300) ∧ (s.chip 50).ceCount 0 < 64) ∧
    ((CopyHead.of (payloadBytes (labCore.spWords 0x200 16))).lrh = 0 ∧
      (CopyHead.of (payloadBytes (labCore.spWords 0x200 16))).wantsFol = false) ∧
    ((CopyHead.of (payloadBytes ((labFol.core 3200).spWords 0x200 16))).wantsFol = true ∧
      ((labFol.core 3200).readArea (64 * 16) 144).map (fun a => (a.bind (labFol.folOf 3200)).isSome) = .ok true) ∧
    (enReady labTwin (.publ pub) pub false ∧ inWindow 0x600000 = false ∧
      (labTwin.seg (.core 3200) 50 (some 3200) 1 true 0x600000 1 .w .current).map (fun y => y.leaf) = .ok 0x40300247 ∧
      labTwin.selectPa (.core 3200) 50 1 0x40300247 = .ok 0x40200000) ∧
    (∀ s ∈ [labColl, { labColl with cgroups := [] }], enReady s (.ecoll eco) eco false ∧ (s.chip 50).clIn.length < 16) ∧
    (∀ s ∈ [lab, labC fun c => { c with wait := .clgrp 63 [] (some ⟨7, true⟩) }],
      m3Ready s (.clgrp clg) clg (fun t => fixedM3 clg t .u32 0) ∧ (s.core 3200).checkLocals 4 [(rg 2, 4, 4), (at0 1, 72, 4)] = .ok () ∧
        soundAt (s.core 3200) 4 (at0 1) 72) ∧
    (m3Ready labColl (.clfree (clf 197)) (clf 197) (fun t => fixedM3 (clf 197) t .u32 0) ∧
      m3Ready labColl (.clfree (clf 1023)) (clf 1023) (fun t => fixedM3 (clf 1023) t .u32 0)) := by decide +kernel

abbrev wst : EN := en .i8 0 (at0 2) (at0 3) 0
abbrev wrs : EN := en .i8 0 (rg 0) (at0 3) 0
abbrev wsp : M3 := m3 .i8 0 0 .zero (rg 0) .zero .zero
abbrev wsa : M3 := m3 .u32 7 0 (.inc 1 1) (rg 2) .zero .zero
/-- The bench with a WSTART record without outputs at 0x200. -/
abbrev labWs : State := labC fun c => (c.spStore 0x200 (List.replicate 32 ⟨0, true⟩)).setP 0 200
/-- The bench with a running stream of its address space on the next cluster. -/
abbrev labRun : State := (labC fun c => c.setP 0 201).setStream 201 (Stream.start (labCore.mxCmd 3200 0xB3 .none) 0)

theorem witness_StreamInstructionsComplete :
    (enReady labWs (.wstart wst) wst false ∧ labWs.teamHolds 200 1 = true ∧ inboxFree labWs 0 ∧
      ((payloadBytes ((labWs.core 3200).spWords 0x200 32)).drop 40).all (· == 0) = true) ∧
    (let s := labWs.modChip 50 fun k => { k with teams := [(1, ⟨1, 0, 0, 0⟩)] };
      enReady s (.wstart wst) wst false ∧ s.teamHolds 200 1 = false) ∧
    (enReady labWs (.wresume wrs) wrs false ∧ (labWs.core 3200).preg 0 = BitVec.ofNat 64 (clusterOfCore 3200)) ∧
    (∀ s ∈ [labRun, lab], m3Ready s (.wstop wsp) wsp (fun t => fixedM3 wsp t .i8 0)) ∧
    ((labRun.streamOf 201 1).map (·.state) = some 1 ∧ lab.streamOf (labCore.preg 0) 1 = none) ∧
    (∀ s ∈ [lab, labC fun c => { c with wait := .wstat 5 (some (List.replicate 8 1)) }],
      m3Ready s (.wstat wsa) wsa (fun t => fixedM3 wsa t .u32 7) ∧ (s.core 3200).checkLocals 32 [(wsa.od, 32, 4)] = .ok ()) := by
  decide +kernel

/-- A message for handler 7 of region 1. -/
abbrev labMsg : Packet := { Packet.zero with tgt := mkTarget 0 50 0 false false 7 0 1, plen := 8, key := 9
                                             words := [⟨1, true⟩, ⟨2, false⟩] }
/-- The bench with its core free, a message waiting since time 0 in record 0. -/
def labFree (f : Core → Core) : State := labC fun c =>
  f { c with act := none, recq := c.recq.set! 0 { RecQ.reset with msgs := [labMsg], since := some 0 } }
/-- The core at 0x200800, with nothing fetched. -/
abbrev labFetch : State := labC fun c => { c with pc := 0x200800 }
abbrev lineSegs (s : State) (va : W64) : Except FCode (List Seg) := s.segs (.core 3200) 50 (some 3200) 1 true .x .current 2 va 64
/-- The bits of the line at 0x200800 and of the handler table at 0x200000 as they stand in memory. -/
abbrev bitsAt (s : State) (a : Nat) : BitVec 512 := lineBits (s.bytesAt (Loc.span (.pa a) 64))

theorem witness_CoreStepsComplete : wfCore 3200 = true ∧
    (labFetch.issues 3200 = true ∧ labFetch.follows 3200 = false ∧ (labFetch.core 3200).needsLine = some 0x200800 ∧ isOk (lineSegs labFetch 0x200800) = true ∧
      parityOk (bitsAt lab 0x40200800) = true ∧ lineBad (bitsAt lab 0x40200800) = false) ∧
    (let s := labC fun c => { c with refetch := some 0x200000 };
      s.issues 3200 = true ∧ isOk (lineSegs s 0x200000) = true ∧ parityOk (bitsAt lab 0x40200000) = false) ∧
    (∀ b ∈ [0, 2], (0x3F : BitVec 6).getLsbD b = true ∧ (0x3F : BitVec 6).getLsbD (3 + b) = true) ∧
    ((lab.cgroup 63).state = 0 ∧ (labColl.cgroup 5).state ≠ 0 ∧ Config.isCompute 50 = true ∧ (lab.chip 50).peal = 6 ∧
      (lab.chip 51).peal ≠ 6) ∧
    (let s := { labFree id with now := 96000 };
      ((s.core 3200).rq 0).since = some 0 ∧ s.waitingRec 3200 0 = true ∧ recLvl ((s.core 3200).brec.getD 0 0) = 3) ∧
    (let s := labFree id
     let c := s.core 3200
     c.free = true ∧ s.clockRuns 3200 = true ∧ s.streamHolds 3200 = false ∧ s.choose 3200 = some (3, 0) ∧ c.imageOf 0 = none ∧
      (c.rq 0).head? = some (labMsg, false, 0) ∧ (s.region (recRid (c.brec.getD 0 0))).isSome = true ∧
      (s.handler 50 labRegion (tgtHix labMsg.tgt)).isSome = true ∧ (tgtKind labMsg.tgt == 1) = false) ∧
    (let s := labC fun c => c.suspend 0x200400 allLive 0 0xFFFF
     (s.core 3200).free = true ∧ s.streamHolds 3200 = false ∧ s.choose 3200 = some (3, 0) ∧ ((s.core 3200).imageOf 0).isSome = true) ∧
    (let s := labC fun c => { c with stopReq := true, safe := some 3 }
     s.stopAsked 3200 = true ∧ (s.partStop 3200).isSome = true) ∧
    (let s := labC fun c => { c with brec := c.brec.set! 0 (mkRec false 3 1 1 1 ||| 0x4000000000000000) }
     (s.core 3200).shedNow = true ∧ (s.chip 50).shedAt.getD 0 0 + shcDl (s.bell.cls 0) * 150000 ≤ 150000 * 31) ∧
    (lab.bankBusy 3200 0 = false ∧ (labC fun c => { c with bankPend := 0x3F }).bankBusy 3200 1 = false) ∧
    (let c := labC fun c => { c with wait := .waitq (some 5) false, async := [(.eccu, 0x200000, 0x1000)] }
     (c.core 3200).wait.yields = true ∧ (c.core 3200).midPair = false) := by decide +kernel

theorem witness_StartRegisters : labMsg.cont = false ∧ (newAct 3200 0 labRegion 1 (labMsg, false, 0) ⟨0x200400, true, 3⟩ 3 false
    false).trig = labMsg := ⟨rfl, rfl⟩

/-- The bench with accesses in flight: a load, a store and an atomic of the IMMEDIATE page. -/
abbrev labPend : State := labC fun c => { c with pend :=
  [⟨.load [.home (.pa 0x40001000), .taken ⟨5, true⟩] .acc .u32 1, [], 0, 0, 1⟩, ⟨.store [(.pa 0x40201000, 7)], [0], 0, 0, 1⟩,
    ⟨.amo 0 .u32 (Loc.span (.pa 0x40202000) 4) 1 0 (.reg 3), [1], 0, 0, 1⟩] }

theorem witness_AccessesReturn : let p := (labPend.core 3200).pend
    homesClash [] [] = false ∧ labPend.homeFault [.pa 0x40001000] true = none ∧ homesClash (p.take 1) [0] = false ∧
    labPend.homeFault [.pa 0x40201000] true = none ∧ homesClash (p.take 2) [1] = false ∧
    labPend.homeFault (Loc.span (.pa 0x40202000) 4) true = none ∧
    (queueCore labPend 3200 1 = 3200 ∧ ((labPend.core 3200).queue 1).length < qDepth 1) ∧
    ({ labPend with hostRefuse := [0] } : State).homeFault [.host 0 0 0] true ≠ none := by decide +kernel

/-- A page table at 0x200000 that maps 4 KiB at VA 0, its blocks owned by address space 1. -/
abbrev labWalk : State := { lab with
  spaces := [(1, ⟨0x200000, 0x10000, 0, false, [], 0, 0, false⟩)], owner := [(1, 1), (2, 1), (3, 1)]
  mem := [(0x200000, 1), (0x200002, 0x40), (0x400000, 1), (0x400001, 0x10), (0x400002, 0x40), (0x401000, 1), (0x401001, 0x20)
          , (0x401002, 0x40), (0x402000, 7), (0x402001, 2), (0x402002, 0x60)]
  chips := [(50, { Chip.reset with peal := 6 })] }
abbrev labPhase : State := { labC fun c => { c with act := some { labAct with phased := true, irrev := true }, wait := .phase } with
  groups := [(1, ⟨4, true, [3200], []⟩)] }

theorem witness_PhaseAndWalkStepsComplete : wfSite 50 = true ∧
    (labWalk.mayMiss 50 1 = true ∧ tlbFind (labWalk.chip 50).tlb 1 0 = none ∧ labWalk.walk 1 0 = .ok (0x600207, 4096)) ∧
    ((labPhase.members 1) = [3200] ∧ (labPhase.pgroup 1).started = true ∧ labPhase.arrived 1 3200 = true) := by decide +kernel

theorem witness_KillCompletes : (let s := { lab with spaces := [(1, (⟨0, 0, 0, true, [50, 51], 1, 6, false⟩ : Space))] }
    wfSite 50 = true ∧ KV.sorted s.spaces = true ∧ KV.sorted s.cores = true ∧ (KV.find s.spaces 1).map (fun r => (r.killed, r.killing)) = some (true, [50, 51]) ∧ s.midGroup 50 1 = false) ∧
    (labCore.boundTo 1 = true ∧ labCore.asid = 1 ∧ labCore.boundTo 2 = false ∧ recAsid (labCore.brec.getD 0 0) = 1) := by
  decide +kernel

/-- The bench with a launch queue at 0x208000 of one packet: three indices for handler 7. -/
abbrev labLaunch : State := { lab with
  mem := labMem ++ [(0x40208002, 0x21), (0x40208014, 1), (0x40210000, 7), (0x40210008, 3)]
  regions := [(1, { labRegion with lq := 0x208000 })], chips := (Config.bootChip, { Chip.reset with tlb := labTlb }) :: lab.chips }
abbrev labShare : Share := ⟨1, 0, 3, [3200], [], 7, List.replicate 160 0, 0, 0⟩

theorem witness_LaunchStepsComplete : wfSite 50 = true ∧
    (∀ x, x = labLaunch.ring Config.bootChip 1 0x208000 → (labLaunch.region 1).map (·.lq) = some 0x208000 ∧
      labLaunch.isKilled 1 = false ∧ labLaunch.sec.boot ≠ 5 ∧ x.map (fun y => (y.2.consistent, y.2.used)) = some (true, 1) ∧
      (x.bind fun y => { labLaunch with lqBad := KV.putD false 1 false [] }.packetAt Config.bootChip 1 1 y.2).map
        (fun y => (y.1.n, y.1.hix, y.2)) = some (3, 7, [50])) ∧
    (let s := labS fun k => { k with shares := [labShare] };
      (s.chip 50).shares.findIdx? (s.dealable 3200) = some 0 ∧ labShare.nextFor 3200 = some 0 ∧
      (s.core 3200).recOf 1 = some 0) ∧
    (∀ t ∈ [0, 3000], let s := { lab with now := t, launches := [⟨1, 0, 0, false⟩], sweeps := [(1, ⟨true, 2, 2, 0⟩)] }
      s.sweeps.filter (fun x => ((s.launches.map fun l => l.rid).eraseDups).any fun r => r.toNat == x.1) = s.sweeps ∧
        (s.now < 3000) = (t = 0)) := by
  refine ⟨by decide, ?_, by decide +kernel, by decide +kernel⟩
  intro x h
  rw [h]
  decide +kernel

theorem witness_LaunchRangesPartition : 0 < (([(50, 16), (51, 8)] : List (Nat × Nat)).map (·.2)).sum := by decide

/-- A packet from chiplet 50 to chiplet 51; the bench with a flight, a flit or an answer in hand. -/
abbrev labPkt : Packet := { labMsg with dch := 51, sch := 50, dep := 0, sep := 0, cls := 2 }
abbrev labMesh (f : Chip → Chip) : State := labS fun k => f { k with nsel := [(50, 0x8000), (51, 0x8000)] }
abbrev labFly (l : List Flight) : State := { labMesh id with flights := l }
abbrev labAns (kind : BitVec 2) : State := labMesh fun k => { k with
  answers := [⟨kind, 3, 2, 50, 0, 51, 0, false, false, false, 0, 50⟩], retained := [⟨labPkt, 0, none, false⟩] }
abbrev flit (rv : Bool) (rch site : Nat) : SideFlit := ⟨0, 0, 2, 50, 0, 51, rch, rv, false, false, 0, site⟩
abbrev here (q : W16) : Flight := ⟨{ labPkt with dch := 50, sch := 51, seq := q }, 50, 0, false⟩

theorem witness_MeshStepsComplete : wfSite 50 = true ∧
    (let s := labMesh fun k => { k with sendq := [labPkt] };
      (s.waiting 50)[0]? = some (none, labPkt) ∧ (s.chip 50).resolve labPkt = some labPkt ∧ s.firstOfFlow 50 0 none labPkt = true ∧
      nselV (s.nselOf 50 51) = true ∧ s.outFlow 50 51 2 = ⟨0, [], 0, false⟩ ∧
      (s.inject 50 (s.codePacket 50 (withRoute labPkt (s.nselOf 50 51))).1).isSome = true ∧ s.siteDown 50 = false ∧
      (s.modChip 50 fun k => { k with peal := 7 }).siteDown 50 = true) ∧
    (let s := labMesh fun k => { k with sendq := [{ labPkt with dch := 52 }] }
     (s.waiting 50)[0]? = some (none, { labPkt with dch := 52 }) ∧ nselV (s.nselOf 50 52) = false ∧
      s.firstOfFlow 50 0 none { labPkt with dch := 52 } = true) ∧
    (let s := labFly [⟨labPkt, 50, 4, false⟩];
      s.yields ⟨labPkt, 50, 4, false⟩ = false ∧ nextSite false 50 51 = 51 ∧ s.routerOff 51 = false ∧
      s.portTake 51 false 0 4 false = some false ∧ (s.modChip 51 fun k => { k with peal := 7 }).routerOff 51 = true ∧
      (labFly (List.replicate 4 ⟨labPkt, 51, 0, false⟩)).portTake 51 false 0 4 false = none) ∧
    (let s := labFly []
     (lab.chip 50).peal = 6 ∧ codeOk (here 0).pkt = true ∧ codeOk { labPkt with cmp := true } = false ∧
      ((100 : W16) - (s.inFlow 50 51 2).next).toNat = 100 ∧ (s.inFlow 50 51 2).seen = 0 ∧ s.landFree 50 (here 0).pkt = true ∧
      (s.reserve 50 false (here 0).pkt).1 = some 0 ∧
      (s.reserve 50 true { (here 1).pkt with cls := 3 }).1 = none ∧
      (s.setInFlow 50 51 3 ⟨0, 0, List.replicate 188 (0, labPkt)⟩).landFree 50 (here 0).pkt = false) ∧
    ((flit false 0 50).site = (flit false 0 50).tch ∧ (flit true 50 50).site = (flit true 50 50).rch) ∧
    (∀ k : BitVec 2, ((labAns k).takeAnswer 50 k).map (fun x => x.1.pch) = some 51) ∧
    ((⟨labPkt, 0, none, false⟩ : Retained).isOf ⟨0, 3, 2, 50, 0, 51, 0, false, false, false, 0, 50⟩ = true) ∧
    ((labAns 0).inject 50 (withRoute labPkt ((labAns 0).nselOf 50 51))).isSome = true ∧ ((labAns 0).chip 50).agedOut < 4 ∧
    (((0 : W16) - ((labAns 2).inFlow 50 51 2).next).toNat < 64 ∧ ((labAns 2).inFlow 50 51 2).seen.getLsbD 0 = false) := by
  decide +kernel

/-- A GL packet of the bench, and link 0 up with one packet packed and one not acknowledged. -/
abbrev labGl : GlPacket := glOf 1 labPkt ⟨2, 3, 4, 0⟩
abbrev labUp : GlLink := { GlLink.reset with state := 2, wid := 3, packing := [⟨labGl, 0⟩], unacked := [labGl]
                                             rcopies := [⟨2, 50, 0x50, 4, 9, 6, 1, 7, 4, true, 0, false⟩] }
abbrev labLink (k : GlLink) : State := (labS id).setLink 0 k

theorem witness_LinkStepsComplete : wfEight 0 = true ∧ (labLink labUp).link 0 = labUp ∧
    (labUp.up = true ∧ labUp.packing[0]? = some ⟨labGl, 0⟩ ∧ labUp.unacked.length < 256 ∧ labUp.closable 0 0 ⟨labGl, 0⟩ = true) ∧
    ((labGl.lseq - labUp.rxNext).toNat < 256 ∧ labUp.rxHeld = []) ∧ seqGe 0xFFFFFFFF labUp.rxNext = false ∧
    (labUp.rcopies.map (fun c => (c.answered, c.eom)) = [(false, true)]) ∧
    labUp.unacked.find? (fun q => q.lseq == 0) = some labGl ∧ labUp.heldFrames = [] ∧ (∀ x ∈ [((0x80 : W16), 0xFFFF), (0x8080, 0)], x.1 &&& lanesOf labUp.wid ≠ 0 ∧ (otherHalf labUp.wid x.1 = 0 ↔ x.2 = 0)) ∧
    (0x80 : W16) &&& lanesOf 2 = 0 ∧ labUp.retrain = none ∧ (∀ h, h < 4 → (0xFFFF : W16) &&& lanesOf h = lanesOf h) ∧
    (let s := { labLink GlLink.reset with now := 150000000 }.modChip (Config.glChip 0) fun k => { k with peal := 4 };
      (s.link 0).state = 0 ∧ s.gateLive 0 = true ∧ (s.link 0).tryAt ≤ s.now ∧ (s.link 0).up = false ∧ (s.link 0).lost = false ∧
      ((s.link 0).downSince + 150000000 : Int) ≤ (s.now : Int) ∧ (s.setLink 0 { GlLink.reset with state := 1 }).gateLive 0 = true) := by
  decide +kernel

/-- The bench with the engine of cluster 200 changed. -/
def labE (f : Mxe → Mxe) : State := labS fun k => { k with mxe := k.mxe.set! 0 (f (k.mxe.getD 0 Mxe.reset)) }
/-- A descriptor of one row and column at an address; a command of two; it in hand over a tile of one element. -/
def desc1 (base : W32) (str : W32) : List Lane := ([base, 0, str, 0x10001] ++ List.replicate 12 0).map fun w => ⟨w, true⟩
def desc2 (base : W32) (op : Nat) (ty : Ty) : MxCmd := { labCore.mxCmd 3200 op .none with
  ty := ty, tb := ty, block := desc1 base 4 ++ if op = 0xA9 then desc1 0x2040 4 else List.replicate 16 ⟨0, true⟩ }
abbrev mxRun (base : W32) (op : Nat) (ty : Ty) (sts : Option Byte) : MxRun := ⟨desc2 base op ty, 0, 0, 0, sts, 0⟩
def labMx (r : MxRun) : State := labE fun x => { x with run := some r, tiles := x.tiles.set! 0 { Tile.reset with tm := 1, tn := 1 } }
/-- Slot entry that gives every slot to a bind, strictly. -/
abbrev slots (w : W32) (x : Mxe) : Mxe := { x with slot := Vector.replicate 16 w }

theorem witness_MatrixStepsComplete : engineRuns lab 200 ∧
    (let r := mxRun 0x2000 0xA9 .bf16 none
     let s := labE fun x => { x with susp := [r] }
     let q := labInbox [r.cmd]
     s.nextBind 200 = some 0 ∧ (s.mxe 200).run = none ∧ ((s.mxe 200).susp.find? (fun r => r.bind == 0)).isSome = true ∧
      q.nextBind 200 = some 0 ∧ (q.mxe 200).run = none ∧ (q.mxe 200).susp = [] ∧ (q.mxe 200).queued 0 = [r.cmd] ∧
      isStreamOp r.cmd.op = false) ∧
    (let s := labMx (mxRun 0x2000 0xAB .f32 none)
     s.entitled 200 0 = true ∧ (s.aloadRun 200 (mxRun 0x2000 0xAB .f32 none)).2 = none ∧
      (s.aloadRun 200 (mxRun 0x2000000 0xAB .f32 none)).2 ≠ none ∧
      (s.astoreRun 200 (mxRun 0x2000 0xAC .f32 none)).2.2 = none ∧
      (s.mxe 200).rampOk = true ∧ s.chargeOk 200 (chunkClass .bf16) = true ∧
      isOk (s.mmaChunk 200 (mxRun 0x2000 0xA9 .bf16 none)) = true ∧
      isOk (s.mmaChunk 200 (mxRun 0x2000000 0xA9 .bf16 none)) = false) ∧
    (∀ f ∈ ([0, 5] : List Byte), ((labMx (mxRun 0x2000 0xA9 .bf16 (some f))).mxDeliver 200 (mxRun 0x2000 0xA9 .bf16 (some f)) f).isSome
      = true) ∧ stsHalts 0 = false ∧ stsHalts 5 = true ∧
    (let s := labE fun x => slots 0x31 { x with run := some (mxRun 0x2000 0xA9 .bf16 none) };
      (s.setMxe 200 { s.mxe 200 with curSlot := slotAt s.now }).entitled 200 0 = false) ∧
    (let s := { labMx (mxRun 0x2000 0xA9 .bf16 none) with now := 6000 }; slotAt s.now ≠ (s.mxe 200).curSlot) := by decide +kernel

/-- Memory with a stored chunk. -/
def chunkAt (a unit : Nat) (u : List Byte) : List Host.Cell :=
  ((chunkStore unit u).zipIdx.map fun (x : Byte × Nat) => (a + x.2, x.1)).filter fun (x : Nat × Byte) => x.2 != 0
/-- A block header of one row and column of payload, for every cluster, and its successor at 0x200040. -/
def hdr1 (opc : Byte) (fmt aty : Ty) (plen : Byte) (u : List Byte) : List Byte :=
  [0xA1, opc, 0, 0, 15, 0, 0, 0, 0x40, 0, 0x20, 0, 0, 0, 0, 0, plen, 0, 0, 0, 1, 0, 1, 0, fmt.code.zeroExtend 8, 0, 0, 0, 0, 0,
    aty.code.zeroExtend 8, 0] ++ List.replicate 28 0 ++ leBytes 4 (crc32Run 0xFFFFFFFF u ^^^ 0xFFFFFFFF).toNat
/-- A stream at 0x200000 with a header in hand and its chunk staged, or not. -/
def stream1 (h : List Byte) (staged : List (Nat × List Byte)) : Stream := { Stream.start (desc2 0x2000 0xB3 .bf16) 0 with
  b := 0x200000, busy := true, header := h, staged := staged, cur := payloadBytes (desc1 0x2000 4) ++ List.replicate 64 0 }
abbrev mmaHdr : List Byte := hdr1 1 .bf16 .bf16 12 [0x80, 0x3F]
abbrev biasHdr : List Byte := hdr1 3 .f32 .i8 12 [0, 0, 0x80, 0x3F]
/-- The bench with such a stream in a page that holds weights, its chunk in memory, every slot its bind's. -/
def labSt (t : Stream) : State := { labE fun x => slots 0x10 { x with
  stream := some t, tiles := x.tiles.set! 0 { Tile.reset with tm := 1, tn := 1 } } with
    mem := chunkAt 0x40200040 2 [0x80, 0x3F] }.modChip 50 fun k =>
  { k with tlb := [⟨1, 0, 0x200000, 0x40000207, false⟩, ⟨1, 1, 0x200000, 0x40200213, false⟩] }

theorem witness_StreamStepsComplete :
    (let s := labInbox [{ labCmd with op := 0xB3, block := List.replicate 32 ⟨0, true⟩ }]
     engineRuns s 200 ∧ (s.mxe 200).run = none ∧ s.nextBind 200 = some 0 ∧ (s.mxe 200).susp = [] ∧ (s.mxe 200).hlt 0 = false ∧
      ((s.mxe 200).queued 0).all (·.startOk) = true ∧ (s.mxe 200).stream = none) ∧
    (let s := (labInbox [{ labCmd with op := 0xB5 }]).setStream 200 { stream1 [] [] with state := 4 }
     s.nextBind 200 = some 0 ∧ (((s.noteLent 200 0).mxe 200).stream).map (·.state) = some 4) ∧
    (let t := stream1 mmaHdr []
     let s := labSt t
     engineRuns s 200 ∧ t.sts = none ∧ s.streamHeld 200 0 = false ∧ s.isKilled 1 = false ∧ s.streamSlot 200 0 = true ∧
      (labE fun x => { x with bind := x.bind.set! 0 0 }).streamHeld 200 0 = true ∧ t.ahead = none ∧ t.cfault = none ∧
      (WHead.of mmaHdr).map (fun h => (h.mma, h.chunks)) = some (true, 1) ∧ s.chargeOk 200 7 = true ∧ s.chargeOk 200 4 = true ∧
      (s.mxe 200).rampOk = true ∧ (WHead.of mmaHdr).map (fun h => isOk (s.fetchChunk 200 t h 0 0)) = some true ∧
      (let t := stream1 mmaHdr [(12, [0x80, 0x3F])];
        (WHead.of mmaHdr).map (fun h => (s.chunksDue 200 t h, isOk ((labSt t).streamMma 200 t h 1))) = some (1, true)) ∧
      (let t := stream1 biasHdr [(12, [0, 0, 0x80, 0x3F])];
        (WHead.of biasHdr).map (fun h => (h.mma, isOk ((labSt t).streamEpi 200 t h))) = some (false, true))) ∧
    (let t := { stream1 mmaHdr [] with sts := some 5, addr := 9 }
     (labSt t).haltDue 200 t = some (5, 9) ∧ t.via.cp = .none) := by decide +kernel

/-- A copy of 4 bytes from 0x1000 to the page at 2 MiB, transformed; a run of it. -/
def copyBlk (src dst xop : W32) : List Lane :=
  ([src, 0, dst, 0, 4, 0x10001, 1, 0, 0, 0, 0, 0, 0, xop, 0, 0]).map fun w => ⟨w, true⟩
def copyRun1 (b : List Lane) (pat : W64) (e : Option Byte) : CopyRun :=
  { CopyRun.start { labCore.copyCmd 3200 0xA8 .none b with cepat := pat } 0 true (.ok ()) with sts := e }
def labCe (r : CopyRun) : State := { labS fun k => { k with ceRun := [r] } with
  mem := labMem ++ chunkAt 0x40201100 1 [1, 2, 3, 4] }
abbrev plain1 := copyRun1 (copyBlk 0x1000 0x201000 0) 0 none
abbrev pack1 := copyRun1 (copyBlk 0x1000 0x201000 2) 0 none
abbrev unpack1 (src : W32) := copyRun1 (copyBlk src 0x201000 3) 0 none
abbrev conv1 := copyRun1 (copyBlk 0x1000 0x201000 0x9A04) 0 none
abbrev deal1 := copyRun1 (copyBlk 0x1000 0 5) 0x01000100 none
/-- A command of operation 0 of group 5, its status and result. -/
def coll1 (sts : Option Byte) (r : Option (List Byte)) : CollCmd where
  fn := 2
  core := 3200
  rid := 1
  asid := 1
  user := true
  block := ((labColl.core 3200).spWords 0x200 16).set 2 ⟨0x201000, true⟩
  cp := .none
  seq := 0
  key := 0
  lcn := 0
  phg := 0
  opn := 0
  result := r
  scrc := 0
  sts := sts
  addr := 0
  pubs := []
def labCl (c : CollCmd) : State := labColl.modChip 50 fun k => { k with clIn := [c] }
/-- Group 5 of two members, some partials come. -/
abbrev labTree : State := { labColl with
  cgroups := [(5, ⟨1, 3, 1, [51, 60], [], 0, [(51, some []), (274, some [1]), (276, none)]⟩)] }

theorem witness_CopyStepsComplete : wfSite 50 = true ∧
    (let s := labS fun k => { k with ceIn := k.ceIn.set! 0 [plain1.cmd] }
     (s.chip 50).ceIn.getD (0 % 4) [] = [plain1.cmd] ∧ s.copyHeld 50 plain1.cmd = false) ∧
    (∀ r ∈ [plain1, pack1, unpack1 0x201100, conv1, deal1], r.cmd.op = 0xA8 ∧ r.sts = none ∧ r.cmd.head.rmt = false ∧
      (labCe r).chargeOk 200 7 = true) ∧
    (∀ r ∈ [plain1, deal1], r.mayStep (((labCe r).chip 50).flowBusy 0 r) = true ∧ (labCe r).copyHeld 50 r.cmd = false ∧ r.foi = none ∧
      ({ r with sts := some 5 } : CopyRun).ends = some 5) ∧ ({ plain1 with sts := some 0 } : CopyRun).ends = some 0 ∧
    isOk ((labCe plain1).plainStep plain1 4) = true ∧ isOk ((labCe pack1).packStep pack1 4) = true ∧
    isOk ((labCe (unpack1 0x201100)).unpackStep (unpack1 0x201100) 4) = true ∧
    isOk ((labCe conv1).convStep conv1 4) = true ∧ ((labCe deal1).dealAll 4 65 deal1).2.bdone = 4 ∧ conv1.stepEnd = 4 ∧
    isOk ((labCe (unpack1 0x1000)).unpackStep (unpack1 0x1000) 4) = false ∧
    isOk ((labCe plain1).plainStep (copyRun1 (copyBlk 0x1000000 0x201000 0) 0 none) 4) = false ∧
    (∀ f ∈ ([0, 5] : List Byte), ((labCe plain1).folEnd plain1 (f == 0)).isSome = true) ∧ quietSts 0 = true ∧ quietSts 5 = false ∧
    (∀ x ∈ [(75, [51]), (275, [274, 276])], x.1 ∈ lab.treeSites [51, 60] ∧ lab.treeChildren [51, 60] x.1 = x.2) ∧
    lab.treeRoot [51, 60] = 275 ∧ labTree.collHeld 5 0 = false ∧ (∀ n ∈ [75, 275], n ∉ [51, 60]) ∧
    ((labCl (coll1 none none)).collOf 5 0 50).isSome = true ∧
    (∀ c ∈ [coll1 (some 0x40) none, coll1 none (some (List.replicate 64 0))], (labCl c).shedOn 50 1 = false ∧
      (labCl c).collHeld 5 0 = false) ∧
    isOk ((labCl (coll1 none none)).collWrite (coll1 none none) (List.replicate 64 0)) = true ∧
    (coll1 (some 0x40) none).refused = true ∧
    (let c := coll1 (some 0) (some (List.replicate 64 0))
     ((labCl c).chip 50).clIn[0]? = some c ∧ c.sts = some 0 ∧ c.result.isSome = true) ∧
    (({ labColl with cgroups := [(5, ⟨2, 3, 1, [50], [], 0, []⟩)] } : State).cgroup 5).state = 2 := by decide +kernel

/-- A control block of a root region: 16 cores, eight handlers at 2 MiB. -/
def rcb1 : List (Nat × Byte) := [(8, 0xFF), (9, 1), (10, 1), (12, 16), (20, 1), (28, 8), (34, 0x20)]
def cells (a : Nat) (l : List (Nat × Byte)) : List Host.Cell := l.map fun x => (a + x.1, x.2)
/-- The bench with a mailbox call at 0x201000: its code, then bytes of its block; the core changed. -/
def labMbx (code : Byte) (args : List (Nat × Byte)) (f : Core → Core) : State := { labC fun c => f { c with
  mbx := [⟨0x201000, 1, 1⟩] } with
    mem := labMem ++ cells 0x40201000 ((0, code) :: [(4, 0xFF), (5, 0xFF), (6, 0xFF), (7, 0xFF)] ++ args) ++
      cells 0x40210000 rcb1 }
def mbxReads (s : State) (code : Nat) : Bool := (s.mbxBlock 3200 ⟨0x201000, 1, 1⟩).any fun x =>
  callCode x.2 == code && callZero x.2 && reqCore x.2 == 0 &&
    reqChip x.2 == if code = 1 ∨ code = 6 ∨ code = 8 then 0 else 50
abbrev siteArgs : List (Nat × Byte) := [(16, 1), (18, 50)]
/-- The core free to move: MIG set, nothing running; its team alone, chiplet 51 READY. -/
abbrev labMove : State := (labMbx 9 siteArgs fun c => { c with act := none, brec := c.brec.set! 0 (mkRec true 3 1 1 1) }).modChip 50
  (fun k => { k with teams := [(1, ⟨1, 0, 0, 0⟩)] }) |>.modChip 51 fun k => { k with peal := 6 }

theorem witness_MailboxCallsComplete : wfCore 3200 = true ∧ Config.isCompute 50 = true ∧ (lab.chip 50).peal = 6 ∧
    (let s := { labMbx 1 [(26, 0x21)] id with regions := [] }
     mbxReads s 1 ∧ isOk (s.loadRcb 50 1 0x210000) = true ∧ s.region 2 = none ∧ s.regionAt 1 0x210000 = none) ∧
    (let s := labMbx 2 siteArgs id
     mbxReads s 2 ∧ s.region 1 = some labRegion ∧ isOk (s.loadRcb 50 1 labRegion.rcb) = true) ∧
    (let s := labMbx 3 siteArgs id
     mbxReads s 3 ∧ s.hasTeam 1 = true ∧ (s.modChip 50 fun k => { k with teams := [] }).hasTeam 1 = false) ∧
    mbxReads (labMbx 4 siteArgs id) 4 ∧
    (let s := labMbx 5 siteArgs id
     let t := labMbx 5 siteArgs fun c => { c with act := none }
     mbxReads s 5 ∧ mbxReads t 5 ∧ (s.team 50 1).mask ≠ 0 ∧ s.teamIdle 50 1 = false ∧ t.teamIdle 50 1 = true ∧
      (t.chip 50).shares = []) ∧
    mbxReads (labMbx 6 [] id) 6 ∧
    (let s := labMbx 7 (siteArgs ++ [(25, 0x20), (26, 0x20)]) fun c => c.suspend 0x200400 allLive 0 0xFFFF
     mbxReads s 7 ∧ ((s.core 3200).recOf 1).map (fun i => ((s.core 3200).imageOf i).map fun m =>
      (s.callBuffer 3200 ⟨0x201000, 1, 1⟩ 0x202000 m.bytes.length).isSome) = some (some true)) ∧
    (let s := labMbx 8 [(25, 0x20), (26, 0x20)] id
     mbxReads s 8 ∧ (s.callBuffer 3200 ⟨0x201000, 1, 1⟩ 0x202000 32).isSome = true) ∧
    (mbxReads labMove 9 ∧ labMove.mayMigrate 50 1 = true ∧ labMove.canHost 50 51 1 labRegion [0] = true) := by decide +kernel

/-- The bench with its first address space killed, or not, and a command of port 0 in hand. -/
def labHost (code : Byte) (args : List (Nat × Byte)) : State := { lab with
  ports := lab.ports.set! 0 { HostPort.reset with busy := true, cmd := (0, code) :: args }
  mem := labMem ++ cells 0x40210000 rcb1
  chips := (Config.memoryOfIndex 0, { Chip.reset with peal := 6 }) :: (Config.bootChip, { Chip.reset with tlb := labTlb }) ::
    lab.chips }
def labDead (s : State) : State := { s with spaces := [(1, ⟨0, 0x10000, 0, true, [], 5, 0, false⟩)] }
abbrev grantArgs : List (Nat × Byte) := [(8, 1), (24, 1)]
/-- An image of the right form, unsigned. -/
def image1 : List Byte := [0x49, 0x4D, 0x57, 0x52, 1, 0, 0, 0] ++ List.replicate 5560 0

theorem witness_HostCommandsComplete : (∀ c : Fin 13, cmdHas (labHost (BitVec.ofNat 8 c.val) []) 0 c.val) ∧
    (labHost 1 []).asidFree 2 = true ∧ (KV.find (labHost 2 [(8, 1)]).spaces 1).isSome = true ∧
    (let s := labHost 3 grantArgs
     (s.port 0).blocks = some [0] ∧ (s.port 0).arg 8 2 = 1 ∧ s.lives 1 = true ∧ s.blockThere 0 = true ∧ KV.get 0 s.owner 0 = 0) ∧
    (KV.find (labDead (labHost 4 grantArgs)).spaces 1).map (fun r => (r.killed, r.killing)) = some (true, []) ∧
    (let s := { labHost 5 [(8, 1), (18, 0x21)] with regions := [] }
     (s.port 0).arg 16 8 = 0x210000 ∧ (okOr labRegion (s.loadRcb Config.bootChip 1 0x210000)).parent = 0 ∧
      isOk (s.loadRcb Config.bootChip 1 0x210000) = true ∧ s.regionAt 1 0x210000 = none ∧ s.region 2 = none) ∧
    (∀ a : Fin 2, (labHost 7 [(10, BitVec.ofNat 8 a.val)]).lives 1 = true) ∧
    lab.sec.boot ≠ 5 ∧ lab.sec.stopped = false ∧ lab.sec.key = none ∧ ({ lab.sec with key := some [1] } : Security).key ≠ none ∧
    lab.sec.writePolicy 0 ≠ none ∧ { lab.sec with almpol := 0x101 }.writePolicy 0x100 = none ∧
    (let s := (labHost 11 [(8, 50)]).modCore 3200 fun c => { c with brkStop := [0] };
      64 * (s.port 0).arg 8 2 + (s.port 0).arg 10 1 = 3200 ∧ (s.core 3200).brkStop ≠ []) ∧
    (let s := (labHost 0 []).modChip Config.bootChip fun k => { k with peal := 4 };
      s.romWaits = true ∧ s.sec.boot = 0 ∧ (s.offer 0).sec.offers.head? = some 0 ∧ (s.imageAt 0 = [] ∧ imgRefusal [] true 1 s.sec.minsvn ≠ 0)) ∧
    (let s := (labHost 0 []).modChip (Config.hostPortChip 0) fun k => { k with peal := 7 }; s.siteDown (Config.hostPortChip 0) = true) := by
  decide +kernel

/-- That image at bus address 0 behind port 0. -/
def labImage : State := { lab with
  ports := lab.ports.set! 0 { HostPort.reset with imglen := 5568 }
  hostMem := [(0, 0x49), (1, 0x4D), (2, 0x57), (3, 0x52), (4, 1)].map fun x => (hostKey 8 0 x.1, x.2) }

theorem test_image_read : (labImage.imageAt 0).take 16 = image1.take 16 := by decide +kernel

/-- An image is accepted where its key and its signature are the ROM's; what those say of given bytes is opaque. -/
theorem witness_HostCommandsComplete_image (h : shake256 (imgPk image1) 32 = Config.romKeyDigest)
    (v : Config.mldsaVerify (imgPk image1) (imgDigest image1) (imgSig image1) = true) : imgRefusal image1 true 1 0 = 0 := by
  have f : imgForm image1 1 = true := by decide +kernel
  simp [imgRefusal, h, v, f]

/-- The bench with an empty launch queue behind window 0, and apertures on the PHASED and the IMMEDIATE page. -/
abbrev labRingW : State := { lab with
  mem := labMem ++ [(0x40208002, 0x21)], windows := [(0, ⟨1, 0x208000, [], 0⟩)]
  apertures := [(0, ⟨1, 0x200000, true⟩), (1, ⟨1, 0x200000, false⟩)]
  chips := (Config.bootChip, { Chip.reset with tlb := labTlb }) :: (lab.modChip (Config.hostPortChip 0) fun k => { k with tlb := labTlb }).chips }

theorem witness_HostAccessesComplete : wfEight 0 = true ∧
    hits 0x200 4 0x200 4 = true ∧ hits 0x100 4 0x200 4 = false ∧ hits 0x100 4 0x404 4 = false ∧ hits 0x200 4 0x1C 4 = false ∧
    (let x := labRingW.ring Config.bootChip 1 0x208000
     labRingW.isKilled 1 = false ∧ labRingW.sec.boot ≠ 5 ∧ x.map (fun y => (y.2.used, y.2.log2n, y.2.base)) = some (0, 0, 0x210000) ∧
      (∀ y, x = some y → y.1.any Loc.isHost = false) ∧
      isOk (labRingW.placesAs Config.bootChip 1 false 0x210000 256 .w true) = true) ∧
    ((labRingW.apertureSegs 0 0x1000 8 false).isSome = true ∧ (labRingW.apertureSegs 0 0x1000 8 true).isSome = true ∧
      labRingW.apertureSegs 1 0x1000 8 true = none) ∧ lab.hostPending 0 0 0 4096 = false ∧ 8 < (lab.port 0).width := by decide +kernel

/-- The module with some sites in states of bring-up, the ROM in a state. -/
def labUpAt (boot : Nat) (l : List (Nat × Nat)) : State := { State.reset with
  now := 75000000, sec := { Security.reset with boot := boot }
  chips := l.map fun x => (x.1, { Chip.reset with peal := x.2 }) }

theorem witness_BringUpAndAlarmComplete : wfSite 10 = true ∧
    (∀ k ∈ [1, 2, 3, 4, 5, 6], (labUpAt 0 [(10, k)]).peal 10 = k) ∧
    (labUpAt 0 [(10, 2)]).clockOf 10 [10] = some 10 ∧ (labUpAt 0 [(10, 2)]).clockOf 10 [] = none ∧
    (∀ k ∈ [1, 2, 3, 4, 5], (pealLimit k).any (fun l => decide (l ≤ 75000000)) = true) ∧
    (let s := labUpAt 3 [(50, 5), (74, 6)]; s.peal 50 = 5 ∧ s.sec.boot = 3 ∧ s.peal (s.feeder 50) = 6) ∧
    (let s := labUpAt 3 [(10, 7), (11, 5), (12, 7), (35, 7)]; Config.bootChip = 11 ∧ s.sec.boot = 3 ∧ s.pass1Over = true) ∧
    State.reset.sec.window = none := by decide +kernel

theorem witness_AlarmCounter : KV.sorted lab.spaces = true ∧ lab.spaces.map (·.1) = [1] ∧ lab.sec.window = none ∧
    strictest 0 1 = 0 ∧ strictest 1 1 = 1 ∧ strictest 2 1 = 2 := by decide +kernel

/-- A telemetry frame. -/
def frame1 (meas : Byte) : List Byte :=
  let b := [0x5A, 0xA5, 1, 0, 1, 0, 0, 0, 0, 0, 0, 0, 0, 0, 0, 0, meas, 0]
  b ++ leBytes 2 (crc16 0xFFFF b).toNat
abbrev labBell (f : Bellman → Bellman) : State := { lab with now := 60000000, bell := f lab.bell }

theorem witness_PowerStepsComplete : wfSite 50 = true ∧ wfCluster 200 = true ∧
    ((labS fun k => { k with hops := [(3200, 470)] }).chip 50).hops.find? (fun h => h.1 == 3200) = some (3200, 470) ∧
    (let c := (labFree fun c => { c with gate := .holding 0, recq := c.recq.set! 0 RecQ.reset }).core 3200
     c.idle = true ∧ c.gateHold.toNat * 1500 ≤ 30000) ∧
    (lab.pwr 200).refillAt = 0 ∧ (lab.mxe 200).rampAt = 0 ∧ (lab.pwr 200).inrushAt = 0 ∧ lab.bell.periodAt = 0 ∧
    (let ask (s : State) (x : Mxe) : Nat :=
        (x.burn + (x.actPrev - s.fallOf x - x.act)) / 32 * ((s.pwr 200).cbwt.extractLsb' 32 8).toNat;
      ask lab (lab.mxe 200) ≤ (lab.pwr 200).bucket ∧
        (let s := (lab.setPwr 200 { lab.pwr 200 with bucket := 5 }).setMxe 200 { lab.mxe 200 with actPrev := 1000000 };
          (s.pwr 200).bucket < ask s (s.mxe 200))) ∧
    (∀ m : Fin 2, lab.bell.accepts (frame1 (BitVec.ofNat 8 m.val)) = true ∧
      frameMeas (frame1 (BitVec.ofNat 8 m.val)) = decide (m.val = 1)) ∧ lab.bell.accepts [] = false ∧
    (lab.bell.stale = false ∧ lab.bell.lastMeas = 0) ∧
    (let b := { lab.bell with stale := true, blcfg := 1, shed := 2, hold := lab.bell.hold.set! 1 (some 0) }
     b.en = true ∧ b.fallback = false ∧ b.staleSince + 60000000 ≤ 60000000 ∧ b.shed.getLsbD 1 = true ∧
      shcRhold (b.cls 1) * 1500000 ≤ 60000000) := by decide +kernel

theorem witness_ShiftResults : isInt .i8 = true ∧ 200 < 2 ^ width .i8 ∧ 255 < 2 ^ width .i8 := by decide

abbrev psx : MI := { ps with imm := 0x80000000 }
abbrev psb : MI := { ps with oa := rg 1 }
abbrev showRd : SY := sy 0x080 (rg 2)

theorem witness_PointerConstants : KV.sorted lab.cores = true ∧ ptrReady lab (.pset ps) (miAsM3 ps) [ps.od] ∧
    ptrReady lab (.psetHi psh) (miAsM3 psh) [psh.od] ∧ ptrReady lab (.pset psb) (miAsM3 psb) [psb.od] ∧
    (let t := after (exec (.pset ps) lab);
      exec (.pset ps) lab = .next t ∧ ptrReady t (.psetHi psh) (miAsM3 psh) [psh.od] ∧
      ps.imm = (0x8000000080000000 : W64).extractLsb' 0 32 ∧ psh.imm = (0x8000000080000000 : W64).extractLsb' 32 32) := by
  refine ⟨by decide, by decide +kernel, by decide +kernel, by decide +kernel, rfl, ?_, by decide, by decide⟩
  decide +kernel

theorem witness_ShowingRegisters : (lab.core 3200).group = some 1 ∧ (lab.core 3200).act = some labAct ∧
    (lab.canIssue (.srd showRd) false false [rg 2] = true ∧ srLegal showRd false lab = true ∧ lab.readSr 3200 0x080 = some 1 ∧
      (lab.core 3200).checkLocals 8 [(rg 2, 8, 8)] = .ok ()) ∧
    (lab.canIssue (.swr showRd) false false [rg 2] = true ∧ srLegal showRd true lab = true ∧
      (match labCore.readElems (lab.canFill 3200) 8 (rg 2) .u64 1 with
      | .ok (_, [e], _) => e.v
      | _ => false) = true) ∧ (labC fun c => { c with act := none }).readSr 3200 0x080 = some 0 := by decide +kernel

/-- The bench with a slot before its core; with a turn of the schedule; with the launch queue's front end as its agent. -/
abbrev labNop : State := placed .nop lab

theorem witness_StepRunsDecoded : (let c := labNop.core labNop.self
    labNop.turns = [] ∧ c.act ≠ none ∧ labNop.killDue 50 c.asid = false ∧ labNop.hopping 3200 = false ∧
      c.async = [] ∧ labNop.stopsNow 3200 = false ∧ labNop.drains 3200 = false ∧
      c.wait = .none ∧ labNop.waitRow 3200 = none ∧ c.refetch = none ∧ c.slot? = some 0 ∧ decode 0 = .ok .nop ∧
      spOf .nop = false) ∧
    (Instr.launchTake 1).form = .agent := by decide +kernel

/-- Turns: a corrected error alone; a core's turn; an agent's row. The first counts its error (R445). -/
theorem witness_StepRunsDecoded_turns :
    (match step { labNop with turns := [⟨1, none, none, some (.fixed 50), none⟩] } with
    | .next u => (u.chip 50).ecccor == 1 && u.turns.isEmpty && u.now == labNop.now + 1
    | _ => false) = true ∧
    (match step { labNop with turns := [⟨0, some 3200, none, none, none⟩] } with
    | .next u => (u.core 3200).pc == 1
    | _ => false) = true ∧ (Instr.dispatch 3201).form = .agent ∧
    (match step { labNop with turns := [⟨0, none, some (.dispatch 3201), none, none⟩] } with
    | .next u => u.self == 3200
    | _ => false) = true := by decide +kernel

theorem test_error_in_reading : (match step { labNop with turns := [⟨0, none, none, some (.coreRead 3200 8), none⟩] } with
    | .next u => (u.chip 50).eccunc == 1 && (u.core 3200).act.isNone
    | _ => false) = true := by decide +kernel

/-- The bench with its module running. -/
abbrev labOn : State := { labNop with sec := { labNop.sec with boot := 4 } }

/-- BLSHC with DL outside 5 … 200 stores 20 (R376); a peer entry of a site that the module lacks is none (R260). -/
theorem test_input : (match step { labOn with turns := [⟨0, none, none, none, some (.blshc 2 0x00040400)⟩] } with
    | .next u => (u.bell.shc.getD 2 0).extractLsb' 16 8 == 20#8
    | _ => false) = true ∧ (labOn.given1 (.peer 50 3 (some (7, 2))) |>.chip 50).peers = [(3, (7, 2))] ∧
    labOn.given1 (.peer 600 3 (some (7, 2))) = labOn ∧ labNop.given1 (.peer 50 3 (some (7, 2))) = labNop := by decide +kernel

theorem witness_DecodeEncode : (Instr.fadd (m3 .f32 15 0 .acc (at0 1) (.inc 2 1) .zero)).wf = true ∧
    encode (.fadd (m3 .f32 15 0 .acc (at0 1) (.inc 2 1) .zero)) = some 0x4057_8000_8000_0400_2801_0000 := by decide
theorem witness_EncodeDecode : decode 0x4057_8000_8000_0400_2801_0000 =
    .ok (.fadd (m3 .f32 15 0 .acc (at0 1) (.inc 2 1) .zero)) := by decide

theorem witness_MemoryStaysCanonical : Memory.wf labNop.mem = true ∧ (match step labNop with
    | .next t => Memory.wf t.mem
    | _ => false) = true := by decide +kernel

/-- Ill-formed terms are refused: a function code of another row, an SP bit that R49 forbids, a register with a row of its own, a
unit the module lacks. -/
theorem test_wellformed_refuses : ∀ i ∈ ([.pset { ps with fn := 1 }, .psetHi ps, .fmtx { fmx with sp := true },
    .swr (sy 0x013 (rg 2)), .swr (sy 0x021 (rg 2)), .writeSrseed (sy 0x012 (rg 2)), .writeMxrpHlt (sy 0x021 (rg 2)),
    .writeSpcfg (sy 0x022 (rg 2)), .writeSppwr (sy 0x021 (rg 2)), .barrInit trp, .barrWait { trp with fn := 1 }, .barrExit trp,
    .l1inv { trp with fn := 1 }, .l1invAll trp, .trap { trp with sp := true }, .eret { ert with sp := true },
    .brk { ert with sp := true }, .tlbinvPage { trp with fn := 1 }, .tlbinvRange trp, .tlbinvAsid trp,
    .scrubPage { trp with fn := 1 }, .scrubLine trp, .pwrbCap { trp with fn := 1 }, .pwrbGate trp, .lineFetch 0, .lineFetch 36864,
    .asnew 8 1, .glAck 8 ⟨0, true⟩, .clockLock 576 (some []), .mxeCommandStart 0, .mxeCommandStart 2304] : List Instr), i.wf = false := by
  decide +kernel
theorem test_wellformed_accepts : ∀ i ∈ ([.pset ps, .psetHi psh, .fmtx fmx, .swr (sy 0x012 (rg 2)), .lineFetch 3200, .asnew 7 1,
    .clockLock 575 (some []), .mxeCommandStart 200] : List Instr), i.wf = true := by decide +kernel
theorem test_encode_refuses : encode (.lineFetch 3200) = none := by decide

/-! Words written out from the spec's encodings and its worked examples, family by family. -/

theorem test_decode_arith :
    decode 0x4057_8000_8000_0400_2801_0000 = .ok (.fadd (m3 .f32 15 0 .acc (at0 1) (.inc 2 1) .zero)) ∧
    decode 0x434B_9800_8000_0C02_3001_8000 = .ok (.fma ⟨false, .bf16, 7, .propagate, .sr, 0, .acc, .mem 3 2, .inc 4 1, .acc⟩) ∧
    decode 0x43D7_8000_8000_8000_1000_1001 = .ok (.fma { m3 .f32 15 0 .acc .acc (.mem 4 0) (.mem 4 1) with sp := true }) ∧
    decode 0x1933_8000_5080_B000_0000_0000 = .ok (.mov (m3 .u32 7 0 (.off 4 128) (.queue 4) .zero .zero)) ∧
    decode 0x1A30_0000_50A0_5090_5094_0000 = .ok (.cmpeq (m3 .u32 0 0 (.off 4 160) (.off 4 144) (.off 4 148) .zero)) := by decide
theorem test_decode_memory :
    decode 0x8057_8000_8000_0400_0000_0000 = .ok (.ld (m3 .f32 15 0 .acc (at0 1) .zero .zero)) ∧
    decode 0x8037_8000_1800_0C00_0000_0000 = .ok (.ld (m3 .u32 15 0 (at0 6) (at0 3) .zero .zero)) ∧
    decode 0x8157_8000_1C01_C000_0000_0000 = .ok (.st (m3 .f32 15 0 (.mem 7 1) (.imm 0) .zero .zero)) ∧
    decode 0x8838_8000_F000_0400_C001_0000 = .ok (.amo (m3 .u64 1 0 (rg 4) (at0 1) (.imm 1) .zero)) ∧
    decode 0x8957_8001_0800_8000_0000_0000 = .ok (.llog (m3 .f32 15 1 (at0 2) .acc .zero .zero)) ∧
    decode 0x8D30_0001_F800_0800_C000_0000 = .ok (.ctrwait (m3 .u32 0 1 (rg 6) (at0 2) (.imm 0) .zero)) ∧
    decode 0x8600_0000_0000_0000_0000_0000 = .ok (.phase ert) := by decide
theorem test_decode_messages :
    decode 0xA030_0000_F000_0000_C080_0000 = .ok (.send (m3 .u32 0 0 (rg 4) .zero (.imm 128) .zero)) ∧
    decode 0xA130_0000_F000_1800_C080_0000 = .ok (.sendr (m3 .u32 0 0 (rg 4) (at0 6) (.imm 128) .zero)) ∧
    decode 0xB030_0000_F000_0400_C005_0000 = .ok (.clgrp (m3 .u32 0 0 (rg 4) (at0 1) (.imm 5) .zero)) ∧
    decode 0xB130_0000_F000_F400_0000_0000 = .ok (.clfree (m3 .u32 0 0 (rg 4) (rg 5) .zero .zero)) := by decide
theorem test_decode_engines :
    decode 0xA948_0009_0800_0C00_0000_0000 = .ok (.mma (en .bf16 9 (at0 2) (at0 3) 0)) ∧
    decode 0xA948_0009_C000_0C00_0004_0000 = .ok (.mma (en .bf16 9 (.imm 0) (at0 3) 4)) ∧
    decode 0xAA48_0009_1000_0800_0000_0000 = .ok (.mmaz (en .bf16 9 (at0 4) (at0 2) 0)) ∧
    decode 0xAC50_0000_5080_0800_0000_0000 = .ok (.astore (en .f32 0 (.off 4 128) (at0 2) 0)) ∧
    decode 0xA800_0000_0800_0C00_0000_0000 = .ok (.ecopy (en .i8 0 (at0 2) (at0 3) 0)) ∧
    decode 0xA800_0000_1800_B000_0000_0000 = .ok (.ecopy (en .i8 0 (at0 6) (.queue 4) 0)) ∧
    decode 0xAF00_0002_0800_0C00_0000_0000 = .ok (.ecoll (en .i8 2 (at0 2) (at0 3) 0)) ∧
    decode 0xB200_0000_F400_0C00_0000_0000 = .ok (.publ (en .i8 0 (rg 5) (at0 3) 0)) ∧
    decode 0xB300_0000_0800_0C00_0000_0000 = .ok (.wstart (en .i8 0 (at0 2) (at0 3) 0)) ∧
    decode 0xB400_0000_0000_F400_0000_0000 = .ok (.wstop (m3 .i8 0 0 .zero (rg 5) .zero .zero)) ∧
    decode 0xB633_8000_1000_F400_0000_0000 = .ok (.wstat (m3 .u32 7 0 (at0 4) (rg 5) .zero .zero)) := by decide
theorem test_decode_control :
    decode 0xC200_1234_EC00_0000_FFFF_FFF9 = .ok (.bnz ⟨0, 0x1234, rg 3, .zero, 0xFFFFFFF9⟩) ∧
    decode 0xE200_0000_0000_0000_C011_0000 = .ok (.trap (m3 .i8 0 0 .zero .zero (.imm 17) .zero)) ∧
    decode 0xE300_0000_0000_0000_0000_0000 = .ok (.eret ert) ∧ decode 0xA300_C59B_0000_0000_0000_0000 = .ok
      (.hend ⟨0, 0xC59B, .zero, .zero, 0⟩) := by decide
theorem test_decode_system :
    decode 0xE038_8000_0100_F000_0000_0000 = .ok (.srd (sy 0x010 (rg 4))) ∧
    decode 0xE038_8000_04A0_F400_0000_0000 = .ok (.srd (sy 0x04A (rg 5))) ∧
    decode 0xE138_8000_0110_C001_0000_0000 = .ok (.swr (sy 0x011 (.imm 1))) ∧
    decode 0xE538_8001_F000_E800_0000_0000 = .ok (.xlat (m3 .u64 1 1 (rg 4) (rg 2) .zero .zero)) ∧
    decode 0xE438_8001_0000_E800_EC00_0000 = .ok (.tlbinvRange (m3 .u64 1 1 .zero (rg 2) (rg 3) .zero)) ∧
    decode 0xE730_0000_F000_C008_0000_0000 = .ok (.pwrbCap (m3 .u32 0 0 (rg 4) (.imm 8) .zero .zero)) ∧
    decode 0xE638_8000_0000_E800_0000_0000 = .ok (.scrubPage (m3 .u64 1 0 .zero (rg 2) .zero .zero)) ∧
    decode 0xE800_0000_0000_0000_C003_0000 = .ok (.brk (m3 .i8 0 0 .zero .zero (.imm 3) .zero)) := by decide
/-- The LIVE word of a safe point names A, P3, P4 and P5; as an instruction it is none (R335). -/
theorem test_live_word : decode 0xEF00_0000_0000_0000_0000_0071 = .error .liveWord ∧ decode 0 = .ok .nop := by decide

/-! Every constructor from a word of the opcode map (R52), its fields laid out by R36: opcode, then one pattern of fields per
format. -/

abbrev wm (fn : BitVec 10) : M3 := ⟨false, .f32, 15, .propagate, .fm, fn, .acc, at0 1, .inc 2 1, .zero⟩
abbrev wi (fn : BitVec 10) : MI := ⟨false, .f32, 15, .propagate, .fm, fn, .acc, at0 1, 5⟩
abbrev wb : BR := ⟨0, 0x1234, rg 3, .mem 2 1, 0xFFFFFFF9⟩
abbrev we : EN := ⟨false, .bf16, 9, at0 2, at0 3, 4, 3⟩
abbrev ws (srn : BitVec 12) : SY := ⟨false, .f32, 15, .propagate, .fm, 0, srn, rg 5, .inc 2 1, .zero⟩
theorem test_words_one : ∀ p ∈ ([(0x0157_8000_8000_0400_2801_0000, .add), (0x0257_8000_8000_0400_2801_0000, .sub), (0x0357_8000_8000_0400_2801_0000, .mul),
    (0x0457_8000_8000_0400_2801_0000, .mulh), (0x0557_8000_8000_0400_2801_0000, .div), (0x0657_8000_8000_0400_2801_0000, .rem),
    (0x0757_8000_8000_0400_2801_0000, .mac), (0x0857_8000_8000_0400_2801_0000, .dot4), (0x0957_8000_8000_0400_2801_0000, .adds),
    (0x0A57_8000_8000_0400_2801_0000, .subs), (0x0B57_8000_8000_0400_2801_0000, .neg), (0x0C57_8000_8000_0400_2801_0000, .absI),
    (0x0D57_8000_8000_0400_2801_0000, .minI), (0x0E57_8000_8000_0400_2801_0000, .maxI), (0x0F57_8000_8000_0400_2801_0000, .andI),
    (0x1057_8000_8000_0400_2801_0000, .orI), (0x1157_8000_8000_0400_2801_0000, .xorI), (0x1257_8000_8000_0400_2801_0000, .notI),
    (0x1357_8000_8000_0400_2801_0000, .shl), (0x1457_8000_8000_0400_2801_0000, .shr), (0x1557_8000_8000_0400_2801_0000, .sra),
    (0x1657_8000_8000_0400_2801_0000, .rot), (0x1757_8000_8000_0400_2801_0000, .clz), (0x1857_8000_8000_0400_2801_0000, .popc),
    (0x1957_8000_8000_0400_2801_0000, .mov), (0x1A57_8000_8000_0400_2801_0000, .cmpeq)] : List (Slot × (M3 → Instr))), decode p.1 = .ok (p.2 (wm 0)) := by decide
theorem test_words_two : ∀ p ∈ ([(0x1B57_8000_8000_0400_2801_0000, .cmpne), (0x1C57_8000_8000_0400_2801_0000, .cmplt), (0x1D57_8000_8000_0400_2801_0000, .cmple),
    (0x1E57_8000_8000_0400_2801_0000, .sel), (0x1F57_8000_8000_0400_2801_0000, .tags), (0x3157_8000_8000_0400_2801_0000, .padd),
    (0x3257_8000_8000_0400_2801_0000, .pmod), (0x4057_8000_8000_0400_2801_0000, .fadd), (0x4157_8000_8000_0400_2801_0000, .fsub),
    (0x4257_8000_8000_0400_2801_0000, .fmul), (0x4357_8000_8000_0400_2801_0000, .fma), (0x4457_8000_8000_0400_2801_0000, .fnma),
    (0x4557_8000_8000_0400_2801_0000, .fdiv), (0x4657_8000_8000_0400_2801_0000, .fsqrt), (0x4757_8000_8000_0400_2801_0000, .frcp),
    (0x4857_8000_8000_0400_2801_0000, .frsq), (0x4957_8000_8000_0400_2801_0000, .fmin), (0x4A57_8000_8000_0400_2801_0000, .fmax),
    (0x4B57_8000_8000_0400_2801_0000, .fabs), (0x4C57_8000_8000_0400_2801_0000, .fneg), (0x4D57_8000_8000_0400_2801_0000, .fcmp),
    (0x4E57_8000_8000_0400_2801_0000, .fclass), (0x4F57_8000_8000_0400_2801_0000, .frndi), (0x5057_8000_8000_0400_2801_0000, .fexp2f),
    (0x5157_8000_8000_0400_2801_0000, .flog2f), (0x5257_8000_8000_0400_2801_0000, .fscale)] : List (Slot × (M3 → Instr))), decode p.1 = .ok (p.2 (wm 0)) := by decide
theorem test_words_three : ∀ p ∈ ([(0x5357_8000_8000_0400_2801_0000, .fgetexp), (0x5457_8000_8000_0400_2801_0000, .fcvt), (0x5557_8000_8000_0400_2801_0000, .fsum),
    (0x5657_8000_8000_0400_2801_0000, .fdot), (0x6057_8000_8000_0400_2801_0000, .vcmp), (0x6157_8000_8000_0400_2801_0000, .vset),
    (0x6257_8000_8000_0400_2801_0000, .vclr), (0x6357_8000_8000_0400_2801_0000, .vcnt), (0x6457_8000_8000_0400_2801_0000, .shuf),
    (0x6557_8000_8000_0400_2801_0000, .bcast), (0x6657_8000_8000_0400_2801_0000, .pack), (0x6757_8000_8000_0400_2801_0000, .unpk),
    (0x6857_8000_8000_0400_2801_0000, .lgath), (0x6957_8000_8000_0400_2801_0000, .lscat), (0x7F57_8000_8000_0400_2801_0000, .fmtx),
    (0x8057_8000_8000_0400_2801_0000, .ld), (0x8157_8000_8000_0400_2801_0000, .st), (0x8257_8000_8000_0400_2801_0000, .ldef),
    (0x8357_8000_8000_0400_2801_0000, .pf), (0x8457_8000_8000_0400_2801_0000, .pin), (0x8557_8000_8000_0400_2801_0000, .unpin),
    (0x8657_8000_8000_0400_2801_0000, .phase), (0x8757_8000_8000_0400_2801_0000, .fence), (0x8857_8000_8000_0400_2801_0000, .amo),
    (0x8957_8000_8000_0400_2801_0000, .llog), (0x8A57_8000_8000_0400_2801_0000, .barrWait)] : List (Slot × (M3 → Instr))), decode p.1 = .ok (p.2 (wm 0)) := by decide
theorem test_words_four : ∀ p ∈ ([(0x8B57_8000_8000_0400_2801_0000, .ctrset), (0x8C57_8000_8000_0400_2801_0000, .ctrdec), (0x8D57_8000_8000_0400_2801_0000, .ctrwait),
    (0x8E57_8000_8000_0400_2801_0000, .l1cln), (0x8F57_8000_8000_0400_2801_0000, .l1inv), (0xA057_8000_8000_0400_2801_0000, .send),
    (0xA157_8000_8000_0400_2801_0000, .sendr), (0xA457_8000_8000_0400_2801_0000, .qcnt), (0xA557_8000_8000_0400_2801_0000, .htset),
    (0xA657_8000_8000_0400_2801_0000, .waitq), (0xAE57_8000_8000_0400_2801_0000, .mxwait), (0xB057_8000_8000_0400_2801_0000, .clgrp),
    (0xB157_8000_8000_0400_2801_0000, .clfree), (0xB457_8000_8000_0400_2801_0000, .wstop), (0xB657_8000_8000_0400_2801_0000, .wstat),
    (0xD057_8000_8000_0400_2801_0000, .gang), (0xD157_8000_8000_0400_2801_0000, .ungang), (0xD257_8000_8000_0400_2801_0000, .rejoin),
    (0xD357_8000_8000_0400_2801_0000, .yield), (0xE257_8000_8000_0400_2801_0000, .trap), (0xE357_8000_8000_0400_2801_0000, .eret),
    (0xE457_8000_8000_0400_2801_0000, .tlbinvPage), (0xE557_8000_8000_0400_2801_0000, .xlat), (0xE657_8000_8000_0400_2801_0000, .scrubPage),
    (0xE757_8000_8000_0400_2801_0000, .pwrbCap), (0xE857_8000_8000_0400_2801_0000, .brk)] : List (Slot × (M3 → Instr))), decode p.1 = .ok (p.2 (wm 0)) := by decide
theorem test_words_fn1 : ∀ p ∈ ([(0x8A57_8001_8000_0400_2801_0000, .barrInit), (0x8F57_8001_8000_0400_2801_0000, .l1invAll), (0xE457_8001_8000_0400_2801_0000, .tlbinvRange),
    (0xE657_8001_8000_0400_2801_0000, .scrubLine), (0xE757_8001_8000_0400_2801_0000, .pwrbGate)] : List (Slot × (M3 → Instr))), decode p.1 = .ok (p.2 (wm 1)) := by decide
theorem test_words_fn2 : ∀ p ∈ ([(0x8A57_8002_8000_0400_2801_0000, .barrExit), (0xE457_8002_8000_0400_2801_0000, .tlbinvAsid)] : List (Slot × (M3 → Instr))), decode p.1 = .ok (p.2 (wm 2)) := by decide
theorem test_words_immediate : ∀ p ∈ ([(0x2057_8000_8000_0400_0000_0005, .ldi), (0x2157_8000_8000_0400_0000_0005, .addImm), (0x2257_8000_8000_0400_0000_0005, .subImm),
    (0x2357_8000_8000_0400_0000_0005, .mulImm), (0x2457_8000_8000_0400_0000_0005, .andImm), (0x2557_8000_8000_0400_0000_0005, .orImm),
    (0x2657_8000_8000_0400_0000_0005, .xorImm), (0x2757_8000_8000_0400_0000_0005, .minImm), (0x2857_8000_8000_0400_0000_0005, .maxImm),
    (0x2957_8000_8000_0400_0000_0005, .cmpeqImm), (0x2A57_8000_8000_0400_0000_0005, .cmpneImm), (0x2B57_8000_8000_0400_0000_0005, .cmpltImm),
    (0x2C57_8000_8000_0400_0000_0005, .cmpleImm), (0x3057_8000_8000_0400_0000_0005, .pset), (0x3357_8000_8000_0400_0000_0005, .paddImm),
    (0x5757_8000_8000_0400_0000_0005, .faddImm), (0x5857_8000_8000_0400_0000_0005, .fmulImm), (0x5957_8000_8000_0400_0000_0005, .fsubImm)] : List (Slot × (MI → Instr))), decode p.1 = .ok (p.2 (wi 0)) := by decide
theorem test_words_immediate_high : ∀ p ∈ ([(0x3057_8001_8000_0400_0000_0005, .psetHi)] : List (Slot × (MI → Instr))), decode p.1 = .ok (p.2 (wi 1)) := by decide
theorem test_words_branch : ∀ p ∈ ([(0xA200_1234_EC00_0801_FFFF_FFF9, .migr), (0xA300_1234_EC00_0801_FFFF_FFF9, .hend), (0xC000_1234_EC00_0801_FFFF_FFF9, .br),
    (0xC100_1234_EC00_0801_FFFF_FFF9, .bz), (0xC200_1234_EC00_0801_FFFF_FFF9, .bnz), (0xC300_1234_EC00_0801_FFFF_FFF9, .bv),
    (0xC400_1234_EC00_0801_FFFF_FFF9, .bnv), (0xC500_1234_EC00_0801_FFFF_FFF9, .bqe), (0xC600_1234_EC00_0801_FFFF_FFF9, .bqne),
    (0xC700_1234_EC00_0801_FFFF_FFF9, .loop), (0xC800_1234_EC00_0801_FFFF_FFF9, .call), (0xC900_1234_EC00_0801_FFFF_FFF9, .calli),
    (0xCA00_1234_EC00_0801_FFFF_FFF9, .ret)] : List (Slot × (BR → Instr))), decode p.1 = .ok (p.2 wb) := by decide
theorem test_words_engine : ∀ p ∈ ([(0xA848_0009_0800_0C00_0004_0003, .ecopy), (0xA948_0009_0800_0C00_0004_0003, .mma), (0xAA48_0009_0800_0C00_0004_0003, .mmaz),
    (0xAB48_0009_0800_0C00_0004_0003, .aload), (0xAC48_0009_0800_0C00_0004_0003, .astore), (0xAD48_0009_0800_0C00_0004_0003, .aclr),
    (0xAF48_0009_0800_0C00_0004_0003, .ecoll), (0xB248_0009_0800_0C00_0004_0003, .publ), (0xB348_0009_0800_0C00_0004_0003, .wstart),
    (0xB548_0009_0800_0C00_0004_0003, .wresume)] : List (Slot × (EN → Instr))), decode p.1 = .ok (p.2 we) := by decide
theorem test_words_system_own : ∀ p ∈ ([(0xE057_8000_0100_F400_2801_0000, .srd), (0xE157_8000_0100_F400_2801_0000, .swr)] : List (Slot × (SY → Instr))), decode p.1 = .ok (p.2 (ws 0x010)) := by decide
theorem test_words_writeSrseed : ∀ p ∈ ([(0xE157_8000_0130_F400_2801_0000, .writeSrseed)] : List (Slot × (SY → Instr))), decode p.1 = .ok (p.2 (ws 0x013)) := by decide
theorem test_words_writeMxrpHlt : ∀ p ∈ ([(0xE157_8000_0200_F400_2801_0000, .writeMxrpHlt)] : List (Slot × (SY → Instr))), decode p.1 = .ok (p.2 (ws 0x020)) := by decide
theorem test_words_writeSpcfg : ∀ p ∈ ([(0xE157_8000_0210_F400_2801_0000, .writeSpcfg)] : List (Slot × (SY → Instr))), decode p.1 = .ok (p.2 (ws 0x021)) := by decide
theorem test_words_writeSppwr : ∀ p ∈ ([(0xE157_8000_0220_F400_2801_0000, .writeSppwr)] : List (Slot × (SY → Instr))), decode p.1 = .ok (p.2 (ws 0x022)) := by decide
theorem test_words_sigchk : decode 0xE980_0000_0000_0000_0000_BEEF = .ok (.sigchk true 0xBEEF) := by decide

end Sys2Proof.Tests
end

section
/-! PROOFS. What the four shifts compute, bit by bit (R94). -/

namespace Sys2Proof.Machine
open Sys2Proof Sys2Proof.Machine.Num

/-- A shift count is less than the width it is taken modulo, as no integer type has width 0. -/
theorem mod_width_lt (t : Ty) (b : Nat) : b % width t < width t :=
  Nat.mod_lt b (by cases t <;> decide)

/-! ### Arithmetic shift right -/

/-- The signed integer of a pattern is that of the bit vector with the same bits. -/
theorem toInt_true_eq_toInt_ofNat {w a : Nat} (hw : 0 < w) (ha : a < 2 ^ w) :
    toInt true w a = (BitVec.ofNat w a).toInt := by
  have hpow : 2 ^ w = 2 * 2 ^ (w - 1) := by rw [← Nat.pow_succ', Nat.succ_eq_add_one, Nat.sub_add_cancel hw]
  rw [BitVec.toInt_eq_toNat_cond, BitVec.toNat_ofNat, toInt, Nat.mod_eq_of_lt ha]
  by_cases hs : 2 ^ (w - 1) ≤ a
  · rw [if_pos (by simpa using hs), if_neg (by omega)]
  · rw [if_neg (by simpa using hs), if_pos (by omega)]

/-- The pattern of an integer is that of the bit vector made of it. -/
theorem wrap_eq_toNat_ofInt (w : Nat) (x : Int) : wrap w x = (BitVec.ofInt w x).toNat :=
  (BitVec.toNat_ofInt x).symm

/-- Dividing the signed integer by 2^k and wrapping is the arithmetic shift of the bits. -/
theorem wrap_toInt_div_eq_sshiftRight {w a : Nat} (hw : 0 < w) (ha : a < 2 ^ w) (k : Nat) :
    wrap w (toInt true w a / ((2 ^ k : Nat) : Int)) = ((BitVec.ofNat w a).sshiftRight k).toNat := by
  rw [wrap_eq_toNat_ofInt, toInt_true_eq_toInt_ofNat hw ha, BitVec.sshiftRight, Int.shiftRight_eq_div_pow]

/-- The bits of an arithmetic shift right: those of a moved down, with copies of its top bit above (R94). -/
theorem testBit_wrap_toInt_div {w a j : Nat} (ha : a < 2 ^ w) (hj : j < w) (k : Nat) :
    (wrap w (toInt true w a / ((2 ^ k : Nat) : Int))).testBit j =
      if j + k < w then a.testBit (j + k) else a.testBit (w - 1) := by
  have hw : 0 < w := Nat.zero_lt_of_lt hj
  rw [wrap_toInt_div_eq_sshiftRight hw ha, BitVec.testBit_toNat, BitVec.getLsbD_sshiftRight, BitVec.msb_eq_getLsbD_last,
    BitVec.getLsbD_ofNat, BitVec.getLsbD_ofNat, Nat.add_comm k j]
  by_cases hk : j + k < w <;> simp [hk, Nat.not_le.2 hj, hw]

/-! ### Rotation -/

/-- The two parts of a rotation do not overlap: the low w − k bits of a stand above its high k bits. -/
theorem rot_eq_mul_add {w k : Nat} (hk : k ≤ w) (a : Nat) :
    a * 2 ^ k % 2 ^ w + a / 2 ^ (w - k) = 2 ^ k * (a % 2 ^ (w - k)) + a / 2 ^ (w - k) := by
  rw [Nat.mul_comm a, ← Nat.mul_mod_mul_left, ← Nat.pow_add, Nat.add_sub_cancel' hk]

/-- The part that a rotation carries around has k bits. -/
theorem div_pow_sub_lt {w k a : Nat} (hk : k ≤ w) (ha : a < 2 ^ w) : a / 2 ^ (w - k) < 2 ^ k :=
  Nat.div_lt_of_lt_mul (by rwa [← Nat.pow_add, Nat.sub_add_cancel hk])

/-- A rotation stays within the width. -/
theorem rot_lt {w k a : Nat} (hk : k ≤ w) (ha : a < 2 ^ w) : a * 2 ^ k % 2 ^ w + a / 2 ^ (w - k) < 2 ^ w := by
  have hlow : a % 2 ^ (w - k) + 1 ≤ 2 ^ (w - k) := Nat.mod_lt _ (Nat.two_pow_pos _)
  calc a * 2 ^ k % 2 ^ w + a / 2 ^ (w - k)
      = 2 ^ k * (a % 2 ^ (w - k)) + a / 2 ^ (w - k) := rot_eq_mul_add hk a
    _ < 2 ^ k * (a % 2 ^ (w - k)) + 2 ^ k := Nat.add_lt_add_left (div_pow_sub_lt hk ha) _
    _ = 2 ^ k * (a % 2 ^ (w - k) + 1) := (Nat.mul_succ _ _).symm
    _ ≤ 2 ^ k * 2 ^ (w - k) := Nat.mul_le_mul_left _ hlow
    _ = 2 ^ w := by rw [← Nat.pow_add, Nat.add_sub_cancel' hk]

/-- Bit j of a stands at bit (j + k) mod w of its rotation left by k (R94). -/
theorem testBit_rot {w k a j : Nat} (hk : k < w) (ha : a < 2 ^ w) (hj : j < w) :
    (a * 2 ^ k % 2 ^ w + a / 2 ^ (w - k)).testBit ((j + k) % w) = a.testBit j := by
  rw [rot_eq_mul_add hk.le, Nat.testBit_two_pow_mul_add _ (div_pow_sub_lt hk.le ha)]
  by_cases hin : j + k < w
  · have hjk : j < w - k := by omega
    simp [Nat.mod_eq_of_lt hin, Nat.testBit_mod_two_pow, hjk]
  · have hpos : (j + k) % w = j + k - w := by rw [Nat.mod_eq_sub_mod (by omega), Nat.mod_eq_of_lt (by omega)]
    have hback : w - k + (j + k - w) = j := by omega
    rw [hpos, if_pos (by omega), Nat.testBit_div_two_pow, Nat.add_comm, hback]

end Sys2Proof.Machine

namespace Sys2Proof.Spec
open Sys2Proof Sys2Proof.Machine Sys2Proof.Machine.Num

/-- Settles O52: SHL and SHR stay in the width at once; SRA is the bit vectors' arithmetic shift, and ROT's two parts do not
overlap. -/
theorem shiftResults : Obligations.ShiftResults := by
  intro f t m r a b _ ha _ w k row
  have hk : k < w := mod_width_lt t b
  refine ⟨⟨_, _, rfl, rfl, rfl, rfl, ?_, rfl⟩, ⟨_, _, rfl, rfl, rfl, rfl, ?_, rfl⟩, ⟨_, _, rfl, rfl, rfl, rfl, ?_, ?_⟩,
    ⟨_, _, rfl, rfl, rfl, rfl, ?_, ?_⟩⟩
  · exact Nat.mod_lt _ (Nat.two_pow_pos w)
  · exact (Nat.div_le_self a _).trans_lt ha
  · exact wrap_eq_toNat_ofInt w _ ▸ BitVec.isLt _
  · exact fun j hj => testBit_wrap_toInt_div ha hj k
  · exact rot_lt hk.le ha
  · exact fun j hj => testBit_rot hk ha hj

end Sys2Proof.Spec
end

section
/-! PROOFS. PSET and PSET.hi: the register they write, the registers they keep, and the fault where OA is not zero (R100). -/

namespace Sys2Proof.Machine
open Sys2Proof Sys2Proof.Machine.Num

/-! ### P registers after a write -/

@[simp] theorem Core.preg_setP_self (c : Core) (n : BitVec 3) (v : W64) : (c.setP n v).preg n = v := by
  simp [Core.preg, Core.setP, Vector.set!, Vector.getD, n.isLt]

theorem Core.preg_setP_ne {n k : BitVec 3} (h : k ≠ n) (c : Core) (v : W64) : (c.setP n v).preg k = c.preg k := by
  have hne : n.toNat ≠ k.toNat := fun e => h (BitVec.eq_of_toNat_eq e.symm)
  simp [Core.preg, Core.setP, Vector.set!, Vector.getD, hne]

/-! ### The core after an instruction that retires -/

@[simp] theorem Core.retire_p (c : Core) (i : Instr) (br uses : Bool) (live : Option (BitVec 18)) :
    (c.retire i br uses live).p = c.p := by
  cases uses <;> rfl

@[simp] theorem Core.retire_preg (c : Core) (i : Instr) (br uses : Bool) (live : Option (BitVec 18)) (n : BitVec 3) :
    (c.retire i br uses live).preg n = c.preg n := by
  simp [Core.preg]

@[simp] theorem State.chargeFor_cores (s : State) (g : Nat) (i : Instr) : (s.chargeFor g i).cores = s.cores := by
  unfold State.chargeFor
  split <;> rfl

/-- The core of an instruction that completes with no queue entry: its work, retired. -/
theorem State.core_written_retired {s : State} (hc : KV.sorted s.cores = true) (c : Core) (i : Instr) (sp uses : Bool) :
    ((s.written (c, none)).retired s i sp uses).core s.self = c.retire i false uses (s.liveMask sp) := by
  have hs : KV.sorted ((s.setCore s.self c).chargeFor s.self i).cores = true := by
    rw [State.chargeFor_cores]; exact State.sorted_setCore hc _ _
  have hw : ((s.setCore s.self c).chargeFor s.self i).core s.self = c := by
    rw [State.core, State.chargeFor_cores]; exact State.core_setCore_self hc _ _
  exact (State.core_modCore_self hs _ _).trans (congrArg (Core.retire · i false uses (s.liveMask sp)) hw)

/-- The list of cores keeps its order. -/
theorem State.sorted_written_retired {s : State} (hc : KV.sorted s.cores = true) (c : Core) (i : Instr) (sp uses : Bool) :
    KV.sorted ((s.written (c, none)).retired s i sp uses).cores = true := by
  refine State.sorted_setCore ?_ _ _
  rw [State.chargeFor_cores]; exact State.sorted_setCore hc _ _

/-- The core in hand stays in hand. -/
@[simp] theorem State.self_written_retired (s : State) (c : Core) (i : Instr) (sp uses : Bool) :
    ((s.written (c, none)).retired s i sp uses).self = s.self := by
  unfold State.retired State.chargeFor
  split <;> rfl

/-- An instruction that can issue but whose field rules fail raises IILL (R53). -/
theorem coreRow_illegal {i : Instr} {h : Core → Shape} {s : State} {sp uses : Bool} {ops : List Operand}
    (body : State → Except Exn Res) (hs : h (s.core s.self) = ⟨sp, uses, false, usesOf ops⟩)
    (hr : s.canIssue i sp uses ops = true) : coreRow i h body s = .next (s.faultAt s.self .iill 0) := by
  obtain ⟨hwf, hissues, hpend, hentry, -, -, -, hlive⟩ := canIssue_iff.1 hr
  rw [coreRow, onCore, if_pos hwf]
  congr 1
  cases sp with
  | false => simp [issue, hs, hissues, hpend, hentry]
  | true =>
    cases hm : (s.core s.self).liveAfter (s.core s.self).pc with
    | error e => simp [hm, isOk] at hlive
    | ok m => simp [issue, hs, hissues, hpend, hentry, hm, Except.map]

/-! ### PSET and PSET.hi -/

theorem exec_pset (f : MI) (s : State) : exec (.pset f) s = execPset f s := rfl

theorem exec_psetHi (f : MI) (s : State) : exec (.psetHi f) s = execPsetHi f s := rfl

end Sys2Proof.Machine

namespace Sys2Proof.Spec
open Sys2Proof Sys2Proof.Machine Sys2Proof.Machine.Num

theorem pset_ends {f : MI} {s : State} (hr : ptrReady s (.pset f) (miAsM3 f) [f.od]) (ha : f.oa = .zero) :
    ends s (.pset f) f.sp (f.ty == .px) ((s.core s.self).setP (regOf f.od) (f.imm.signExtend 64), none) := by
  obtain ⟨hissue, hlegal : ptrLegal f.ty _ _ = true⟩ := hr
  exact (exec_pset f s).trans (coreRow_done (by simp [hlegal, ha]) hissue (onOwnCore_done rfl (by simp)))

theorem psetHi_ends {f : MI} {s : State} (hr : ptrReady s (.psetHi f) (miAsM3 f) [f.od]) (ha : f.oa = .zero) :
    ends s (.psetHi f) f.sp (f.ty == .px)
      ((s.core s.self).setP (regOf f.od) (f.imm ++ ((s.core s.self).preg (regOf f.od)).extractLsb' 0 32), none) := by
  obtain ⟨hissue, hlegal : ptrLegal f.ty _ _ = true⟩ := hr
  exact (exec_psetHi f s).trans (coreRow_done (by simp [hlegal, ha]) hissue (onOwnCore_done rfl (by simp)))

theorem pset_illegal {f : MI} {s : State} (hr : ptrReady s (.pset f) (miAsM3 f) [f.od]) (ha : f.oa ≠ .zero) :
    exec (.pset f) s = .next (s.faultAt s.self .iill 0) :=
  (exec_pset f s).trans (coreRow_illegal _ (by simp [miAsM3, ha]) hr.1)

theorem psetHi_illegal {f : MI} {s : State} (hr : ptrReady s (.psetHi f) (miAsM3 f) [f.od]) (ha : f.oa ≠ .zero) :
    exec (.psetHi f) s = .next (s.faultAt s.self .iill 0) :=
  (exec_psetHi f s).trans (coreRow_illegal _ (by simp [miAsM3, ha]) hr.1)

/-- Work that sets one P register and completes leaves that value there and every other P register as it was. -/
theorem ends_setP {s : State} (hc : KV.sorted s.cores = true) {i : Instr} {sp uses : Bool} {n : BitVec 3} {v : W64}
    (h : ends s i sp uses ((s.core s.self).setP n v, none)) :
    ∃ t, exec i s = .next t ∧ (t.self = s.self ∧ KV.sorted t.cores = true) ∧ (t.core s.self).preg n = v ∧
      ∀ k, k ≠ n → (t.core s.self).preg k = (s.core s.self).preg k := by
  refine ⟨_, h, ⟨State.self_written_retired .., State.sorted_written_retired hc ..⟩, ?_, fun k hk => ?_⟩
  · rw [State.core_written_retired hc, Core.retire_preg, Core.preg_setP_self]
  · rw [State.core_written_retired hc, Core.retire_preg, Core.preg_setP_ne hk]

/-- Sign extension keeps the bits it extends. -/
theorem extractLsb'_signExtend (v : W32) : (v.signExtend 64).extractLsb' 0 32 = v := by
  rw [BitVec.signExtend_eq_append_of_le (by decide), BitVec.cast_eq]
  exact BitVec.extractLsb'_append_eq_right

/-- Settles O53: each instruction sets one register, so PSET.hi finds below the low half that PSET left. -/
theorem pointerConstants : Obligations.PointerConstants := by
  refine ⟨fun f s hc hr ha => ?_, fun f s hc hr ha => ?_, fun f s i hi hr ha => ?_,
    fun f h s t x hc hr ha ht hr' ha' hod hlo hhi => ?_⟩
  · obtain ⟨t, ht, -, hval, hrest⟩ := ends_setP hc (pset_ends hr ha)
    exact ⟨t, ht, hval, hrest⟩
  · obtain ⟨t, ht, -, hval, hrest⟩ := ends_setP hc (psetHi_ends hr ha)
    exact ⟨t, ht, hval ▸ BitVec.extractLsb'_append_eq_left, hval ▸ BitVec.extractLsb'_append_eq_right, hrest⟩
  · rcases hi with rfl | rfl
    · exact pset_illegal hr ha
    · exact psetHi_illegal hr ha
  · obtain ⟨t', ht', ⟨hself, hsorted⟩, hval, -⟩ := ends_setP hc (pset_ends hr ha)
    obtain rfl : t = t' := Host.Outcome.next.inj (ht.symm.trans ht')
    obtain ⟨u, hu, -, hval', -⟩ := ends_setP hsorted (psetHi_ends hr' ha')
    refine ⟨u, hu, ?_⟩
    rw [hself, hod, hval] at hval'
    rw [hval', extractLsb'_signExtend, hlo, hhi]
    exact BitVec.extractLsb'_append_extractLsb'

end Sys2Proof.Spec
end

section
/-! PROOFS. The codec: fields in a slot, forms in a slot, and instructions in forms (R30 to R52). -/

namespace Sys2Proof
set_option Elab.async false

/-! ### Codes of the fields -/

@[simp] theorem Ty.ofCode_code (t : Ty) : Ty.ofCode t.code = t := by induction t <;> rfl

@[simp] theorem Ty.code_ofCode (c : BitVec 4) : (Ty.ofCode c).code = c := by
  revert c; decide

@[simp] theorem Vp.ofCode_code (v : Vp) : Vp.ofCode v.code = some v := by induction v <;> rfl

theorem Vp.code_of_ofCode {c : BitVec 2} {v : Vp} : Vp.ofCode c = some v → v.code = c := by
  revert c; induction v <;> decide

@[simp] theorem Rm.ofCode_code (r : Rm) : Rm.ofCode r.code = some r := by induction r <;> rfl

theorem Rm.code_of_ofCode {c : BitVec 3} {r : Rm} : Rm.ofCode c = some r → r.code = c := by
  revert c; induction r <;> decide

/-- Two fields that stand side by side are one field. -/
theorem extract_join {w : Nat} (b : BitVec w) (k m n : Nat) :
    b.extractLsb' (k + n) m ++ b.extractLsb' k n = b.extractLsb' k (m + n) :=
  BitVec.extractLsb'_append_extractLsb'_eq_extractLsb' rfl

/-- A field joined with the field below it. -/
theorem join_next {w k m n : Nat} {b : BitVec w} {x : BitVec m} {y : BitVec n} (hx : x = b.extractLsb' (k + n) m)
    (hy : y = b.extractLsb' k n) : x ++ y = b.extractLsb' k (m + n) := by
  rw [hx, hy, extract_join]

/-- A field that is two values side by side is two fields. -/
theorem join_split {w k m n : Nat} {b : BitVec w} {x : BitVec m} {y : BitVec n} (h : b.extractLsb' k (m + n) = x ++ y) :
    b.extractLsb' (k + n) m = x ∧ b.extractLsb' k n = y := by
  rw [← extract_join] at h
  constructor
  · have hx := congrArg (BitVec.extractLsb' n m) h
    rwa [BitVec.extractLsb'_append_eq_left, BitVec.extractLsb'_append_eq_left] at hx
  · have hy := congrArg (BitVec.extractLsb' 0 n) h
    rwa [BitVec.extractLsb'_append_eq_right, BitVec.extractLsb'_append_eq_right] at hy

/-- What an operand's mode makes of its register n, its displacement ds, and the other fields that modes read. -/
noncomputable def Operand.ofFields (n : BitVec 3) (ds : BitVec 10) (zeros : BitVec 7) (m : BitVec 3) (v : BitVec 13) : Nat → Option Operand
  | 0 => some (.mem n ds)
  | 1 => some (.inc n ds)
  | 2 => some (.off n ds)
  | 3 => if zeros = 0 then some (.incReg n m) else none
  | 4 => if v = 0 then some .acc else none
  | 5 => if ds = 0 then some (.queue n) else none
  | 6 => some (.imm v)
  | _ => some (.reg n ds)

theorem Operand.ofCode_eq (b : BitVec 16) : Operand.ofCode b = Operand.ofFields (b.extractLsb' 10 3) (b.extractLsb' 0 10)
    (b.extractLsb' 3 7) (b.extractLsb' 0 3) (b.extractLsb' 0 13) (b.extractLsb' 13 3).toNat := rfl

/-- An operand field is its mode, its register and its displacement. -/
theorem Operand.ofCode_append (k n : BitVec 3) (ds : BitVec 10) : ∃ zeros m v,
    Operand.ofCode (k ++ n ++ ds) = Operand.ofFields n ds zeros m v k.toNat := by
  have h0 := join_split (k := 0) (BitVec.extractLsb'_eq_self (x := k ++ n ++ ds))
  have h1 := join_split h0.1
  rw [Operand.ofCode_eq, h1.1, h1.2, h0.2]
  exact ⟨_, _, _, rfl⟩

@[simp] theorem Operand.ofCode_code (o : Operand) : Operand.ofCode o.code = some o := by
  induction o with
  | mem n ds => obtain ⟨_, _, _, h⟩ := Operand.ofCode_append 0 n ds; exact h
  | inc n ds => obtain ⟨_, _, _, h⟩ := Operand.ofCode_append 1 n ds; exact h
  | off n ds => obtain ⟨_, _, _, h⟩ := Operand.ofCode_append 2 n ds; exact h
  | incReg n m =>
    have h0 := join_split (k := 0) (BitVec.extractLsb'_eq_self (x := 3#3 ++ n ++ 0#7 ++ m))
    have h1 := join_split h0.1
    have h2 := join_split h1.1
    show Operand.ofCode (3#3 ++ n ++ 0#7 ++ m) = _
    rw [Operand.ofCode_eq, h2.1, h2.2, h1.2, h0.2]
    rfl
  | acc => rfl
  | queue n => obtain ⟨_, _, _, h⟩ := Operand.ofCode_append 5 n 0; exact h
  | imm v =>
    have h0 := join_split (k := 0) (BitVec.extractLsb'_eq_self (x := 6#3 ++ v))
    show Operand.ofCode (6#3 ++ v) = _
    rw [Operand.ofCode_eq, h0.1, h0.2]
    rfl
  | reg n ds => obtain ⟨_, _, _, h⟩ := Operand.ofCode_append 7 n ds; exact h

theorem Operand.code_of_ofFields {b : BitVec 16} {n m k : BitVec 3} {ds : BitVec 10} {zeros : BitVec 7} {v : BitVec 13} {o : Operand}
    (hn : k ++ n ++ ds = b) (hv : k ++ v = b) (hm : k ++ n ++ zeros ++ m = b)
    (h : Operand.ofFields n ds zeros m v k.toNat = some o) : o.code = b := by
  have hk : ∀ k : BitVec 3, k = 0 ∨ k = 1 ∨ k = 2 ∨ k = 3 ∨ k = 4 ∨ k = 5 ∨ k = 6 ∨ k = 7 := by decide
  rcases hk k with rfl | rfl | rfl | rfl | rfl | rfl | rfl | rfl
  · obtain rfl := Option.some.inj h; exact hn
  · obtain rfl := Option.some.inj h; exact hn
  · obtain rfl := Option.some.inj h; exact hn
  · obtain ⟨rfl, h⟩ := Option.ite_none_right_eq_some.1 h; obtain rfl := Option.some.inj h; exact hm
  · obtain ⟨rfl, h⟩ := Option.ite_none_right_eq_some.1 h; obtain rfl := Option.some.inj h; exact hv
  · obtain ⟨rfl, h⟩ := Option.ite_none_right_eq_some.1 h; obtain rfl := Option.some.inj h; exact hn
  · obtain rfl := Option.some.inj h; exact hv
  · obtain rfl := Option.some.inj h; exact hn

theorem Operand.code_of_ofCode {b : BitVec 16} {o : Operand} (h : Operand.ofCode b = some o) : o.code = b := by
  have hmn : b.extractLsb' 13 3 ++ b.extractLsb' 10 3 = b.extractLsb' 10 6 := join_next rfl rfl
  have hds : b.extractLsb' 13 3 ++ b.extractLsb' 10 3 ++ b.extractLsb' 0 10 = b := (join_next hmn rfl).trans BitVec.extractLsb'_eq_self
  have hz : b.extractLsb' 13 3 ++ b.extractLsb' 10 3 ++ b.extractLsb' 3 7 = b.extractLsb' 3 13 := join_next hmn rfl
  exact Operand.code_of_ofFields hds ((extract_join b 0 3 13).trans BitVec.extractLsb'_eq_self)
    ((join_next hz rfl).trans BitVec.extractLsb'_eq_self) h

/-! ### One bit of a slot -/

@[simp] theorem bit1_beq_one (b : Bool) : (bit1 b == 1#1) = b := by induction b <;> rfl

theorem bit1_bitAt (w : Slot) (k : Nat) : bit1 (bitAt w k) = w.extractLsb' k 1 := by
  ext i hi
  obtain rfl : i = 0 := by lia
  simp [bit1, bitAt]

theorem bitAt_of_extract {w : Slot} {k : Nat} {b : Bool} (h : w.extractLsb' k 1 = bit1 b) : bitAt w k = b := by
  rw [← bit1_beq_one (bitAt w k), bit1_bitAt, h, bit1_beq_one]

/-! ### Slots and forms -/

theorem except_bind_eq_ok {ε α β : Type} {x : Except ε α} {f : α → Except ε β} {b : β} :
    (x >>= f) = .ok b ↔ ∃ a, x = .ok a ∧ f a = .ok b := by
  cases x <;> simp [bind, Except.bind]

theorem bind_of_ok {ε α β : Type} {x : Except ε α} {a : α} {k : α → Except ε β} {r : Except ε β} (hx : x = .ok a)
    (hk : k a = r) : (x >>= k) = r := by
  rw [hx]; exact hk

/-- A check that raised nothing was met. -/
theorem ite_error_of_ok {ε β : Type} {p : Prop} [Decidable p] {e : ε} {x : Except ε β} {b : β}
    (h : (if p then .error e else x) = .ok b) : ¬ p ∧ x = .ok b := by
  by_cases hp : p
  · rw [if_pos hp] at h; exact nomatch h
  · rw [if_neg hp] at h; exact ⟨hp, h⟩

theorem ok_of_ite {ε β : Type} {p : Prop} [Decidable p] {e : ε} {a b : β}
    (h : (if p then Except.ok a else .error e) = .ok b) : p ∧ a = b := by
  by_cases hp : p
  · rw [if_pos hp] at h; exact ⟨hp, Except.ok.inj h⟩
  · rw [if_neg hp] at h; exact nomatch h

section
variable {w : Slot}

theorem vpRm_ok {v : Vp} {r : Rm} (h : vpRm w = .ok (v, r)) : v.code = w.extractLsb' 77 2 ∧ r.code = w.extractLsb' 74 3 := by
  unfold vpRm at h
  rcases hv : Vp.ofCode (w.extractLsb' 77 2) with _ | v'
  · rw [hv] at h; exact nomatch h
  rcases hr : Rm.ofCode (w.extractLsb' 74 3) with _ | r'
  · rw [hv, hr] at h; exact nomatch h
  rw [hv, hr] at h
  obtain ⟨rfl, rfl⟩ := Prod.mk.inj (Except.ok.inj h)
  exact ⟨Vp.code_of_ofCode hv, Rm.code_of_ofCode hr⟩

theorem operandAt_ok {k : Nat} {o : Operand} (h : operandAt w k = .ok o) : o.code = w.extractLsb' k 16 := by
  unfold operandAt at h
  rcases ho : Operand.ofCode (w.extractLsb' k 16) with _ | o'
  · rw [ho] at h; exact nomatch h
  rw [ho] at h
  obtain rfl := Except.ok.inj h
  exact Operand.code_of_ofCode ho

theorem vpRm_of_codes {v : Vp} {r : Rm} (hv : w.extractLsb' 77 2 = v.code) (hr : w.extractLsb' 74 3 = r.code) :
    vpRm w = .ok (v, r) := by
  rw [vpRm, hv, hr, Vp.ofCode_code, Rm.ofCode_code]

theorem operandAt_of_code {k : Nat} {o : Operand} (h : w.extractLsb' k 16 = o.code) : operandAt w k = .ok o := by
  rw [operandAt, h, Operand.ofCode_code]

theorem ty_of_code {k : Nat} {t : Ty} (h : w.extractLsb' k 4 = t.code) : Ty.ofCode (w.extractLsb' k 4) = t := by
  rw [h, Ty.ofCode_code]

variable {op : Byte} {sp : Bool} {ty : Ty} {ln : BitVec 4} {v : Vp} {r : Rm} {fn : BitVec 10}

/-- The fields that the M3, MI and SY formats share (R36). -/
theorem head_split (h : w.extractLsb' 64 (8 + 1 + 4 + 4 + 2 + 3 + 10) = op ++ bit1 sp ++ ty.code ++ ln ++ v.code ++ r.code ++ fn) :
    w.extractLsb' 88 8 = op ∧ bitAt w 87 = sp ∧ Ty.ofCode (w.extractLsb' 83 4) = ty ∧ w.extractLsb' 79 4 = ln ∧
      vpRm w = .ok (v, r) ∧ w.extractLsb' 64 10 = fn := by
  have hfn := join_split h
  have hr := join_split hfn.1
  have hv := join_split hr.1
  have hln := join_split hv.1
  have hty := join_split hln.1
  have hsp := join_split hty.1
  exact ⟨hsp.1, bitAt_of_extract hsp.2, ty_of_code hty.2, hln.2, vpRm_of_codes hv.2 hr.2, hfn.2⟩

theorem head_join (h : vpRm w = .ok (v, r)) : w.extractLsb' 88 8 ++ bit1 (bitAt w 87) ++ (Ty.ofCode (w.extractLsb' 83 4)).code ++
    w.extractLsb' 79 4 ++ v.code ++ r.code ++ w.extractLsb' 64 10 = w.extractLsb' 64 32 := by
  obtain ⟨hv, hr⟩ := vpRm_ok h
  exact join_next (join_next (join_next (join_next (join_next (join_next rfl (bit1_bitAt w 87)) (Ty.code_ofCode _)) rfl) hv) hr) rfl

end

section
variable {w : Slot} {op : Byte}

/-- The opcode stands in the top byte of a slot (R36), above the fields of its form; each field is what was encoded. -/
theorem parseM3_encode {f : M3} (h : w = f.encode op) : parseM3 w = .ok f ∧ w.extractLsb' 88 8 = op := by
  unfold M3.encode at h
  have hoc := join_split (k := 0) (m := 8 + 1 + 4 + 4 + 2 + 3 + 10 + 16 + 16 + 16) (n := 16) (BitVec.extractLsb'_eq_self.trans h)
  have hob := join_split hoc.1
  have hoa := join_split hob.1
  have hod := join_split hoa.1
  obtain ⟨hop, hsp, hty, hln, hvr, hfn⟩ := head_split hod.1
  refine ⟨bind_of_ok hvr (bind_of_ok (operandAt_of_code hod.2) (bind_of_ok (operandAt_of_code hoa.2)
    (bind_of_ok (operandAt_of_code hob.2) (bind_of_ok (operandAt_of_code hoc.2) ?_)))), hop⟩
  show Except.ok (M3.mk _ _ _ _ _ _ _ _ _ _) = _
  rw [hsp, hty, hln, hfn]

theorem parseMI_encode {f : MI} (h : w = f.encode op) : parseMI w = .ok f ∧ w.extractLsb' 88 8 = op := by
  unfold MI.encode at h
  have himm := join_split (k := 0) (m := 8 + 1 + 4 + 4 + 2 + 3 + 10 + 16 + 16) (n := 32) (BitVec.extractLsb'_eq_self.trans h)
  have hoa := join_split himm.1
  have hod := join_split hoa.1
  obtain ⟨hop, hsp, hty, hln, hvr, hfn⟩ := head_split hod.1
  refine ⟨bind_of_ok hvr (bind_of_ok (operandAt_of_code hod.2) (bind_of_ok (operandAt_of_code hoa.2) ?_)), hop⟩
  show Except.ok (MI.mk _ _ _ _ _ _ _ _ _) = _
  rw [hsp, hty, hln, hfn, himm.2]

theorem parseBR_encode {f : BR} (h : w = f.encode op) : parseBR w = .ok f ∧ w.extractLsb' 88 8 = op := by
  unfold BR.encode at h
  have hoff := join_split (k := 0) (m := 8 + 2 + 6 + 16 + 16 + 16) (n := 32) (BitVec.extractLsb'_eq_self.trans h)
  have hax := join_split hoff.1
  have hco := join_split hax.1
  have hsig := join_split hco.1
  have hcnd := join_split hsig.1
  have hz := join_split hcnd.1
  have hbits := join_split (m := 1) (n := 1) (x := bit1 false) (y := bit1 false) hz.2
  unfold parseBR
  rw [bitAt_of_extract hbits.1, bitAt_of_extract hbits.2]
  refine ⟨bind_of_ok (operandAt_of_code hco.2) (bind_of_ok (operandAt_of_code hax.2) ?_), hz.1⟩
  rw [hcnd.2, hsig.2, hoff.2]
  rfl

theorem parseEN_encode {f : EN} (h : w = f.encode op) : parseEN w = .ok f ∧ w.extractLsb' 88 8 = op := by
  unfold EN.encode at h
  have hsel := join_split (k := 0) (m := 8 + 1 + 4 + 9 + 10 + 16 + 16 + 16) (n := 16) (BitVec.extractLsb'_eq_self.trans h)
  have hopt := join_split hsel.1
  have hcp := join_split hopt.1
  have hcb := join_split hcp.1
  have hfn := join_split hcb.1
  have hz := join_split hfn.1
  have hty := join_split hz.1
  have hsp := join_split hty.1
  unfold parseEN
  rw [hz.2]
  refine ⟨bind_of_ok (operandAt_of_code hcb.2) (bind_of_ok (operandAt_of_code hcp.2) ?_), hsp.1⟩
  rw [bitAt_of_extract hsp.2, ty_of_code hty.2, hfn.2, hopt.2, hsel.2]
  rfl

theorem parseSY_encode {f : SY} (h : w = f.encode op) : parseSY w = .ok f ∧ w.extractLsb' 88 8 = op := by
  unfold SY.encode at h
  have hoc := join_split (k := 0) (m := 8 + 1 + 4 + 4 + 2 + 3 + 10 + 12 + 4 + 16 + 16) (n := 16) (BitVec.extractLsb'_eq_self.trans h)
  have hob := join_split hoc.1
  have hoa := join_split hob.1
  have hz := join_split hoa.1
  have hsrn := join_split hz.1
  obtain ⟨hop, hsp, hty, hln, hvr, hfn⟩ := head_split hsrn.1
  unfold parseSY
  rw [hz.2]
  refine ⟨bind_of_ok hvr (bind_of_ok (operandAt_of_code hoa.2) (bind_of_ok (operandAt_of_code hob.2)
    (bind_of_ok (operandAt_of_code hoc.2) ?_))), hop⟩
  rw [hsp, hty, hln, hfn, hsrn.2]
  rfl

theorem M3.encode_of_parse {f : M3} (h : parseM3 w = .ok f) : f.encode (w.extractLsb' 88 8) = w := by
  obtain ⟨⟨v, r⟩, hvr, h⟩ := except_bind_eq_ok.1 h
  obtain ⟨od, hod, h⟩ := except_bind_eq_ok.1 h
  obtain ⟨oa, hoa, h⟩ := except_bind_eq_ok.1 h
  obtain ⟨ob, hob, h⟩ := except_bind_eq_ok.1 h
  obtain ⟨oc, hoc, h⟩ := except_bind_eq_ok.1 h
  obtain rfl := Except.ok.inj h
  have hd := join_next (k := 48) (n := 16) (head_join hvr) (operandAt_ok hod)
  have ha := join_next (k := 32) (n := 16) hd (operandAt_ok hoa)
  have hb := join_next (k := 16) (n := 16) ha (operandAt_ok hob)
  exact (join_next (k := 0) (n := 16) hb (operandAt_ok hoc)).trans BitVec.extractLsb'_eq_self

theorem MI.encode_of_parse {f : MI} (h : parseMI w = .ok f) : f.encode (w.extractLsb' 88 8) = w := by
  obtain ⟨⟨v, r⟩, hvr, h⟩ := except_bind_eq_ok.1 h
  obtain ⟨od, hod, h⟩ := except_bind_eq_ok.1 h
  obtain ⟨oa, hoa, h⟩ := except_bind_eq_ok.1 h
  obtain rfl := Except.ok.inj h
  have hd := join_next (k := 48) (n := 16) (head_join hvr) (operandAt_ok hod)
  have ha := join_next (k := 32) (n := 16) hd (operandAt_ok hoa)
  exact (join_next (k := 0) (n := 32) ha rfl).trans BitVec.extractLsb'_eq_self

/-- A bit that is not set is zero. -/
theorem zero_of_bitAt {k : Nat} (h : ¬ bitAt w k = true) : bit1 false = w.extractLsb' k 1 := by
  rw [← bit1_bitAt, Bool.eq_false_of_not_eq_true h]

theorem BR.encode_of_parse {f : BR} (h : parseBR w = .ok f) : f.encode (w.extractLsb' 88 8) = w := by
  obtain ⟨h87, h⟩ := ite_error_of_ok h
  obtain ⟨h86, h⟩ := ite_error_of_ok h
  obtain ⟨co, hco, h⟩ := except_bind_eq_ok.1 h
  obtain ⟨ax, hax, h⟩ := except_bind_eq_ok.1 h
  obtain rfl := Except.ok.inj h
  have hz : 0#2 = w.extractLsb' 86 2 := join_next (k := 86) (n := 1) (x := bit1 false) (y := bit1 false) (zero_of_bitAt h87) (zero_of_bitAt h86)
  have hc := join_next (k := 64) (n := 16) (join_next (k := 80) (n := 6) (join_next (k := 86) (m := 8) (n := 2) rfl hz) rfl) rfl
  have ha := join_next (k := 32) (n := 16) (join_next (k := 48) (n := 16) hc (operandAt_ok hco)) (operandAt_ok hax)
  exact (join_next (k := 0) (n := 32) ha rfl).trans BitVec.extractLsb'_eq_self

theorem EN.encode_of_parse {f : EN} (h : parseEN w = .ok f) : f.encode (w.extractLsb' 88 8) = w := by
  obtain ⟨hz, h⟩ := ite_error_of_ok h
  obtain ⟨cb, hcb, h⟩ := except_bind_eq_ok.1 h
  obtain ⟨cp, hcp, h⟩ := except_bind_eq_ok.1 h
  obtain rfl := Except.ok.inj h
  have hty := join_next (k := 83) (n := 4) (join_next (k := 87) (m := 8) (n := 1) rfl (bit1_bitAt w 87)) (Ty.code_ofCode _)
  have hfn := join_next (k := 64) (n := 10) (join_next (k := 74) (n := 9) hty (Decidable.not_not.1 hz).symm) rfl
  have hp := join_next (k := 32) (n := 16) (join_next (k := 48) (n := 16) hfn (operandAt_ok hcb)) (operandAt_ok hcp)
  exact (join_next (k := 0) (n := 16) (join_next (k := 16) (n := 16) hp rfl) rfl).trans BitVec.extractLsb'_eq_self

theorem SY.encode_of_parse {f : SY} (h : parseSY w = .ok f) : f.encode (w.extractLsb' 88 8) = w := by
  obtain ⟨⟨v, r⟩, hvr, h⟩ := except_bind_eq_ok.1 h
  obtain ⟨hz, h⟩ := ite_error_of_ok h
  obtain ⟨oa, hoa, h⟩ := except_bind_eq_ok.1 h
  obtain ⟨ob, hob, h⟩ := except_bind_eq_ok.1 h
  obtain ⟨oc, hoc, h⟩ := except_bind_eq_ok.1 h
  obtain rfl := Except.ok.inj h
  have hs := join_next (k := 48) (n := 4) (join_next (k := 52) (n := 12) (head_join hvr) rfl) (Decidable.not_not.1 hz).symm
  have hb := join_next (k := 16) (n := 16) (join_next (k := 32) (n := 16) hs (operandAt_ok hoa)) (operandAt_ok hob)
  exact (join_next (k := 0) (n := 16) hb (operandAt_ok hoc)).trans BitVec.extractLsb'_eq_self

end

/-! ### Forms -/

/-- The format that the opcode map gives a form's opcode is the form's own (R52). -/
noncomputable def Form.fits : Form → Bool
  | .m3 op _ => fmtOf op.toNat == .m3
  | .mi op _ => fmtOf op.toNat == .mi
  | .br op _ => fmtOf op.toNat == .br
  | .en op _ => fmtOf op.toNat == .en
  | .sy op _ => fmtOf op.toNat == .sy
  | _ => true

/-- A slot parsed with the format of its opcode in hand (R52). -/
noncomputable def parseAs (w : Slot) (op : Byte) : Fmt → Except DecodeErr Form
  | .nop => if w = 0 then .ok .nop else .error .nopBits
  | .m3 => (parseM3 w).map (.m3 op)
  | .mi => (parseMI w).map (.mi op)
  | .br => (parseBR w).map (.br op)
  | .en => (parseEN w).map (.en op)
  | .sy => (parseSY w).map (.sy op)
  | .chk => if w.extractLsb' 16 71 = 0 then .ok (.chk (bitAt w 87) (w.extractLsb' 0 16)) else .error .reservedField
  | .live => .error .liveWord
  | .bad => .error .unassigned

section
variable {w : Slot} {f : Form}

theorem parse_eq (w : Slot) : parse w = parseAs w (w.extractLsb' 88 8) (fmtOf (w.extractLsb' 88 8).toNat) := rfl

theorem parse_of_fmt {op : Byte} {t : Fmt} {r : Except DecodeErr Form} (hop : w.extractLsb' 88 8 = op)
    (ht : (fmtOf op.toNat == t) = true) (hr : parseAs w op t = r) : parse w = r := by
  rw [parse_eq, hop, eq_of_beq ht, hr]

theorem eq_of_some {α : Type} {a b : α} (h : some a = some b) : b = a := (Option.some.inj h).symm

theorem Form.parse_of_encode (hf : f.fits = true) (h : f.encode = some w) : parse w = .ok f := by
  induction f with
  | nop => exact eq_of_some (a := 0) h ▸ rfl
  | agent => exact nomatch h
  | chk sp x =>
    have hx := join_split (k := 0) (m := 8 + 1 + 71) (n := 16)
      (BitVec.extractLsb'_eq_self.trans (eq_of_some (a := 0xE9#8 ++ bit1 sp ++ 0#71 ++ x) h))
    have hz := join_split hx.1
    have hsp := join_split hz.1
    refine parse_of_fmt (t := .chk) hsp.1 rfl ((if_pos hz.2).trans ?_)
    rw [bitAt_of_extract hsp.2, hx.2]
  | m3 op f =>
    obtain ⟨hp, hop⟩ := parseM3_encode (eq_of_some (a := f.encode op) h)
    exact parse_of_fmt hop hf (congrArg (Except.map (Form.m3 op)) hp)
  | mi op f =>
    obtain ⟨hp, hop⟩ := parseMI_encode (eq_of_some (a := f.encode op) h)
    exact parse_of_fmt hop hf (congrArg (Except.map (Form.mi op)) hp)
  | br op f =>
    obtain ⟨hp, hop⟩ := parseBR_encode (eq_of_some (a := f.encode op) h)
    exact parse_of_fmt hop hf (congrArg (Except.map (Form.br op)) hp)
  | en op f =>
    obtain ⟨hp, hop⟩ := parseEN_encode (eq_of_some (a := f.encode op) h)
    exact parse_of_fmt hop hf (congrArg (Except.map (Form.en op)) hp)
  | sy op f =>
    obtain ⟨hp, hop⟩ := parseSY_encode (eq_of_some (a := f.encode op) h)
    exact parse_of_fmt hop hf (congrArg (Except.map (Form.sy op)) hp)

theorem except_map_of_ok {ε α β : Type} {x : Except ε α} {f : α → β} {b : β} {P : β → Prop} (h : x.map f = .ok b)
    (H : ∀ a, x = .ok a → P (f a)) : P b := by
  rcases x with _ | a
  · exact nomatch h
  · exact Except.ok.inj h ▸ H a rfl

/-- SIGCHK is the one opcode of its format (R52). -/
theorem fmtOf_chk {op : Byte} : fmtOf op.toNat = .chk → op = 0xE9 := by
  revert op; decide

theorem Form.encode_of_parseAs {t : Fmt} (ht : fmtOf (w.extractLsb' 88 8).toNat = t)
    (h : parseAs w (w.extractLsb' 88 8) t = .ok f) : f.encode = some w := by
  induction t with
  | nop =>
    obtain ⟨hz, h⟩ := ok_of_ite h
    exact h ▸ congrArg some hz.symm
  | m3 => exact except_map_of_ok (P := (·.encode = some w)) h fun x hx => congrArg some (M3.encode_of_parse hx)
  | mi => exact except_map_of_ok (P := (·.encode = some w)) h fun x hx => congrArg some (MI.encode_of_parse hx)
  | br => exact except_map_of_ok (P := (·.encode = some w)) h fun x hx => congrArg some (BR.encode_of_parse hx)
  | en => exact except_map_of_ok (P := (·.encode = some w)) h fun x hx => congrArg some (EN.encode_of_parse hx)
  | sy => exact except_map_of_ok (P := (·.encode = some w)) h fun x hx => congrArg some (SY.encode_of_parse hx)
  | chk =>
    obtain ⟨hz, h⟩ := ok_of_ite h
    exact h ▸ congrArg some ((join_next (k := 0) (n := 16) (join_next (k := 16) (n := 71) (join_next (k := 87) (n := 1) (fmtOf_chk ht).symm (bit1_bitAt w 87)) hz.symm) rfl).trans
      BitVec.extractLsb'_eq_self)
  | live => exact nomatch h
  | bad => exact nomatch h

theorem Form.encode_of_parse (h : parse w = .ok f) : f.encode = some w :=
  Form.encode_of_parseAs rfl ((parse_eq w).symm.trans h)

end

/-! ### Instructions and forms -/

theorem Instr.form_fits (i : Instr) : i.form.fits = true := by
  induction i <;> exact Eq.refl true

/-- An instruction has no encoding, or its form's row gives it back. -/
noncomputable def Instr.Restored (i : Instr) : Prop := i.form = .agent ∨ i.form.toInstr = .ok i

theorem Instr.Restored.agent {i : Instr} (h : i.form = .agent) : i.Restored := .inl h

theorem Instr.Restored.row {i : Instr} (h : i.form.toInstr = .ok i) : i.Restored := .inr h

theorem Instr.restored {i : Instr} (h : i.wf = true) : i.Restored := by
  induction i
  case pset f => exact Laws.Codec.pset f h
  case psetHi f => exact Laws.Codec.psetHi f h
  case fmtx f => exact Laws.Codec.fmtx f h
  case barrInit f => exact Laws.Codec.barrInit f h
  case barrWait f => exact Laws.Codec.barrWait f h
  case barrExit f => exact Laws.Codec.barrExit f h
  case l1inv f => exact Laws.Codec.l1inv f h
  case l1invAll f => exact Laws.Codec.l1invAll f h
  case swr f => exact Laws.Codec.swr f h
  case trap f => exact Laws.Codec.trap f h
  case eret f => exact Laws.Codec.eret f h
  case tlbinvPage f => exact Laws.Codec.tlbinvPage f h
  case tlbinvRange f => exact Laws.Codec.tlbinvRange f h
  case tlbinvAsid f => exact Laws.Codec.tlbinvAsid f h
  case scrubPage f => exact Laws.Codec.scrubPage f h
  case scrubLine f => exact Laws.Codec.scrubLine f h
  case pwrbCap f => exact Laws.Codec.pwrbCap f h
  case pwrbGate f => exact Laws.Codec.pwrbGate f h
  case brk f => exact Laws.Codec.brk f h
  case writeSpcfg f => exact Laws.Codec.writeSpcfg f h
  case writeSppwr f => exact Laws.Codec.writeSppwr f h
  case writeSrseed f => exact Laws.Codec.writeSrseed f h
  case writeMxrpHlt f => exact Laws.Codec.writeMxrpHlt f h
  all_goals first | exact .row (Eq.refl _) | exact .agent (Eq.refl Form.agent)

/-- What the row of a form says: the instruction's form and whether it is well formed; the form itself where there is no row. -/
noncomputable def rowForm (r : Except DecodeErr Instr) (g : Form) : Form × Bool :=
  match r with
  | .ok i => (i.form, i.wf)
  | .error _ => (g, true)

theorem form_of_rowForm {r : Except DecodeErr Instr} {g : Form} {i : Instr} (hr : rowForm r g = (g, true)) (h : r = .ok i) :
    i.wf = true ∧ i.form = g := by
  subst h
  exact ⟨congrArg Prod.snd hr, congrArg Prod.fst hr⟩

/-- The opcodes of a high nibble, without those whose row has a condition on SP, FN or the register's number. -/
noncomputable def plainOps (cond : List Nat) (k : Nat) : List Nat := ((List.range 16).map (16 * k + ·)).filter fun n => !cond.contains n

/-- Each opcode but those of `cond` has a row of its own form, or none: compared by nibbles, each as one list. -/
def PlainRows (row : Nat → Except DecodeErr Instr) (g : Byte → Form) (cond : List Nat) : Prop :=
  ∀ k < 16, (plainOps cond k).map (fun n => rowForm (row n) (g (BitVec.ofNat 8 n))) =
    (plainOps cond k).map fun n => (g (BitVec.ofNat 8 n), true)

theorem form_of_plainRows {row : Nat → Except DecodeErr Instr} {g : Byte → Form} {cond : List Nat} (h : PlainRows row g cond)
    {op : Byte} (hop : op.toNat ∉ cond) {i : Instr} (hi : row op.toNat = .ok i) : i.wf = true ∧ i.form = g op := by
  have hlt : op.toNat < 256 := op.isLt
  have hk := List.map_inj_left.1 (h (op.toNat / 16) (by lia)) op.toNat
    (by simpa [plainOps, hop] using ⟨op.toNat % 16, by lia, by lia⟩)
  simp only [BitVec.ofNat_toNat, BitVec.setWidth_eq] at hk
  exact form_of_rowForm hk hi

/-- A row for SP = 0 only. -/
theorem form_of_noSp {b : Bool} {i j : Instr} {g : Form} (h : (if b then Except.error DecodeErr.badSp else .ok j) = .ok i)
    (hj : b = false → j.wf = true ∧ j.form = g) : i.wf = true ∧ i.form = g := by
  split at h
  · cases h
  · cases h
    exact hj (Bool.eq_false_iff.mpr ‹_›)

/-- A row that a field divides: the case of its value, or one of the cases after it. -/
theorem form_of_fn {p : Prop} [Decidable p] {i j : Instr} {g : Form} {e : Except DecodeErr Instr}
    (h : (if p then Except.ok j else e) = .ok i) (hj : p → j.wf = true ∧ j.form = g)
    (he : ¬p → e = .ok i → i.wf = true ∧ i.form = g) : i.wf = true ∧ i.form = g := by
  split at h
  · cases h
    exact hj ‹_›
  · exact he ‹_› h

/-- The M3 rows with a condition on SP, or a case for each FN. -/
noncomputable def condM3 : List Nat := [0x7F, 0x8A, 0x8F, 0xE2, 0xE3, 0xE4, 0xE6, 0xE7, 0xE8]

theorem m3Row_plain (f : M3) : PlainRows (m3Row · f) (.m3 · f) condM3 := by
  intro k hk
  interval_cases k <;> rfl

theorem m3Row_cond {n : Nat} {f : M3} {i : Instr} (hn : n ∈ condM3) (h : m3Row n f = .ok i) :
    i.wf = true ∧ i.form = .m3 (BitVec.ofNat 8 n) f := by
  simp only [condM3, List.mem_cons, List.not_mem_nil, or_false] at hn
  rcases hn with rfl | rfl | rfl | rfl | rfl | rfl | rfl | rfl | rfl
  case inl | inr.inr.inr.inl | inr.inr.inr.inr.inl | inr.inr.inr.inr.inr.inr.inr.inr => exact form_of_noSp h fun e => ⟨congrArg not e, rfl⟩
  case inr.inl | inr.inr.inr.inr.inr.inl =>
    exact form_of_fn h (fun e => ⟨decide_eq_true e, rfl⟩) fun _ h => form_of_fn h (fun e => ⟨decide_eq_true e, rfl⟩) fun _ h =>
      form_of_fn h (fun e => ⟨decide_eq_true e, rfl⟩) nofun
  all_goals exact form_of_fn h (fun e => ⟨decide_eq_true e, rfl⟩) fun _ h => form_of_fn h (fun e => ⟨decide_eq_true e, rfl⟩) nofun

theorem m3Row_form {op : Byte} {f : M3} {i : Instr} (h : m3Row op.toNat f = .ok i) : i.wf = true ∧ i.form = .m3 op f := by
  by_cases hn : op.toNat ∈ condM3
  · simpa using m3Row_cond hn h
  · exact form_of_plainRows (m3Row_plain f) hn h

theorem miRow_form {op : Byte} {f : MI} {i : Instr} (h : miRow op.toNat f = .ok i) : i.wf = true ∧ i.form = .mi op f := by
  have hplain : PlainRows (miRow · f) (.mi · f) [0x30] := by
    intro k hk
    interval_cases k <;> rfl
  by_cases hn : op.toNat = 0x30
  · obtain rfl : op = 0x30#8 := BitVec.eq_of_toNat_eq hn
    exact form_of_fn h (fun e => ⟨decide_eq_true e, rfl⟩) fun _ h => form_of_fn h (fun e => ⟨decide_eq_true e, rfl⟩) nofun
  · exact form_of_plainRows hplain (by simpa using hn) h

theorem brRow_form {op : Byte} {f : BR} {i : Instr} (h : brRow op.toNat f = .ok i) : i.wf = true ∧ i.form = .br op f := by
  have hplain : PlainRows (brRow · f) (.br · f) [] := by
    intro k hk
    interval_cases k <;> rfl
  exact form_of_plainRows hplain List.not_mem_nil h

theorem enRow_form {op : Byte} {f : EN} {i : Instr} (h : enRow op.toNat f = .ok i) : i.wf = true ∧ i.form = .en op f := by
  have hplain : PlainRows (enRow · f) (.en · f) [] := by
    intro k hk
    interval_cases k <;> rfl
  exact form_of_plainRows hplain List.not_mem_nil h

theorem syRow_form {op : Byte} {f : SY} {i : Instr} (h : syRow op.toNat f = .ok i) : i.wf = true ∧ i.form = .sy op f := by
  have hplain : PlainRows (syRow · f) (.sy · f) [0xE1] := by
    intro k hk
    interval_cases k <;> rfl
  by_cases hn : op.toNat = 0xE1
  · obtain rfl : op = 0xE1#8 := BitVec.eq_of_toNat_eq hn
    refine form_of_fn h (fun e => ⟨decide_eq_true e, rfl⟩) fun h1 h => form_of_fn h (fun e => ⟨decide_eq_true e, rfl⟩) fun h2 h => ?_
    refine form_of_fn h (fun e => ⟨decide_eq_true e, rfl⟩) fun h3 h => form_of_fn h (fun e => ⟨decide_eq_true e, rfl⟩) fun h4 h => ?_
    cases h
    exact ⟨by simpa [Instr.wf, swrOwnRow] using ⟨⟨⟨h1, h2⟩, h3⟩, h4⟩, rfl⟩
  · exact form_of_plainRows hplain (by simpa using hn) h

/-- A form that names an instruction is the form of that instruction, which is well formed. -/
theorem Form.toInstr_ok {f : Form} {i : Instr} (h : f.toInstr = .ok i) : i.wf = true ∧ i.form = f := by
  induction f with
  | nop => cases h; exact ⟨rfl, rfl⟩
  | m3 op f => exact m3Row_form h
  | mi op f => exact miRow_form h
  | br op f => exact brRow_form h
  | en op f => exact enRow_form h
  | sy op f => exact syRow_form h
  | chk sp x => cases h; exact ⟨rfl, rfl⟩
  | agent => cases h

end Sys2Proof

namespace Sys2Proof.Spec
open Sys2Proof

/-- Settles O57: the slot parses back to the instruction's form, and the form's row is the instruction. -/
theorem decodeEncode : Obligations.DecodeEncode := by
  intro i w hwf henc
  have hparse : parse w = .ok i.form := Form.parse_of_encode i.form_fits henc
  rcases Instr.restored hwf with hagent | hrow
  · rw [encode, hagent] at henc
    cases henc
  · rw [decode, hparse]
    exact hrow

/-- Settles O58: the instruction's form is the one the slot parsed to, and that form encodes to the slot. -/
theorem encodeDecode : Obligations.EncodeDecode := by
  intro w i h
  unfold decode at h
  split at h
  · cases h
  · rename_i f hparse
    obtain ⟨hwf, hform⟩ := Form.toInstr_ok h
    exact ⟨hwf, (congrArg Form.encode hform).trans (Form.encode_of_parse hparse)⟩

end Sys2Proof.Spec
end

section
/-! PROOFS. What is true of the fixed words of the codec, of the state after reset and of single registers. -/

namespace Sys2Proof.Machine
set_option Elab.async false

theorem getD_set!_self {α : Type} {n i : Nat} (v : Vector α n) (hi : i < n) (x d : α) : (v.set! i x).getD i d = x := by
  simp [Vector.getD, Vector.set!, hi]

theorem getD_set!_ne {α : Type} {n i k : Nat} (v : Vector α n) (h : i ≠ k) (x d : α) : (v.set! i x).getD k d = v.getD k d := by
  simp [Vector.getD, Vector.set!, h]

theorem getD_replicate {α : Type} {n k : Nat} (hk : k < n) (x d : α) : (Vector.replicate n x).getD k d = x := by
  simp [Vector.getD, hk]

/-- A post-increment changes only the pointer it names (R41). -/
theorem Core.preg_opInc_ne {n k : BitVec 3} (h : k ≠ n) (c : Core) (fp : Nat) (ds : BitVec 10) (m : BitVec 3) :
    (c.opInc fp (.inc n ds)).preg k = c.preg k ∧ (c.opInc fp (.incReg n m)).preg k = c.preg k :=
  ⟨Core.preg_setP_ne h _ _, Core.preg_setP_ne h _ _⟩

end Sys2Proof.Machine

namespace Sys2Proof.Spec
open Sys2Proof Sys2Proof.Machine
set_option Elab.async false

/-- Settles O56: each word is run through the decoder. -/
theorem decodeWords : Obligations.DecodeWords := by
  unfold Obligations.DecodeWords
  decide

/-- Settles O60: no core and no chiplet is listed at reset, so each reads as its default. -/
theorem resetState : Obligations.ResetState := by
  unfold Obligations.ResetState
  exact ⟨State.wf_reset, rfl, rfl, rfl, fun _ => ⟨rfl, rfl, rfl, rfl, rfl, rfl⟩, fun _ => rfl⟩

/-- Settles O8. -/
theorem addressModes : Obligations.AddressModes := by
  unfold Obligations.AddressModes
  intro c fp n m ds
  exact ⟨rfl, rfl, rfl, rfl, rfl, rfl, Core.preg_setP_self _ _ _, Core.preg_setP_self _ _ _,
    fun k hk => Core.preg_opInc_ne hk c fp ds m⟩

end Sys2Proof.Spec
end

section
/-! PROOFS. The shares of a launch (R312). -/

namespace Sys2Proof.Machine
set_option Elab.async false

theorem shareRanges_cons (n total before : Nat) (x : Nat × Nat) (l : List (Nat × Nat)) : shareRanges n total before (x :: l) =
    (x.1, n * before / total, n * (before + x.2) / total) :: shareRanges n total (before + x.2) l := rfl

theorem shareRanges_map_fst (n total before : Nat) (l : List (Nat × Nat)) :
    (shareRanges n total before l).map (·.1) = l.map (·.1) := by
  induction l generalizing before with
  | nil => rfl
  | cons x l ih => exact congrArg (x.1 :: ·) (ih _)

/-- The k-th share stands after those of the chiplets before it. -/
theorem shareRanges_getElem? (n total before : Nat) (l : List (Nat × Nat)) (k : Nat) :
    (shareRanges n total before l)[k]? = (l[k]?).map fun x => (x.1, n * (before + ((l.take k).map (·.2)).sum) / total,
      n * (before + ((l.take k).map (·.2)).sum + x.2) / total) := by
  induction l generalizing before k with
  | nil => rfl
  | cons x l ih => induction k with
    | zero => rfl
    | succ k =>
      rw [shareRanges_cons, List.getElem?_cons_succ, ih, List.getElem?_cons_succ, List.take_succ_cons, List.map_cons, List.sum_cons,
        ← Nat.add_assoc]

/-- The bound of a share rises with the cores before it. -/
theorem share_le (n total before k : Nat) : n * before / total ≤ n * (before + k) / total :=
  Nat.div_le_div_right (Nat.mul_le_mul_left n (Nat.le_add_right before k))

/-- Every share is an interval and ends where the chiplets' cores together end, or before. -/
theorem shareRanges_bounds {n total before : Nat} {l : List (Nat × Nat)} {x : Nat × Nat × Nat}
    (hx : x ∈ shareRanges n total before l) :
    x.2.1 ≤ x.2.2 ∧ x.2.2 ≤ n * (before + (l.map (·.2)).sum) / total := by
  induction l generalizing before with
  | nil => exact nomatch hx
  | cons y l ih =>
    rw [List.map_cons, List.sum_cons, ← Nat.add_assoc]
    rcases List.mem_cons.1 hx with rfl | hx
    · exact ⟨share_le .., share_le ..⟩
    · exact ih hx

/-- An index between the two ends lies in one share, any other in none. -/
theorem shareRanges_filter_length (n total before : Nat) (l : List (Nat × Nat)) (i : Nat) :
    ((shareRanges n total before l).filter fun x => decide (x.2.1 ≤ i) && decide (i < x.2.2)).length =
      if n * before / total ≤ i ∧ i < n * (before + (l.map (·.2)).sum) / total then 1 else 0 := by
  induction l generalizing before with
  | nil => exact (if_neg fun h => absurd h.1 (Nat.not_le.2 h.2)).symm
  | cons y l ih =>
    have hlo := share_le n total before y.2
    have hhi := share_le n total (before + y.2) (l.map (·.2)).sum
    have hrest := ih (before + y.2)
    rw [shareRanges_cons, List.filter_cons, List.map_cons, List.sum_cons, ← Nat.add_assoc, ← Bool.decide_and]
    by_cases hm : i < n * (before + y.2) / total
    · rw [if_neg fun h => absurd h.1 (Nat.not_le.2 hm)] at hrest
      by_cases hl : n * before / total ≤ i
      · rw [if_pos (decide_eq_true ⟨hl, hm⟩), if_pos ⟨hl, hm.trans_le hhi⟩, List.length_cons, hrest]
      · rw [if_neg fun h => hl (of_decide_eq_true h).1, if_neg fun h => hl h.1, hrest]
    · rw [if_neg fun h => hm (of_decide_eq_true h).2, hrest]
      exact if_congr (and_congr_left fun _ => ⟨hlo.trans, fun _ => Nat.not_lt.1 hm⟩) rfl rfl

end Sys2Proof.Machine

namespace Sys2Proof.Spec
open Sys2Proof Sys2Proof.Machine
set_option Elab.async false

/-- Settles O40, from the position of the k-th share and the count of the shares that hold an index. -/
theorem launchRangesPartition : Obligations.LaunchRangesPartition := by
  unfold Obligations.LaunchRangesPartition
  intro n l hpos
  have hend : n * (0 + (l.map (·.2)).sum) / (l.map (·.2)).sum = n := by rw [Nat.zero_add, Nat.mul_div_cancel n hpos]
  refine ⟨shareRanges_map_fst .., fun x hx => (shareRanges_bounds hx).1, fun i hi => ?_,
    fun x hx => hend ▸ (shareRanges_bounds hx).2, fun k => ?_⟩
  · rw [shareRanges_filter_length, hend, Nat.mul_zero, Nat.zero_div, if_pos ⟨Nat.zero_le i, hi⟩]
  · simpa using shareRanges_getElem? n _ 0 l k

end Sys2Proof.Spec
end

section
/-! PROOFS. Writes through masks, and what a system write leaves in a register (R77 to R79, R275, R401). -/

namespace Sys2Proof.Machine
set_option Elab.async false

theorem getLsbD_maskPut {w : Nat} (old new m : BitVec w) (k : Nat) :
    (maskPut old new m).getLsbD k = if m.getLsbD k then new.getLsbD k else old.getLsbD k := by
  unfold maskPut
  rw [BitVec.getLsbD_or, BitVec.getLsbD_and, BitVec.getLsbD_and, BitVec.getLsbD_not]
  by_cases hk : k < w
  · obtain ⟨⟩ := m.getLsbD k <;> simp [hk]
  · simp [BitVec.getLsbD_of_ge _ k (Nat.le_of_not_lt hk)]

/-- A field inside the mask is the new value's. -/
theorem extractLsb'_maskPut_new {w k n : Nat} (old new m : BitVec w) (h : m.extractLsb' k n = BitVec.allOnes n) :
    (maskPut old new m).extractLsb' k n = new.extractLsb' k n := by
  refine BitVec.eq_of_getLsbD_eq fun j hj => ?_
  have hm := congrArg (fun x => x.getLsbD j) h
  simp [hj] at hm
  simp [hj, getLsbD_maskPut, hm]

/-- A field outside the mask is the old value's. -/
theorem extractLsb'_maskPut_old {w k n : Nat} (old new m : BitVec w) (h : m.extractLsb' k n = 0) :
    (maskPut old new m).extractLsb' k n = old.extractLsb' k n := by
  refine BitVec.eq_of_getLsbD_eq fun j hj => ?_
  have hm := congrArg (fun x => x.getLsbD j) h
  simp [hj] at hm
  simp [hj, getLsbD_maskPut, hm]

/-- A system write of FM keeps the bits above its fields, takes the default saturation bits, and never mode 0 or 7 (R78). -/
theorem fmWrite_upper (old v : W32) : (fmWrite old v).extractLsb' 5 27 = old.extractLsb' 5 27 := by
  unfold fmWrite
  dsimp only
  split <;> exact extractLsb'_maskPut_old _ _ _ rfl

theorem fmWrite_sat (old v : W32) : (fmWrite old v).extractLsb' 3 2 = v.extractLsb' 3 2 := by
  unfold fmWrite
  dsimp only
  split <;> exact extractLsb'_maskPut_new _ _ _ rfl

theorem fmWrite_mode (old v : W32) : (fmWrite old v).extractLsb' 0 3 =
    if v.extractLsb' 0 3 = 0 ∨ v.extractLsb' 0 3 = 7 then old.extractLsb' 0 3 else v.extractLsb' 0 3 := by
  have hcode (r : BitVec 3) : (r.toNat = 0 ∨ r.toNat = 7) ↔ (r = 0 ∨ r = 7) := by revert r; decide
  unfold fmWrite
  simp only [hcode]
  split
  · exact extractLsb'_maskPut_old _ _ _ rfl
  · exact extractLsb'_maskPut_new _ _ _ rfl

/-- A type code as SWR of PX keeps it: never 0xF (R79). -/
noncomputable def typeCode (x : BitVec 4) : BitVec 4 := if x = 0xF then 0 else x

theorem typeCode_bit (v : W32) (k j : Nat) :
    (if v.extractLsb' k 4 = 0xF then 0 else (v >>> k) &&& 0xF : W32).getLsbD j = (typeCode (v.extractLsb' k 4)).getLsbD j := by
  have h15 : (0xF : W32).getLsbD j = decide (j < 4) := by
    rw [show (0xF : W32) = (BitVec.allOnes 4).setWidth 32 from rfl, BitVec.getLsbD_setWidth, BitVec.getLsbD_allOnes]
    by_cases hj : j < 4
    · simp [hj, show j < 32 by lia]
    · simp [hj]
  unfold typeCode
  split
  · exact BitVec.getLsbD_zero.trans BitVec.getLsbD_zero.symm
  · rw [BitVec.getLsbD_and, h15, BitVec.getLsbD_ushiftRight, BitVec.getLsbD_extractLsb', Bool.and_comm]

theorem pxWrite_bit (v : W32) (j : Nat) : (pxWrite v).getLsbD j = ((v.getLsbD j && decide (4 = j)) ||
    (typeCode (v.extractLsb' 0 4)).getLsbD j || (decide (j < 32) && !decide (j < 8) && (typeCode (v.extractLsb' 8 4)).getLsbD (j - 8))) := by
  have hpx : pxWrite v = (v &&& BitVec.twoPow 32 4) ||| (if v.extractLsb' 0 4 = 0xF then 0 else (v >>> 0) &&& 0xF : W32) |||
    ((if v.extractLsb' 8 4 = 0xF then 0 else (v >>> 8) &&& 0xF : W32) <<< 8) := rfl
  rw [hpx, BitVec.getLsbD_or, BitVec.getLsbD_or, BitVec.getLsbD_and, BitVec.getLsbD_twoPow, BitVec.getLsbD_shiftLeft, typeCode_bit v 0,
    typeCode_bit v 8]
  rfl

theorem pxWrite_low (v : W32) : (pxWrite v).extractLsb' 0 4 = typeCode (v.extractLsb' 0 4) := by
  refine BitVec.eq_of_getLsbD_eq fun j hj => ?_
  have h8 : j < 8 := by lia
  have h4 : 4 ≠ j := by lia
  rw [BitVec.getLsbD_extractLsb', pxWrite_bit]
  simp [hj, h8, h4]

theorem pxWrite_high (v : W32) : (pxWrite v).extractLsb' 8 4 = typeCode (v.extractLsb' 8 4) := by
  refine BitVec.eq_of_getLsbD_eq fun j hj => ?_
  have h32 : 8 + j < 32 := by lia
  have h4 : 4 ≠ 8 + j := by lia
  rw [BitVec.getLsbD_extractLsb', pxWrite_bit]
  simp [hj, h32, h4, BitVec.getLsbD_of_ge _ (8 + j) (show 4 ≤ 8 + j by lia)]

theorem pxWrite_b4 (v : W32) : (pxWrite v).getLsbD 4 = v.getLsbD 4 := by
  rw [pxWrite_bit]
  simp

/-- The sticky flags of ST (R77). -/
theorem stickyMask_bit : ∀ k, k < 32 →
    (0xDF : W32).getLsbD k = (k == 0 || k == 1 || k == 2 || k == 3 || k == 4 || k == 6 || k == 7) := by decide

theorem cepatMask_bit : ∀ k, k < 64 → (0x00FFFF00FF0F3F3F : W64).getLsbD k =
    decide (k < 6 ∨ (8 ≤ k ∧ k < 14) ∨ (16 ≤ k ∧ k < 20) ∨ (24 ≤ k ∧ k < 32) ∨ (40 ≤ k ∧ k < 56)) := by decide

theorem tsstMask_bit : ∀ k, k < 32 → (0xFE0DF : W32).getLsbD k = (k < 5 ∨ k = 6 ∨ k = 7 ∨ (13 ≤ k ∧ k < 20) : Bool) := by decide

theorem extract_low {v : W64} {k n : Nat} (h : k + n ≤ 32) : (v.extractLsb' 0 32).extractLsb' k n = v.extractLsb' k n :=
  BitVec.extractLsb'_extractLsb'_of_le h

theorem getLsbD_low (v : W64) {k : Nat} (hk : k < 32) : (v.extractLsb' 0 32).getLsbD k = v.getLsbD k := by
  rw [BitVec.getLsbD_extractLsb', Nat.zero_add, decide_eq_true hk, Bool.true_and]

theorem Core.swr_st_bit (c : Core) (v : W64) (k : Nat) (hk : k < 32) : (c.swr 0x010 v).st.getLsbD k =
    (c.st.getLsbD k && !((k == 0 || k == 1 || k == 2 || k == 3 || k == 4 || k == 6 || k == 7) && v.getLsbD k)) := by
  show (c.st &&& ~~~(v.extractLsb' 0 32 &&& 0xDF)).getLsbD k = _
  rw [BitVec.getLsbD_and, BitVec.getLsbD_not, BitVec.getLsbD_and, stickyMask_bit k hk, getLsbD_low v hk, decide_eq_true hk,
    Bool.true_and, Bool.and_comm (v.getLsbD k)]

theorem Core.swr_cepat_bit (c : Core) (v : W64) (k : Nat) (hk : k < 64) : (c.swr 0x070 v).cepat.getLsbD k =
    if k < 6 ∨ (8 ≤ k ∧ k < 14) ∨ (16 ≤ k ∧ k < 20) ∨ (24 ≤ k ∧ k < 32) ∨ (40 ≤ k ∧ k < 56) then v.getLsbD k
    else c.cepat.getLsbD k := by
  show (maskPut c.cepat v 0x00FFFF00FF0F3F3F).getLsbD k = _
  rw [getLsbD_maskPut, cepatMask_bit k hk]
  simp only [decide_eq_true_eq]

theorem Core.swr_tsst_bit (c : Core) (v : W64) (k : Nat) (hk : k < 32) : (c.swr 0x0B3 v).tsst.getLsbD k =
    ((k < 5 ∨ k = 6 ∨ k = 7 ∨ (13 ≤ k ∧ k < 20) : Bool) && v.getLsbD k) := by
  show (v.extractLsb' 0 32 &&& 0xFE0DF).getLsbD k = _
  rw [BitVec.getLsbD_and, tsstMask_bit k hk, getLsbD_low v hk, Bool.and_comm]

theorem Core.swr_tsinf_act (c : Core) (v : W64) : (c.swr 0x0B5 v).trapActive = c.trapActive :=
  (getLsbD_maskPut c.tsinf v 0xFFFF00FFF00000FF 16).trans (if_neg (by decide))

end Sys2Proof.Machine
namespace Sys2Proof.Spec
open Sys2Proof Sys2Proof.Machine
set_option Elab.async false

/-- Settles O21: register by register, bit by bit where the register is written through a mask. -/
theorem systemWriteValues : Obligations.SystemWriteValues := fun c v =>
  ⟨c.swr_st_bit v, fmWrite_upper _ _, (fmWrite_sat _ _).trans (extract_low (by decide)),
    extract_low (v := v) (k := 0) (n := 3) (by decide) ▸ fmWrite_mode c.fm (v.extractLsb' 0 32),
    (pxWrite_low _).trans (congrArg typeCode (extract_low (by decide))),
    (pxWrite_high _).trans (congrArg typeCode (extract_low (by decide))), (pxWrite_b4 _).trans (getLsbD_low v (by decide)),
    c.swr_cepat_bit v, rfl, rfl, c.swr_tsinf_act v, c.swr_tsst_bit v, rfl,
    extractLsb'_maskPut_new _ _ _ rfl, extractLsb'_maskPut_new _ _ _ rfl, extractLsb'_maskPut_new _ _ _ rfl,
    extractLsb'_maskPut_old _ _ _ rfl, extractLsb'_maskPut_old _ _ _ rfl, rfl, rfl, rfl, rfl, rfl, rfl, rfl, rfl, rfl⟩

end Sys2Proof.Spec
end

section
/-! PROOFS. SRD and SWR of the registers that show what runs (R197, R320, R385). -/

namespace Sys2Proof.Machine
set_option Elab.async false

/-- SRD whose fields are legal and whose local operand is accessible, of a register that the privilege reaches, completes with
the register's value (R399, R401). -/
theorem srd_ends {f : SY} {s : State} {v : W64} (hv : s.readSr s.self f.srn.toNat = some v)
    (hr : s.canIssue (.srd f) f.sp false [f.oa] = true) (hl : srLegal f false s = true)
    (hc : (s.core s.self).checkLocals 8 [(f.oa, 8, 8)] = .ok ())
    (hp : (srdSup f.srn.toNat && (s.core s.self).user) = false) :
    Spec.ends s (.srd f) f.sp false (((s.core s.self).writeU64 8 f.oa v.toNat).opIncs 8 [f.oa], none) := by
  refine coreRow_done (h := fun _ => ⟨f.sp, false, srLegal f false s, usesOf [f.oa]⟩) (by rw [hl]) hr ?_
  simp only [srdBody, hc, hp, hv]
  rfl

/-- SWR of a valid source to a register that the privilege does not reach raises PRIV (R400). -/
theorem swr_priv {f : SY} {s : State} {c1 : Core} {e : El} {fl : Num.Flags}
    (hr : s.canIssue (.swr f) f.sp false [f.oa] = true) (hl : srLegal f true s = true)
    (hc : (s.core s.self).checkLocals 8 [(f.oa, 8, 8)] = .ok ())
    (hs : (s.core s.self).readElems (s.canFill s.self) 8 f.oa .u64 1 = .ok (c1, [e], fl)) (he : e.v = true)
    (hp : swrPriv f.srn.toNat c1 = true) : exec (.swr f) s = .next (s.faultAt s.self .priv 0) := by
  refine coreRow_fault (h := fun _ => ⟨f.sp, false, srLegal f true s, usesOf [f.oa]⟩) (by rw [hl]) hr ?_
  have hsrc : swrSource f s = .ok (c1, some (BitVec.ofNat 64 e.b)) := by
    simp only [swrSource, hc, Bind.bind, Except.bind, hs, List.getD_cons_zero, he]
    rfl
  simp only [swrWith, hsrc, Bind.bind, Except.bind, hp]
  rfl

/-- A core that runs nothing is in no phase group (R197). -/
theorem Core.group_idle {c : Core} (h : c.act = none) : c.group = none := by
  simp [Core.group, Core.curRec, h, recV]

theorem State.readSr_phnum_some {s : State} {g : Nat} {q : W16} (h : (s.core g).group = some q) :
    s.readSr g 0x023 = some (s.pgroup q).phase := by
  show some (match (s.core g).group with | some q => (s.pgroup q).phase | none => 0) = _
  rw [h]

theorem State.readSr_phnum_none {s : State} {g : Nat} (h : (s.core g).group = none) : s.readSr g 0x023 = some 0 := by
  show some (match (s.core g).group with | some q => (s.pgroup q).phase | none => 0) = _
  rw [h]

theorem State.readSr_regid (s : State) (g : Nat) : s.readSr g 0x080 = some ((s.core g).actRid.zeroExtend 64) := rfl

theorem State.readSr_asidr (s : State) (g : Nat) : s.readSr g 0x0B0 = some ((s.core g).asid.zeroExtend 64) := rfl

/-- Where nothing runs the registers that show it read zero. -/
theorem State.readSr_idle {s : State} {g n : Nat} (h : (s.core g).act = none) (hn : n ∈ [0x023, 0x080, 0x0B0]) :
    s.readSr g n = some 0 := by
  simp only [List.mem_cons, List.not_mem_nil, or_false] at hn
  rcases hn with rfl | rfl | rfl
  · exact readSr_phnum_none (Core.group_idle h)
  · rw [readSr_regid, Core.actRid, h]; rfl
  · rw [readSr_asidr, Core.asid, h]; rfl

end Sys2Proof.Machine

namespace Sys2Proof.Spec
open Sys2Proof Sys2Proof.Machine
set_option Elab.async false

/-- Settles O54: reading is the register's row of `readSr`; no privilege writes these registers. -/
theorem showingRegisters : Obligations.ShowingRegisters := by
  unfold Obligations.ShowingRegisters
  have hsup : ∀ n ∈ [0x023, 0x080, 0x0B0], srdSup n = false := by decide
  have hnever : ∀ n ∈ [0x023, 0x080, 0x0B0], swrNever n = true := by decide
  have hpriv : ∀ n ∈ [0x023, 0x080, 0x0B0], ∀ c : Core, swrPriv n c = true := by
    intro n hn c
    simp [swrPriv, hnever n hn]
  refine ⟨fun s g => ⟨fun q hq => ?_, fun hq => ?_, fun a ha => ⟨?_, ?_⟩, fun ha => ⟨?_, ?_⟩⟩,
    fun n hn => ⟨hsup n hn, hpriv n hn, fun g => State.readSr_idle rfl hn⟩,
    fun f s v hn hv hr hl hc => srd_ends hv hr hl hc (by simp [hsup _ hn]),
    fun f s c1 e fl hn hr hl hc hs he => swr_priv hr hl hc hs he (hpriv _ hn c1)⟩
  · exact State.readSr_phnum_some hq
  · exact State.readSr_phnum_none hq
  · rw [State.readSr_regid, Core.actRid, ha]
  · rw [State.readSr_asidr, Core.asid, Core.curRec, ha]
  · exact State.readSr_idle ha (by decide)
  · exact State.readSr_idle ha (by decide)

end Sys2Proof.Spec
end

section
/-! PROOFS. The registers an activation starts with (R76, R296, R298). -/

namespace Sys2Proof.Machine
set_option Elab.async false

/-- A core with other banks in use. -/
noncomputable def Core.withBanks (c : Core) (x : W32) : Core := { c with sppwr := x }

/-- The named regions' banks run (R183): of the core only SPPWR changes. -/
theorem Core.runNamed_eq (c : Core) (l : List (Nat × Nat)) : ∃ x, c.runNamed l = c.withBanks x := by
  unfold Core.runNamed
  generalize l.flatMap (fun r => banksOf r.1 r.2) = bs
  induction bs generalizing c with
  | nil => exact ⟨c.sppwr, rfl⟩
  | cons b bs ih =>
    obtain ⟨x, hx⟩ := ih (c.runBank b)
    exact ⟨x, hx⟩

/-- The register load of a trigger that is no continuation (R298). -/
noncomputable def Core.freshRegs (c : Core) (p : Packet) (named : List (Nat × Nat)) : Core :=
  { c with
    a := Vector.replicate 16 ALane.start
    p := Vector.ofFn fun j => match j.val with
      | 0 => p.key.zeroExtend 64
      | 1 => BitVec.ofNat 64 p.plen
      | k + 2 => BitVec.ofNat 64 (named.getD k (0, 0)).1
    q := (Vector.replicate 8 []).set! 0 (payloadEntries ((p.plen + 63) / 64) (p.words.map Lane.arrived))
    lk := 0 }

theorem Core.freshRegs_named (c : Core) (p : Packet) (named : List (Nat × Nat)) {k : Nat} (hk : k < 6) :
    (c.freshRegs p named).p.getD (k + 2) 0 = BitVec.ofNat 64 (named.getD k (0, 0)).1 := by
  show (Vector.ofFn (n := 8) _).getD (k + 2) 0 = _
  rw [Vector.getD, Array.getD, dif_pos (by simpa using (by lia : k + 2 < 8))]
  exact Array.getElem_ofFn _

/-- What a start takes from the register load of a trigger that is no continuation: all but the banks in use. -/
theorem Core.start_regs (c : Core) {a : Act} (h : a.trig.cont = false) :
    ∃ x, (c.startRegs a.trig a.named).runNamed a.named = (c.freshRegs a.trig a.named).withBanks x := by
  have hr : c.startRegs a.trig a.named = c.freshRegs a.trig a.named := if_neg (by rw [h]; decide)
  rw [hr]
  exact Core.runNamed_eq _ _

theorem Core.freshRegs_a (c : Core) (p : Packet) (named : List (Nat × Nat)) {k : Nat} (hk : k < 16) :
    (c.freshRegs p named).a.getD k ALane.start = ALane.start := getD_replicate hk _ _

theorem Core.freshRegs_queue (c : Core) (p : Packet) (named : List (Nat × Nat)) {n : BitVec 3} (hn : n ≠ 0) :
    (c.freshRegs p named).queue n = [] := by
  have hne : 0 ≠ n.toNat := fun h => hn (BitVec.eq_of_toNat_eq h.symm)
  exact (getD_set!_ne _ hne _ _).trans (getD_replicate n.isLt _ _)

/-- A start enters user or supervisor mode as the handler's entry says, with PP clear (R76). -/
theorem Core.start_mode (c : Core) (a : Act) (e : Entry) :
    (c.start a e).pl = (if e.sup then 1 else 0) ∧ (c.start a e).pp = false := by
  have hst : (c.start a e).st = (c.st &&& 0xC0000) ||| (if a.gang then 0x10000 else 0) ||| (if e.sup then 0x4000 else 0) := rfl
  have hpl : (c.st &&& 0xC0000).extractLsb' 14 2 = 0 := by
    rw [BitVec.extractLsb'_and, show (0xC0000 : W32).extractLsb' 14 2 = 0 from rfl]; exact BitVec.and_zero
  constructor
  · rw [Core.pl, hst, BitVec.extractLsb'_or, BitVec.extractLsb'_or, hpl]
    induction a.gang <;> induction e.sup <;> rfl
  · rw [Core.pp, hst, BitVec.getLsbD_or, BitVec.getLsbD_or, BitVec.getLsbD_and, show (0xC0000 : W32).getLsbD 13 = false from rfl, Bool.and_false]
    induction a.gang <;> induction e.sup <;> rfl

end Sys2Proof.Machine

namespace Sys2Proof.Spec
open Sys2Proof Sys2Proof.Machine
set_option Elab.async false

/-- Settles O35: the registers are those of `freshRegs`, which running the named banks leaves alone. -/
theorem startRegisters : Obligations.StartRegisters := by
  unfold Obligations.StartRegisters
  intro c a e hcont d
  obtain ⟨x, hx⟩ := c.start_regs hcont
  exact ⟨rfl, rfl, rfl, rfl, rfl, rfl, rfl, rfl, (congrArg Core.lk hx :), (c.start_mode a e).1, (c.start_mode a e).2,
    (congrArg (Core.preg · 0) hx :), (congrArg (Core.preg · 1) hx :),
    fun k => (congrArg (fun y : Core => y.p.getD (k.val + 2) 0) hx).trans (c.freshRegs_named a.trig a.named k.isLt),
    fun k hk => (congrArg (fun y : Core => y.a.getD k ALane.start) hx).trans (c.freshRegs_a a.trig a.named hk),
    (congrArg (Core.queue · 0) hx :), fun n hn => (congrArg (Core.queue · n) hx).trans (c.freshRegs_queue a.trig a.named hn),
    (congrArg Core.spad hx :), (congrArg Core.brec hx :), (congrArg Core.log hx :)⟩

end Sys2Proof.Spec
end

section
/-! PROOFS. NOP, the pointer instructions and FMTX (R52, R99 to R102, R120). -/

namespace Sys2Proof.Machine
set_option Elab.async false

theorem and_true_of {a b : Bool} (ha : a = true) (hb : b = true) : (a && b) = true := by rw [ha, hb]; rfl

/-- Scaling a pointer's addend is a shift (R101). -/
theorem mul_ofNat_two_pow (x : W64) (n : Nat) : x * BitVec.ofNat 64 (2 ^ n) = x <<< n := by
  refine BitVec.eq_of_toNat_eq ?_
  rw [BitVec.toNat_mul, BitVec.toNat_ofNat, BitVec.toNat_shiftLeft, Nat.shiftLeft_eq, Nat.mul_mod_mod]

theorem paddArg_of_local {o : Operand} (h : (isRegOp o || isImmOp o) = true) (c : Core) : c.paddArg o = some (c.pOrImm o) := by
  induction o with
  | acc => exact nomatch h
  | _ => rfl

/-- PMOD's two parts, as a sum: the buffer's base, and the offset in it modulo its size (R102). -/
theorem pmod_value (x y : W64) (k : Nat) :
    (x &&& ~~~BitVec.ofNat 64 (2 ^ k - 1)) ||| ((x + y) &&& BitVec.ofNat 64 (2 ^ k - 1)) =
      BitVec.ofNat 64 (x.toNat / 2 ^ k * 2 ^ k + (x.toNat + y.toNat) % 2 ^ k) := by
  refine BitVec.eq_of_getLsbD_eq fun j hj => ?_
  have hlt : (x.toNat + y.toNat) % 2 ^ k < 2 ^ k := Nat.mod_lt _ (Nat.two_pow_pos k)
  have hmask : (BitVec.ofNat 64 (2 ^ k - 1)).getLsbD j = decide (j < k) := by
    rw [BitVec.getLsbD_ofNat, Nat.testBit_two_pow_sub_one, decide_eq_true hj, Bool.true_and]
  have hsum : (x + y).getLsbD j = (x.toNat + y.toNat).testBit j := by
    rw [BitVec.getLsbD, BitVec.toNat_add, Nat.testBit_mod_two_pow, decide_eq_true hj, Bool.true_and]
  rw [BitVec.getLsbD_or, BitVec.getLsbD_and, BitVec.getLsbD_and, BitVec.getLsbD_not, hmask, hsum, BitVec.getLsbD_ofNat,
    Nat.mul_comm, Nat.testBit_two_pow_mul_add _ hlt, decide_eq_true hj, Bool.true_and, Bool.true_and]
  by_cases hjk : j < k
  · rw [if_pos hjk, decide_eq_true hjk, Bool.not_true, Bool.and_false, Bool.false_or, Bool.and_true, Nat.testBit_mod_two_pow,
      decide_eq_true hjk, Bool.true_and]
  · rw [if_neg hjk, decide_eq_false hjk, Bool.not_false, Bool.and_true, Bool.and_false, Bool.or_false, Nat.testBit_div_two_pow,
      Nat.sub_add_cancel (Nat.le_of_not_lt hjk)]
    rfl

/-- PADD's result, with its addend in hand. -/
noncomputable def paddOut (c : Core) (f : M3) (x : Option W64) : Except Exn (Core × Push) :=
  match x with
  | some x => .ok (c.setP (regOf f.od) (c.preg (regOf f.oa) + x * BitVec.ofNat 64 (2 ^ f.fn.toNat)), none)
  | none => .ok (c, none)

theorem paddOut_some (c : Core) (f : M3) (x : W64) :
    paddOut c f (some x) = .ok (c.setP (regOf f.od) (c.preg (regOf f.oa) + x <<< f.fn.toNat), none) := by
  rw [← mul_ofNat_two_pow]; rfl

theorem paddOut_if (c : Core) (f : M3) (b : Bool) (x : W64) : paddOut c f (if b then some x else none) =
    .ok (if b then c.setP (regOf f.od) (c.preg (regOf f.oa) + x <<< f.fn.toNat) else c, none) := by
  induction b
  · rfl
  · exact paddOut_some c f x

end Sys2Proof.Machine

namespace Sys2Proof.Spec
open Sys2Proof Sys2Proof.Machine
set_option Elab.async false

/-- Work on the own core that sends nothing completes, and its instruction retires. -/
theorem ends_work {i : Instr} {h : Core → Shape} {w : Work} {s : State} {c : Core} {sp uses : Bool} {ops : List Operand}
    (he : exec i s = coreRow i h (onOwnCore w) s) (hs : h (s.core s.self) = ⟨sp, uses, true, usesOf ops⟩)
    (hr : s.canIssue i sp uses ops = true) (hw : w (s.core s.self) (s.canFill s.self) = .ok (c, none)) :
    ends s i sp uses (c, none) :=
  he.trans (coreRow_done hs hr (onOwnCore_done hw (by simp)))

theorem pmodExp_imm {k : BitVec 13} (h : k.toNat ≤ 63) : pmodExp (.imm k) = some k.toNat := if_pos h

/-- Settles O2: each row's work gives the register named, retired by `ends_work`. -/
theorem pointersAndPrefixComplete : Obligations.PointersAndPrefixComplete := by
  unfold Obligations.PointersAndPrefixComplete
  refine ⟨fun s h => coreRow_done rfl h rfl, fun f s hr ha => pset_ends hr ha, fun f s hr ha => psetHi_ends hr ha, ?_, ?_, ?_,
    ?_, ?_⟩
  · rintro f s ⟨hi, hl⟩ hfn ha hb hc
    exact ends_work rfl (congrArg (Shape.mk f.sp (f.ty == .px) · (usesOf [f.od, f.oa, f.ob])) (and_true_of (and_true_of (and_true_of
      (and_true_of hl (decide_eq_true hfn)) ha) (Bool.or_eq_true_iff.2 (.inl hb))) (beq_iff_eq.2 hc))) hi
      ((congrArg (paddOut _ f) (paddArg_of_local hb _)).trans (paddOut_some ..))
  · rintro f s ⟨hi, hl⟩ hfn ha hb hc
    exact ends_work rfl (congrArg (Shape.mk f.sp (f.ty == .px) · (usesOf [f.od, f.oa, f.ob])) (and_true_of (and_true_of (and_true_of
      (and_true_of hl (decide_eq_true hfn)) ha) (Bool.or_eq_true_iff.2 (.inr (congrArg isAccOp hb)))) (beq_iff_eq.2 hc))) hi
      ((congrArg (fun o => paddOut _ f ((s.core s.self).paddArg o)) hb).trans (paddOut_if ..))
  · rintro f s ⟨hi, hl⟩ hfn ha
    exact ends_work rfl (congrArg (Shape.mk f.sp (f.ty == .px) · (usesOf [f.od, f.oa])) (and_true_of (and_true_of hl (beq_iff_eq.2 hfn)) ha)) hi rfl
  · rintro f s k ⟨hi, hl⟩ hfn ha hb hc hk
    have hexp : pmodExp f.oc = some k.toNat := (congrArg pmodExp hc).trans (pmodExp_imm hk)
    refine ends_work rfl (congrArg (Shape.mk f.sp (f.ty == .px) · (usesOf [f.od, f.oa, f.ob])) (and_true_of (and_true_of (and_true_of
      (and_true_of hl (beq_iff_eq.2 hfn)) ha) hb) (congrArg Option.isSome hexp))) hi ?_
    rw [← pmod_value, hexp]
    rfl
  · rintro f s hi hl
    exact ends_work rfl (by rw [hl]; rfl) hi rfl

end Sys2Proof.Spec
end
section
/-! PROOFS. Slots and retirement (R32, R48, R51, R81, R369, R370). -/

namespace Sys2Proof.Machine
set_option Elab.async false

/-- A slot address names slot 0 to 4 of a line of 64 bytes. -/
theorem slotOk_iff {pc : W64} : slotOk pc = true ↔ pc.toNat % 64 < 5 := by
  have h0 : (pc.extractLsb' 3 3 = 0) ↔ pc.toNat / 8 % 8 = 0 := by
    rw [← BitVec.toNat_inj, BitVec.extractLsb'_toNat, Nat.shiftRight_eq_div_pow]; rfl
  have h1 : (pc.extractLsb' 0 3).toNat = pc.toNat % 8 := by rw [BitVec.extractLsb'_toNat, Nat.shiftRight_zero]
  have h64 : pc.toNat % 64 = pc.toNat % 8 + 8 * (pc.toNat / 8 % 8) := Nat.mod_mul (a := 8) (b := 8)
  rw [slotOk, Bool.and_eq_true, beq_iff_eq, decide_eq_true_eq, h0, h1, h64]
  generalize pc.toNat % 8 = r, pc.toNat / 8 % 8 = q
  constructor
  · rintro ⟨rfl, hr⟩
    exact Nat.lt_succ_of_le hr
  · intro h
    have hq : q = 0 := Nat.eq_zero_of_not_pos fun hq => absurd ((Nat.le_mul_of_pos_right 8 hq).trans (Nat.le_add_left _ r))
      (Nat.not_le.2 (h.trans (by decide)))
    exact ⟨hq, Nat.le_of_lt_succ (Nat.lt_of_le_of_lt (Nat.le_add_right ..) h)⟩

/-- A slot's place in program order. -/
noncomputable def slotPos (x : Nat) : Nat := x / 64 * 5 + x % 8

/-- Slot r of line q. -/
theorem slotPos_line (q : Nat) {r : Nat} (hr : r < 5) : slotPos (64 * q + r) = 5 * q + r := by
  have hq : (64 * q + r) / 64 = q := by
    rw [Nat.mul_add_div (by decide), Nat.div_eq_of_lt (Nat.lt_trans hr (by decide)), Nat.add_zero]
  have hr' : (64 * q + r) % 8 = r := by
    rw [show 64 * q = 8 * (8 * q) from Nat.mul_assoc 8 8 q, Nat.mul_add_mod, Nat.mod_eq_of_lt (Nat.lt_trans hr (by decide))]
  rw [slotPos, hq, hr', Nat.mul_comm]

theorem slot_line {pc : W64} (h : slotOk pc = true) : ∃ q r, r < 5 ∧ pc.toNat = 64 * q + r :=
  ⟨pc.toNat / 64, pc.toNat % 64, slotOk_iff.1 h, (Nat.div_add_mod ..).symm⟩

theorem slotOk_of_line {pc : W64} {q r : Nat} (hr : r < 5) (h : pc.toNat = 64 * q + r) : slotOk pc = true := by
  rw [slotOk_iff, h, Nat.mul_add_mod, Nat.mod_eq_of_lt (Nat.lt_trans hr (by decide))]
  exact hr

/-- The slot after slot r of line q: slot r + 1, or slot 0 of the next line. -/
theorem nextSlot_line {pc : W64} {q r : Nat} (hr : r < 5) (h : pc.toNat = 64 * q + r) :
    (nextSlot pc).toNat = if r < 4 then 64 * q + (r + 1) else 64 * ((q + 1) % 2 ^ 58) := by
  have h1 : (pc.extractLsb' 0 3).toNat = r := by
    rw [BitVec.extractLsb'_toNat, Nat.shiftRight_zero, h, show 64 * q = 2 ^ 3 * (8 * q) from Nat.mul_assoc 8 8 q, Nat.mul_add_mod,
      Nat.mod_eq_of_lt (Nat.lt_trans hr (by decide))]
  have hlt := pc.isLt
  rw [nextSlot, h1]
  split
  · have h64 : 64 * q + r + 1 < 2 ^ 64 := by lia
    rw [BitVec.toNat_add, h]
    exact Nat.mod_eq_of_lt h64
  · have hq : (2 ^ 6 * q + r) / 2 ^ 6 = q := by
      rw [Nat.mul_add_div (m := 2 ^ 6) (by decide), Nat.div_eq_of_lt (Nat.lt_trans hr (by decide)), Nat.add_zero]
    have hsh : ((pc >>> 6) + 1).toNat = q + 1 := by
      rw [BitVec.toNat_add, BitVec.toNat_ushiftRight, Nat.shiftRight_eq_div_pow, h]
      exact (congrArg (fun x => (x + 1) % 2 ^ 64) hq).trans (Nat.mod_eq_of_lt (by lia))
    rw [BitVec.toNat_shiftLeft, hsh, Nat.shiftLeft_eq, Nat.mul_comm, ← Nat.mul_mod_mul_left]
    rfl

theorem slotOk_nextSlot {pc : W64} (h : slotOk pc = true) : slotOk (nextSlot pc) = true := by
  obtain ⟨q, r, hr, hpc⟩ := slot_line h
  have hn := nextSlot_line hr hpc
  split at hn
  · exact slotOk_of_line (Nat.succ_lt_succ ‹_›) hn
  · exact slotOk_of_line (r := 0) (by decide) hn

theorem slotPos_nextSlot {pc : W64} (h : slotOk pc = true) (hpos : slotPos pc.toNat + 1 < 2 ^ 58 * 5) :
    slotPos (nextSlot pc).toNat = slotPos pc.toNat + 1 := by
  obtain ⟨q, r, hr, hpc⟩ := slot_line h
  have hn := nextSlot_line hr hpc
  rw [hpc, slotPos_line q hr] at hpos
  rw [hn, hpc, slotPos_line q hr]
  split
  · exact slotPos_line q (Nat.succ_lt_succ ‹_›)
  · obtain rfl : r = 4 := by lia
    rw [Nat.mod_eq_of_lt (show q + 1 < 2 ^ 58 by lia)]
    exact slotPos_line (q + 1) (r := 0) (by decide)

/-- The slot at a signed offset, as a number: slot n % 5 of line n / 5, where n is the distance in program order. -/
theorem slotPlus_toNat (pc : W64) (d : W32) :
    ((slotPlus pc d).toNat : Int) =
      ((slotPos pc.toNat + d.toInt) / 5 * 64 + (slotPos pc.toNat + d.toInt) % 5) % 2 ^ 64 := by
  rw [slotPlus, BitVec.toNat_ofInt, Int.toNat_of_nonneg (Int.emod_nonneg _ (by decide))]
  rfl

theorem slotOk_slotPlus (pc : W64) (d : W32) : slotOk (slotPlus pc d) = true := by
  have h := slotPlus_toNat pc d
  generalize (slotPos pc.toNat : Int) + d.toInt = n at h
  have h5 := Int.emod_lt_of_pos n (show (0 : Int) < 5 by decide)
  have h64 : (((slotPlus pc d).toNat % 64 : Nat) : Int) = n % 5 := by
    rw [Int.natCast_mod, h, Int.emod_emod_of_dvd _ (by decide), Int.add_comm]
    exact (Int.add_mul_emod_self_right ..).trans (Int.emod_eq_of_lt (Int.emod_nonneg n (by decide)) (Int.lt_trans h5 (by decide)))
  rw [slotOk_iff]
  exact Int.ofNat_lt.1 (h64 ▸ h5)

theorem slotPos_slotPlus {pc : W64} {d : W32} (h0 : 0 ≤ (slotPos pc.toNat : Int) + d.toInt)
    (h1 : (slotPos pc.toNat : Int) + d.toInt < 2 ^ 58 * 5) :
    (slotPos (slotPlus pc d).toNat : Int) = slotPos pc.toNat + d.toInt := by
  have h := slotPlus_toNat pc d
  obtain ⟨n, hn⟩ := Int.eq_ofNat_of_zero_le h0
  rw [hn] at h h1 ⊢
  have hq : n / 5 < 2 ^ 58 := Nat.div_lt_of_lt_mul (Int.ofNat_lt.1 (h1.trans_eq rfl))
  have hlt : 64 * (n / 5) + n % 5 < 64 * 2 ^ 58 := (Nat.add_lt_add_left ((Nat.mod_lt n (by decide)).trans (by decide : 5 < 64)) _).trans_le
    (Nat.mul_le_mul_left 64 hq)
  have hp : (slotPlus pc d).toNat = 64 * (n / 5) + n % 5 := by
    rw [← Nat.mod_eq_of_lt hlt, Nat.mul_comm 64]
    exact Int.ofNat_inj.1 h
  rw [hp, slotPos_line _ (Nat.mod_lt n (by decide)), Nat.div_add_mod]

/-! ### What retirement leaves -/

theorem State.core_retired {t : State} (hc : KV.sorted t.cores = true) (s : State) (i : Instr) (sp uses : Bool) :
    (t.retired s i sp uses).core s.self = (t.core s.self).retire i false uses (s.liveMask sp) := by
  have hs : KV.sorted (t.chargeFor s.self i).cores = true := by rwa [State.chargeFor_cores]
  exact (State.core_modCore_self hs _ _).trans (by rw [State.core, State.chargeFor_cores]; rfl)

theorem State.pwr_setPwr_self {s : State} (h : KV.sorted s.chips = true) (m : Nat) (p : ClusterPwr) :
    (s.setPwr m p).pwr m = p := by
  have hm : m % 4 < 4 := Nat.mod_lt _ (by decide)
  rw [State.pwr, State.setPwr, State.chip_modChip_self h]
  exact getD_set!_self _ hm _ _

theorem State.pwr_setPwr_ne {s : State} {m k : Nat} (hs : KV.sorted s.chips = true) (h : k ≠ m) (p : ClusterPwr) :
    (s.setPwr m p).pwr k = s.pwr k := by
  unfold State.pwr State.setPwr
  by_cases hc : k / 4 = m / 4
  · have hne : m % 4 ≠ k % 4 := fun e => h (by rw [← Nat.div_add_mod k 4, hc, ← e, Nat.div_add_mod])
    rw [hc, State.chip_modChip_self hs]
    exact getD_set!_ne _ hne _ _
  · rw [State.chip_modChip_ne hc]

theorem Core.pp_setPp (c : Core) (b : Bool) : (c.setPp b).pp = b := by
  unfold Core.pp Core.setPp putField
  rw [BitVec.getLsbD_or, BitVec.getLsbD_and, BitVec.getLsbD_and]
  induction b <;> simp

/-! The core after its instruction retired. -/

section
variable (c : Core) (i : Instr) (uses : Bool) (m : Option (BitVec 18))

theorem Core.retire_pc : (c.retire i false uses m).pc = if m.isSome then nextSlot (nextSlot c.pc) else nextSlot c.pc := by
  induction uses <;> rfl

theorem Core.retire_crc {w : Slot} (hw : encode i = some w) : (c.retire i false uses m).crc = crc16 c.crc (coveredBytes w) := by
  have h : foldInstr c.crc i = crc16 c.crc (coveredBytes w) := by rw [foldInstr, hw]
  induction uses <;> exact h

theorem Core.retire_regs : (c.retire i false uses m).a = c.a ∧ (c.retire i false uses m).p = c.p ∧ (c.retire i false uses m).q = c.q ∧
    (c.retire i false uses m).spad = c.spad := by
  induction uses <;> exact ⟨rfl, rfl, rfl, rfl⟩

end

/-- The bucket of the instruction's own cluster pays for it, no other does. -/
theorem State.bucket_chargeFor {t : State} (h : KV.sorted t.chips = true) (g : Nat) {i : Instr} {j : Nat} (hj : chargeClass i = some j) :
    ((t.chargeFor g i).pwr (clusterOfCore g)).bucket =
      (t.pwr (clusterOfCore g)).bucket - ((t.pwr (clusterOfCore g)).cbwt.extractLsb' (8 * j) 8).toNat := by
  rw [State.chargeFor, hj]
  exact congrArg ClusterPwr.bucket (State.pwr_setPwr_self h _ _)

theorem State.pwr_chargeFor_ne {t : State} (h : KV.sorted t.chips = true) {g m : Nat} (hm : m ≠ clusterOfCore g) (i : Instr) :
    (t.chargeFor g i).pwr m = t.pwr m := by
  unfold State.chargeFor
  split
  · exact State.pwr_setPwr_ne h hm _
  · rfl

end Sys2Proof.Machine

namespace Sys2Proof.Spec
open Sys2Proof Sys2Proof.Machine
set_option Elab.async false

/-- Settles O10: slot arithmetic in program order, and retirement field by field from `State.core_retired`. -/
theorem retirement : Obligations.Retirement := by
  refine ⟨fun pc d h => ⟨slotOk_nextSlot h, slotOk_slotPlus pc d, slotPos_nextSlot h, slotPos_slotPlus⟩, ?_⟩
  intro s t i sp uses hc hch hlive g u
  have hcore : u.core g = (t.core g).retire i false uses (s.liveMask sp) := State.core_retired hc s i sp uses
  have hsome : (s.liveMask sp).isSome = sp := by
    induction sp with
    | false => rfl
    | true => exact Option.isSome_iff_ne_none.2 (hlive rfl)
  have hregs := (t.core g).retire_regs i uses (s.liveMask sp)
  refine ⟨?_, ?_, ?_, fun w hw => hcore ▸ Core.retire_crc _ i uses _ hw, ?_, hcore ▸ hregs.1, hcore ▸ hregs.2.1, hcore ▸ hregs.2.2.1,
    hcore ▸ hregs.2.2.2, fun j hj => State.bucket_chargeFor hch g hj, fun m hm => State.pwr_chargeFor_ne hch hm i, (retired_memory t s i sp uses).1⟩
  · rw [hcore, Core.retire_pc, hsome]
  · rintro rfl; rw [hcore]; exact Core.pp_setPp _ _
  · rintro rfl; rw [hcore]; rfl
  · rw [hcore]; induction sp <;> rfl

end Sys2Proof.Spec
end

section
/-! PROOFS. What work on a core's own registers, queues and scratchpad leaves of the core. -/

namespace Sys2Proof.Machine
open Sys2Proof.Machine.Num Sys2Proof.Spec
set_option Elab.async false

/-- `d` comes from `c` by reading operands, writing results, post-increments and flags: the special registers, the rest of ST,
the phase log, the messages, the accesses in flight and the place of execution are those of `c`, flags are only added, queues
only shrink, and the activation is the same but may have become irrevocable (R300). -/
structure Core.Computed (c d : Core) : Prop where
  specials : d.specials = c.specials
  rest : d.statusRest = c.statusRest
  added : ∀ k, k < 8 → c.st.getLsbD k = true → d.st.getLsbD k = true
  log : d.log = c.log
  msgs : d.msgs = c.msgs
  pend : d.pend = c.pend
  pc : d.pc = c.pc
  entered : d.entered = c.entered
  gmask : d.gmask = c.gmask
  act : d.act.map (fun a => { a with irrev := true }) = c.act.map fun a => { a with irrev := true }
  queue : ∀ n, (d.queue n).length ≤ (c.queue n).length

namespace Core.Computed

theorem refl (c : Core) : Computed c c :=
  ⟨rfl, rfl, fun _ _ h => h, rfl, rfl, rfl, rfl, rfl, rfl, rfl, fun _ => Nat.le_refl _⟩

theorem trans {c d e : Core} (h : Computed c d) (k : Computed d e) : Computed c e :=
  ⟨k.specials.trans h.specials, k.rest.trans h.rest, fun j hj hb => k.added j hj (h.added j hj hb), k.log.trans h.log,
    k.msgs.trans h.msgs, k.pend.trans h.pend, k.pc.trans h.pc, k.entered.trans h.entered, k.gmask.trans h.gmask, k.act.trans h.act,
    fun n => (k.queue n).trans (h.queue n)⟩

theorem foldl {α : Type} {f : Core → α → Core} (h : ∀ c x, Computed c (f c x)) (l : List α) (c : Core) :
    Computed c (l.foldl f c) := by
  induction l generalizing c with
  | nil => exact refl c
  | cons x l ih => exact (h c x).trans (ih _)

theorem setP (c : Core) (n : BitVec 3) (v : W64) : Computed c (c.setP n v) :=
  ⟨rfl, rfl, fun _ _ h => h, rfl, rfl, rfl, rfl, rfl, rfl, rfl, fun _ => Nat.le_refl _⟩

theorem setA (c : Core) (k : Nat) (w : W32) (v : Bool) : Computed c (c.setA k w v) :=
  ⟨rfl, rfl, fun _ _ h => h, rfl, rfl, rfl, rfl, rfl, rfl, rfl, fun _ => Nat.le_refl _⟩

theorem wakeBanks (c : Core) (off n : Nat) : Computed c (c.wakeBanks off n) :=
  ⟨rfl, rfl, fun _ _ h => h, rfl, rfl, rfl, rfl, rfl, rfl, rfl, fun _ => Nat.le_refl _⟩

theorem spPut (c : Core) (off : Nat) (v : Lane) : Computed c (c.spPut off v) :=
  ⟨rfl, rfl, fun _ _ h => h, rfl, rfl, rfl, rfl, rfl, rfl, rfl, fun _ => Nat.le_refl _⟩

theorem seed (c : Core) (w : W32) : Computed c { c with srseed := w } :=
  ⟨rfl, rfl, fun _ _ h => h, rfl, rfl, rfl, rfl, rfl, rfl, rfl, fun _ => Nat.le_refl _⟩

theorem orFlags (c : Core) (f : Flags) : Computed c (c.orFlags f) := by
  refine ⟨rfl, ?_, fun k _ h => ?_, rfl, rfl, rfl, rfl, rfl, rfl, rfl, fun _ => Nat.le_refl _⟩
  · have hmask : ((f &&& 0xDF).zeroExtend 32 : W32) &&& 0xFFFFDF20 = 0 := by
      revert f; decide
    show (c.st ||| (f &&& 0xDF).zeroExtend 32) &&& 0xFFFFDF20 = c.st &&& 0xFFFFDF20
    rw [BitVec.and_or_distrib_right, hmask]
    exact BitVec.or_zero
  · show (c.st ||| (f &&& 0xDF).zeroExtend 32).getLsbD k = true
    rw [BitVec.getLsbD_or, h, Bool.true_or]

/-- A queue keeps its tail. -/
theorem setQ {c : Core} {n : BitVec 3} {e : QEntry} {l : List QEntry} (h : c.queue n = e :: l) : Computed c (c.setQ n l) := by
  refine ⟨rfl, rfl, fun _ _ h => h, rfl, rfl, rfl, rfl, rfl, rfl, rfl, fun k => ?_⟩
  by_cases hk : k = n
  · subst hk
    rw [h, show (c.setQ k l).queue k = l from getD_set!_self _ k.isLt _ _]
    exact Nat.le_succ _
  · have hne : n.toNat ≠ k.toNat := fun e => hk (BitVec.eq_of_toNat_eq e.symm)
    exact Nat.le_of_eq (congrArg List.length (getD_set!_ne _ hne _ _))

theorem makeIrrev (c : Core) : Computed c c.makeIrrev := by
  unfold Core.makeIrrev
  rcases h : c.act with _ | a
  · exact refl c
  · exact ⟨rfl, rfl, fun _ _ h => h, rfl, rfl, rfl, rfl, rfl, rfl, by rw [h]; rfl, fun _ => Nat.le_refl _⟩

theorem ite {p : Prop} [Decidable p] {c d e : Core} (hd : Computed c d) (he : Computed c e) : Computed c (if p then d else e) := by
  by_cases hp : p
  · rw [if_pos hp]; exact hd
  · rw [if_neg hp]; exact he

theorem journalBlock (c : Core) (blk : Nat) : Computed c (c.journalBlock blk) := by
  unfold Core.journalBlock
  rcases h : c.act with _ | a
  · exact refl c
  · refine ite (ite (makeIrrev c) ?_) (refl c)
    exact ⟨rfl, rfl, fun _ _ h => h, rfl, rfl, rfl, rfl, rfl, rfl, by rw [h], fun _ => Nat.le_refl _⟩

theorem journalRange (c : Core) (off n : Nat) : Computed c (c.journalRange off n) := by
  unfold Core.journalRange
  split
  · exact refl c
  · exact foldl (fun c _ => journalBlock c _) _ c

theorem spStore (c : Core) (off : Nat) (l : List Lane) : Computed c (c.spStore off l) :=
  foldl (fun c _ => spPut c _ _) _ c

theorem spWrite (c : Core) (off : Nat) (l : List Lane) : Computed c (c.spWrite off l) :=
  ((wakeBanks c _ _).trans (journalRange _ _ _)).trans (spStore _ _ _)

theorem takeFlags (c : Core) (n : BitVec 3) (e : QEntry) : Computed c (c.takeFlags n e) := ite (orFlags c _) (refl c)

theorem opInc (c : Core) (fp : Nat) (o : Operand) : Computed c (c.opInc fp o) := by
  induction o with
  | inc | incReg => exact setP c _ _
  | _ => exact refl c

theorem opIncs (c : Core) (fp : Nat) (l : List Operand) : Computed c (c.opIncs fp l) :=
  foldl (fun c _ => opInc c fp _) l c

theorem randoms (c : Core) (on : Bool) (n : Nat) : Computed c (c.randoms on n).2 := by
  unfold Core.randoms
  split <;> [exact seed c _; exact refl c]

/-- What a read gives was computed, if its core was. -/
theorem of_ok {α : Type} {c c' d : Core} {x y : α} (h : (Except.ok (d, x) : Except Exn (Core × α)) = .ok (c', y))
    (hc : Computed c d) : Computed c c' :=
  (show d = c' from congrArg Prod.fst (Except.ok.inj h)) ▸ hc

/-- A read of scratchpad words wakes their banks. -/
theorem readWords {c c' : Core} {r : Except Exn Unit} {off n : Nat} {ws l : List Lane} (h : (match r with
    | .error e => .error e
    | .ok _ => .ok (c.wakeBanks off n, ws) : Except Exn (Core × List Lane)) = .ok (c', l)) : Computed c c' := by
  rcases r with _ | _
  · exact nomatch h
  · exact of_ok h (wakeBanks c _ _)

theorem readLanes {c c' : Core} {fill : BitVec 3 → Bool} {fp nl : Nat} {o : Operand} {l : List Lane}
    (h : c.readLanes fill fp o nl = .ok (c', l)) : Computed c c' := by
  induction o with
  | acc | imm | reg => exact of_ok h (refl c)
  | queue n =>
    rw [Core.readLanes] at h
    rcases hq : c.queue n with _ | ⟨e, q⟩
    · rw [hq] at h
      exact of_ok (ite_error_of_ok h).2 (refl c)
    · rw [hq] at h
      exact of_ok h ((setQ hq).trans (takeFlags _ _ _))
  | mem | inc | off | incReg => exact readWords h

/-- Elements of lanes come with the core that reading the lanes left. -/
theorem laneElems {c c' : Core} {r : Except Exn (Core × List Lane)} {n : Nat} {t : Ty} {l : List El} {fl : Flags}
    (h : (match r with
      | .error e => .error e
      | .ok (c', l) => .ok (c', elemsOf t l n, fNone) : Except Exn (Core × List El × Flags)) = .ok (c', l, fl))
    (hc : ∀ d x, r = .ok (d, x) → Computed c d) : Computed c c' := by
  rcases r with _ | ⟨d, x⟩
  · exact nomatch h
  · exact of_ok h (hc d x rfl)

theorem readElems {c c' : Core} {fill : BitVec 3 → Bool} {fp n : Nat} {o : Operand} {t : Ty} {l : List El} {fl : Flags}
    (h : c.readElems fill fp o t n = .ok (c', l, fl)) : Computed c c' := by
  induction o with
  | acc | imm | reg => exact of_ok h (refl c)
  | _ => exact laneElems h fun _ _ => readLanes

theorem readAll {c c' : Core} {fill : BitVec 3 → Bool} {fp n : Nat} {t : Ty} {os : List Operand} {l : List (List El)} {fl : Flags}
    (h : c.readAll fill fp t n os = .ok (c', l, fl)) : Computed c c' := by
  induction os generalizing c c' l fl with
  | nil => exact of_ok h (refl _)
  | cons o os ih =>
    have hall : c.readAll fill fp t n (o :: os) = match c.readElems fill fp o t n with
        | .error e => .error e
        | .ok (c1, x, fl) => match c1.readAll fill fp t n os with
          | .error e => .error e
          | .ok (c2, xs, fl2) => .ok (c2, x :: xs, fl ||| fl2) := rfl
    rw [hall] at h
    rcases h1 : c.readElems fill fp o t n with _ | ⟨c1, x, f1⟩
    · rw [h1] at h; exact nomatch h
    · rw [h1] at h
      dsimp only at h
      rcases h2 : c1.readAll fill fp t n os with _ | ⟨c2, xs, f2⟩
      · rw [h2] at h; exact nomatch h
      · rw [h2] at h; exact of_ok h ((readElems h1).trans (ih h2))

theorem writeLanes (c : Core) (fp : Nat) (o : Operand) (l : List LaneOut) : Computed c (c.writeLanes fp o l).1 := by
  induction o with
  | acc => exact foldl (fun c _ => setA c _ _ _) _ c
  | queue | imm | reg => exact refl c
  | mem | inc | off | incReg => exact spWrite c _ _

theorem writeElems (c : Core) (fp : Nat) (o : Operand) (t : Ty) (els : List El) : Computed c (c.writeElems fp o t els).1 := by
  induction o with
  | reg n =>
    rcases els with _ | ⟨e, es⟩
    · exact refl c
    · exact ite (setP c _ _) (refl c)
  | _ => exact writeLanes c fp _ _

theorem finishWith (c : Core) (fp : Nat) (od : Operand) (t : Ty) (els : List El) (srcs : List Operand) (fl : Flags) :
    Computed c (c.finishWith fp od t els srcs fl).1 :=
  ((writeElems c fp od t els).trans (opIncs _ fp _)).trans (orFlags _ fl)

end Core.Computed
end Sys2Proof.Machine
end

section
/-! PROOFS. Element-wise instructions: their common row, when they complete, and the checks before it (R53, R84 to R113). -/

namespace Sys2Proof.Machine
open Sys2Proof.Machine.Num Sys2Proof.Spec
set_option Elab.async false

/-- An instruction runs as its row of the element-wise table, where it has one. -/
theorem exec_eq_laneRow (i : Instr) (s : State) : exec i s = (laneRow i).elim (exec i s) fun L =>
    coreRow i (shapeM3 L.f L.legal) (onOwnCore (lanewiseFlags L.quiet L.f L.srcs L.rounds L.op)) s := by
  induction i <;> rfl

/-- Every element-wise instruction is one row over its fields, its sources and its element function. -/
theorem exec_laneRow {i : Instr} {L : LaneRow} (h : laneRow i = some L) (s : State) :
    exec i s = coreRow i (shapeM3 L.f L.legal) (onOwnCore (lanewiseFlags L.quiet L.f L.srcs L.rounds L.op)) s :=
  (exec_eq_laneRow i s).trans (by rw [h]; rfl)

/-! ### A queue destination still has room after the sources are read -/

/-- A core whose activation runs is no unlisted core, so it reads as it was written, whatever the list of cores. -/
theorem State.core_setCore_of_act {s : State} {g : Nat} {c : Core} (h : c.act ≠ none) : (s.setCore g c).core g = c := by
  have hne : c ≠ Core.reset := fun e => h (by rw [e]; rfl)
  show KV.get Core.reset (KV.putD Core.reset g c s.cores) g = c
  rw [KV.putD, if_neg hne, KV.get, KV.find_put_self]
  rfl

theorem Core.Computed.act_ne_none {c d : Core} (h : Computed c d) (hc : c.act ≠ none) : d.act ≠ none := by
  intro hd
  have := h.act
  rw [hd] at this
  exact hc (Option.map_eq_none_iff.1 this.symm)

theorem isOk_ite_error {ε α : Type} {p : Prop} [Decidable p] (x : ε) (y : α) :
    isOk (if p then .error x else .ok y : Except ε α) = true ↔ ¬p := by
  split <;> simp_all [isOk]

/-- A push is taken where the queue that it goes to has room, or where the neighbour's part has ended (R317, R341). -/
theorem State.isOk_pushQ_iff {s : State} {g : Nat} {n : BitVec 3} {e : QEntry} :
    isOk (s.pushQ g n e) = true ↔
      (queueCore s g n ≠ g ∧ s.runsGang (queueCore s g n) = false) ∨
        ((s.core (queueCore s g n)).queue n).length < qDepth n := by
  unfold State.pushQ queueCore
  by_cases h : n = 1 ∨ s.runsGang g = false
  · have h' : (n = 1 || !s.runsGang g) = true := by simpa using h
    rw [if_pos h, if_pos h', isOk_ite_error]
    simp
  · have h' : ¬(n = 1 || !s.runsGang g) = true := by simpa using h
    have hg : s.runsGang g = true := by simp at h; exact h.2
    rw [if_neg h, if_neg h']
    induction s.neighbour g (n == 2) with
    | none => rw [isOk_ite_error]; simp
    | some k =>
      dsimp only [Option.getD_some]
      induction hr : s.runsGang k with
      | false =>
        have hk : k ≠ g := by rintro rfl; simp [hg] at hr
        simp [isOk, hk]
      | true => rw [if_neg (by simp), isOk_ite_error]; simp

theorem Core.Computed.runs {c d : Core} (h : Computed c d) :
    (match d.act with | some a => a.gang && !a.ended | none => false) =
      match c.act with | some a => a.gang && !a.ended | none => false := by
  have ha := h.act
  induction hc : c.act <;> induction hd : d.act <;> simp_all

/-- Whether a push is taken depends on the core's place in its gang and on how full the queues are. -/
theorem State.pushQ_computed {s : State} {g : Nat} {c : Core} {n : BitVec 3} {e e' : QEntry} (h : (s.core g).Computed c)
    (ha : (s.core g).act ≠ none) (hp : isOk (s.pushQ g n e') = true) : isOk ((s.setCore g c).pushQ g n e) = true := by
  have hg : (s.setCore g c).core g = c := State.core_setCore_of_act (h.act_ne_none ha)
  have hruns (k : Nat) : (s.setCore g c).runsGang k = s.runsGang k := by
    by_cases hk : k = g
    · subst hk; unfold State.runsGang; rw [hg]; exact h.runs
    · unfold State.runsGang; rw [State.core_setCore_ne hk]
  have hgang (b : Bool) : (s.setCore g c).neighbour g b = s.neighbour g b := by
    unfold State.neighbour State.gangCores; rw [hg]; simp only [h.gmask]
  have howner : queueCore (s.setCore g c) g n = queueCore s g n := by unfold queueCore; rw [hruns, hgang]
  rw [State.isOk_pushQ_iff] at hp ⊢
  rw [howner, hruns]
  refine hp.imp_right fun hlen => Nat.lt_of_le_of_lt ?_ hlen
  by_cases hk : queueCore s g n = g
  · rw [hk, hg]; exact h.queue n
  · rw [State.core_setCore_ne hk]

/-! ### Completion -/

/-- Only a queue destination pushes an entry. -/
theorem Core.writeElems_push {c : Core} {fp : Nat} {o : Operand} {t : Ty} {els : List El} {n : BitVec 3} {e : QEntry}
    (h : (c.writeElems fp o t els).2 = some (n, e)) : o = .queue n := by
  induction o <;> simp_all [Core.writeElems, Core.writeLanes]
  split at h <;> simp at h

/-- Work on the own core whose result was computed from it, and whose entry goes to a queue with room, completes. -/
theorem onOwnCore_room {w : Work} {s : State} {r : Core × Push} {od : Operand}
    (h : w (s.core s.self) (s.canFill s.self) = .ok r) (hc : (s.core s.self).Computed r.1) (ha : (s.core s.self).act ≠ none)
    (hp : ∀ n e, r.2 = some (n, e) → od = .queue n) (hr : s.hasRoom s.self od = true) :
    onOwnCore w s = .ok (.done (s.written r)) := by
  refine onOwnCore_done h fun n e he => ?_
  have ho := hp n e he
  subst ho
  exact State.pushQ_computed hc ha hr

/-- Element-wise work whose operands are accessible and readable gives its results. -/
theorem laneWork_ok {L : LaneRow} {c c1 : Core} {fill : BitVec 3 → Bool} {t : Ty} {n : Nat} {xs : List (List El)} {ifl : Flags}
    (ht : c.ty L.f.ty = t) (hn : elemsFor L.f.od t L.f.ln = n)
    (hloc : c.checkLocals (fpOf L.f.ln)
      ((L.f.od, 4 * lanesFor t n, 4) :: L.srcs.map fun o => (o, 4 * lanesFor t n, 4)) = .ok ())
    (hread : c.readAll fill (fpOf L.f.ln) t n L.srcs = .ok (c1, xs, ifl)) :
    let r := c1.randoms (L.rounds && c.stochastic L.f.rm) n
    let res := laneResults L c t n xs r.1
    lanewiseFlags L.quiet L.f L.srcs L.rounds L.op c fill = .ok (r.2.finishWith (fpOf L.f.ln) L.f.od t (res.map (·.1)) L.srcs
      (flagsOf res ||| (if !L.quiet && res.any (·.1.v) then ifl else fNone))) := by
  subst ht hn
  simp only [lanewiseFlags, hloc, hread, Bind.bind, Except.bind]
  rfl

/-- A core that can issue runs an activation. -/
theorem State.issues_act {s : State} {g : Nat} (h : s.issues g = true) : (s.core g).act ≠ none := by
  intro ha
  simp [State.issues, ha] at h

/-! ### The checks before the effect (R53) -/

/-- What R53 looks at first: the core is one of the module's, it issues, and no result on its way clashes. -/
def State.mayIssue (s : State) (ops : List Operand) : Prop :=
  wfCore s.self = true ∧ s.issues s.self = true ∧ ((s.core s.self).pend.any fun p => (usesOf ops).clash p.dest) = false

/-- A fault at the entry of a slot comes before everything else. -/
theorem coreRow_entry {i : Instr} {h : Core → Shape} {body : State → Except Exn Res} {s : State} {sp uses legal : Bool}
    {ops : List Operand} {f : FCode} (hs : h (s.core s.self) = ⟨sp, uses, legal, usesOf ops⟩) (hm : s.mayIssue ops)
    (hf : (s.core s.self).entryFault = some f) : coreRow i h body s = .next (s.faultAt s.self f 0) := by
  obtain ⟨hw, hi, hc⟩ := hm
  rw [coreRow, onCore, if_pos hw]
  simp [issue, hs, hi, hc, hf]

/-- With the entry sound and the LIVE word there, the field rules, PP, the signature and the charge are looked at in
turn, then the body. -/
theorem coreRow_checks {i : Instr} {h : Core → Shape} {body : State → Except Exn Res} {s : State} {sp uses legal : Bool}
    {ops : List Operand} (hs : h (s.core s.self) = ⟨sp, uses, legal, usesOf ops⟩) (hm : s.mayIssue ops)
    (hf : (s.core s.self).entryFault = none) (hl : sp = true → isOk ((s.core s.self).liveAfter (s.core s.self).pc) = true) :
    coreRow i h body s = .next (
      if !legal || (uses && !(s.core s.self).pp) then s.faultAt s.self .iill 0
      else if (s.core s.self).pp && !uses then (s.modCore s.self fun c => c.setPp false).faultAt s.self .pfxuse 0
      else if (s.core s.self).seqFault then s.faultAt s.self .sigm 0
      else if !s.chargeFits s.self i then s.chargeWait (clusterOfCore s.self)
      else match body s with
        | .error (.flt f a) => s.faultAt s.self f a
        | .error .stall => s.modCore s.self fun c => { c with wait := if c.wait = .none then .again else c.wait }
        | .ok (.done t) => t.retired s i sp uses
        | .ok (.hold t) => t
        | .ok (.gone t) => t) := by
  obtain ⟨hw, hi, hc⟩ := hm
  have hlive : (if sp = true then ((s.core s.self).liveAfter (s.core s.self).pc).map some else .ok none) =
      .ok (s.liveMask sp) := by
    induction sp
    · rfl
    · have := hl rfl
      simp only [State.liveMask, if_true]
      induction hm : (s.core s.self).liveAfter (s.core s.self).pc <;> simp_all [isOk, Except.map]
  rw [coreRow, onCore, if_pos hw]
  simp only [issue, hs, hi, hc, hf, hlive, Bool.not_true, Bool.false_eq_true, if_false]
  rfl

/-- A misaligned destination is the first thing that the work of an element-wise instruction finds. -/
theorem laneWork_misaligned {L : LaneRow} {c : Core} (fill : BitVec 3 → Bool) (hd : isMem L.f.od = true)
    (ha : (c.opAddr (fpOf L.f.ln) L.f.od).toNat % 4 ≠ 0) :
    lanewiseFlags L.quiet L.f L.srcs L.rounds L.op c fill = .error (.flt .align (c.opAddr (fpOf L.f.ln) L.f.od)) := by
  simp only [lanewiseFlags, Core.checkLocals, hd, if_true, Core.checkLocal, if_pos ha]
  rfl

end Sys2Proof.Machine

namespace Sys2Proof.Spec
open Sys2Proof Sys2Proof.Machine Sys2Proof.Machine.Num
set_option Elab.async false

/-- Settles O1: the row's work, run through, is `finishWith` of the row's results. -/
theorem elementwiseCompletes : Obligations.ElementwiseCompletes := by
  unfold Obligations.ElementwiseCompletes
  intro i L s c1 xs ifl hL c t fp n by4 hi hl hloc hread hroom r res
  rw [exec_laneRow hL]
  refine coreRow_done (congrArg (Shape.mk _ _ · _) hl) hi (onOwnCore_room (laneWork_ok rfl rfl hloc hread) ?_ ?_
    (fun m e he => Core.writeElems_push he) hroom)
  · exact ((Core.Computed.readAll hread).trans (Core.Computed.randoms ..)).trans (Core.Computed.finishWith ..)
  · exact State.issues_act (canIssue_iff.1 hi).2.1

/-- Settles O11: each check is one branch of `coreRow_checks`, the checks before it passed. -/
theorem checksBeforeEffect : Obligations.ChecksBeforeEffect := by
  unfold Obligations.ChecksBeforeEffect
  intro i L s hL
  dsimp only
  intro hw hi hc
  have hm : s.mayIssue [L.f.od, L.f.oa, L.f.ob, L.f.oc] := ⟨hw, hi, hc⟩
  rw [exec_laneRow hL]
  refine ⟨fun src hsrc ht => coreRow_entry rfl hm (by simp [Core.entryFault, hsrc, ht]), fun hf hl => ?_⟩
  rw [coreRow_checks rfl hm hf hl]
  generalize (L.f.ty == .px) = uses
  refine ⟨fun h => ?_, fun hu hp => ?_, fun h hu hp => ?_, fun h hp he ht => ?_, fun h hp hq hch hd ha => ?_⟩
  · rw [if_pos (by rw [h]; rfl)]
  · rw [if_pos (by rw [hu, hp]; simp)]
  · rw [if_neg (by rw [h, hu]; simp), if_pos (by rw [hp, hu]; rfl)]
  · have hseq : (s.core s.self).seqFault = true := by simp only [Core.seqFault, he, ht]
    rw [if_neg (by rw [h, hp]; simp), if_neg (by rw [hp]; simp), if_pos hseq]
  · have hb : onOwnCore (lanewiseFlags L.quiet L.f L.srcs L.rounds L.op) s =
        .error (.flt .align ((s.core s.self).opAddr (fpOf L.f.ln) L.f.od)) := by
      rw [onOwnCore, laneWork_misaligned _ hd ha]
    rw [if_neg (by rw [h, hp]; simp), if_neg (by rw [hp]; simp), if_neg (by simp [hq]), if_neg (by simp [hch]), hb]

end Sys2Proof.Spec
end

section
/-! PROOFS. The scratchpad: a word after words are stored, and the journal that restores it (R179, R300, R301). -/

namespace Sys2Proof.Machine
set_option Elab.async false

theorem Core.sorted_spPut {c : Core} (h : KV.sorted c.spad = true) (off : Nat) (v : Lane) :
    KV.sorted (c.spPut off v).spad = true := KV.sorted_putD h

theorem Core.spGet_spPut {c : Core} (h : KV.sorted c.spad = true) (off x : Nat) (v : Lane) :
    (c.spPut off v).spGet x = if x / 4 = off / 4 then v else c.spGet x := by
  unfold Core.spGet Core.spPut
  split
  · rename_i e; rw [e]; exact KV.get_putD_self h
  · rename_i e; exact KV.get_putD_ne e _ _

/-- A fold of writes at successive words. -/
theorem Core.spGet_foldl_spPut (l : List Lane) (k : Nat) {c : Core} (h : KV.sorted c.spad = true) (off x : Nat) :
    let d := (l.zipIdx k).foldl (fun c y => c.spPut (off + 4 * y.2) y.1) c
    KV.sorted d.spad = true ∧
      d.spGet x = if off / 4 + k ≤ x / 4 then (l[x / 4 - (off / 4 + k)]?).getD (c.spGet x) else c.spGet x := by
  induction l generalizing k c with
  | nil => simp [h]
  | cons y l ih =>
    have hput := Core.sorted_spPut h (off + 4 * k) y
    obtain ⟨hs, hg⟩ := ih (k + 1) hput
    refine ⟨hs, ?_⟩
    rw [List.zipIdx_cons, List.foldl_cons, hg, Core.spGet_spPut h, Nat.add_mul_div_left _ _ (by decide)]
    clear hg
    rw [← Nat.add_assoc]
    generalize off / 4 + k = p, x / 4 = w
    obtain hlt | rfl | hgt := Nat.lt_trichotomy w p
    · rw [if_neg (show ¬p + 1 ≤ w from Nat.not_le.2 (Nat.lt_succ_of_lt hlt)), if_neg (Nat.ne_of_lt hlt), if_neg (Nat.not_le.2 hlt)]
    · rw [if_neg (show ¬w + 1 ≤ w from Nat.not_succ_le_self w), if_pos rfl, if_pos (Nat.le_refl _), Nat.sub_self]; rfl
    · obtain ⟨m, rfl⟩ := Nat.exists_eq_add_of_lt hgt
      rw [if_pos (Nat.succ_le_of_lt hgt), if_neg (Nat.ne_of_gt hgt), if_pos (Nat.le_of_lt hgt), Nat.add_sub_add_right,
        Nat.add_sub_cancel_left, Nat.add_assoc p m 1, Nat.add_sub_cancel_left, List.getElem?_cons_succ]

theorem Core.sorted_spStore {c : Core} (h : KV.sorted c.spad = true) (off : Nat) (l : List Lane) :
    KV.sorted (c.spStore off l).spad = true := (Core.spGet_foldl_spPut l 0 h off 0).1

/-- A word reads as it was stored, every other word as before. -/
theorem Core.spGet_spStore {c : Core} (h : KV.sorted c.spad = true) (off x : Nat) (l : List Lane) :
    (c.spStore off l).spGet x =
      if off / 4 ≤ x / 4 then (l[x / 4 - off / 4]?).getD (c.spGet x) else c.spGet x :=
  (Core.spGet_foldl_spPut l 0 h off x).2

/-- Words outside the range stored stay. -/
theorem Core.spGet_spStore_outside {c : Core} (h : KV.sorted c.spad = true) {off x : Nat} {l : List Lane}
    (hx : x / 4 < off / 4 ∨ off / 4 + l.length ≤ x / 4) : (c.spStore off l).spGet x = c.spGet x := by
  rw [Core.spGet_spStore h]
  split
  · rename_i hle
    rw [List.getElem?_eq_none (Nat.le_sub_of_add_le' (hx.resolve_left (Nat.not_lt.2 hle))), Option.getD_none]
  · rfl

theorem Core.spStore_journal (c : Core) (off : Nat) (l : List Lane) : (c.spStore off l).journal = c.journal := by
  unfold Core.spStore
  generalize l.zipIdx = ls
  induction ls generalizing c with
  | nil => rfl
  | cons y ls ih => exact ih _

/-- An offset reads the word that holds it. -/
theorem Core.spGet_congr {x y : Nat} (c : Core) (h : x / 4 = y / 4) : c.spGet x = c.spGet y := by
  rw [Core.spGet, Core.spGet, h]

/-- The scratchpad with journalled blocks put back, the last one first. -/
noncomputable def Core.putBack (c : Core) (js : List JBlock) : Core := js.foldr (fun j c => c.spStore (64 * j.blk) j.words) c

theorem Core.spGet_restoreJournal (c : Core) (x : Nat) : c.restoreJournal.spGet x = (c.putBack c.journal).spGet x := rfl

theorem Core.sorted_putBack {c : Core} (h : KV.sorted c.spad = true) (js : List JBlock) :
    KV.sorted (c.putBack js).spad = true := by
  induction js with
  | nil => exact h
  | cons j js ih => exact Core.sorted_spStore ih _ _

/-- A word's block is the block of its bytes. -/
theorem block_eq (x : Nat) : x / 64 = x / 4 / 16 := (Nat.div_div_eq_div_mul x 4 16).symm

/-- A saved block. -/
noncomputable def Core.saveBlock (c : Core) (b : Nat) : JBlock := ⟨b, c.spWords (64 * b) 16⟩

/-- Putting a block back gives its words as they were saved, and keeps every other word. -/
theorem Core.spGet_spStore_block {c : Core} (h : KV.sorted c.spad = true) (c0 : Core) (b x : Nat) :
    (c.spStore (64 * b) (c0.spWords (64 * b) 16)).spGet x = if x / 64 = b then c0.spGet x else c.spGet x := by
  have hb : 64 * b / 4 = 16 * b := by
    rw [show 64 * b = 4 * (16 * b) from Nat.mul_assoc 4 16 b, Nat.mul_div_cancel_left _ (by decide)]
  rw [Core.spGet_spStore h, hb, block_eq]
  generalize hw : x / 4 = w
  by_cases he : w / 16 = b
  · obtain ⟨hlo, hhi⟩ := (Nat.div_eq_iff (by decide)).1 he
    rw [Nat.mul_comm] at hlo
    have hi : w - 16 * b < 16 := Nat.sub_lt_left_of_lt_add hlo (Nat.lt_succ_of_le (Nat.mul_comm b 16 ▸ hhi))
    have hx : (64 * b + 4 * (w - 16 * b)) / 4 = x / 4 := by
      rw [Nat.add_mul_div_left _ _ (by decide), hb, hw]; exact Nat.add_sub_cancel' hlo
    rw [if_pos hlo, if_pos he]
    simp [Core.spWords, hi, Core.spGet_congr c0 hx]
  · rw [if_neg he]
    split
    · rename_i hlo
      have hge : 16 ≤ w - 16 * b := Nat.le_of_not_lt fun hlt => he ((Nat.div_eq_iff (by decide)).2
        ⟨Nat.mul_comm b 16 ▸ hlo, by rw [Nat.mul_comm]; exact Nat.le_of_lt_succ (((Nat.sub_lt_iff_lt_add hlo).1 hlt).trans_eq (Nat.add_comm ..))⟩)
      rw [List.getElem?_eq_none (by simpa [Core.spWords] using hge), Option.getD_none]
    · rfl

/-- Putting blocks back gives their words as they were saved, and keeps every other word. -/
theorem Core.spGet_putBack {c : Core} (h : KV.sorted c.spad = true) (c0 : Core) (bs : List Nat) (x : Nat) :
    (c.putBack (bs.map c0.saveBlock)).spGet x = if x / 64 ∈ bs then c0.spGet x else c.spGet x := by
  induction bs with
  | nil => simp [Core.putBack]
  | cons b bs ih =>
    have hstep : c.putBack ((b :: bs).map c0.saveBlock) =
        (c.putBack (bs.map c0.saveBlock)).spStore (64 * b) (c0.spWords (64 * b) 16) := by
      rw [List.map_cons, Core.putBack, List.foldr_cons]; rfl
    rw [hstep, Core.spGet_spStore_block (Core.sorted_putBack h _), ih]
    by_cases he : x / 64 = b <;> simp [he]

/-- The blocks from `b` on, with the words they hold. -/
noncomputable def Core.saved (c : Core) (b m : Nat) : List JBlock :=
  ((List.range m).map (b + ·)).map c.saveBlock

noncomputable def Core.withJournal (c : Core) (j : List JBlock) : Core := { c with journal := j }

theorem Core.withJournal_journal (c : Core) (j : List JBlock) : (c.withJournal j).journal = j := rfl

/-- A block that must be journalled is saved, as the scratchpad holds it. -/
theorem Core.journalBlock_saves {c : Core} {a : Act} {b : Nat} (ha : c.act = some a) (hmust : c.mustJournal a b = true)
    (hlen : ¬64 ≤ c.journal.length) : c.journalBlock b = c.withJournal (c.journal ++ [c.saveBlock b]) := by
  unfold Core.journalBlock
  split
  · rename_i h
    exact nomatch ha.symm.trans h
  · rename_i x h
    obtain rfl : x = a := Option.some.inj (h.symm.trans ha)
    exact (if_pos hmust).trans (if_neg hlen)

/-- Journaling blocks of one named region, none of them journalled before, saves them in order (R300). -/
theorem Core.journal_blocks {c : Core} {a : Act} {r : Nat × Nat} {b m : Nat} (ha : c.act = some a) (hi : a.irrev = false)
    (hj : c.journal = []) (hr : r ∈ a.named) (hm : m ≤ 64) (hlo : r.1 ≤ 64 * b) (hhi : ∀ k, k < m → 64 * (b + k) < r.1 + r.2) :
    (List.range m).foldl (fun c k => c.journalBlock (b + k)) c = c.withJournal (c.saved b m) := by
  induction m with
  | zero => exact congrArg c.withJournal hj
  | succ m ih =>
    rw [List.range_succ, List.foldl_append, ih (Nat.le_of_succ_le hm) fun k hk => hhi k (Nat.lt_succ_of_lt hk)]
    have hnamed : (a.named.any fun r => decide (r.1 ≤ 64 * (b + m)) && decide (64 * (b + m) < r.1 + r.2)) = true :=
      List.any_eq_true.2 ⟨r, hr, by
        rw [decide_eq_true (Nat.le_trans hlo (Nat.mul_le_mul_left 64 (Nat.le_add_right b m))), decide_eq_true (hhi m (Nat.lt_succ_self m))]
        rfl⟩
    have hfresh : ((c.saved b m).any fun j => j.blk == b + m) = false := by
      simp only [Core.saved, Core.saveBlock, List.any_map, List.any_eq_false, List.mem_range, Function.comp_apply, beq_iff_eq]
      exact fun k hk e => Nat.ne_of_lt hk (Nat.add_left_cancel e)
    have hlen : ¬64 ≤ (c.saved b m).length := by
      rw [Core.saved, List.length_map, List.length_map, List.length_range]
      exact Nat.not_le.2 hm
    have hmust : (c.withJournal (c.saved b m)).mustJournal a (b + m) = true := by
      show (!a.irrev && _ && !(c.saved b m).any _) = true
      rw [hi, hnamed, hfresh]; rfl
    have hsaved : c.saved b m ++ [c.saveBlock (b + m)] = c.saved b (m + 1) := by
      rw [Core.saved, Core.saved, List.range_succ, List.map_append, List.map_append]; rfl
    exact (Core.journalBlock_saves (c := c.withJournal (c.saved b m)) ha hmust hlen).trans (congrArg c.withJournal hsaved)

/-- The blocks of a write of n + 1 words inside a region of whole blocks, at most 64 of them. -/
theorem blocks_bounds {off o n len m : Nat} (hm : len = m + 1) (hlo : 64 * o ≤ off) (hhi : off + 4 * len ≤ 64 * o + 64 * n)
    (hblk : (off + 4 * len + 63) / 64 ≤ off / 64 + 64) :
    o ≤ off / 64 ∧ (off + 4 * len - 1) / 64 + 1 - off / 64 ≤ 64 ∧
      ∀ k, k < (off + 4 * len - 1) / 64 + 1 - off / 64 → 64 * (off / 64 + k) < 64 * o + 64 * n := by
  subst hm
  have hend : (off + 4 * m + 3) / 64 < o + n :=
    Nat.div_lt_of_lt_mul (Nat.lt_of_lt_of_le (Nat.lt_succ_self _) (hhi.trans_eq (Nat.mul_add ..).symm))
  have hnext : (off + 4 * m + 3) / 64 + 1 ≤ off / 64 + 64 := (Nat.add_div_right (off + 4 * m + 3) (z := 64) (by decide)).symm.trans_le hblk
  refine ⟨(Nat.le_div_iff_mul_le (by decide)).2 (Nat.mul_comm o 64 ▸ hlo), Nat.sub_le_of_le_add (Nat.add_comm _ 64 ▸ hnext), fun k hk => ?_⟩
  have hle : off / 64 + k ≤ (off + 4 * m + 3) / 64 := Nat.le_of_lt_succ (Nat.add_comm .. ▸ Nat.add_lt_of_lt_sub hk)
  rw [← Nat.mul_add]
  exact Nat.mul_lt_mul_of_pos_left (Nat.lt_of_le_of_lt hle hend) (by decide)

/-- A word among those of a write lies in one of its blocks. -/
theorem block_of_word {off len m x : Nat} (hm : len = m + 1) (h : ¬(x / 4 < off / 4 ∨ off / 4 + len ≤ x / 4)) :
    off / 64 ≤ x / 64 ∧ x / 64 ≤ (off + 4 * len - 1) / 64 := by
  subst hm
  obtain ⟨hlo, hhi⟩ := not_or.1 h
  have hle : x / 4 ≤ (off + 4 * m + 3) / 4 := (Nat.le_of_lt_succ (Nat.not_le.1 hhi)).trans
    ((Nat.add_mul_div_left off m (by decide)).symm.trans_le (Nat.div_le_div_right (Nat.le_add_right _ 3)))
  rw [block_eq, block_eq, block_eq]
  exact ⟨Nat.div_le_div_right (Nat.not_lt.1 hlo), Nat.div_le_div_right hle⟩

end Sys2Proof.Machine

namespace Sys2Proof.Spec
open Sys2Proof Sys2Proof.Machine
set_option Elab.async false

/-- Settles O14: the write journals every block that it touches, and only those are written. -/
theorem journalUndoesWrites : Obligations.JournalUndoesWrites := by
  unfold Obligations.JournalUndoesWrites
  intro c a off o n l hs ha hi hj hn hoff hlo hhi hblk x
  by_cases hl : l.length = 0
  · rw [List.length_eq_zero_iff.1 hl]
    show (c.restoreJournal).spGet x = _
    rw [Core.spGet_restoreJournal, hj]; rfl
  obtain ⟨m, hm⟩ := Nat.exists_eq_succ_of_ne_zero hl
  obtain ⟨hfirst, hcount, hblocks⟩ := blocks_bounds hm hlo hhi hblk
  have hjournal : (c.wakeBanks off (4 * l.length)).journalRange off (4 * l.length) = (c.wakeBanks off (4 * l.length)).withJournal
      (c.saved (off / 64) ((off + 4 * l.length - 1) / 64 + 1 - off / 64)) :=
    (if_neg (Nat.mul_ne_zero (by decide) hl)).trans
      (Core.journal_blocks (c := c.wakeBanks off _) ha hi hj hn hcount (Nat.mul_le_mul_left 64 hfirst) hblocks)
  rw [Core.spGet_restoreJournal, Core.spWrite, Core.spStore_journal, hjournal, Core.withJournal_journal, Core.saved, Core.spGet_putBack]
  · split
    · rfl
    · rename_i hx
      have hout : x / 4 < off / 4 ∨ off / 4 + l.length ≤ x / 4 := by
        by_contra hin
        obtain ⟨h1, h2⟩ := block_of_word hm hin
        exact hx (List.mem_map.2 ⟨x / 64 - off / 64, List.mem_range.2 (Nat.sub_lt_sub_right h1 (Nat.lt_succ_of_le h2)),
          Nat.add_sub_cancel' h1⟩)
      rw [Core.spGet_spStore_outside (by exact hs) hout]
      rfl
  · exact Core.sorted_spStore (by exact hs) _ _

end Sys2Proof.Spec
end

section
/-! PROOFS. The integer results against two's complement arithmetic, and the sign bit of FABS and FNEG (R92 to R95, R103). -/

namespace Sys2Proof.Machine
open Sys2Proof Sys2Proof.Machine.Num
set_option Elab.async false

theorem width_pos (t : Ty) : 0 < width t := by induction t <;> decide

/-! ### The integer of an element and the bit vector of its pattern -/

/-- An element's integer is that of its bit vector, read as its type says (R58). -/
theorem iv_eq {t : Ty} {a : Nat} (ha : a < 2 ^ width t) :
    iv t a = if isSigned t then (BitVec.ofNat (width t) a).toInt else ((BitVec.ofNat (width t) a).toNat : Int) := by
  unfold iv
  split
  · rename_i h; rw [h, toInt_true_eq_toInt_ofNat (width_pos t) ha]
  · rename_i h; simp [toInt, h]

theorem ofInt_iv {t : Ty} {a : Nat} (ha : a < 2 ^ width t) : BitVec.ofInt (width t) (iv t a) = BitVec.ofNat (width t) a := by
  rw [iv_eq ha]
  split
  · exact BitVec.ofInt_toInt
  · rw [BitVec.ofInt_natCast, BitVec.ofNat_toNat, BitVec.setWidth_eq]

theorem wrapRes_fst (t : Ty) (x : Int) : (wrapRes t x).1 = (BitVec.ofInt (width t) x).toNat := wrap_eq_toNat_ofInt _ x

theorem ofNat_toNat {w a : Nat} (ha : a < 2 ^ w) : (BitVec.ofNat w a).toNat = a := by
  rw [BitVec.toNat_ofNat, Nat.mod_eq_of_lt ha]

/-- Patterns of one width are equal where their bit vectors are. -/
theorem ofNat_inj {w a b : Nat} (ha : a < 2 ^ w) (hb : b < 2 ^ w) : BitVec.ofNat w a = BitVec.ofNat w b ↔ a = b :=
  ⟨fun h => by rw [← ofNat_toNat ha, h, ofNat_toNat hb], fun h => by rw [h]⟩

theorem iv_inj {t : Ty} {a b : Nat} (ha : a < 2 ^ width t) (hb : b < 2 ^ width t) :
    iv t a = iv t b ↔ BitVec.ofNat (width t) a = BitVec.ofNat (width t) b :=
  ⟨fun h => by rw [← ofInt_iv ha, h, ofInt_iv hb], fun h => by rw [(ofNat_inj ha hb).1 h]⟩

theorem iv_eq_zero {t : Ty} {b : Nat} (hb : b < 2 ^ width t) : iv t b = 0 ↔ b = 0 := by
  have h0 : iv t 0 = 0 := by induction t <;> rfl
  rw [← h0, iv_inj hb (Nat.two_pow_pos _), ofNat_inj hb (Nat.two_pow_pos _)]

section
variable {t : Ty} (m : RMode) (r : W32) {a b : Nat} (ha : a < 2 ^ width t) (hb : b < 2 ^ width t)
include ha hb

theorem addOp_fst : (addOp t m r [a, b]).1 = (BitVec.ofNat (width t) a + BitVec.ofNat (width t) b).toNat := by
  show (wrapRes t (iv t a + iv t b)).1 = _
  rw [wrapRes_fst, BitVec.ofInt_add, ofInt_iv ha, ofInt_iv hb]

theorem subOp_fst : (subOp t m r [a, b]).1 = (BitVec.ofNat (width t) a - BitVec.ofNat (width t) b).toNat := by
  show (wrapRes t (iv t a - iv t b)).1 = _
  rw [wrapRes_fst, Int.sub_eq_add_neg, BitVec.ofInt_add, BitVec.ofInt_neg, ofInt_iv ha, ofInt_iv hb, BitVec.sub_eq_add_neg]

theorem mulOp_fst : (mulOp t m r [a, b]).1 = (BitVec.ofNat (width t) a * BitVec.ofNat (width t) b).toNat := by
  show (wrapRes t (iv t a * iv t b)).1 = _
  rw [wrapRes_fst, BitVec.ofInt_mul, ofInt_iv ha, ofInt_iv hb]

theorem macOp_fst {c : Nat} (hc : c < 2 ^ width t) : (macOp t m r [a, b, c]).1 =
    (BitVec.ofNat (width t) a * BitVec.ofNat (width t) b + BitVec.ofNat (width t) c).toNat := by
  show (wrapRes t (iv t a * iv t b + iv t c)).1 = _
  rw [wrapRes_fst, BitVec.ofInt_add, BitVec.ofInt_mul, ofInt_iv ha, ofInt_iv hb, ofInt_iv hc]

theorem divOp_fst : (divOp t m r [a, b]).1 = (if b = 0 then BitVec.allOnes (width t) else if isSigned t then
    (BitVec.ofNat (width t) a).sdiv (BitVec.ofNat (width t) b) else BitVec.ofNat (width t) a / BitVec.ofNat (width t) b).toNat := by
  show (if iv t b = 0 then (2 ^ width t - 1, fNone) else wrapRes t (Int.tdiv (iv t a) (iv t b))).1 = _
  by_cases h : b = 0
  · rw [if_pos ((iv_eq_zero hb).2 h), if_pos h, BitVec.toNat_allOnes]
  · rw [if_neg (mt (iv_eq_zero hb).1 h), if_neg h, wrapRes_fst, iv_eq ha, iv_eq hb]
    split
    · refine congrArg BitVec.toNat (BitVec.toInt_inj.1 ?_)
      rw [BitVec.toInt_ofInt, BitVec.toInt_sdiv]
    · rw [← Int.ofNat_tdiv, BitVec.ofInt_natCast, BitVec.udiv_def]

theorem remOp_fst : (remOp t m r [a, b]).1 = (if b = 0 then BitVec.ofNat (width t) a else if isSigned t then
    (BitVec.ofNat (width t) a).srem (BitVec.ofNat (width t) b) else BitVec.ofNat (width t) a % BitVec.ofNat (width t) b).toNat := by
  show (if iv t b = 0 then wrapRes t (iv t a) else wrapRes t (Int.tmod (iv t a) (iv t b))).1 = _
  by_cases h : b = 0
  · rw [if_pos ((iv_eq_zero hb).2 h), if_pos h, wrapRes_fst, ofInt_iv ha]
  · rw [if_neg (mt (iv_eq_zero hb).1 h), if_neg h, wrapRes_fst, iv_eq ha, iv_eq hb]
    split
    · rw [← BitVec.toInt_srem, BitVec.ofInt_toInt]
    · rw [← Int.ofNat_tmod, BitVec.ofInt_natCast, BitVec.umod_def]

theorem lt_iff : decide (iv t a < iv t b) = if isSigned t then (BitVec.ofNat (width t) a).slt (BitVec.ofNat (width t) b)
    else (BitVec.ofNat (width t) a).ult (BitVec.ofNat (width t) b) := by
  rw [iv_eq ha, iv_eq hb]
  split
  · rfl
  · rw [decide_eq_decide.2 Int.ofNat_lt]; rfl

theorem le_iff : decide (iv t a ≤ iv t b) = if isSigned t then (BitVec.ofNat (width t) a).sle (BitVec.ofNat (width t) b)
    else (BitVec.ofNat (width t) a).ule (BitVec.ofNat (width t) b) := by
  rw [iv_eq ha, iv_eq hb]
  split
  · rfl
  · rw [decide_eq_decide.2 Int.ofNat_le]; rfl

omit hb in
theorem rotOp_fst : (rotOp t m r [a, b]).1 = ((BitVec.ofNat (width t) a).rotateLeft (b % width t)).toNat := by
  have hk := mod_width_lt t b
  rw [BitVec.toNat_rotateLeft, Nat.mod_eq_of_lt hk, ofNat_toNat ha, Nat.shiftLeft_eq, Nat.shiftRight_eq_div_pow]
  show a * 2 ^ (b % width t) % 2 ^ width t + a / 2 ^ (width t - b % width t) = _
  rw [rot_eq_mul_add hk.le, Nat.two_pow_add_eq_or_of_lt (div_pow_sub_lt hk.le ha), Nat.mul_comm a, ← Nat.mul_mod_mul_left,
    ← Nat.pow_add, Nat.add_sub_cancel' hk.le]

theorem minOp_fst : (minOp t m r [a, b]).1 = (if (if isSigned t then (BitVec.ofNat (width t) a).slt (BitVec.ofNat (width t) b)
    else (BitVec.ofNat (width t) a).ult (BitVec.ofNat (width t) b)) then BitVec.ofNat (width t) a
    else BitVec.ofNat (width t) b).toNat := by
  show (wrapRes t (min (iv t a) (iv t b))).1 = _
  rw [← lt_iff ha hb, wrapRes_fst]
  by_cases h : iv t a < iv t b
  · rw [min_eq_left h.le, ofInt_iv ha]; simp [h]
  · rw [min_eq_right (not_lt.1 h), ofInt_iv hb]; simp [h]

theorem maxOp_fst : (maxOp t m r [a, b]).1 = (if (if isSigned t then (BitVec.ofNat (width t) a).slt (BitVec.ofNat (width t) b)
    else (BitVec.ofNat (width t) a).ult (BitVec.ofNat (width t) b)) then BitVec.ofNat (width t) b
    else BitVec.ofNat (width t) a).toNat := by
  show (wrapRes t (max (iv t a) (iv t b))).1 = _
  rw [← lt_iff ha hb, wrapRes_fst]
  by_cases h : iv t a < iv t b
  · rw [max_eq_right h.le, ofInt_iv hb]; simp [h]
  · rw [max_eq_left (not_lt.1 h), ofInt_iv ha]; simp [h]

theorem mulhOp_unsigned (hu : isSigned t = false) : (mulhOp t m r [a, b]).1 = a * b / 2 ^ width t := by
  show (wrapRes t (iv t a * iv t b / ((2 ^ width t : Nat) : Int))).1 = _
  have hlt : a * b / 2 ^ width t < 2 ^ width t :=
    Nat.div_lt_of_lt_mul (Nat.mul_lt_mul'' ha hb)
  rw [wrapRes_fst, iv_eq ha, iv_eq hb, hu, ofNat_toNat ha, ofNat_toNat hb]
  simp only [Bool.false_eq_true, if_false]
  rw [← Int.natCast_mul, ← Int.natCast_ediv, BitVec.ofInt_natCast, ofNat_toNat hlt]

theorem mulhOp_signed (hs : isSigned t = true) : (mulhOp t m r [a, b]).1 = (BitVec.ofInt (width t)
    ((BitVec.ofNat (width t) a).toInt * (BitVec.ofNat (width t) b).toInt / ((2 ^ width t : Nat) : Int))).toNat := by
  show (wrapRes t (iv t a * iv t b / ((2 ^ width t : Nat) : Int))).1 = _
  rw [wrapRes_fst, iv_eq ha, iv_eq hb, hs]
  rfl

end

/-- A comparison gives all ones where its relation holds (R95). -/
theorem allOnesIf_fst (t : Ty) (p : Bool) : (allOnesIf t p).1 = (if p then BitVec.allOnes (width t) else 0).toNat := by
  unfold allOnesIf
  split
  · exact (BitVec.toNat_allOnes).symm
  · rfl

theorem negOp_fst {t : Ty} (m : RMode) (r : W32) {a : Nat} (ha : a < 2 ^ width t) :
    (negOp t m r [a]).1 = (-BitVec.ofNat (width t) a).toNat := by
  show (wrapRes t (-iv t a)).1 = _
  rw [wrapRes_fst, BitVec.ofInt_neg, ofInt_iv ha]

theorem absOp_fst {t : Ty} (m : RMode) (r : W32) {a : Nat} (ha : a < 2 ^ width t) (hs : isSigned t = true) :
    (absOp t m r [a]).1 =
      (if (BitVec.ofNat (width t) a).msb then -BitVec.ofNat (width t) a else BitVec.ofNat (width t) a).toNat := by
  show (wrapRes t ((iv t a).natAbs : Int)).1 = _
  have hiv : iv t a = (BitVec.ofNat (width t) a).toInt := by rw [iv_eq ha, if_pos hs]
  rw [wrapRes_fst, BitVec.msb_eq_toInt, ← hiv]
  by_cases h : iv t a < 0
  · rw [Int.ofNat_natAbs_of_nonpos h.le, BitVec.ofInt_neg, ofInt_iv ha]; simp [h]
  · rw [Int.natAbs_of_nonneg (not_lt.1 h), ofInt_iv ha]; simp [h]

theorem clzOp_fst {t : Ty} (m : RMode) (r : W32) {a : Nat} :
    (clzOp t m r [a]).1 = width t - (if a = 0 then 0 else Nat.log2 a + 1) := by
  show (if a = 0 then width t else width t - 1 - Nat.log2 a) = _
  split <;> lia

theorem popcOp_fst {t : Ty} (m : RMode) (r : W32) {a : Nat} :
    (popcOp t m r [a]).1 = ((List.range (width t)).filter fun k => (BitVec.ofNat (width t) a).getLsbD k).length := by
  refine congrArg List.length (List.filter_congr fun k hk => ?_)
  rw [BitVec.getLsbD_ofNat, decide_eq_true (List.mem_range.1 hk), Bool.true_and]
  rfl

theorem notOp_fst {t : Ty} (m : RMode) (r : W32) {a : Nat} (ha : a < 2 ^ width t) :
    (notOp t m r [a]).1 = (~~~BitVec.ofNat (width t) a).toNat := by
  rw [BitVec.toNat_not, ofNat_toNat ha]
  rfl

/-! ### Saturation (R92) -/

/-- A value of the type is the integer of its pattern. -/
theorem iv_wrap {t : Ty} {x : Int} (hlo : minOf (isSigned t) (width t) ≤ x) (hhi : x ≤ maxOf (isSigned t) (width t)) :
    iv t (wrap (width t) x) = x := by
  rw [wrap_eq_toNat_ofInt, iv_eq (BitVec.isLt _), BitVec.ofNat_toNat, BitVec.setWidth_eq]
  rcases h : isSigned t with _ | _
  · rw [h] at hlo hhi
    rw [if_neg Bool.false_ne_true, BitVec.toNat_ofInt, Int.emod_eq_of_lt hlo (Int.lt_of_le_sub_one hhi), Int.toNat_of_nonneg hlo]
  · rw [h] at hlo hhi
    have hpow : ((2 ^ (width t - 1) : Nat) : Int) = 2 ^ (width t - 1) := Int.natCast_pow 2 _
    exact (if_pos rfl).trans (BitVec.toInt_ofInt_eq_self (width_pos t) (hpow ▸ hlo) (hpow ▸ Int.lt_of_le_sub_one hhi))

/-- A saturated result is the nearest value of the type, and SAT says that it is not the exact one. -/
theorem satInt_spec (t : Ty) (x : Int) :
    iv t (satInt (isSigned t) (width t) x).1 =
      max (minOf (isSigned t) (width t)) (min (maxOf (isSigned t) (width t)) x) ∧
    (satInt (isSigned t) (width t) x).2 =
      if x < minOf (isSigned t) (width t) ∨ maxOf (isSigned t) (width t) < x then fSAT else fNone := by
  have hle : minOf (isSigned t) (width t) ≤ maxOf (isSigned t) (width t) := by induction t <;> decide
  have hw (y : Int) := iv_wrap (t := t) (x := y)
  unfold satInt
  revert hle hw
  generalize minOf (isSigned t) (width t) = lo, maxOf (isSigned t) (width t) = hi
  intro hle hw
  by_cases hlo : x < lo
  · rw [if_pos hlo, if_pos (.inl hlo), max_eq_left ((min_le_right hi x).trans hlo.le)]
    exact ⟨hw lo (le_refl _) hle, rfl⟩
  · by_cases hhi : hi < x
    · rw [if_neg hlo, if_pos hhi, if_pos (.inr hhi), min_eq_left hhi.le, max_eq_right hle]
      exact ⟨hw hi hle (le_refl _), rfl⟩
    · rw [if_neg hlo, if_neg hhi, if_neg (not_or.2 ⟨hlo, hhi⟩), min_eq_right (not_lt.1 hhi), max_eq_right (not_lt.1 hlo)]
      exact ⟨hw x (not_lt.1 hlo) (not_lt.1 hhi), rfl⟩

/-! ### The sign bit (R103) -/

/-- A bit above the bits of a number is set by inverting it. -/
theorem xor_two_pow {n m : Nat} (hm : m < 2 ^ n) : m ^^^ 2 ^ n = 2 ^ n + m := by
  have hor := Nat.two_pow_add_eq_or_of_lt hm 1
  rw [Nat.mul_one] at hor
  rw [hor]
  refine Nat.eq_of_testBit_eq fun j => ?_
  rw [Nat.testBit_xor, Nat.testBit_or, Nat.testBit_two_pow]
  by_cases hj : n = j
  · rw [← hj, Nat.testBit_lt_two_pow hm, Bool.false_xor, Bool.or_false]
  · rw [decide_eq_false hj, Bool.xor_false, Bool.false_or]

/-- Inverting the top bit of n + 1 bits. -/
theorem flip_top {n a : Nat} (ha : a < 2 ^ n * 2) : (if a / 2 ^ n % 2 = 0 then 2 ^ n + a % 2 ^ n else a % 2 ^ n) = a ^^^ 2 ^ n := by
  have hm : a % 2 ^ n < 2 ^ n := Nat.mod_lt _ (Nat.two_pow_pos n)
  have hdiv := Nat.div_add_mod a (2 ^ n)
  rcases Nat.le_one_iff_eq_zero_or_eq_one.1 (Nat.lt_succ_iff.1 (Nat.div_lt_of_lt_mul ha)) with h | h
  · rw [h, Nat.mul_zero, Nat.zero_add] at hdiv
    rw [h, if_pos rfl, hdiv, xor_two_pow (hdiv ▸ hm)]
  · rw [h, Nat.mul_one, ← xor_two_pow hm] at hdiv
    rw [h, if_neg Nat.one_ne_zero]
    nth_rw 2 [← hdiv]
    rw [Nat.xor_assoc, Nat.xor_self, Nat.xor_zero]

theorem top_of_isVF {t : Ty} (ht : isVF t = true) : mb t + eb t = width t - 1 := by
  induction t with
  | f16 | bf16 | f32 => rfl
  | _ => exact nomatch ht

/-- The sign of an operand that is no NaN is cleared, or inverted. -/
theorem fsign_spec {t : Ty} (ht : isVF t = true) {a : Nat} (ha : a < 2 ^ width t) (hn : val t a ≠ .nan) :
    fsign t false a = (a % 2 ^ (width t - 1), fNone) ∧ fsign t true a = (a ^^^ 2 ^ (width t - 1), fNone) := by
  unfold fsign
  rw [if_neg hn, if_neg hn, top_of_isVF ht, ← flip_top (Nat.two_pow_pred_mul_two (width_pos t) ▸ ha)]
  refine ⟨rfl, congrArg (·, fNone) (if_congr ?_ rfl rfl)⟩
  rw [Bool.true_and, decide_eq_true_iff]

end Sys2Proof.Machine

namespace Sys2Proof.Spec
open Sys2Proof Sys2Proof.Machine Sys2Proof.Machine.Num
set_option Elab.async false

/-- Settles O5: each operation by its lemma above; the bitwise ones are those of the natural numbers. -/
theorem integerResults : Obligations.IntegerResults := by
  unfold Obligations.IntegerResults
  refine ⟨fun t m r a b c ht ha hb hc => ?_, fun t m r a ht ha hn => fsign_spec ht ha hn,
    fun t m r a b ht ha hb => ⟨satInt_spec t _, satInt_spec t _⟩⟩
  have hk := mod_width_lt t b
  refine ⟨addOp_fst m r ha hb, subOp_fst m r ha hb, mulOp_fst m r ha hb, macOp_fst m r ha hb hc, negOp_fst m r ha,
    absOp_fst m r ha, ?_, ?_, ?_, notOp_fst m r ha, ?_, ?_, wrap_toInt_div_eq_sshiftRight (width_pos t) ha _, rotOp_fst m r ha,
    divOp_fst m r ha hb, remOp_fst m r ha hb, mulhOp_unsigned m r ha hb, mulhOp_signed m r ha hb, minOp_fst m r ha hb,
    maxOp_fst m r ha hb, clzOp_fst m r, popcOp_fst m r, ?_, ?_, ?_, ?_, ?_⟩
  · rw [BitVec.toNat_and, ofNat_toNat ha, ofNat_toNat hb]; rfl
  · rw [BitVec.toNat_or, ofNat_toNat ha, ofNat_toNat hb]; rfl
  · rw [BitVec.toNat_xor, ofNat_toNat ha, ofNat_toNat hb]; rfl
  · rw [BitVec.toNat_shiftLeft, ofNat_toNat ha, Nat.shiftLeft_eq]; rfl
  · rw [BitVec.toNat_ushiftRight, ofNat_toNat ha, Nat.shiftRight_eq_div_pow]; rfl
  · show (allOnesIf t _).1 = _
    rw [allOnesIf_fst]
    simp [arg, iv_inj ha hb]
  · show (allOnesIf t _).1 = _
    rw [allOnesIf_fst]
    simp [arg, iv_inj ha hb]
  · show (allOnesIf t (decide (iv t a < iv t b))).1 = _
    rw [allOnesIf_fst, lt_iff ha hb]
  · show (allOnesIf t (decide (iv t a ≤ iv t b))).1 = _
    rw [allOnesIf_fst, le_iff ha hb]
  · have hz : BitVec.ofNat (width t) c = 0 ↔ c = 0 := ofNat_inj hc (Nat.two_pow_pos _)
    show (if c = 0 then b else a) = _
    simp only [hz]
    split
    · rw [ofNat_toNat hb]
    · rw [ofNat_toNat ha]

end Sys2Proof.Spec
end

section
/-! PROOFS. Stores at homes and scrubs, byte by byte (R438, R439). -/

namespace Sys2Proof.KV
set_option Elab.async false
variable {α : Type}

theorem find_filter_fst (p : Nat → Bool) (l : List (Nat × α)) (k : Nat) :
    find (l.filter fun x => p x.1) k = if p k then find l k else none := by
  induction l with
  | nil => exact (ite_self none).symm
  | cons x l ih =>
    obtain ⟨j, v⟩ := x
    rw [List.filter_cons, find]
    by_cases hjk : j = k
    · subst hjk
      rw [if_pos rfl]
      rcases hp : p j with _ | _
      · rw [hp] at ih; exact ih
      · exact if_pos rfl
    · rw [if_neg hjk, ← ih]
      rcases p j with _ | _
      · rfl
      · exact if_neg hjk

theorem find_map_snd {β : Type} (f : α → β) (l : List (Nat × α)) (k : Nat) :
    find (l.map fun x => (x.1, f x.2)) k = (find l k).map f := by
  induction l with
  | nil => rfl
  | cons x l ih => obtain ⟨j, v⟩ := x; simp only [List.map_cons, find]; split <;> [rfl; exact ih]

end Sys2Proof.KV

namespace Sys2Proof.Machine
set_option Elab.async false

/-- Stores in DRAM change the bytes stored, each of them named once, and no others. -/
theorem State.putBytes_pa {s : State} (h : Memory.wf s.mem = true) {l : List (Nat × Byte)} (hn : (l.map (·.1)).Nodup) :
    let t := s.putBytes (l.map fun x => (.pa x.1, x.2))
    (∀ x ∈ l, Memory.get t.mem x.1 = x.2) ∧ (∀ a, a ∉ l.map (·.1) → Memory.get t.mem a = Memory.get s.mem a) ∧
    t.hostMem = s.hostMem ∧ t.cores = s.cores := by
  induction l generalizing s with
  | nil => exact ⟨nofun, fun _ _ => rfl, rfl, rfl⟩
  | cons y l ih =>
    have hwf : Memory.wf (s.putByte (.pa y.1) y.2).mem = true := State.wf_putByte h _ _
    obtain ⟨hy, hn'⟩ := List.nodup_cons.1 hn
    obtain ⟨hin, hout, hhost, hcores⟩ := ih hwf hn'
    refine ⟨fun x hx => ?_, fun a ha => ?_, hhost, hcores⟩
    · rcases List.mem_cons.1 hx with rfl | hx
      · exact (hout _ hy).trans (Memory.get_put_self h _ _)
      · exact hin x hx
    · rw [List.map_cons, List.mem_cons, not_or] at ha
      exact (hout a ha.2).trans (Memory.get_put_ne ha.1 _ _)

/-- Filling the hosts' translation caches for places of DRAM does nothing. -/
theorem State.hostFill_pa (l : List (Nat × Byte)) (s : State) :
    (l.map fun x => ((.pa x.1 : Loc), x.2)).foldl (fun t x => t.hostFill x.1) s = s := by
  induction l with
  | nil => rfl
  | cons x l ih => exact ih

theorem Memory.get_filter_range (m : Memory) (a n x : Nat) :
    Memory.get (m.filter fun y => !(decide (a ≤ y.1) && decide (y.1 < a + n))) x =
      if a ≤ x ∧ x < a + n then 0 else Memory.get m x := by
  unfold Memory.get KV.get
  rw [KV.find_filter_fst fun j => !(decide (a ≤ j) && decide (j < a + n))]
  by_cases h : a ≤ x ∧ x < a + n
  · rw [if_pos h, ← Bool.decide_and, decide_eq_true h]; rfl
  · rw [if_neg h, ← Bool.decide_and, decide_eq_false h]; rfl

/-- A core without its L1 copies of some lines. -/
noncomputable def Core.dropL1 (c : Core) (hit : Nat → Bool) : Core := { c with l1 := c.l1.filter fun y => !hit y.line }

/-- Copies of scrubbed lines go from L1; nothing else of a core changes. -/
theorem State.core_dropCopies (s : State) (l n k : Nat) :
    (s.dropCopies l n).core k = (s.core k).dropL1 fun j => decide (l ≤ j) && decide (j < l + n) := by
  show KV.get Core.reset (s.cores.map fun x => (x.1, x.2.dropL1 fun j => decide (l ≤ j) && decide (j < l + n))) k = _
  rw [KV.get, KV.find_map_snd (Core.dropL1 · _), State.core, KV.get]
  obtain ⟨⟩ := KV.find s.cores k <;> rfl

/-- A range of whole lines holds the addresses whose lines it holds. -/
theorem mem_lines_iff {a n : Nat} (ha : a % 128 = 0) (hn : n % 128 = 0) (x : Nat) :
    (a ≤ x ∧ x < a + n) ↔ (a / 128 ≤ x / 128 ∧ x / 128 < a / 128 + n / 128) := by
  obtain ⟨i, rfl⟩ := Nat.dvd_of_mod_eq_zero ha
  obtain ⟨j, rfl⟩ := Nat.dvd_of_mod_eq_zero hn
  rw [← Nat.mul_add, Nat.mul_div_cancel_left i (by decide), Nat.mul_div_cancel_left j (by decide), Nat.mul_comm, Nat.mul_comm 128]
  exact and_congr (Nat.le_div_iff_mul_le (by decide)).symm (Nat.div_lt_iff_lt_mul (by decide)).symm

theorem State.poisonedAt_scrubBytes (s : State) {a n : Nat} (ha : a % 128 = 0) (hn : n % 128 = 0) (x : Nat) :
    (s.scrubBytes a n).poisonedAt (.pa x) = if a ≤ x ∧ x < a + n then false else s.poisonedAt (.pa x) := by
  show (s.poison.filter fun l => !(decide (a / 128 ≤ l) && decide (l < a / 128 + n / 128))).contains (x / 128) = _
  rw [if_congr (mem_lines_iff ha hn x) rfl rfl, Bool.eq_iff_iff, List.contains_iff_mem, List.mem_filter, Bool.not_eq_true',
    ← Bool.decide_and, decide_eq_false_iff_not]
  by_cases h : a / 128 ≤ x / 128 ∧ x / 128 < a / 128 + n / 128
  · rw [if_pos h]
    exact ⟨fun hx => absurd h hx.2, fun hx => nomatch hx⟩
  · rw [if_neg h]
    exact (and_iff_left h).trans List.contains_iff_mem.symm

end Sys2Proof.Machine

namespace Sys2Proof.Spec
open Sys2Proof Sys2Proof.Machine
set_option Elab.async false

/-- Settles O25: a store writes its places one by one, a scrub filters its range out of memory. -/
theorem storesAndScrubsTouchOnly : Obligations.StoresAndScrubsTouchOnly := by
  unfold Obligations.StoresAndScrubsTouchOnly
  refine ⟨fun s asid l h hn => ?_, fun s a n h ha hn => ?_⟩
  · have hstore : s.storeHome asid (l.map fun x => (.pa x.1, x.2)) =
        (s.putBytes (l.map fun x => (.pa x.1, x.2))).noteWriter asid ((l.map fun x => ((.pa x.1 : Loc), x.2)).map (·.1)) := by
      rw [State.storeHome, State.hostFill_pa]
    obtain ⟨hin, hout, hhost, hcores⟩ := State.putBytes_pa h hn
    rw [hstore]
    exact ⟨State.wf_putBytes h _, hin, hout, fun k => congrArg (KV.get 0 · k) hhost, hcores⟩
  · exact ⟨State.wf_zeroBytes h a n, Memory.get_filter_range s.mem a n, State.poisonedAt_scrubBytes s ha hn, fun _ => rfl,
      fun k => congrArg (fun c : Core => { c with l1 := (s.core k).l1 }) (State.core_dropCopies (s.zeroBytes a n) _ _ k)⟩

end Sys2Proof.Spec
end

section
/-! PROOFS. A core reads its own stores from its phase log (R200, R202). -/

namespace Sys2Proof.Machine
set_option Elab.async false

/-! ### Bits and bytes gathered by OR -/

theorem getLsbD_foldl_or {α : Type} {w : Nat} (f : α → BitVec w) (l : List α) (m : BitVec w) (i : Nat) :
    (l.foldl (fun m x => m ||| f x) m).getLsbD i = (m.getLsbD i || l.any fun x => (f x).getLsbD i) := by
  induction l generalizing m with
  | nil => simp
  | cons x l ih => rw [List.foldl_cons, ih, BitVec.getLsbD_or, List.any_cons, Bool.or_assoc]

theorem getLsbD_foldl_or_zero {α : Type} {w : Nat} (f : α → BitVec w) (l : List α) (i : Nat) :
    (l.foldl (fun m x => m ||| f x) 0).getLsbD i = l.any fun x => (f x).getLsbD i := by
  rw [getLsbD_foldl_or]
  show ((0#w).getLsbD i || _) = _
  rw [BitVec.getLsbD_zero, Bool.false_or]

/-- A byte at its place in a doubleword has its bits there and no others. -/
theorem getLsbD_byte_at (b : Byte) (q : Nat) {r j : Nat} (hr : r < 8) (hj : j < 8) :
    (BitVec.ofNat 64 (b.toNat * 256 ^ q)).getLsbD (8 * r + j) = (decide (q = r) && b.getLsbD j) := by
  have h64 : 8 * r + j < 8 * 8 := Nat.lt_of_lt_of_le (Nat.add_lt_add_left hj _) (Nat.mul_le_mul_left 8 hr)
  have h256 : 256 ^ q = 2 ^ (8 * q) := (Nat.pow_mul 2 8 q).symm
  rw [BitVec.getLsbD_ofNat, decide_eq_true h64, Bool.true_and, h256, Nat.testBit_mul_two_pow]
  rcases Nat.lt_trichotomy q r with hq | hq | hq
  · have hbig : 8 ≤ 8 * r + j - 8 * q := Nat.le_sub_of_add_le' ((Nat.mul_le_mul_left 8 hq).trans (Nat.le_add_right _ j))
    rw [decide_eq_false hq.ne, Bool.false_and, Nat.testBit_lt_two_pow (b.isLt.trans_le (Nat.pow_le_pow_right (by decide) hbig)),
      Bool.and_false]
  · rw [hq, decide_eq_true (Nat.le_add_right _ j), decide_eq_true rfl, Nat.add_sub_cancel_left]
    rfl
  · have hlow : 8 * r + j < 8 * q := Nat.lt_of_lt_of_le (Nat.add_lt_add_left hj _) (Nat.mul_le_mul_left 8 hq)
    rw [decide_eq_false hq.ne', decide_eq_false (Nat.not_le.2 hlow), Bool.false_and, Bool.false_and]

/-- The bytes of one doubleword. -/
noncomputable def at8 (l : List (Nat × Byte)) (d : Nat) : List (Nat × Byte) := l.filter fun x => x.1 / 8 == d

noncomputable def storeMask (l : List (Nat × Byte)) (d : Nat) : BitVec 8 :=
  (at8 l d).foldl (fun m x => m ||| BitVec.ofNat 8 (2 ^ (x.1 % 8))) 0

noncomputable def storeVal (l : List (Nat × Byte)) (d : Nat) : W64 :=
  (at8 l d).foldl (fun v x => v ||| BitVec.ofNat 64 (x.2.toNat * 256 ^ (x.1 % 8))) 0

theorem storeBodies_eq (l : List (Nat × Byte)) :
    storeBodies l = ((l.map fun x => x.1 / 8).eraseDups).map fun d => (8 * d, .store (storeMask l d) (storeVal l d)) := rfl

theorem eq_of_div_mod {x y k : Nat} (hd : x / k = y / k) (hm : x % k = y % k) : x = y := by
  rw [← Nat.div_add_mod x k, hd, hm, Nat.div_add_mod]

/-- The mask of a doubleword names the bytes stored in it. -/
theorem storeMask_getLsbD (l : List (Nat × Byte)) (p : Nat) :
    (storeMask l (p / 8)).getLsbD (p % 8) = true ↔ p ∈ l.map (·.1) := by
  rw [storeMask, getLsbD_foldl_or_zero, List.mem_map]
  simp only [at8, List.any_filter, List.any_eq_true, Bool.and_eq_true, beq_iff_eq,
    BitVec.getLsbD_ofNat, Nat.testBit_two_pow, decide_eq_true_eq]
  refine exists_congr fun x => and_congr_right fun _ => ?_
  constructor
  · rintro ⟨hd, -, hm⟩
    exact eq_of_div_mod hd hm
  · rintro rfl
    exact ⟨rfl, Nat.mod_lt _ (by decide), rfl⟩

/-- The byte of a stored address is the one stored there. -/
theorem storeVal_byte {l : List (Nat × Byte)} (hn : (l.map (·.1)).Nodup) {x : Nat × Byte} (hx : x ∈ l) :
    (storeVal l (x.1 / 8)).extractLsb' (8 * (x.1 % 8)) 8 = x.2 := by
  refine BitVec.eq_of_getLsbD_eq fun j hj => ?_
  have hbit (y : Nat × Byte) : (BitVec.ofNat 64 (y.2.toNat * 256 ^ (y.1 % 8))).getLsbD (8 * (x.1 % 8) + j) =
      (decide (y.1 % 8 = x.1 % 8) && y.2.getLsbD j) := getLsbD_byte_at _ _ (Nat.mod_lt _ (by decide)) hj
  rw [BitVec.getLsbD_extractLsb', decide_eq_true hj, Bool.true_and, storeVal, getLsbD_foldl_or_zero, Bool.eq_iff_iff]
  simp only [at8, List.any_filter, List.any_eq_true, Bool.and_eq_true, beq_iff_eq, hbit,
    decide_eq_true_eq]
  constructor
  · rintro ⟨y, hy, hd, hm, hb⟩
    have hxy : y = x := List.inj_on_of_nodup_map hn hy hx (eq_of_div_mod hd hm)
    exact hxy ▸ hb
  · exact fun hb => ⟨x, hx, rfl, rfl, hb⟩

/-! ### The log after the entries of one store -/

/-- An entry without the mark that says where it lies. -/
noncomputable def LogEntry.bare (e : LogEntry) : LogEntry := { e with inL1 := false }

/-- What an entry gives at an address to a core in a group that runs an activation (R200). -/
noncomputable def entryBy (g : Option W16) (act : Option Act) (p : Nat) (e : LogEntry) : Option Byte :=
  if e.addr = p / 8 * 8 ∧ some e.phg = g ∧ (e.committed || act.any fun a => ownEntry a e) then
    match e.body with
    | .store m v => if m.getLsbD (p % 8) then some (v.extractLsb' (8 * (p % 8)) 8) else none
    | .merge _ _ _ _ => none
  else none

noncomputable def Core.entryByte (c : Core) (p : Nat) : LogEntry → Option Byte := entryBy c.group c.act p

theorem Core.ownByte_eq (c : Core) (p : Nat) : c.ownByte p = c.log.reverse.findSome? (c.entryByte p) := rfl

/-- An entry goes after the entries of its position and before. -/
theorem Core.addEntry_place (c : Core) (e : LogEntry) : ∃ b, (c.addEntry e).log =
    c.log.takeWhile (fun x => decide (x.pos ≤ e.pos)) ++ [{ e with inL1 := b }] ++
      c.log.drop (c.log.takeWhile fun x => decide (x.pos ≤ e.pos)).length := ⟨_, rfl⟩

/-- Entries younger than the log go to its end, in order. -/
theorem Core.addEntry_log {c : Core} {e : LogEntry} (h : ∀ x ∈ c.log, x.pos ≤ e.pos) :
    ∃ b, (c.addEntry e).log = c.log ++ [{ e with inL1 := b }] := by
  obtain ⟨b, hb⟩ := c.addEntry_place e
  rw [List.takeWhile_eq_self_iff.2 fun x hx => decide_eq_true (h x hx), List.drop_length, List.append_nil] at hb
  exact ⟨b, hb⟩

theorem Core.foldl_addEntry {es : List LogEntry} {k : Nat} (he : ∀ e ∈ es, e.pos = k) {c : Core}
    (h : ∀ x ∈ c.log, x.pos ≤ k) :
    let d := es.foldl Core.addEntry c
    (∃ es', d.log = c.log ++ es' ∧ es'.map LogEntry.bare = es.map LogEntry.bare) ∧ d.act = c.act ∧ d.brec = c.brec ∧ d.l1 = c.l1 := by
  induction es generalizing c with
  | nil => exact ⟨⟨[], (List.append_nil _).symm, rfl⟩, rfl, rfl, rfl⟩
  | cons e es ih =>
    obtain ⟨hk, he⟩ := List.forall_mem_cons.1 he
    obtain ⟨b, hb⟩ := Core.addEntry_log (c := c) (e := e) (hk ▸ h)
    obtain ⟨⟨es', hlog, hbare⟩, hrest⟩ := ih he (c := c.addEntry e)
      (hb ▸ List.forall_mem_append.2 ⟨h, List.forall_mem_singleton.2 hk.le⟩)
    refine ⟨⟨{ e with inL1 := b } :: es', ?_, congrArg (_ :: ·) hbare⟩, hrest⟩
    rw [List.foldl_cons, hlog, hb, List.append_assoc, List.singleton_append]

/-- A search that can succeed at one place only. -/
theorem findSome?_unique {α β : Type} [DecidableEq α] {f : α → Option β} {l : List α} {a : α} (h : ∀ x, x ≠ a → f x = none) :
    l.findSome? f = if a ∈ l then f a else none := by
  induction l with
  | nil => rfl
  | cons x l ih =>
    rw [List.findSome?_cons]
    by_cases hx : x = a
    · subst hx
      rw [if_pos List.mem_cons_self]
      rcases hf : f x with _ | y
      · exact ih.trans (by rw [hf, ite_self])
      · rfl
    · rw [h x hx]
      exact ih.trans (if_congr (List.mem_cons.trans (or_iff_right (Ne.symm hx))).symm rfl rfl)

/-- What the running activation's store entry of doubleword d gives at an address. -/
theorem Core.entryByte_storeEntry {c : Core} {a : Act} (ha : c.act = some a) (hv : recV c.curRec = true)
    (l : List (Nat × Byte)) (d p : Nat) :
    c.entryByte p (c.newEntry (8 * d) (.store (storeMask l d) (storeVal l d))) =
      if d = p / 8 ∧ p ∈ l.map (·.1) then some ((storeVal l d).extractLsb' (8 * (p % 8)) 8) else none := by
  by_cases hd : d = p / 8
  · subst hd
    have hown : (c.act.any fun b => ownEntry b (c.newEntry (8 * (p / 8)) (.store (storeMask l (p / 8)) (storeVal l (p / 8))))) = true := by
      rw [Core.newEntry, ha]
      simp [ownEntry]
    have hg : c.group = some (recPhg c.curRec) := if_pos hv
    exact (if_pos ⟨Nat.mul_comm 8 _, hg.symm, hown⟩).trans
      (if_congr ((storeMask_getLsbD l p).trans (and_iff_right rfl).symm) rfl rfl)
  · have hne : ¬8 * d = p / 8 * 8 := fun h => hd (Nat.eq_of_mul_eq_mul_left (by decide) (h.trans (Nat.mul_comm _ 8)))
    exact (if_neg fun h => hne h.1).trans (if_neg fun h => hd h.1).symm

/-- What an entry gives turns on the activation and the bind records only. -/
theorem Core.entryByte_congr {c d : Core} (ha : d.act = c.act) (hb : d.brec = c.brec) (p : Nat) :
    d.entryByte p = c.entryByte p := by
  have hr : d.curRec = c.curRec := by rw [Core.curRec, Core.curRec, ha, hb]
  have hg : d.group = c.group := congrArg (fun r => if recV r then some (recPhg r) else none) hr
  rw [Core.entryByte, Core.entryByte, hg, ha]

/-- The core at another store position. -/
noncomputable def Core.atPos (c : Core) (k : Nat) : Core := { c with pos := k }

theorem Core.addEntries_some {c d : Core} {es : List LogEntry} (h : c.addEntries es = some d) :
    ∃ k, d = (es.foldl Core.addEntry c).atPos k := by
  unfold Core.addEntries at h
  exact ⟨_, (Option.some.inj (Option.ite_none_left_eq_some.1 h).2).symm⟩

/-- What the entries of a store give at an address, wherever each of them lies. -/
theorem Core.findSome?_storeEntries {c : Core} {a : Act} (ha : c.act = some a) (hv : recV c.curRec = true)
    (l : List (Nat × Byte)) {es : List LogEntry} (h : es.map LogEntry.bare = (c.storeEntries l).map LogEntry.bare) (p : Nat) :
    es.reverse.findSome? (c.entryByte p) =
      if p ∈ l.map (·.1) then some ((storeVal l (p / 8)).extractLsb' (8 * (p % 8)) 8) else none := by
  have hbare (es : List LogEntry) :
      es.reverse.findSome? (c.entryByte p) = (es.map LogEntry.bare).reverse.findSome? (c.entryByte p) := by
    rw [← List.map_reverse, List.findSome?_map]; rfl
  have hent : c.storeEntries l = ((l.map fun x => x.1 / 8).eraseDups).map fun d =>
      c.newEntry (8 * d) (.store (storeMask l d) (storeVal l d)) := by
    rw [Core.storeEntries, storeBodies_eq, List.map_map]; rfl
  have hf : (c.entryByte p ∘ fun d => c.newEntry (8 * d) (.store (storeMask l d) (storeVal l d))) = fun d =>
      if d = p / 8 ∧ p ∈ l.map (·.1) then some ((storeVal l d).extractLsb' (8 * (p % 8)) 8) else none :=
    funext fun d => Core.entryByte_storeEntry ha hv l d p
  rw [hbare es, h, ← hbare, hent, ← List.map_reverse, List.findSome?_map, hf,
    findSome?_unique (a := p / 8) fun d hd => if_neg fun h => hd h.1]
  by_cases hp : p ∈ l.map (·.1)
  · obtain ⟨x, hx, rfl⟩ := List.mem_map.1 hp
    rw [if_pos (by rw [List.mem_reverse, List.mem_eraseDups]; exact List.mem_map.2 ⟨x, hx, rfl⟩), if_pos ⟨rfl, hp⟩, if_pos hp]
  · rw [if_neg (fun h : _ ∧ _ => hp h.2), if_neg hp, ite_self]

/-- What a core reads of its own after a store of the running activation (R200). -/
theorem Core.ownByte_addEntries {c c2 : Core} {a : Act} (ha : c.act = some a) (hv : recV c.curRec = true) {l : List (Nat × Byte)}
    (hpos : ∀ e ∈ c.log, e.pos ≤ c.pos) (h : c.addEntries (c.storeEntries l) = some c2) (p : Nat) :
    c2.ownByte p = (if p ∈ l.map (·.1) then some ((storeVal l (p / 8)).extractLsb' (8 * (p % 8)) 8) else c.ownByte p) ∧
      c2.l1 = c.l1 := by
  have hnew : ∀ e ∈ c.storeEntries l, e.pos = c.pos := by
    exact List.forall_mem_map.2 fun _ _ => rfl
  obtain ⟨⟨es, hlog, hbare⟩, hact, hbrec, hl1⟩ := Core.foldl_addEntry hnew hpos
  obtain ⟨k, rfl⟩ := Core.addEntries_some h
  have heb := Core.entryByte_congr (d := ((c.storeEntries l).foldl Core.addEntry c).atPos k) hact hbrec p
  refine ⟨?_, hl1⟩
  rw [Core.ownByte_eq, heb]
  show (List.foldl Core.addEntry c (c.storeEntries l)).log.reverse.findSome? _ = _
  rw [hlog, List.reverse_append, List.findSome?_append, Core.findSome?_storeEntries ha hv l hbare, Core.ownByte_eq]
  split <;> rfl

end Sys2Proof.Machine

namespace Sys2Proof.Spec
open Sys2Proof Sys2Proof.Machine
set_option Elab.async false

/-- Settles O30, from what the core's own entries give at each address. -/
theorem ownStoresRead : Obligations.OwnStoresRead := by
  unfold Obligations.OwnStoresRead
  intro s g a l c2 hs ha hv hn hpos hadd t
  have hcore : t.core g = c2 := State.core_setCore_self hs g c2
  have hread (p : Nat) := Core.ownByte_addEntries ha hv hpos hadd p
  refine ⟨fun x hx => ?_, fun p hp => ?_⟩
  · simp only [State.phasedByte, hcore, (hread x.1).1, if_pos (List.mem_map_of_mem hx), storeVal_byte hn hx]
  · simp only [State.phasedByte, hcore, (hread p).1, if_neg hp, Core.l1Find, (hread p).2]
    rfl

end Sys2Proof.Spec
end

section
/-! PROOFS. Events, kills of address spaces, and the alarm (R420 to R423, R437). -/

namespace Sys2Proof.KV
set_option Elab.async false
variable {α : Type}

/-- In a rising list each entry is the one found under its key. -/
theorem find_of_mem {l : List (Nat × α)} (h : sorted l = true) {x : Nat × α} (hx : x ∈ l) : find l x.1 = some x.2 := by
  induction l with
  | nil => cases hx
  | cons y l ih =>
    obtain ⟨j, v⟩ := y
    rcases List.mem_cons.1 hx with rfl | hx
    · simp [find]
    · have hne : j ≠ x.1 := Nat.ne_of_lt (sorted_lt h x hx)
      rw [find, if_neg hne, ih (sorted_tail h) hx]

end Sys2Proof.KV

namespace Sys2Proof.Machine
set_option Elab.async false

/-! ### Kills -/

theorem State.killDone_rest (s : State) (asid : W16) :
    let t := s.killDone asid
    t.sec = s.sec ∧ t.mem = s.mem ∧ t.hostMem = s.hostMem ∧ t.cores = s.cores ∧ t.spaces = s.spaces := by
  unfold State.killDone
  split
  · split <;> exact ⟨rfl, rfl, rfl, rfl, rfl⟩
  · exact ⟨rfl, rfl, rfl, rfl, rfl⟩

/-- A kill touches neither the security block, nor memory, nor the cores. -/
theorem State.kill_rest (s : State) (asid : W16) (cause : Nat) (code : Byte) :
    let t := s.kill asid cause code
    t.sec = s.sec ∧ t.mem = s.mem ∧ t.hostMem = s.hostMem ∧ t.cores = s.cores := by
  unfold State.kill
  split
  · exact ⟨rfl, rfl, rfl, rfl⟩
  · split
    · exact ⟨rfl, rfl, rfl, rfl⟩
    · obtain ⟨hsec, hmem, hhost, hcores, -⟩ := State.killDone_rest { s with spaces := _ } asid
      exact ⟨hsec, hmem, hhost, hcores⟩

/-- A kill of a space that still lives marks it, with the cause and the code; of any other it does nothing. -/
theorem State.kill_spaces (s : State) (asid : W16) (cause : Nat) (code : Byte) :
    (s.kill asid cause code).spaces = match KV.find s.spaces asid.toNat with
      | none => s.spaces
      | some r => if r.killed then s.spaces else KV.put asid.toNat
          { r with killed := true, cause := cause, code := code, killing := s.liveChips } s.spaces := by
  cases h : KV.find s.spaces asid.toNat with
  | none => simp only [State.kill, h]
  | some r =>
    simp only [State.kill, h]
    by_cases hk : r.killed = true
    · simp only [if_pos hk]
    · rw [if_neg hk, if_neg hk]
      exact (State.killDone_rest _ asid).2.2.2.2

/-- After a kill the space is not alive; every other entry is as it was. -/
theorem State.mem_kill_spaces {s : State} (h : KV.sorted s.spaces = true) {asid : W16} {cause : Nat} {code : Byte}
    {x : Nat × Space} (hx : x ∈ (s.kill asid cause code).spaces) : x.2.killed = true ∨ (x.1 ≠ asid.toNat ∧ x ∈ s.spaces) := by
  rw [State.kill_spaces] at hx
  have hfind := KV.find_of_mem h (x := x)
  split at hx
  · rename_i hn
    exact .inr ⟨fun e => (by rw [← e, hfind hx] at hn; cases hn), hx⟩
  · rename_i r hr
    split at hx
    · rename_i hk
      by_cases he : x.1 = asid.toNat
      · rw [← he, hfind hx] at hr
        cases hr; exact .inl hk
      · exact .inr ⟨he, hx⟩
    · have hput := KV.find_of_mem (KV.sorted_put h) hx
      by_cases he : x.1 = asid.toNat
      · rw [he, KV.find_put_self] at hput
        exact .inl (by rw [← Option.some.inj hput])
      · rcases KV.mem_put hx with rfl | hx
        · exact (he rfl).elim
        · exact .inr ⟨he, hx⟩

theorem State.sorted_kill {s : State} (h : KV.sorted s.spaces = true) (asid : W16) (cause : Nat) (code : Byte) :
    KV.sorted (s.kill asid cause code).spaces = true := by
  rw [State.kill_spaces]
  split <;> [exact h; (split <;> [exact h; exact KV.sorted_put h])]

/-- Killing every listed space leaves none alive, and touches nothing but the spaces and their events. -/
theorem State.killList (l : List (Nat × Space)) (hl : ∀ y ∈ l, y.1 < 65536) (cause : Nat) (code : Byte) {s : State}
    (h : KV.sorted s.spaces = true) (hs : ∀ x ∈ s.spaces, x.2.killed = true ∨ x.1 ∈ l.map (·.1)) :
    let t := l.foldl (fun t (y : Nat × Space) => t.kill (BitVec.ofNat 16 y.1) cause code) s
    (∀ x ∈ t.spaces, x.2.killed = true) ∧ t.sec = s.sec ∧ t.mem = s.mem ∧ t.hostMem = s.hostMem ∧ t.cores = s.cores := by
  induction l generalizing s with
  | nil => exact ⟨fun x hx => (hs x hx).resolve_right (by simp), rfl, rfl, rfl, rfl⟩
  | cons y l ih =>
    have hy : (BitVec.ofNat 16 y.1).toNat = y.1 := by
      rw [BitVec.toNat_ofNat, Nat.mod_eq_of_lt (hl y (by simp))]
    obtain ⟨hsec, hmem, hhost, hcores⟩ := State.kill_rest s (BitVec.ofNat 16 y.1) cause code
    obtain ⟨hk, hsec', hmem', hhost', hcores'⟩ := ih (fun z hz => hl z (by simp [hz]))
      (State.sorted_kill h (BitVec.ofNat 16 y.1) cause code) fun x hx => by
        rcases State.mem_kill_spaces h hx with hx | ⟨hne, hx⟩
        · exact .inl hx
        · exact (hs x hx).imp_right fun hin => (List.mem_cons.1 hin).resolve_left fun e => hne (e.trans hy.symm)
    exact ⟨hk, hsec'.trans hsec, hmem'.trans hmem, hhost'.trans hhost, hcores'.trans hcores⟩

/-! ### The alarm -/

/-- The security block with one alarm event more counted and latched (R421). -/
noncomputable def Security.counted (x : Security) (bits : BitVec 4) : Security :=
  { x with acnt := if x.acnt = 0xFFFFFFFF then x.acnt else x.acnt + 1, lat := x.lat ||| bits, window := none }

/-- The state with an alarm event counted and logged, before its policy. -/
noncomputable def State.counted (s : State) (bits : BitVec 4) : State :=
  ({ s with sec := s.sec.counted bits } : State).event 3 (bits.zeroExtend 8) 0 0 0 0 0 (s.sec.counted bits).acnt.toNat 0

/-- The block under a policy that is not 0 (R422, R423). -/
noncomputable def Security.halted (x : Security) (p : Nat) : Security :=
  { x with boot := 5, stopped := x.stopped || p == 2, erasing := x.erasing || p == 2 }

/-- Under policy 0 an alarm event is counted and logged. -/
theorem State.alarm_policy0 {s : State} {bits : BitVec 4} (h : strictest s.sec.almpol bits = 0) :
    s.alarm bits = s.counted bits := by
  simp only [State.alarm, if_pos h]
  rfl

/-- Under any other policy it also halts the module with every space killed, and touches neither memory nor the cores. -/
theorem State.alarm_policy {s : State} {bits : BitVec 4} (h : strictest s.sec.almpol bits ≠ 0)
    (hs : KV.sorted s.spaces = true) (hk : ∀ x ∈ s.spaces, x.1 < 65536) :
    let t := s.alarm bits
    t.sec = (s.sec.counted bits).halted (strictest s.sec.almpol bits) ∧ t.mem = s.mem ∧ t.hostMem = s.hostMem ∧
    t.cores = s.cores ∧ ∀ x ∈ t.spaces, x.2.killed = true := by
  obtain ⟨hkill, hsec, hmem, hhost, hcores⟩ := State.killList s.spaces hk 4 FCode.alarm.code (s := s.counted bits) hs
    fun x hx => .inr (List.mem_map_of_mem hx)
  have halarm : s.alarm bits =
      let u := s.spaces.foldl (fun t (y : Nat × Space) => t.kill (BitVec.ofNat 16 y.1) 4 FCode.alarm.code) (s.counted bits)
      { u with sec := u.sec.halted (strictest s.sec.almpol bits) } := by
    simp only [State.alarm, if_neg h]
    rfl
  rw [halarm]
  exact ⟨congrArg (Security.halted · _) hsec, hmem, hhost, hcores, hkill⟩

/-- The outcome of a step is one state. -/
theorem acnt_of_next {t u : State} (h : (.next t : Out) = .next u) : u.sec.acnt = t.sec.acnt :=
  congrArg (fun t : State => t.sec.acnt) (Host.Outcome.next.inj h).symm

theorem State.alarmEvent_none {s : State} (h : s.sec.window = none) : s.alarmEvent = s := by
  unfold State.alarmEvent
  rw [h]

theorem State.alarmEvent_over {s : State} {k : Int} {b : BitVec 4} (h : s.sec.window = some (k, b)) (hk : k + 1500 ≤ s.now) :
    s.alarmEvent = s.alarm b := by
  unfold State.alarmEvent
  rw [h]
  exact if_pos hk

/-- A sensor that trips opens the window, or joins it; only an event that was due is counted. -/
theorem sensorTrip_acnt {s u : State} {k : Nat} (h : exec (.sensorTrip k) s = .next u) : u.sec.acnt = s.alarmEvent.sec.acnt := by
  by_cases hk : 4 ≤ k
  · exact nomatch (if_pos hk).symm.trans h
  · have h' := (if_neg hk).symm.trans h
    exact (acnt_of_next h' :)

theorem eraseComplete_acnt {s u : State} (h : exec .eraseComplete s = .next u) : u.sec.acnt = s.sec.acnt := by
  refine (acnt_of_next h).trans ?_
  split <;> rfl

/-- RESET counts an event whose window is open. -/
theorem resetAll_acnt {s u : State} (h : exec .resetAll s = .next u) :
    (s.sec.window = none → u.sec.acnt = s.sec.acnt) ∧ ∀ k b, s.sec.window = some (k, b) → u.sec.acnt = (s.alarm b).sec.acnt := by
  refine ⟨fun hw => (acnt_of_next h).trans ?_, fun k b hw => (acnt_of_next h).trans ?_⟩ <;>
    exact (show s.secKept.acnt = _ by unfold State.secKept; rw [hw])

end Sys2Proof.Machine

namespace Sys2Proof.Spec
open Sys2Proof Sys2Proof.Machine
set_option Elab.async false

/-- Settles O50: the two policies of an alarm, and the events of an open window. -/
theorem alarmCounter : Obligations.AlarmCounter := by
  unfold Obligations.AlarmCounter
  intro s bits hs hk t p
  have hall : t.sec.acnt = (s.sec.counted bits).acnt ∧ t.sec.lat = s.sec.lat ||| bits ∧
      t.sec.window = none ∧ sameMemory s t ∧ t.cores = s.cores := by
    by_cases hp : p = 0
    · rw [show t = _ from State.alarm_policy0 hp]
      exact ⟨rfl, rfl, rfl, ⟨fun _ => rfl, fun _ => rfl⟩, rfl⟩
    · obtain ⟨hsec, hmem, hhost, hcores, -⟩ := State.alarm_policy hp hs hk
      exact ⟨(congrArg Security.acnt hsec :), (congrArg Security.lat hsec :), (congrArg Security.window hsec :),
        ⟨fun a => by rw [hmem], fun k => by rw [hhost]⟩, hcores⟩
  obtain ⟨hacnt, hlat, hwin, hmem, hcores⟩ := hall
  refine ⟨hacnt, fun u => resetAll_acnt, fun u => eraseComplete_acnt, fun k u hw hu => ?_, fun k b u hw hk hu => ?_,
    hlat, hwin, hmem, hcores, fun hp => ?_, fun hp => ?_⟩
  · exact (sensorTrip_acnt hu).trans (by rw [State.alarmEvent_none hw])
  · exact (Host.Outcome.next.inj hu).symm.trans (State.alarmEvent_over hw hk)
  · rw [show t = _ from State.alarm_policy0 hp]
    exact ⟨rfl, rfl, rfl, rfl⟩
  · obtain ⟨hsec, -, -, -, hkill⟩ := State.alarm_policy hp hs hk
    exact ⟨(congrArg Security.boot hsec :), hkill, (congrArg Security.stopped hsec :), (congrArg Security.erasing hsec :)⟩

end Sys2Proof.Spec
end

section
/-! PROOFS. What a step runs. -/

namespace Sys2Proof.Machine
set_option Elab.async false

/-- A core whose slot is in its buffer, with the LIVE word that its instruction may need, fetches no line. -/
theorem Core.needsLine_none {c : Core} {w : Slot} {i : Instr} (hs : c.slot? = some w) (hd : decode w = .ok i)
    (hl : spOf i = true → c.line (nextSlot c.pc) ≠ none) : c.needsLine = none := by
  have hw : (spWord w && (c.line (nextSlot c.pc)).isNone) = false := by
    rw [spWord, hd]
    induction hsp : spOf i with
    | false => simp [hsp]
    | true => simp [hsp, Option.ne_none_iff_isSome.1 (hl hsp)]
  rw [Core.needsLine, hs]
  simp [hw]

/-- With nothing else for the core in hand to do, its next row is the instruction at PC. -/
theorem State.nextRow_decoded {s : State} {w : Slot} {i : Instr} (ha : (s.core s.self).act ≠ none)
    (hk : s.killDue (s.self / 64) (s.core s.self).asid = false) (hh : s.hopping s.self = false)
    (hy : (s.core s.self).async = []) (hst : s.stopsNow s.self = false) (hdr : s.drains s.self = false)
    (hw : (s.core s.self).wait = .none ∨ (s.core s.self).pend = []) (hr : s.waitRow s.self = none)
    (hf : (s.core s.self).refetch = none) (hs : (s.core s.self).slot? = some w) (hd : decode w = .ok i)
    (hl : spOf i = true → (s.core s.self).line (nextSlot (s.core s.self).pc) ≠ none) : s.nextRow = .run i := by
  obtain ⟨a, ha⟩ := Option.ne_none_iff_exists'.1 ha
  have hwait : ((s.core s.self).wait != .none && !(s.core s.self).pend.isEmpty) = false := by
    rcases hw with h | h <;> simp [h]
  simp [State.nextRow, ha, hk, hh, hy, hst, hdr, hwait, hr, hf, Core.needsLine_none hs hd hl, hs, hd]

theorem stepCore_eq_exec {s : State} {i : Instr} (h : s.nextRow = .run i) : stepCore s = exec i s := by
  rw [stepCore, h]

end Sys2Proof.Machine

namespace Sys2Proof.Spec
open Sys2Proof Sys2Proof.Machine
set_option Elab.async false

/-- Settles O55: nothing else to do leaves the decoded slot as the next row; a turn's row is a branch of `step`. -/
theorem stepRunsDecoded : Obligations.StepRunsDecoded := by
  unfold Obligations.StepRunsDecoded
  refine ⟨?_, fun s t ts ht => ⟨fun i hi hag => ?_, fun g he hg => ?_, fun he hg => ?_⟩, fun s ht => ?_⟩
  · intro s w i ht c ha hk hh hy hst hdr hw hr hf hs hd hl
    rw [step, ht]
    exact stepCore_eq_exec (State.nextRow_decoded ha hk hh hy hst hdr hw hr hf hs hd hl)
  · have hrow : isAgentRow i = true := by rw [isAgentRow, hag]; rfl
    simp only [step, ht, hi, hrow, if_true]
  · simp only [step, ht, he, hg]
  · simp only [step, ht, he, hg]
  · rw [step, ht]

end Sys2Proof.Spec
end

section
/-! PROOFS. The elements that a source supplies, and where result elements go (R39, R44 to R46, R84, R86, R87). -/

namespace Sys2Proof.Machine
open Sys2Proof.Machine.Num
set_option Elab.async false

/-- A type of at most 32 bits fills a lane with whole elements. -/
theorem elems_fill {t : Ty} (hw : width t ≤ 32) : 32 / width t * width t = 32 := by
  obtain ⟨⟩ := t
  case i64 | u64 => exact absurd hw (by decide)
  all_goals rfl

/-! ### Elements in lanes -/

/-- An element of at most 32 bits lies in one lane, at its place in the row of bits. -/
theorem elem_place {t : Ty} (hw : width t ≤ 32) (e : Nat) :
    e / (32 / width t) = e * width t / 32 ∧ e % (32 / width t) * width t = e * width t % 32 := by
  have h := elems_fill hw
  constructor
  · rw [← Nat.mul_div_mul_right e (32 / width t) (width_pos t), h]
  · rw [← Nat.mul_mod_mul_right, h]

theorem elemAt_narrow {t : Ty} (hw : width t ≤ 32) (l : List Lane) (e : Nat) :
    elemAt t l e = ⟨((l.getD (e * width t / 32) ⟨0, false⟩).w.extractLsb' (e * width t % 32) (width t)).toNat,
      (l.getD (e * width t / 32) ⟨0, false⟩).v⟩ := by
  obtain ⟨hlane, hbit⟩ := elem_place hw e
  rw [elemAt, if_neg (Nat.ne_of_lt (Nat.lt_of_le_of_lt hw (by decide)))]
  dsimp only
  rw [hlane, hbit, BitVec.extractLsb'_toNat, Nat.shiftRight_eq_div_pow]

theorem elemAt_wide {t : Ty} (hw : width t = 64) (l : List Lane) (e : Nat) :
    elemAt t l e = ⟨((l.getD (2 * e + 1) ⟨0, false⟩).w ++ (l.getD (2 * e) ⟨0, false⟩).w).toNat,
      (l.getD (2 * e) ⟨0, false⟩).v && (l.getD (2 * e + 1) ⟨0, false⟩).v⟩ := by
  rw [elemAt, if_pos hw, BitVec.toNat_append, Nat.shiftLeft_eq, Nat.mul_comm _ (2 ^ 32),
    ← Nat.two_pow_add_eq_or_of_lt (BitVec.isLt _)]
  dsimp only
  rw [Nat.add_comm (BitVec.toNat _)]

/-- The lanes of n elements hold every bit of each of them. -/
theorem lane_lt (t : Ty) {n e : Nat} (he : e < n) : e * width t / 32 < lanesFor t n := by
  have h : e * width t + 32 ≤ n * width t + 31 := Nat.add_le_add_right (Nat.mul_lt_mul_of_pos_right he (width_pos t)) 31
  exact Nat.lt_of_lt_of_le (Nat.lt_succ_self _)
    ((Nat.add_div_right (e * width t) (z := 32) (by decide)).symm.trans_le (Nat.div_le_div_right h))

theorem wide_lt {t : Ty} (hw : width t = 64) {n e : Nat} (he : e < n) : 2 * e + 1 < lanesFor t n := by
  have h : 2 * n * 32 ≤ n * 64 + 31 := by
    rw [Nat.mul_comm 2 n, Nat.mul_assoc]
    exact Nat.le_add_right _ _
  rw [lanesFor, hw]
  exact Nat.lt_of_lt_of_le (Nat.mul_le_mul_left 2 he) ((Nat.le_div_iff_mul_le (by decide)).2 h)

theorem elemsOf_getElem? {t : Ty} {l : List Lane} {n e : Nat} (he : e < n) : (elemsOf t l n)[e]? = some (elemAt t l e) := by
  simp [elemsOf, he]

theorem getD_map_range {α : Type} {f : Nat → α} {n k : Nat} (h : k < n) (d : α) : ((List.range n).map f).getD k d = f k := by
  simp [h]

theorem getD_take {α : Type} {l : List α} {n k : Nat} (h : k < n) (d : α) : (l.take n).getD k d = l.getD k d := by
  simp [List.getD, h]

/-- An integer immediate is its value in the type's width (R44). -/
theorem immElem_int {t : Ty} (h : isInt t = true) (sat : Bool) (v : BitVec 13) :
    immElem t sat v = (⟨(v.signExtend (width t)).toNat, true⟩, fNone) := by
  rw [immElem, if_pos h, wrap_eq_toNat_ofInt]
  rfl

/-- A scratchpad source whose words are sound is read, its banks awake. -/
theorem Core.readElems_mem {c : Core} {fill : BitVec 3 → Bool} {fp n : Nat} {t : Ty} {k : BitVec 3} {ds : BitVec 10}
    (h : c.sound (c.opAddr fp (.mem k ds)).toNat (4 * lanesFor t n) = true) :
    c.readElems fill fp (.mem k ds) t n = .ok (c.wakeBanks (c.opAddr fp (.mem k ds)).toNat (4 * lanesFor t n),
      elemsOf t (c.spWords (c.opAddr fp (.mem k ds)).toNat (lanesFor t n)) n, fNone) := by
  simp only [Core.readElems, Core.readLanes, Core.readable, h, if_true]

end Sys2Proof.Machine

namespace Sys2Proof.Spec
open Sys2Proof Sys2Proof.Machine Sys2Proof.Machine.Num
set_option Elab.async false

/-- Settles O6: element e of the lanes that each kind of source holds. -/
theorem sourceElements : Obligations.SourceElements := by
  unfold Obligations.SourceElements
  intro c fill fp t n e ht he hn
  have hlt := lane_lt t he
  refine ⟨fun k ds => ⟨_, rfl, by simp [he]⟩, fun v hi => ?_, ⟨_, rfl, fun hw => ?_, fun hw => ?_⟩, ?_, fun k q rest hq => ?_,
    fun k q => rfl, fun k hq hf => ?_⟩
  · refine ⟨List.replicate n ⟨(v.signExtend (width t)).toNat, true⟩, ?_, by simp [he]⟩
    simp only [Core.readElems, immElem_int hi]
  · rw [elemsOf_getElem? he, elemAt_narrow hw, getD_map_range hlt]
  · rw [elemsOf_getElem? he, elemAt_wide hw, getD_map_range (wide_lt hw he), getD_map_range (Nat.lt_of_succ_lt (wide_lt hw he))]
  · intro k ds o hs
    refine ⟨_, _, Core.readElems_mem hs, rfl, rfl, fun hw => ?_⟩
    rw [elemsOf_getElem? he, elemAt_narrow hw, Core.spWords, getD_map_range hlt]
  · refine ⟨elemsOf t (q.toList.take (lanesFor t n)) n, ?_, fun hw => ?_⟩
    · simp only [Core.readElems, Core.readLanes, hq]
    · rw [elemsOf_getElem? he, elemAt_narrow hw, getD_take hlt]
  · simp only [Core.readElems, Core.readLanes, hq, hf, if_true]

end Sys2Proof.Spec
end

section
/-! PROOFS. Where result elements go, and what stays (R45, R86, R87). -/

namespace Sys2Proof.Machine
open Sys2Proof.Machine.Num
set_option Elab.async false

/-! ### The accumulator -/

theorem Core.alane_setA {c : Core} {j k : Nat} (hk : k < 16) (w : W32) (v : Bool) :
    (c.setA j w v).alane k = if j = k then ⟨w, v, if v then tagOf w else (c.alane k).tag⟩ else c.alane k := by
  by_cases h : j = k
  · subst h
    exact (getD_set!_self _ hk _ _).trans (if_pos rfl).symm
  · exact (getD_set!_ne _ h _ _).trans (if_neg h).symm

/-- Lanes written in turn from lane `i` on. -/
theorem Core.alane_foldl_setA (ls : List LaneOut) (i : Nat) {c : Core} {k : Nat} (hk : k < 16) :
    ((ls.zipIdx i).foldl (fun c x => c.setA x.2 (x.1.over (c.alane x.2).w) x.1.v) c).alane k =
      match if i ≤ k then ls[k - i]? else none with
      | some x => ⟨x.over (c.alane k).w, x.v, if x.v then tagOf (x.over (c.alane k).w) else (c.alane k).tag⟩
      | none => c.alane k := by
  induction ls generalizing i c with
  | nil => simp
  | cons y ls ih =>
    rw [List.zipIdx_cons, List.foldl_cons, ih, Core.alane_setA hk]
    obtain hlt | rfl | hgt := Nat.lt_trichotomy k i
    · rw [if_neg (Nat.ne_of_gt hlt), if_neg (Nat.not_le.2 (Nat.lt_succ_of_lt hlt)), if_neg (Nat.not_le.2 hlt)]
    · rw [if_neg (Nat.not_succ_le_self k), if_pos rfl, if_pos (Nat.le_refl k), Nat.sub_self]
      rfl
    · obtain ⟨m, rfl⟩ := Nat.exists_eq_add_of_lt hgt
      rw [if_neg (Nat.ne_of_lt hgt), if_pos (Nat.succ_le_of_lt hgt), if_pos (Nat.le_of_lt hgt), Nat.add_sub_add_right,
        Nat.add_sub_cancel_left, Nat.add_assoc i m 1, Nat.add_sub_cancel_left, List.getElem?_cons_succ]

theorem lanesOut_getElem? (t : Ty) (els : List El) (k : Nat) :
    (lanesOut t els)[k]? = if k < lanesFor t els.length then some (laneOut t els k) else none := by
  by_cases h : k < lanesFor t els.length <;> simp [lanesOut, h]

/-! ### The bits of one lane -/

/-- The bits an element puts into a lane as its j-th element. -/
noncomputable def elemBits (w j : Nat) : Option El → W32
  | some e => BitVec.ofNat 32 (e.b % 2 ^ w * 2 ^ (j * w))
  | none => 0

/-- The bits a valid element takes of a lane. -/
noncomputable def elemMask (w j : Nat) : Option El → W32
  | some e => if e.v then BitVec.ofNat 32 ((2 ^ w - 1) * 2 ^ (j * w)) else 0
  | none => 0

/-- An element that is there is valid. -/
noncomputable def elemOk : Option El → Bool
  | some e => e.v
  | none => true

/-- One element more in a lane. -/
noncomputable def LaneOut.put (x : LaneOut) (w j : Nat) (e : Option El) : LaneOut :=
  ⟨x.w ||| elemBits w j e, x.m ||| elemMask w j e, x.v && elemOk e⟩

theorem LaneOut.foldl_put (w : Nat) (el : Nat → Option El) (js : List Nat) (x : LaneOut) :
    js.foldl (fun x j => x.put w j (el j)) x =
      ⟨js.foldl (fun a j => a ||| elemBits w j (el j)) x.w, js.foldl (fun a j => a ||| elemMask w j (el j)) x.m,
        x.v && js.all fun j => elemOk (el j)⟩ := by
  induction js generalizing x with
  | nil => simp
  | cons j js ih => rw [List.foldl_cons, ih]; simp [LaneOut.put, Bool.and_assoc]

theorem LaneOut.put_some (x : LaneOut) (w j : Nat) (e : El) :
    x.put w j (some e) = ⟨x.w ||| BitVec.ofNat 32 (e.b % 2 ^ w * 2 ^ (j * w)),
      if e.v then x.m ||| BitVec.ofNat 32 ((2 ^ w - 1) * 2 ^ (j * w)) else x.m, x.v && e.v⟩ := by
  induction hv : e.v <;> simp [LaneOut.put, elemBits, elemMask, elemOk, hv]

theorem LaneOut.put_none (x : LaneOut) (w j : Nat) : x.put w j none = x := by
  simp [LaneOut.put, elemBits, elemMask, elemOk]

/-- A lane of elements of at most 32 bits: bits and masks gathered, valid where every element is. -/
theorem laneOut_narrow {t : Ty} (hw : width t ≤ 32) (els : List El) (k : Nat) :
    laneOut t els k = (List.range (32 / width t)).foldl (fun x j => x.put (width t) j els[k * (32 / width t) + j]?) ⟨0, 0, true⟩ := by
  rw [laneOut, if_neg (Nat.ne_of_lt (Nat.lt_of_le_of_lt hw (by decide)))]
  dsimp only
  congr 1
  funext x j
  split
  · rename_i h; rw [h, LaneOut.put_some]
  · rename_i h; rw [h, LaneOut.put_none]

/-- A field at its place in a lane. -/
theorem getLsbD_field_at {w j r i x : Nat} (hx : x < 2 ^ w) (hi : i < w) (h32 : r * w + i < 32) :
    (BitVec.ofNat 32 (x * 2 ^ (j * w))).getLsbD (r * w + i) = (decide (j = r) && x.testBit i) := by
  rw [BitVec.getLsbD_ofNat, decide_eq_true h32, Bool.true_and, Nat.testBit_mul_two_pow]
  rcases Nat.lt_trichotomy j r with h | h | h
  · have hstep : (j + 1) * w ≤ r * w := Nat.mul_le_mul_right w h
    have hbig : x < 2 ^ (r * w + i - j * w) :=
      Nat.lt_of_lt_of_le hx (Nat.pow_le_pow_right (by decide)
        (Nat.le_sub_of_add_le' (Nat.le_trans (Nat.succ_mul j w ▸ hstep) (Nat.le_add_right _ i))))
    rw [Nat.testBit_lt_two_pow hbig, Bool.and_false, decide_eq_false (Nat.ne_of_lt h), Bool.false_and]
  · subst h; simp
  · have hstep : (r + 1) * w ≤ j * w := Nat.mul_le_mul_right w h
    rw [decide_eq_false (Nat.not_le.2 (Nat.lt_of_lt_of_le (Nat.add_lt_add_left hi _) (Nat.succ_mul r w ▸ hstep))), decide_eq_false (Nat.ne_of_gt h), Bool.false_and, Bool.false_and]

theorem elemMask_bit {w j r i : Nat} (hi : i < w) (h32 : r * w + i < 32) (o : Option El) :
    (elemMask w j o).getLsbD (r * w + i) = (decide (j = r) && o.any (·.v)) := by
  induction o with
  | none => simp [elemMask]
  | some e =>
    have hone : (2 ^ w - 1).testBit i = true := by simp [hi]
    induction hv : e.v with
    | false => simp [elemMask, hv]
    | true =>
      simp only [elemMask, hv, if_true, Option.any_some, Bool.and_true]
      rw [getLsbD_field_at (Nat.sub_lt (Nat.two_pow_pos w) Nat.one_pos) hi h32, hone, Bool.and_true]

theorem elemBits_bit {w j r i : Nat} (hi : i < w) (h32 : r * w + i < 32) (o : Option El) :
    (elemBits w j o).getLsbD (r * w + i) = (decide (j = r) && o.any fun e => (e.b % 2 ^ w).testBit i) := by
  induction o with
  | none => simp [elemBits]
  | some e => exact getLsbD_field_at (Nat.mod_lt _ (Nat.two_pow_pos w)) hi h32

theorem any_range_eq {n r : Nat} (hr : r < n) (f : Nat → Bool) : ((List.range n).any fun j => decide (j = r) && f j) = f r := by
  rw [Bool.eq_iff_iff, List.any_eq_true]
  constructor
  · rintro ⟨j, -, h⟩
    simp only [Bool.and_eq_true, decide_eq_true_eq] at h
    exact h.1 ▸ h.2
  · exact fun h => ⟨r, List.mem_range.2 hr, by simp [h]⟩

/-- The mask and the bits of a lane where its element r lies. -/
theorem laneOut_bit {t : Ty} (hw : width t ≤ 32) {els : List El} {k r i : Nat} {e : El} (hr : r < 32 / width t)
    (hi : i < width t) (he : els[k * (32 / width t) + r]? = some e) :
    (laneOut t els k).m.getLsbD (r * width t + i) = e.v ∧
      (laneOut t els k).w.getLsbD (r * width t + i) = (e.b % 2 ^ width t).testBit i := by
  have h32 : r * width t + i < 32 := by
    have h1 : (r + 1) * width t ≤ 32 / width t * width t := Nat.mul_le_mul_right _ hr
    have h2 := Nat.div_mul_le_self 32 (width t)
    exact Nat.lt_of_lt_of_le (Nat.add_lt_add_left hi _) (Nat.le_trans (Nat.succ_mul r (width t) ▸ h1) h2)
  rw [laneOut_narrow hw, LaneOut.foldl_put]
  dsimp only
  rw [getLsbD_foldl_or_zero, getLsbD_foldl_or_zero]
  simp only [elemMask_bit hi h32, elemBits_bit hi h32, any_range_eq hr, he, Option.any_some, and_self]

/-- A lane is valid where every element in it is. -/
theorem laneOut_valid {t : Ty} (hw : width t ≤ 32) (els : List El) (k : Nat) :
    (laneOut t els k).v = true ↔ ∀ r u, r < 32 / width t → els[k * (32 / width t) + r]? = some u → u.v = true := by
  rw [laneOut_narrow hw, LaneOut.foldl_put]
  simp only [Bool.true_and, List.all_eq_true, List.mem_range]
  refine ⟨fun h r u hr hu => ?_, fun h r hr => ?_⟩
  · have := h r hr
    rwa [hu] at this
  · induction hu : els[k * (32 / width t) + r]? with
    | none => rfl
    | some u => exact h r u hr hu

/-- A written lane has the new bits under its mask and the old ones elsewhere. -/
theorem LaneOut.getLsbD_over (x : LaneOut) (old : W32) (k : Nat) :
    (x.over old).getLsbD k = if x.m.getLsbD k then x.w.getLsbD k else old.getLsbD k := by
  rw [LaneOut.over, BitVec.getLsbD_or, BitVec.getLsbD_and, BitVec.getLsbD_and, BitVec.getLsbD_not]
  by_cases hk : k < 32
  · obtain ⟨⟩ := x.m.getLsbD k <;> simp [hk]
  · simp [BitVec.getLsbD_of_ge _ k (Nat.le_of_not_lt hk)]

/-- The place of an element in a written lane holds its bits where it is valid, else what it held (R86). -/
theorem LaneOut.over_element {t : Ty} (hw : width t ≤ 32) {els : List El} {e : Nat} {v : El} (old : W32)
    (he : els[e]? = some v) :
    (((laneOut t els (e * width t / 32)).over old).extractLsb' (e * width t % 32) (width t)).toNat =
      if v.v then v.b % 2 ^ width t else (old.extractLsb' (e * width t % 32) (width t)).toNat := by
  obtain ⟨hlane, hbit⟩ := elem_place hw e
  have hper : 0 < 32 / width t := Nat.div_pos hw (width_pos t)
  have hr : e % (32 / width t) < 32 / width t := Nat.mod_lt _ hper
  have he' : els[e / (32 / width t) * (32 / width t) + e % (32 / width t)]? = some v := by
    rwa [Nat.div_add_mod']
  rw [← hlane, ← hbit]
  refine Nat.eq_of_testBit_eq fun j => ?_
  rw [BitVec.testBit_toNat, BitVec.getLsbD_extractLsb', LaneOut.getLsbD_over]
  by_cases hj : j < width t
  · obtain ⟨hm, hb⟩ := laneOut_bit hw hr hj he'
    rw [hm, hb]
    induction v.v <;> simp [hj, BitVec.testBit_toNat]
  · have hlt : v.b % 2 ^ width t < 2 ^ j :=
      Nat.lt_of_lt_of_le (Nat.mod_lt _ (Nat.two_pow_pos _)) (Nat.pow_le_pow_right (by decide) (Nat.le_of_not_lt hj))
    cases v.v <;> simp [hj, BitVec.testBit_toNat, Nat.testBit_lt_two_pow hlt]

/-! ### P registers -/

theorem toInt_true_eq {w : Nat} (hw : 0 < w) (b : Nat) : toInt true w b = (BitVec.ofNat w b).toInt := by
  have h1 : toInt true w (b % 2 ^ w) = toInt true w b := by simp only [toInt, Nat.mod_mod]
  have h2 : BitVec.ofNat w (b % 2 ^ w) = BitVec.ofNat w b := BitVec.eq_of_toNat_eq (by simp)
  rw [← h1, toInt_true_eq_toInt_ofNat hw (Nat.mod_lt _ (Nat.two_pow_pos w)), h2]

/-- An element extends to a P register as its type says (R45). -/
theorem extElem_eq (t : Ty) (b : Nat) :
    (isSigned t = true → extElem t b = (BitVec.ofNat (width t) b).signExtend 64) ∧
    (isSigned t = false → extElem t b = (BitVec.ofNat (width t) b).zeroExtend 64) := by
  refine ⟨fun h => ?_, fun h => ?_⟩
  · rw [extElem, if_pos h, toInt_true_eq (width_pos t)]; rfl
  · rw [extElem, if_neg (by simp [h])]
    exact BitVec.eq_of_toNat_eq (by simp)

/-! ### Scratchpad words -/

theorem Core.makeIrrev_spad (c : Core) : c.makeIrrev.spad = c.spad := by
  unfold Core.makeIrrev
  split <;> rfl

theorem Core.journalBlock_spad (c : Core) (blk : Nat) : (c.journalBlock blk).spad = c.spad := by
  unfold Core.journalBlock
  split
  · rfl
  · split <;> [(split <;> [exact makeIrrev_spad c; rfl]); rfl]

theorem Core.journalRange_spad (c : Core) (off n : Nat) : (c.journalRange off n).spad = c.spad := by
  unfold Core.journalRange
  split
  · rfl
  · generalize List.range _ = bs
    induction bs generalizing c with
    | nil => rfl
    | cons b bs ih => exact (ih _).trans (Core.journalBlock_spad c _)

/-- Words that an instruction writes read as written, every other word as before. -/
theorem Core.spGet_spWrite {c : Core} (h : KV.sorted c.spad = true) (off x : Nat) (l : List Lane) :
    (c.spWrite off l).spGet x =
      if off / 4 ≤ x / 4 then (l[x / 4 - off / 4]?).getD (c.spGet x) else c.spGet x := by
  have hspad := Core.journalRange_spad (c.wakeBanks off (4 * l.length)) off (4 * l.length)
  rw [Core.spWrite, Core.spGet_spStore (by rw [hspad]; exact h), Core.spGet, hspad]
  rfl

/-- Words that result lanes are written over. -/
theorem Core.spGet_spWrite_over {c : Core} (h : KV.sorted c.spad = true) (p x : Nat) (ls : List LaneOut) :
    (c.spWrite (4 * p) (ls.zipIdx.map fun y => ⟨y.1.over (c.spGet (4 * p + 4 * y.2)).w, y.1.v⟩)).spGet (4 * x) =
      if p ≤ x then (ls[x - p]?.map fun y => (⟨y.over (c.spGet (4 * x)).w, y.v⟩ : Lane)).getD (c.spGet (4 * x)) else c.spGet (4 * x) := by
  rw [Core.spGet_spWrite h, Nat.mul_div_cancel_left _ (by decide), Nat.mul_div_cancel_left _ (by decide), List.getElem?_map,
    List.getElem?_zipIdx]
  by_cases hin : p ≤ x
  · have hback : 4 * p + 4 * (x - p) = 4 * x := by rw [← Nat.mul_add, Nat.add_sub_cancel' hin]
    rw [if_pos hin, if_pos hin, Nat.zero_add]
    induction ls[x - p]? with
    | none => rfl
    | some y => rw [← hback]; rfl
  · rw [if_neg hin, if_neg hin]

end Sys2Proof.Machine

namespace Sys2Proof.Spec
open Sys2Proof Sys2Proof.Machine Sys2Proof.Machine.Num
set_option Elab.async false

/-- Settles O7, lane by lane. -/
theorem resultsWritten : Obligations.ResultsWritten := by
  unfold Obligations.ResultsWritten
  refine ⟨fun c fp t els k ht hn hk => ⟨rfl, ?_⟩, fun t els e v old ht hw he => ⟨LaneOut.over_element hw old he, ?_⟩,
    fun c fp k ds t e l => ⟨rfl, extElem_eq t e.b⟩, fun c fp k ds t els a hs => ?_⟩
  · show (((lanesOut t els).zipIdx 0).foldl _ c).alane k = _
    rw [Core.alane_foldl_setA _ 0 hk, if_pos (Nat.zero_le k), Nat.sub_zero, lanesOut_getElem?]
    by_cases hlt : k < lanesFor t els.length
    · rw [if_pos hlt, if_neg (Nat.not_le.2 hlt)]
    · rw [if_neg hlt, if_pos (Nat.not_lt.1 hlt)]
  · obtain ⟨hlane, -⟩ := elem_place hw e
    have hper : 0 < 32 / width t := Nat.div_pos hw (width_pos t)
    rw [laneOut_valid hw, ← hlane]
    refine ⟨fun h j u hj hu => h (j % (32 / width t)) u (Nat.mod_lt _ hper) ?_, fun h r u hr hu => h _ u ?_ hu⟩
    · rwa [← hj, ← (elem_place hw j).1, Nat.div_add_mod']
    · rw [← (elem_place hw _).1, Nat.add_comm, Nat.add_mul_div_right _ _ hper, Nat.div_eq_of_lt hr, Nat.zero_add]
  · intro o off ho ha
    obtain ⟨x, rfl⟩ := Nat.dvd_of_mod_eq_zero ha
    refine ⟨rfl, ?_⟩
    show (c.spWrite off ((lanesOut t els).zipIdx.map fun y => ⟨y.1.over (c.spGet (off + 4 * y.2)).w, y.1.v⟩)).spGet (4 * x) = _
    clear_value off
    obtain ⟨p, rfl⟩ := Nat.dvd_of_mod_eq_zero ho
    rw [Core.spGet_spWrite_over hs, lanesOut_getElem?, ← Nat.mul_sub, Nat.mul_div_cancel_left _ (by decide), ← Nat.mul_add]
    by_cases hin : p ≤ x
    · by_cases hlt : x - p < lanesFor t els.length
      · rw [if_pos hin, if_pos hlt, if_pos ⟨Nat.mul_le_mul_left 4 hin, Nat.mul_lt_mul_of_pos_left
          ((Nat.sub_lt_iff_lt_add' hin).1 hlt) (by decide)⟩]
        rfl
      · rw [if_pos hin, if_neg hlt, if_neg fun h => hlt ((Nat.sub_lt_iff_lt_add' hin).2 (Nat.lt_of_mul_lt_mul_left h.2))]
        rfl
    · rw [if_neg hin, if_neg fun h => hin (Nat.le_of_mul_le_mul_left h.1 (by decide))]

end Sys2Proof.Spec
end

section
/-! PROOFS. What noting the queues of cores, storing a stray message and reporting leave alone (R297, R304, R349, R372, R433). -/

namespace Sys2Proof.Machine
set_option Elab.async false

/-- A core with other notes of its queues, its gate, its clock and its count of reports. -/
noncomputable def Core.withNotes (c : Core) (b : Vector W64 8) (r : Vector RecQ 8) (gt : Gate) (ps pc : W32) (n : Nat) : Core :=
  { c with brec := b, recq := r, gate := gt, pwrst := ps, pwrcap := pc, reports := n }

/-- `d` is `c` but for what a note of its queues changes: messages may have come in behind those that waited, the tries of the
heads are those they were, and where `keep` holds so are the reports that wait. -/
def Core.Noted (keep : Bool) (c d : Core) : Prop :=
  (∃ b r gt ps pc n, d = c.withNotes b r gt ps pc n) ∧
    ∀ i, (c.rq i).msgs <+: (d.rq i).msgs ∧ (d.rq i).tries = (c.rq i).tries ∧ (d.rq i).rtries = (c.rq i).rtries ∧
      (keep = true → (d.rq i).reports = (c.rq i).reports)

namespace Core.Noted

theorem refl (keep : Bool) (c : Core) : Noted keep c c :=
  ⟨⟨_, _, _, _, _, _, rfl⟩, fun _ => ⟨List.prefix_refl _, rfl, rfl, fun _ => rfl⟩⟩

theorem trans {keep : Bool} {c d e : Core} (h : Noted keep c d) (k : Noted keep d e) : Noted keep c e := by
  obtain ⟨⟨b, r, gt, ps, pc, n, rfl⟩, h⟩ := h
  obtain ⟨⟨b', r', gt', ps', pc', n', rfl⟩, k⟩ := k
  exact ⟨⟨b', r', gt', ps', pc', n', rfl⟩, fun i => ⟨(h i).1.trans (k i).1, (k i).2.1.trans (h i).2.1,
    (k i).2.2.1.trans (h i).2.2.1, fun hk => ((k i).2.2.2 hk).trans ((h i).2.2.2 hk)⟩⟩

theorem weaken {keep : Bool} {c d : Core} (h : Noted keep c d) : Noted false c d :=
  ⟨h.1, fun i => ⟨(h.2 i).1, (h.2 i).2.1, (h.2 i).2.2.1, by simp⟩⟩

end Core.Noted

theorem Core.rq_setRec (c : Core) (i j : Nat) (r : RecQ) :
    (c.setRec i r).rq j = if i = j ∧ j < 8 then r else c.rq j := by
  by_cases h : i = j
  · subst h
    by_cases hi : i < 8
    · exact (getD_set!_self _ hi _ _).trans (if_pos ⟨rfl, hi⟩).symm
    · simp [Core.rq, Core.setRec, Vector.getD, Vector.set!, hi]
  · exact (getD_set!_ne _ h _ _).trans (if_neg fun e => h e.1).symm

/-- A record that keeps what a note must keep. -/
theorem Core.Noted.setRec {keep : Bool} {c : Core} {i : Nat} {r : RecQ} (hm : (c.rq i).msgs <+: r.msgs)
    (ht : r.tries = (c.rq i).tries) (hr : r.rtries = (c.rq i).rtries) (hp : keep = true → r.reports = (c.rq i).reports) :
    Noted keep c (c.setRec i r) := by
  refine ⟨⟨c.brec, (c.setRec i r).recq, c.gate, c.pwrst, c.pwrcap, c.reports, rfl⟩, fun j => ?_⟩
  rw [Core.rq_setRec]
  split
  · rename_i h; obtain ⟨rfl, -⟩ := h; exact ⟨hm, ht, hr, hp⟩
  · exact ⟨List.prefix_refl _, rfl, rfl, fun _ => rfl⟩

theorem Core.Noted.noteIdle (keep : Bool) (c : Core) (now : Nat) : Noted keep c (c.noteIdle now) := by
  unfold Core.noteIdle
  split
  · split
    · exact refl keep c
    · split <;> exact ⟨⟨_, _, _, _, _, _, rfl⟩, fun _ => ⟨List.prefix_refl _, rfl, rfl, fun _ => rfl⟩⟩
  · split
    · exact refl keep c
    · exact ⟨⟨_, _, _, _, _, _, rfl⟩, fun _ => ⟨List.prefix_refl _, rfl, rfl, fun _ => rfl⟩⟩
  · exact refl keep c

/-- New moments and levels of the records, which keep their messages, tries and reports. -/
theorem Core.Noted.ofFn {keep : Bool} (c : Core) (b : Fin 8 → W64) (since : Fin 8 → Option Nat) :
    Noted keep c { c with brec := Vector.ofFn b, recq := Vector.ofFn fun i => { c.rq i.val with since := since i } } := by
  refine ⟨⟨_, _, _, _, _, _, rfl⟩, fun i => ?_⟩
  by_cases hi : i < 8
  · simp [Core.rq, Vector.getD, hi]
  · simp [Core.rq, Vector.getD, hi]

/-! ### Bytes stored at their homes leave the cores as they are -/

theorem State.cores_foldl {α : Type} {f : State → α → State} (h : ∀ s x, (f s x).cores = s.cores) (l : List α) (s : State) :
    (l.foldl f s).cores = s.cores := by
  induction l generalizing s with
  | nil => rfl
  | cons x l ih => exact (ih _).trans (h s x)

theorem State.cores_storeHome (s : State) (asid : W16) (l : List (Loc × Byte)) : (s.storeHome asid l).cores = s.cores := by
  have hfill (s : State) (x : Loc × Byte) : (s.hostFill x.1).cores = s.cores := by
    unfold State.hostFill
    split
    · rfl
    · split <;> rfl
  have hput (s : State) (x : Loc × Byte) : (s.putByte x.1 x.2).cores = s.cores := by
    unfold State.putByte
    split <;> rfl
  exact (State.cores_foldl hput l _).trans (State.cores_foldl hfill l s)

/-! ### States that differ by notes -/

/-- The cores of `t` are those of `s` but for notes on those that `P` names. -/
structure State.Noted (keep : Bool) (P : Nat → Prop) (s t : State) : Prop where
  sorted : KV.sorted s.cores = true → KV.sorted t.cores = true
  others : ∀ k, ¬P k → t.core k = s.core k
  noted : KV.sorted s.cores = true → ∀ k, (s.core k).Noted keep (t.core k)

namespace State.Noted
variable {keep : Bool} {P : Nat → Prop}

theorem refl (keep : Bool) (P : Nat → Prop) (s : State) : Noted keep P s s :=
  ⟨id, fun _ _ => rfl, fun _ k => Core.Noted.refl keep (s.core k)⟩

theorem trans {s t u : State} (h : Noted keep P s t) (k : Noted keep P t u) : Noted keep P s u :=
  ⟨fun hs => k.sorted (h.sorted hs),
    fun j hj => (k.others j hj).trans (h.others j hj), fun hs j => (h.noted hs j).trans (k.noted (h.sorted hs) j)⟩

theorem mono {Q : Nat → Prop} {s t : State} (h : Noted keep P s t) (hPQ : ∀ k, P k → Q k) : Noted keep Q s t :=
  ⟨h.sorted, fun k hk => h.others k (fun hp => hk (hPQ k hp)), h.noted⟩

theorem weaken {s t : State} (h : Noted keep P s t) : Noted false P s t :=
  ⟨h.sorted, h.others, fun hs k => (h.noted hs k).weaken⟩

theorem foldl {α : Type} {f : State → α → State} {l : List α} (h : ∀ s, ∀ x ∈ l, Noted keep P s (f s x)) (s : State) :
    Noted keep P s (l.foldl f s) := by
  induction l generalizing s with
  | nil => exact refl keep P s
  | cons x l ih => exact (h s x (by simp)).trans (ih (fun s y hy => h s y (by simp [hy])) _)

/-- A core gets notes. -/
theorem setCore {s : State} {g : Nat} {c : Core} (hg : P g) (h : (s.core g).Noted keep c) : Noted keep P s (s.setCore g c) :=
  ⟨fun hs => State.sorted_setCore hs g c, fun k hk => State.core_setCore_ne (fun e => hk (by rw [e]; exact hg)) c, fun hs k => by
    by_cases hk : k = g
    · subst hk; rwa [State.core_setCore_self hs]
    · rw [State.core_setCore_ne hk]; exact Core.Noted.refl keep _⟩

/-- What leaves the cores as they are. -/
theorem of_eq {s t : State} (hc : t.cores = s.cores) : Noted keep P s t := by
  have hcore (k : Nat) : t.core k = s.core k := by rw [State.core, hc]; rfl
  exact ⟨fun hs => hc ▸ hs, fun k _ => hcore k, fun _ k => hcore k ▸ Core.Noted.refl keep _⟩

theorem modCore {s : State} {g : Nat} {f : Core → Core} (hg : P g) (h : (s.core g).Noted keep (f (s.core g))) :
    Noted keep P s (s.modCore g f) := setCore hg h

theorem unspill (s : State) {g : Nat} (hg : P g) (i : Nat) : Noted keep P s (s.unspill g i) := by
  unfold State.unspill
  exact (setCore hg (Core.Noted.setRec (r := { (s.core g).rq i with msgs := _ ++ _, spilled := _ }) (List.prefix_append _ _) rfl
    rfl fun _ => rfl)).trans (foldl (f := fun t (x : Nat × Packet) => t.freeRecord _ _ x.1) (fun t x _ => of_eq rfl) _)

theorem noteQueues (s : State) {g : Nat} (hg : P g) : Noted keep P s (s.noteQueues g) := by
  unfold State.noteQueues
  refine (foldl (f := fun t i => if ((t.core g).rq i).spilled.isEmpty then t else t.unspill g i) (fun t i _ => ?_) s).trans
    (setCore hg ?_)
  · split
    · exact refl keep P t
    · exact unspill t hg i
  · exact (Core.Noted.noteIdle keep _ _).trans (Core.Noted.ofFn _ _ _)

theorem setClock (s : State) {g : Nat} (hg : P g) (f d : Nat) : Noted keep P s (s.setClock g f d) := by
  unfold State.setClock
  split
  · exact refl keep P s
  · exact (modCore (f := fun c => c.setDuty d) hg ⟨⟨_, _, _, _, _, _, rfl⟩, fun _ => ⟨List.prefix_refl _, rfl, rfl,
      fun _ => rfl⟩⟩).trans (of_eq rfl)

theorem fullClock (s : State) {g : Nat} (hg : P g) : Noted keep P s (s.fullClock g) := by
  unfold State.fullClock
  dsimp only
  split
  · exact refl keep P s
  · exact (setClock s hg 940 16).trans (of_eq rfl)

theorem noteOne (s : State) {g : Nat} (hg : P g) : Noted keep P s (s.noteOne g) := by
  unfold State.noteOne
  dsimp only
  split
  · exact (noteQueues s hg).trans (fullClock _ hg)
  · exact noteQueues s hg

theorem noteWaits (s : State) {g : Nat} (hg : P g) (hk : ∀ k ∈ s.gangCores g, P k) : Noted keep P s (s.noteWaits g) := by
  exact (noteOne s hg).trans (foldl (fun t k hm => noteOne t (hk k (List.mem_filter.1 hm).1)) _)

/-- What counts or posts a report, and what it stores, leave the cores as they are. -/
theorem strayStore (s : State) (n : Nat) (r : Region) (p : Packet) : Noted keep P s (s.strayStore n r p).2 := by
  unfold State.strayStore
  split
  · exact refl keep P s
  · split
    · exact refl keep P s
    · split
      · exact of_eq (State.cores_storeHome s _ _)
      · dsimp only
        split
        · exact refl keep P s
        · exact of_eq ((State.cores_storeHome _ _ _).trans (State.cores_storeHome _ _ _))

theorem report (s : State) (g : Nat) (rid : W16) (r : Report) : Noted false (fun _ => True) s (s.report g rid r) := by
  have counted (t : State) : Noted false (fun _ => True) t (t.modCore g fun c => { c with reports := c.reports + 1 }) :=
    modCore trivial ⟨⟨_, _, _, _, _, _, rfl⟩, fun _ => ⟨List.prefix_refl _, rfl, rfl, fun _ => rfl⟩⟩
  unfold State.report
  split
  · exact refl _ _ s
  · dsimp only
    split
    · exact refl _ _ s
    · rename_i d _
      split
      · exact refl _ _ s
      · rename_i i _
        have post (t : State) (f : RecQ → RecQ)
            (hf : ∀ q, (f q).msgs = q.msgs ∧ (f q).tries = q.tries ∧ (f q).rtries = q.rtries) :
            Noted false (fun _ => True) t (t.modCore d fun c => c.setRec i (f (c.rq i))) :=
          modCore trivial (Core.Noted.setRec ((hf _).1 ▸ List.prefix_refl _) (hf _).2.1 (hf _).2.2 (by simp))
        split
        · exact (post s (fun q => { q with lost := q.lost + 1 }) fun _ => ⟨rfl, rfl, rfl⟩).trans (counted _)
        · refine (counted s).trans ((post _ (fun q => { q with reports := q.reports ++ [_], lost := 0 })
            fun _ => ⟨rfl, rfl, rfl⟩).trans (.trans (t := State.countSent _ _ _ _) (of_eq rfl)
              (noteWaits _ trivial fun _ _ => trivial)))

end State.Noted

/-! ### Memory stays as it is -/

/-- The memory of the module and of its hosts. -/
noncomputable def State.memories (s : State) : List (Nat × Byte) × List (Nat × Byte) := (s.mem, s.hostMem)

theorem State.memories_foldl {α : Type} {f : State → α → State} (h : ∀ s x, (f s x).memories = s.memories) (l : List α)
    (s : State) : (l.foldl f s).memories = s.memories := by
  induction l generalizing s with
  | nil => rfl
  | cons x l ih => exact (ih _).trans (h s x)

theorem State.memories_setCore (s : State) (g : Nat) (c : Core) : (s.setCore g c).memories = s.memories := rfl

theorem State.memories_unspill (s : State) (g i : Nat) : (s.unspill g i).memories = s.memories := by
  unfold State.unspill
  exact (State.memories_foldl (f := fun t (x : Nat × Packet) => t.freeRecord _ _ x.1) (fun _ _ => rfl) _ _).trans
    (State.memories_setCore s g _)

theorem State.memories_noteQueues (s : State) (g : Nat) : (s.noteQueues g).memories = s.memories := by
  unfold State.noteQueues
  refine (State.memories_setCore _ g _).trans
    (State.memories_foldl (f := fun t i => if ((t.core g).rq i).spilled.isEmpty then t else t.unspill g i) (fun t i => ?_) _ s)
  split
  · rfl
  · exact State.memories_unspill t g i

theorem State.memories_fullClock (s : State) (g : Nat) : (s.fullClock g).memories = s.memories := by
  unfold State.fullClock State.setClock
  dsimp only
  split
  · rfl
  · split <;> rfl

theorem State.memories_noteOne (s : State) (g : Nat) : (s.noteOne g).memories = s.memories := by
  unfold State.noteOne
  dsimp only
  split
  · exact (State.memories_fullClock _ g).trans (State.memories_noteQueues s g)
  · exact State.memories_noteQueues s g

theorem State.memories_noteWaits (s : State) (g : Nat) : (s.noteWaits g).memories = s.memories :=
  (State.memories_foldl State.memories_noteOne _ _).trans (State.memories_noteOne s g)

end Sys2Proof.Machine
end

section
/-! PROOFS. Taking a fault: rollback, escalation and kill (R301, R426 to R436). -/

namespace Sys2Proof.Machine
set_option Elab.async false

/-! ### Activations outside a gang -/

theorem State.actCores_single {s : State} {g : Nat} {a : Act} (ha : (s.core g).act = some a) (hg : a.gang = false) :
    s.actCores g = [g] := by
  simp only [State.actCores, ha, hg, Bool.false_eq_true, if_false]

theorem State.trigCore_single {s : State} {g : Nat} {a : Act} (ha : (s.core g).act = some a) (hg : a.gang = false) :
    s.trigCore g = g := by
  simp [State.trigCore, State.actCores_single ha hg, ha, hg]

theorem State.irrevocable_single {s : State} {g : Nat} {a : Act} (ha : (s.core g).act = some a) (hg : a.gang = false) :
    s.irrevocable g = a.irrev := by
  simp [State.irrevocable, State.actCores_single ha hg, ha]

/-! ### A core whose activation is undone -/

/-- A core with another scratchpad. -/
noncomputable def Core.withSpad (c : Core) (sp : List (Nat × Lane)) (bad : List Nat) : Core := { c with spad := sp, spBad := bad }

/-- A core with other messages and another log. -/
noncomputable def Core.withOut (c : Core) (m : List OutMsg) (l : List LogEntry) : Core := { c with msgs := m, log := l }

theorem Core.spStore_withSpad (c : Core) (off : Nat) (l : List Lane) : ∃ sp bad, c.spStore off l = c.withSpad sp bad := by
  unfold Core.spStore
  generalize l.zipIdx = ls
  induction ls generalizing c with
  | nil => exact ⟨_, _, rfl⟩
  | cons y ls ih =>
    obtain ⟨sp, bad, h⟩ := ih (c.spPut (off + 4 * y.2) y.1)
    exact ⟨sp, bad, h⟩

theorem Core.putBack_withSpad (c : Core) (js : List JBlock) : ∃ sp bad, c.putBack js = c.withSpad sp bad := by
  induction js with
  | nil => exact ⟨_, _, rfl⟩
  | cons j js ih =>
    obtain ⟨sp, bad, h⟩ := ih
    obtain ⟨sp', bad', h'⟩ := Core.spStore_withSpad (c.withSpad sp bad) (64 * j.blk) j.words
    exact ⟨sp', bad', by
      show (c.putBack js).spStore (64 * j.blk) j.words = _
      rw [h]; exact h'⟩

theorem Core.spStore_withOut (c : Core) (m : List OutMsg) (l : List LogEntry) (off : Nat) (ls : List Lane) :
    (c.withOut m l).spStore off ls = (c.spStore off ls).withOut m l :=
  List.foldl_hom (fun c : Core => c.withOut m l) (fun _ _ => rfl)

theorem Core.putBack_withOut (c : Core) (m : List OutMsg) (l : List LogEntry) (js : List JBlock) :
    (c.withOut m l).putBack js = (c.putBack js).withOut m l :=
  List.foldr_hom (fun c : Core => c.withOut m l) (fun _ _ => (Core.spStore_withOut _ _ _ _ _))

/-- The core with its activation over and what it had done undone (R301). -/
noncomputable def Core.undone (c : Core) : Core := { c.undo with tsinf := c.tsinf &&& ~~~0x10000 }

/-- What undoing an activation leaves of a core. -/
structure Core.Undone (a : Act) (c d : Core) : Prop where
  act : d.act = none
  msgs : d.msgs = []
  journal : d.journal = []
  queue : ∀ n, d.queue n = []
  log : d.log = c.log.filter fun e => !ownEntry a e
  spad : d.spad = c.restoreJournal.spad
  trap : d.trapActive = false
  gmask : d.gmask = c.gmask

theorem Core.queue_replicate {c : Core} (h : c.q = Vector.replicate 8 []) (n : BitVec 3) : c.queue n = [] := by
  have hn : n.toNat < 8 := n.isLt
  simp [Core.queue, h, Vector.getD, hn]

theorem trapActive_cleared {c d : Core} (h : d.tsinf = c.tsinf &&& ~~~0x10000) : d.trapActive = false := by
  rw [Core.trapActive, h, BitVec.getLsbD_and]
  simp

/-- The discarded core is the core but for its messages and its log. -/
theorem Core.discard_fst {c : Core} {a : Act} (ha : c.act = some a) :
    c.discard.1 = c.withOut [] (c.log.filter fun e => !ownEntry a e) := by
  unfold Core.discard
  split
  · rename_i h; rw [h] at ha; cases ha
  · rename_i b h; rw [h] at ha; cases ha; rfl

theorem Core.undone_eq {c : Core} {a : Act} (ha : c.act = some a) : c.undone.recq = c.recq ∧ Core.Undone a c c.undone := by
  obtain ⟨sp, bad, hb⟩ := Core.putBack_withSpad c c.journal
  have hr : c.restoreJournal.spad = sp := by
    show (c.putBack c.journal).spad = sp
    rw [hb]; rfl
  have hd : c.discard.1.restoreJournal =
      { (c.putBack c.journal).withOut [] (c.log.filter fun e => !ownEntry a e) with journal := [] } := by
    rw [Core.discard_fst ha, ← Core.putBack_withOut]; rfl
  rw [hb] at hd
  have hu : c.undone = { Core.endAct { (c.withSpad sp bad).withOut [] (c.log.filter fun e => !ownEntry a e) with
      journal := [] } with tsinf := c.tsinf &&& ~~~0x10000 } := by
    rw [Core.undone, Core.undo, hd]
  rw [hu]
  exact ⟨rfl, rfl, rfl, rfl, Core.queue_replicate rfl, rfl, hr.symm, trapActive_cleared rfl, rfl⟩

/-- What a note of the queues leaves of an undone core is undone. -/
theorem Core.Undone.noted {a : Act} {keep : Bool} {c d e : Core} (h : Core.Undone a c d) (k : Core.Noted keep d e) :
    Core.Undone a c e := by
  obtain ⟨⟨b, r, gt, ps, pc, n, rfl⟩, -⟩ := k
  exact ⟨h.act, h.msgs, h.journal, h.queue, h.log, h.spad, h.trap, h.gmask⟩

theorem Core.Undone.ended {a : Act} {c d : Core} (h : Core.Undone a c d) : d.act = none ∧ d.msgs = [] ∧ d.journal = [] ∧
    (∀ n, d.queue n = []) ∧ d.log = c.log.filter (fun e => !ownEntry a e) ∧ d.spad = c.restoreJournal.spad ∧ d.trapActive = false :=
  ⟨h.act, h.msgs, h.journal, h.queue, h.log, h.spad, h.trap⟩

/-- A note leaves the fetch buffer and the L1 alone. -/
theorem Core.Noted.lines {keep : Bool} {c d : Core} (h : Core.Noted keep c d) : d.fetch = c.fetch ∧ d.l1 = c.l1 := by
  obtain ⟨⟨b, r, gt, ps, pc, n, rfl⟩, -⟩ := h
  exact ⟨rfl, rfl⟩

theorem Core.Undone.setRec {a : Act} {c d : Core} (h : Core.Undone a c d) (i : Nat) (r : RecQ) :
    Core.Undone a c (d.setRec i r) :=
  ⟨h.act, h.msgs, h.journal, h.queue, h.log, h.spad, h.trap, h.gmask⟩

theorem Core.Undone.dropLines {a : Act} {c d : Core} (h : Core.Undone a c d) : Core.Undone a c d.dropLines :=
  ⟨h.act, h.msgs, h.journal, h.queue, h.log, h.spad, h.trap, h.gmask⟩

/-- A queue of reports or messages gets its trigger back, with one try more. -/
theorem Core.redeliver_eq (c : Core) (a : Act) : ∃ r, c.redeliver a = c.setRec a.brec r := by
  unfold Core.redeliver
  dsimp only
  split <;> exact ⟨_, rfl⟩

theorem Core.leave_eq (c : Core) (a : Act) : ∃ r, c.leave a = c.setRec a.brec r := by
  unfold Core.leave
  dsimp only
  split <;> exact ⟨_, rfl⟩

theorem Core.rq_setRec_self (c : Core) {i : Nat} (hi : i < 8) (r : RecQ) : (c.setRec i r).rq i = r := by
  rw [Core.rq_setRec, if_pos ⟨rfl, hi⟩]

/-! ### Rollback of a core outside a gang -/

/-- The state in which the activation of a core is undone. -/
noncomputable def State.undoneAt (s : State) (g : Nat) : State :=
  s.modCore g fun c => { c.undo with tsinf := c.tsinf &&& ~~~0x10000 }

/-- The state in which the lines of a core are dropped where the fault asks for it. -/
noncomputable def State.dropAt (s : State) (g : Nat) (b : Bool) : State := if b then s.modCore g Core.dropLines else s

theorem State.fault_rollback {s : State} {g : Nat} {a : Act} (ha : (s.core g).act = some a) (hg : a.gang = false)
    (hi : a.irrev = false) (code : FCode) (resume pcf addr : W64) (crc : W16) (fetched : Bool) :
    s.fault g code resume pcf addr crc fetched = s.rollback g code pcf addr fetched := by
  have hirr : s.irrevocable g = false := (State.irrevocable_single ha hg).trans hi
  simp only [State.fault, ha, hirr, Bool.not_false, if_true]

/-- A fault of a revocable activation outside a gang, which is tried again, puts its trigger back (R301, R427). -/
theorem State.fault_retry {s : State} {g : Nat} {a : Act} (ha : (s.core g).act = some a) (hg : a.gang = false)
    (hi : a.irrev = false) (code : FCode) (resume pcf addr : W64) (crc : W16) (fetched : Bool)
    (hr : ¬(code = .logfull ∨ code = .spawn ∨ 4 ≤ a.tries + 1)) :
    s.fault g code resume pcf addr crc fetched =
      (((s.undoneAt g).dropAt g (refetches code fetched)).modCore g fun c => c.redeliver a).noteWaits g := by
  rw [State.fault_rollback ha hg hi]
  simp only [State.rollback, ha, State.trigCore_single ha hg, State.actCores_single ha hg, Option.getD_some, List.foldl_cons,
    List.foldl_nil, if_neg hr]
  rfl

/-- What is done with a trigger that leaves its queue: a report's kills the address space, any other goes to the stray ring,
and a report says so (R301, R433, R435). -/
theorem State.fault_discard {s : State} {g : Nat} {a : Act} (ha : (s.core g).act = some a) (hg : a.gang = false)
    (hi : a.irrev = false) (code : FCode) (resume pcf addr : W64) (crc : W16) (fetched : Bool)
    (hr : code = .logfull ∨ code = .spawn ∨ 4 ≤ a.tries + 1) :
    s.fault g code resume pcf addr crc fetched =
      let s1 := ((s.undoneAt g).modCore g fun c => c.leave a).noteWaits g
      if a.report then s1.kill (recAsid (s.core g).curRec) 3 code.code
      else match s.region a.rid with
        | none => s1
        | some r =>
          let st := s1.strayStore (g / 64) r a.trig
          ((st.2.addSpc (g / 64) a.rid (-1)).countRecv (g / 64) a.rid 1).report g a.rid
            { Report.of 1 code.code with
              pc := pcf, addr := addr, key := a.key, lcn := a.lcn, ent := (s.core g).discard.2.2, msg := (s.core g).discard.2.1
              tries := a.tries + 1
              sidx := match st.1 with
                | some k => BitVec.ofNat 32 k
                | none => 0xFFFFFFFF } := by
  rw [State.fault_rollback ha hg hi]
  simp only [State.rollback, ha, State.trigCore_single ha hg, State.actCores_single ha hg, Option.getD_some, List.foldl_cons,
    List.foldl_nil, if_pos hr, List.map_cons, List.map_nil, List.sum_singleton]
  rfl

/-! ### States that differ in one core -/

/-- `t` is `s` with core `g` now `d`; the other cores and memory are as they were. -/
structure State.Replaced (s : State) (g : Nat) (d : Core) (t : State) : Prop where
  sorted : KV.sorted t.cores = true
  core : t.core g = d
  others : ∀ k, k ≠ g → t.core k = s.core k
  memories : t.memories = s.memories

namespace State.Replaced
variable {s t : State} {g : Nat} {d : Core}

theorem refl (hs : KV.sorted s.cores = true) (g : Nat) : Replaced s g (s.core g) s := ⟨hs, rfl, fun _ _ => rfl, rfl⟩

theorem modCore (h : Replaced s g d t) (f : Core → Core) : Replaced s g (f d) (t.modCore g f) :=
  ⟨State.sorted_setCore h.sorted _ _, (State.core_modCore_self h.sorted g f).trans (congrArg f h.core),
    fun k hk => (State.core_modCore_ne hk f).trans (h.others k hk), h.memories⟩

theorem of_cores (h : Replaced s g d t) {u : State} (hc : u.cores = t.cores) (hm : u.memories = t.memories) :
    Replaced s g d u :=
  have hcore (k : Nat) : u.core k = t.core k := by rw [State.core, hc]; rfl
  ⟨hc ▸ h.sorted, (hcore g).trans h.core, fun k hk => (hcore k).trans (h.others k hk), hm.trans h.memories⟩

theorem kill (h : Replaced s g d t) (asid : W16) (cause : Nat) (code : Byte) : Replaced s g d (t.kill asid cause code) := by
  obtain ⟨-, hm, hh, hc⟩ := State.kill_rest t asid cause code
  exact h.of_cores hc (by rw [State.memories, hm, hh]; rfl)

theorem memory (h : Replaced s g d t) : Machine.sameMemory s t := by
  have hm : t.mem = s.mem ∧ t.hostMem = s.hostMem := Prod.ext_iff.1 h.memories
  exact ⟨fun a => by rw [hm.1], fun k => by rw [hm.2]⟩

theorem frame (h : Replaced s g d t) : Machine.sameCoresBut [g] s t :=
  fun k hk => h.others k (by simpa using hk)

end State.Replaced

theorem State.gangCores_congr {s t : State} {g : Nat} (h : (t.core g).gmask = (s.core g).gmask) :
    t.gangCores g = s.gangCores g := by
  rw [State.gangCores, h]; rfl

/-- What noting the queues leaves where one core was replaced. -/
theorem State.Replaced.noteWaits {s t : State} {g : Nat} {d : Core} (h : State.Replaced s g d t)
    (hm : d.gmask = (s.core g).gmask) :
    d.Noted true ((t.noteWaits g).core g) ∧ sameMemory s (t.noteWaits g) ∧ sameCoresBut (g :: s.gangCores g) s (t.noteWaits g) := by
  have hgang : t.gangCores g = s.gangCores g := State.gangCores_congr (by rw [h.core, hm])
  have hn : State.Noted true (· ∈ g :: s.gangCores g) t (t.noteWaits g) :=
    State.Noted.noteWaits t List.mem_cons_self fun k hk => List.mem_cons_of_mem _ (hgang ▸ hk)
  refine ⟨h.core ▸ hn.noted h.sorted g, ?_, fun k hk => (hn.others k hk).trans (h.others k fun e => hk (e ▸ List.mem_cons_self))⟩
  have hmem : (t.noteWaits g).mem = s.mem ∧ (t.noteWaits g).hostMem = s.hostMem :=
    Prod.ext_iff.1 ((State.memories_noteWaits t g).trans h.memories)
  exact ⟨fun a => by rw [hmem.1], fun k => by rw [hmem.2]⟩

/-- The core of an activation undone after which its trigger is back in its queue. -/
noncomputable def Core.retried (c : Core) (a : Act) (b : Bool) : Core :=
  (if b then c.undone.dropLines else c.undone).redeliver a

theorem Core.retried_queue {c : Core} {a : Act} (ha : c.act = some a) (hb : a.brec < 8) (b : Bool) :
    (a.report = false → ((c.retried a b).rq a.brec).msgs = a.trig :: (c.rq a.brec).msgs ∧
      ((c.retried a b).rq a.brec).tries = a.tries + 1) ∧
    (a.report = true → ((c.retried a b).rq a.brec).reports = a.trig :: (c.rq a.brec).reports ∧
      ((c.retried a b).rq a.brec).rtries = a.tries + 1) ∧
    (b = true → (c.retried a b).fetch = [] ∧ (c.retried a b).l1 = []) ∧ Core.Undone a c (c.retried a b) := by
  obtain ⟨hrecq, hund⟩ := Core.undone_eq ha
  have hq : (if b then c.undone.dropLines else c.undone).rq a.brec = c.rq a.brec := by
    rw [Core.rq, Core.rq, ← hrecq]
    induction b <;> rfl
  have hd : Core.Undone a c (if b then c.undone.dropLines else c.undone) := by
    obtain ⟨⟩ := b
    · exact hund
    · exact hund.dropLines
  obtain ⟨r, he⟩ := Core.redeliver_eq (if b then c.undone.dropLines else c.undone) a
  refine ⟨fun hrep => ?_, fun hrep => ?_, fun hb => ?_, ?_⟩
  · rw [Core.retried, Core.redeliver, if_neg (by simp [hrep]), Core.rq_setRec_self _ hb, hq]
    exact ⟨rfl, rfl⟩
  · rw [Core.retried, Core.redeliver, if_pos hrep, Core.rq_setRec_self _ hb, hq]
    exact ⟨rfl, rfl⟩
  · subst hb
    rw [Core.retried, he]
    exact ⟨rfl, rfl⟩
  · rw [Core.retried, he]
    exact hd.setRec _ _

/-- The core of an activation undone after which its trigger has left its queue. -/
theorem Core.left_queue {c : Core} {a : Act} (ha : c.act = some a) (hb : a.brec < 8) :
    (a.report = false → ((c.undone.leave a).rq a.brec).msgs = (c.rq a.brec).msgs ∧ ((c.undone.leave a).rq a.brec).tries = 0) ∧
    Core.Undone a c (c.undone.leave a) := by
  obtain ⟨hrecq, hund⟩ := Core.undone_eq ha
  refine ⟨fun hrep => ?_, ?_⟩
  · rw [Core.leave, if_neg (by simp [hrep]), Core.rq_setRec_self _ hb, Core.rq, hrecq]
    exact ⟨rfl, rfl⟩
  · obtain ⟨r, he⟩ := Core.leave_eq c.undone a
    rw [he]
    exact hund.setRec _ _

theorem State.replaced_retried {s : State} (hs : KV.sorted s.cores = true) (g : Nat) (a : Act) (b : Bool) :
    State.Replaced s g ((s.core g).retried a b) (((s.undoneAt g).dropAt g b).modCore g fun c => c.redeliver a) := by
  have hu : State.Replaced s g (s.core g).undone (s.undoneAt g) :=
    (State.Replaced.refl hs g).modCore fun c => { c.undo with tsinf := c.tsinf &&& ~~~0x10000 }
  obtain ⟨⟩ := b
  · exact hu.modCore fun c => c.redeliver a
  · exact (hu.modCore Core.dropLines).modCore fun c => c.redeliver a

theorem State.replaced_left {s : State} (hs : KV.sorted s.cores = true) (g : Nat) (a : Act) :
    State.Replaced s g ((s.core g).undone.leave a) ((s.undoneAt g).modCore g fun c => c.leave a) :=
  ((State.Replaced.refl hs g).modCore fun c => { c.undo with tsinf := c.tsinf &&& ~~~0x10000 }).modCore fun c => c.leave a

theorem State.cores_counted (s : State) (n m : Nat) (rid rid' : W16) (i : Int) (k : Nat) :
    ((s.addSpc n rid i).countRecv m rid' k).cores = s.cores := rfl

/-- After the last try the cores get notes only, once the trigger has left its queue. -/
theorem State.fault_discard_noted {s : State} {g : Nat} {a : Act}
    (ha : (s.core g).act = some a) (hg : a.gang = false) (hi : a.irrev = false) (code : FCode) (resume pcf addr : W64)
    (crc : W16) (fetched : Bool) (hr : code = .logfull ∨ code = .spawn ∨ 4 ≤ a.tries + 1) :
    State.Noted false (fun _ => True) ((s.undoneAt g).modCore g fun c => c.leave a)
      (s.fault g code resume pcf addr crc fetched) := by
  rw [State.fault_discard ha hg hi code resume pcf addr crc fetched hr]
  have hn := State.Noted.noteWaits (keep := false) (P := fun _ => True) ((s.undoneAt g).modCore g fun c => c.leave a)
    (g := g) trivial fun _ _ => trivial
  dsimp only
  split
  · exact hn.trans (.of_eq (State.kill_rest _ _ _ _).2.2.2)
  · split
    · exact hn
    · exact hn.trans ((State.Noted.strayStore _ _ _ _).trans
        ((State.Noted.of_eq (State.cores_counted _ _ _ _ _ _ _)).trans (State.Noted.report _ _ _ _)))

end Sys2Proof.Machine

namespace Sys2Proof.Spec
set_option Elab.async false
open Sys2Proof Sys2Proof.Machine

/-- Settles O12: the fault of a revocable activation outside a gang ends the activation, undoes what it did, and puts its
trigger back or, after the last try, hands it over with a report; noting the queues keeps all of that. -/
theorem faultRollsBack : Obligations.FaultRollsBack := by
  unfold Obligations.FaultRollsBack
  intro s g code resume pcf addr crc fetched a hs ha hg hi hb c u d
  by_cases hlast : code = .logfull ∨ code = .spawn ∨ 4 ≤ a.tries + 1
  · have hu := State.fault_discard ha hg hi code resume pcf addr crc fetched hlast
    have hq := Core.left_queue ha hb
    have hrep := State.replaced_left hs g a
    have hnote : State.Noted false (fun _ => True) _ u := State.fault_discard_noted ha hg hi code resume pcf addr crc fetched hlast
    have hd : Core.Noted false (c.undone.leave a) d := hrep.core ▸ hnote.noted hrep.sorted g
    refine ⟨(hq.2.noted hd).ended, fun h1 h2 h3 => ?_, fun _ => ⟨fun h => hu.trans (if_pos h), fun r h hr => ?_⟩⟩
    · exact (hlast.elim h1 fun h => h.elim h2 fun h => Nat.not_le.2 (Nat.succ_lt_succ h3) h).elim
    · refine ⟨(hd.2 a.brec).2.1.trans (hq.1 h).2, (hq.1 h).1 ▸ (hd.2 a.brec).1, hu.trans ?_⟩
      rw [if_neg (by rw [h]; decide), hr]
      rfl
  · have hu : u = _ := State.fault_retry ha hg hi code resume pcf addr crc fetched hlast
    obtain ⟨hmq, hrq, hlines, hund⟩ := Core.retried_queue ha hb (refetches code fetched)
    obtain ⟨hd, hframe⟩ := (State.replaced_retried hs g a (refetches code fetched)).noteWaits hund.gmask
    rw [← hu] at hd hframe
    have hqs := hd.2 a.brec
    refine ⟨(hund.noted hd).ended, fun _ _ _ => ⟨fun h => ⟨(hmq h).1 ▸ hqs.1, hqs.2.1.trans (hmq h).2⟩,
      fun h => ⟨(hqs.2.2.2 rfl).trans (hrq h).1, hqs.2.2.1.trans (hrq h).2⟩,
      fun h => ⟨hd.lines.1.trans (hlines h).1, hd.lines.2.trans (hlines h).2⟩, hframe⟩, fun h => (hlast ?_).elim⟩
    exact h.imp_right (Or.imp_right Nat.succ_le_succ)

end Sys2Proof.Spec

namespace Sys2Proof.Machine
set_option Elab.async false

/-! ### Escalation and kill -/

/-- A core that discards its messages and uncommitted entries at an escalation, with the fault's place and what was discarded. -/
noncomputable def Core.struckBy (c : Core) (pcf : W64) : Core :=
  { c.discard.1 with fltpc := pcf, fltdis := BitVec.ofNat 32 (c.discard.2.2 % 2 ^ 15 + c.discard.2.1 % 2 ^ 7 * 2 ^ 16) }

/-- The core of an activation, with its own uncommitted entries and its messages gone. -/
theorem Core.struckBy_eq {c : Core} {a : Act} (ha : c.act = some a) (pcf : W64) :
    ∃ w, c.struckBy pcf = { c.withOut [] (c.log.filter fun e => !ownEntry a e) with fltpc := pcf, fltdis := w } :=
  ⟨_, by rw [Core.struckBy, Core.discard_fst ha]⟩

theorem getLsbD_putField {w : Nat} (x : BitVec w) (k n v : Nat) {i : Nat} (hi : i < w) :
    (putField x k n v).getLsbD i = if k ≤ i ∧ i < k + n then v.testBit (i - k) else x.getLsbD i := by
  have hlt : i - k < w := by omega
  simp only [putField, BitVec.getLsbD_or, BitVec.getLsbD_and, BitVec.getLsbD_not, BitVec.getLsbD_shiftLeft, BitVec.getLsbD_ofNat,
    Nat.testBit_two_pow_sub_one, hi, hlt, decide_true, Bool.true_and]
  by_cases hk : i < k
  · simp [hk, Nat.not_le.2 hk]
  · by_cases hn : i - k < n
    · simp [hk, hn, Nat.not_lt.1 hk, show i < k + n by omega]
    · simp [hk, hn, show ¬i < k + n by omega]

theorem Core.pl_setPl (c : Core) (p : Nat) (hp : p < 4) : (c.setPl p).pl = p := by
  refine Nat.eq_of_testBit_eq fun i => ?_
  rw [Core.pl, BitVec.testBit_toNat, BitVec.getLsbD_extractLsb']
  by_cases hi : i < 2
  · rw [Core.setPl, getLsbD_putField _ _ _ _ (by omega), if_pos (by omega)]
    simp [hi]
  · have hz : p.testBit i = false := 
      Nat.testBit_lt_two_pow (Nat.lt_of_lt_of_le hp (Nat.pow_le_pow_right (n := 2) (i := 2) (by decide) (Nat.not_lt.1 hi)))
    simp [hi, hz]

theorem Core.pp_setPp_setPl (c : Core) (b : Bool) (p : Nat) : ((c.setPp b).setPl p).pp = b := by
  refine Eq.trans ?_ (Core.pp_setPp c b)
  rw [Core.pp, Core.setPl, getLsbD_putField _ _ _ _ (by decide), if_neg (by decide)]
  rfl

/-- What an entry into a handler leaves of a core that discarded its effects. -/
theorem Core.enterTrap_struckBy {c : Core} {a : Act} (ha : c.act = some a) (e : Entry) (resume pcf addr : W64) (crc : W16)
    (code : Byte) {d : Core} (hd : d = (c.struckBy pcf).enterTrap e resume pcf addr crc 0 code) {frame : Prop} (hframe : frame) :
    d.tspc = resume ∧ d.tsst = c.st ∧ d.tspx = c.px ∧ d.tsadr = addr ∧
    d.tsinf = crc ++ 0#8 ++ 0#12 ++ 0#11 ++ 1#1 ++ 0#8 ++ code ∧ d.pc = e.pc ∧ d.entered = .checked pcf ∧
    d.pl = 1 ∧ d.pp = false ∧ d.crc = 0xFFFF ∧ d.fltpc = pcf ∧
    d.act = c.act ∧ d.msgs = [] ∧ d.log = c.log.filter (fun x => !ownEntry a x) ∧
    d.a = c.a ∧ d.p = c.p ∧ d.q = c.q ∧ d.spad = c.spad ∧ d.lk = c.lk ∧ d.fm = c.fm ∧ d.srseed = c.srseed ∧ frame := by
  obtain ⟨w, hw⟩ := Core.struckBy_eq ha pcf
  rw [hd, hw]
  exact ⟨rfl, rfl, rfl, rfl, rfl, rfl, rfl, Core.pl_setPl _ _ (by decide), Core.pp_setPp_setPl _ _ _, rfl, rfl,
    rfl, rfl, rfl, rfl, rfl, rfl, rfl, rfl, rfl, rfl, hframe⟩

/-- What the trap registers of a core show whose address space is killed for want of a handler. -/
theorem Core.saveTrap_struckBy {c : Core} {a : Act} (ha : c.act = some a) (resume pcf addr : W64) (crc : W16) (code : Byte)
    {d : Core} (hd : d = (c.struckBy pcf).saveTrap resume addr crc 0 code) {frame : Prop} (hframe : frame) :
    d.tspc = resume ∧ d.tsadr = addr ∧ d.fltpc = pcf ∧ d.pc = c.pc ∧ d.act = some a ∧ d.msgs = [] ∧ frame := by
  obtain ⟨w, hw⟩ := Core.struckBy_eq ha pcf
  rw [hd, hw]
  exact ⟨rfl, rfl, rfl, rfl, ha, rfl, hframe⟩

theorem State.handler_setCore (s : State) (g n : Nat) (c : Core) (r : Region) (i : Nat) :
    (s.setCore g c).handler n r i = s.handler n r i := rfl

/-- The state in which a fault is in the trap registers of its core, and no handler is entered. -/
noncomputable def State.trapSaved (s : State) (g : Nat) (resume pcf addr : W64) (crc : W16) (code : Byte) : State :=
  (s.setCore g ((s.core g).struckBy pcf)).modCore g fun c => c.saveTrap resume addr crc 0 code

theorem State.replaced_trapSaved {s : State} (hs : KV.sorted s.cores = true) (g : Nat) (resume pcf addr : W64) (crc : W16)
    (code : Byte) :
    State.Replaced s g (((s.core g).struckBy pcf).saveTrap resume addr crc 0 code) (s.trapSaved g resume pcf addr crc code) :=
  ((State.Replaced.refl hs g).modCore (Core.struckBy · pcf)).modCore fun c => c.saveTrap resume addr crc 0 code

/-- What an escalation does with the entry it finds at FHIX. -/
noncomputable def State.escalateTo (s : State) (g : Nat) (h : Option Entry) (code : FCode) (resume pcf addr : W64) (crc : W16) :
    State :=
  match h with
  | none => (s.trapSaved g resume pcf addr crc code.code).kill (s.core g).asid 2 FCode.hempty.code
  | some e => if !e.sup then (s.trapSaved g resume pcf addr crc code.code).kill (s.core g).asid 2 FCode.priv.code
    else (s.setCore g ((s.core g).struckBy pcf)).modCore g fun c => c.enterTrap e resume pcf addr crc 0 code.code

/-- Step 2 of taking a fault, outside a gang (R426, R428). -/
theorem State.fault_escalate {s : State} {g : Nat} {a : Act} {r : Region} (ha : (s.core g).act = some a) (hg : a.gang = false)
    (hi : a.irrev = true) (htrap : (s.core g).trapActive = false) (hr : s.region a.rid = some r) (code : FCode)
    (resume pcf addr : W64) (crc : W16) :
    s.fault g code resume pcf addr crc =
      s.escalateTo g (s.handler (g / 64) r r.fhix) code resume pcf addr crc := by
  have hirr : s.irrevocable g = true := (State.irrevocable_single ha hg).trans hi
  have hfault : s.fault g code resume pcf addr crc = s.escalate g code resume pcf addr crc := by
    simp only [State.fault, ha, hirr, htrap, Bool.not_true, Bool.not_false, Bool.false_eq_true, if_false, if_true]
  have hescalate : s.escalate g code resume pcf addr crc = match (s.core g).act with
      | none => s
      | some a => match s.region a.rid with
        | none => s.setCore g ((s.core g).struckBy pcf)
        | some r => s.escalateTo g (s.handler (g / 64) r r.fhix) code resume pcf addr crc := rfl
  rw [hfault, hescalate, ha]
  dsimp only
  rw [hr]

/-- Step 3: a fault within a trap kills (R426, R435, R436). -/
theorem State.fault_kill {s : State} {g : Nat} {a : Act} (ha : (s.core g).act = some a) (hg : a.gang = false)
    (hi : a.irrev = true) (htrap : (s.core g).trapActive = true) (code : FCode) (resume pcf addr : W64) (crc : W16) :
    s.fault g code resume pcf addr crc = s.kill (s.core g).asid (if a.report then 3 else 1) code.code := by
  have hirr : s.irrevocable g = true := (State.irrevocable_single ha hg).trans hi
  simp only [State.fault, ha, hirr, htrap, Bool.not_true, Bool.false_eq_true, if_false]

/-- Where FHIX has no supervisor entry, an escalation kills the address space, with HEMPTY or PRIV. -/
theorem State.escalateTo_kill (s : State) (g : Nat) (h : Option Entry) (code : FCode) (resume pcf addr : W64) (crc : W16)
    (hh : h = none ∨ ∃ e, h = some e ∧ e.sup = false) :
    ∃ x : FCode, (h = none → x = .hempty) ∧ (∀ e, h = some e → x = .priv) ∧ s.escalateTo g h code resume pcf addr crc =
      (s.trapSaved g resume pcf addr crc code.code).kill (s.core g).asid 2 x.code := by
  rcases hh with rfl | ⟨e, rfl, hsup⟩
  · exact ⟨.hempty, fun _ => rfl, by simp, rfl⟩
  · exact ⟨.priv, by simp, fun _ _ => rfl, if_pos (by simp [hsup])⟩

/-- A kill of a living address space marks it with its cause and code. -/
theorem State.find_kill {s : State} {asid : W16} {r : Space} (h : KV.find s.spaces asid.toNat = some r) (hk : r.killed = false)
    (cause : Nat) (code : Byte) : ∃ r', KV.find (s.kill asid cause code).spaces asid.toNat = some r' ∧ r'.killed = true ∧
      r'.code = code ∧ r'.cause = cause := by
  rw [State.kill_spaces]
  simp only [h, hk, Bool.false_eq_true, if_false]
  exact ⟨_, KV.find_put_self _ _ _, rfl, rfl, rfl⟩

end Sys2Proof.Machine

namespace Sys2Proof.Spec
set_option Elab.async false
open Sys2Proof Sys2Proof.Machine

/-- Settles O13: an irrevocable activation's fault enters the handler of FHIX, or kills where there is none for it; a fault
within a trap kills. -/
theorem faultEscalatesOrKills : Obligations.FaultEscalatesOrKills := by
  unfold Obligations.FaultEscalatesOrKills
  refine ⟨?_, ?_, ?_⟩
  · intro s g code resume pcf addr crc a r e hs ha hg hi htrap hr he hsup c d
    have hu : s.fault g code resume pcf addr crc =
        (s.setCore g (c.struckBy pcf)).modCore g fun c => c.enterTrap e resume pcf addr crc 0 code.code := by
      rw [State.fault_escalate ha hg hi htrap hr, he, State.escalateTo]
      exact if_neg (by simp [hsup])
    have hrep := ((State.Replaced.refl hs g).modCore (Core.struckBy · pcf)).modCore
      fun c => c.enterTrap e resume pcf addr crc 0 code.code
    have hd : d = (c.struckBy pcf).enterTrap e resume pcf addr crc 0 code.code :=
      (congrArg (State.core · g) hu).trans hrep.core
    exact Core.enterTrap_struckBy ha e resume pcf addr crc code.code hd ⟨hu ▸ hrep.memory, hu ▸ hrep.frame⟩
  · intro s g code resume pcf addr crc a r k hs ha hg hi htrap hr hk hlive t dies
    have ht : t = s.escalateTo g (s.handler (g / 64) r r.fhix) code resume pcf addr crc :=
      State.fault_escalate ha hg hi htrap hr code resume pcf addr crc
    clear_value t
    have hmain (hh : s.handler (g / 64) r r.fhix = none ∨ ∃ e, s.handler (g / 64) r r.fhix = some e ∧ e.sup = false) :=
      State.escalateTo_kill s g _ code resume pcf addr crc hh
    have hdies (x : FCode) (hx : t = (s.trapSaved g resume pcf addr crc code.code).kill (s.core g).asid 2 x.code) : dies x := by
      have hspaces : KV.find (s.trapSaved g resume pcf addr crc code.code).spaces (s.core g).asid.toNat = some k := hk
      obtain ⟨k', hf, hkilled, hcode, hcause⟩ := State.find_kill hspaces hlive 2 x.code
      exact ⟨k', hx ▸ hf, hkilled, hcode, hcause⟩
    refine ⟨fun h => ?_, fun e h hsup => ?_, fun h => ?_⟩
    · obtain ⟨x, hx, -, he⟩ := hmain (.inl h)
      exact hdies _ (hx h ▸ ht.trans he)
    · obtain ⟨x, -, hx, he⟩ := hmain (.inr ⟨e, h, hsup⟩)
      exact hdies _ (hx e h ▸ ht.trans he)
    · obtain ⟨x, -, -, he⟩ := hmain h
      have hrep : State.Replaced s g _ t :=
        (ht.trans he) ▸ (State.replaced_trapSaved hs g resume pcf addr crc code.code).kill (s.core g).asid 2 x.code
      exact Core.saveTrap_struckBy ha resume pcf addr crc code.code hrep.core ⟨hrep.memory, hrep.frame⟩
  · intro s g code resume pcf addr crc a r ha hg hi htrap hk hlive t
    have ht : t = _ := State.fault_kill ha hg hi htrap code resume pcf addr crc
    obtain ⟨-, hm, hh, hc⟩ := State.kill_rest s (s.core g).asid (if a.report then 3 else 1) code.code
    rw [ht]
    exact ⟨State.find_kill hk hlive _ _, hc, fun x => by rw [hm], fun x => by rw [hh]⟩

end Sys2Proof.Spec
end

section
/-! PROOFS. The commit of an activation outside a gang (R301, R307, R313, R318). -/

namespace Sys2Proof.Machine
set_option Elab.async false

/-- A core with other packets waiting to be sent, and other counts of those sent. -/
noncomputable def Core.withSent (c : Core) (o : List Packet) (n : List (Nat × Nat)) : Core := { c with outbox := o, sent := n }

/-- What a core keeps while its messages are released: all but what waits to be sent and the counts of what was sent. -/
structure Core.Posted (ms : List OutMsg) (c d : Core) : Prop where
  outbox : ∃ ps : List Packet, d.outbox = c.outbox ++ ps ∧
    ps.map (fun p => (p.tgt, p.plen, p.words)) = ms.map fun m => (m.tgt, m.plen, m.words)
  rest : ∃ o n, d = c.withSent o n

theorem Core.Posted.trans {ms ns : List OutMsg} {c d e : Core} (h : Core.Posted ms c d) (k : Core.Posted ns d e) :
    Core.Posted (ms ++ ns) c e := by
  obtain ⟨⟨ps, ho, hp⟩, o, n, rfl⟩ := h
  obtain ⟨⟨qs, ho', hq⟩, o', n', rfl⟩ := k
  exact ⟨⟨ps ++ qs, by rw [ho', ho, List.append_assoc], by rw [List.map_append, List.map_append, hp, hq]⟩, o', n', rfl⟩

theorem Core.Posted.refl (c : Core) : Core.Posted [] c c := ⟨⟨[], (List.append_nil _).symm, rfl⟩, c.outbox, c.sent, rfl⟩

theorem Core.Posted.sent (c : Core) (n : List (Nat × Nat)) : Core.Posted [] c { c with sent := n } :=
  ⟨⟨[], (List.append_nil _).symm, rfl⟩, c.outbox, n, rfl⟩

theorem Core.Posted.post (c : Core) (p : Packet) (m : OutMsg) (h : (p.tgt, p.plen, p.words) = (m.tgt, m.plen, m.words)) :
    Core.Posted [m] c { c with outbox := c.outbox ++ [p] } :=
  ⟨⟨[p], rfl, congrArg (fun x => [x]) h⟩, c.outbox ++ [p], c.sent, rfl⟩

/-- What a step of a release leaves: rising cores, core g as `Posted` says, memory as it was. -/
structure State.Posted (g : Nat) (ms : List OutMsg) (s t : State) : Prop where
  sorted : KV.sorted t.cores = true
  core : Core.Posted ms (s.core g) (t.core g)
  memories : t.memories = s.memories

theorem State.Posted.trans {g : Nat} {ms ns : List OutMsg} {s t u : State} (h : State.Posted g ms s t)
    (k : State.Posted g ns t u) : State.Posted g (ms ++ ns) s u :=
  ⟨k.sorted, h.core.trans k.core, k.memories.trans h.memories⟩

theorem State.Posted.of_cores {g : Nat} {ms : List OutMsg} {s t u : State} (h : State.Posted g ms s t) (hc : u.cores = t.cores)
    (hm : u.memories = t.memories) : State.Posted g ms s u :=
  have hcore : u.core g = t.core g := by rw [State.core, hc]; rfl
  ⟨hc ▸ h.sorted, hcore ▸ h.core, hm.trans h.memories⟩

/-- One core changes, by what `Posted` allows. -/
theorem State.Posted.modCore {s : State} (hs : KV.sorted s.cores = true) (g k : Nat) {ms : List OutMsg} {f : Core → Core}
    (hf : k = g → Core.Posted ms (s.core g) (f (s.core g))) (hne : k ≠ g → ms = []) : State.Posted g ms s (s.modCore k f) := by
  refine ⟨State.sorted_setCore hs _ _, ?_, rfl⟩
  by_cases h : k = g
  · subst h
    rw [State.core_modCore_self hs]
    exact hf rfl
  · rw [State.core_modCore_ne (Ne.symm h), hne h]
    exact Core.Posted.refl _

/-- Releasing a message puts its packet behind those of its core, and counts it at the core of its logical number. -/
theorem State.release_posted {s : State} (hs : KV.sorted s.cores = true) (g : Nat) (a : Act) (m : OutMsg) :
    State.Posted g [m] s (s.release g a m) := by
  let u := s.modCore a.lcn.toNat fun c =>
    { c with sent := KV.put (destKey m.tgt) (KV.get 0 (s.core a.lcn.toNat).sent (destKey m.tgt) + 1) c.sent }
  have hcount : State.Posted g [] s u := State.Posted.modCore hs g _ (fun _ => Core.Posted.sent _ _) fun _ => rfl
  have hpost (p : Packet) (hp : (p.tgt, p.plen, p.words) = (m.tgt, m.plen, m.words)) :
      State.Posted g [m] s (u.modCore g fun c => { c with outbox := c.outbox ++ [p] }) :=
    hcount.trans (State.Posted.modCore hcount.sorted g g (fun _ => Core.Posted.post _ p m hp) fun h => absurd rfl h)
  exact (hpost _ rfl).of_cores rfl rfl

theorem State.foldl_release_posted {s : State} (hs : KV.sorted s.cores = true) (g : Nat) (a : Act) (ms : List OutMsg) :
    State.Posted g ms s (ms.foldl (fun t m => t.release g a m) s) := by
  induction ms generalizing s with
  | nil => exact ⟨hs, Core.Posted.refl _, rfl⟩
  | cons m ms ih =>
    have h := State.release_posted hs g a m
    rw [List.foldl_cons]
    exact (h.trans (ih h.sorted) : State.Posted g ([m] ++ ms) s _)

/-- The log of a core with the entries of an activation committed. -/
noncomputable def Core.committed (c : Core) (a : Act) : Core :=
  { c with log := c.log.map fun e => if ownEntry a e then { e with committed := true } else e }

/-- The trigger of the activation that a core runs leaves its queue. -/
noncomputable def Core.leaveOwn (c : Core) : Core :=
  match c.act with
  | some b => c.leave b
  | none => c

/-- The state in which the messages of a core's activation have left. -/
noncomputable def State.allSent (s : State) (g : Nat) (a : Act) : State := (s.core g).msgs.foldl (fun t m => t.release g a m) s

/-- The state in which the activation of a core has committed, before the queues are noted. -/
noncomputable def State.ownCommitted (s : State) (g n : Nat) (a : Act) : State :=
  ((((((s.allSent g a).modCore g fun c => c.committed a).addSpc (g / 64) a.rid ((n : Int) - 1)).countRecv (g / 64) a.rid
    1).modCore g Core.leaveOwn).modCore g Core.finish)

/-- The commit of an activation outside a gang. -/
theorem State.commitAll_single {s : State} {g : Nat} {a : Act} (ha : (s.core g).act = some a) (hg : a.gang = false) (n : Nat) :
    s.commitAll g n = (s.ownCommitted g n a).noteWaits g := by
  have hcommit : s.commitCore g = (s.allSent g a).modCore g fun c => c.committed a := by
    simp only [State.commitCore, ha]
    rfl
  simp only [State.commitAll, ha, State.actCores_single ha hg, State.trigCore_single ha hg, List.foldl_cons, List.foldl_nil, hcommit]
  rfl

/-- The core of an activation outside a gang, committed, with its trigger gone and its end made. -/
noncomputable def Core.commitOwn (a : Act) (c : Core) : Core := ((c.committed a).leaveOwn).finish

theorem Core.leaveOwn_eq {c : Core} {a : Act} (ha : c.act = some a) : c.leaveOwn = c.leave a := by
  rw [Core.leaveOwn, ha]

/-- What a commit leaves of its core, once its queues are noted. -/
theorem Core.commitOwn_ended {c d e : Core} {a : Act} (ha : c.act = some a) (hb : a.brec < 8) (h : Core.Posted c.msgs c d)
    (hn : Core.Noted true (d.commitOwn a) e) {frame : Prop} (hframe : frame) :
    e.act = none ∧ e.msgs = [] ∧ e.journal = [] ∧ (∀ k, e.queue k = []) ∧ e.log = (c.committed a).log ∧
      e.outbox.take c.outbox.length = c.outbox ∧
      ((e.outbox.drop c.outbox.length).map fun p => (p.tgt, p.plen, p.words)) = c.msgs.map (fun m => (m.tgt, m.plen, m.words)) ∧
      (a.report = false → (e.rq a.brec).tries = 0) ∧ e.trapActive = false ∧ e.spad = c.spad ∧ frame := by
  obtain ⟨⟨ps, hps, hcarried⟩, o, n, rfl⟩ := h
  obtain ⟨⟨b, r, gt, pst, pc, k, rfl⟩, hrec⟩ := hn
  obtain ⟨q, hq⟩ := Core.leave_eq ((c.withSent o n).committed a) a
  have hown : (c.withSent o n).commitOwn a = (((c.withSent o n).committed a).leave a).finish := by
    rw [Core.commitOwn, Core.leaveOwn_eq (c := (c.withSent o n).committed a) ha]
  have hsent : ((c.withSent o n).commitOwn a).outbox = c.outbox ++ ps := by rw [hown, hq]; exact hps
  refine ⟨rfl, rfl, rfl, Core.queue_replicate rfl, ?_, (congrArg (List.take _) hsent).trans List.take_left,
    (congrArg (fun o => (List.drop c.outbox.length o).map _) hsent).trans ((congrArg (List.map _) List.drop_left).trans hcarried),
    fun hrep => (hrec a.brec).2.1.trans ?_, trapActive_cleared rfl, ?_, hframe⟩
  · show ((c.withSent o n).commitOwn a).log = _
    rw [hown, hq]; rfl
  · rw [hown, Core.leave, if_neg (by rw [hrep]; decide)]
    exact congrArg RecQ.tries (Core.rq_setRec_self (Core.committed _ a) hb _)
  · show ((c.withSent o n).commitOwn a).spad = _
    rw [hown, hq]; rfl

theorem State.memories_counted (s : State) (n m : Nat) (rid rid' : W16) (i : Int) (k : Nat) :
    ((s.addSpc n rid i).countRecv m rid' k).memories = s.memories := rfl

theorem State.replaced_committed {s : State} {g : Nat} {a : Act} (hs : KV.sorted (s.allSent g a).cores = true) (n : Nat) :
    State.Replaced (s.allSent g a) g (((s.allSent g a).core g).commitOwn a) (s.ownCommitted g n a) := by
  have hlog := (State.Replaced.refl hs g).modCore fun c => c.committed a
  have hcount := hlog.of_cores (State.cores_counted _ (g / 64) (g / 64) a.rid a.rid ((n : Int) - 1) 1)
    (State.memories_counted _ (g / 64) (g / 64) a.rid a.rid ((n : Int) - 1) 1)
  exact (hcount.modCore Core.leaveOwn).modCore Core.finish

end Sys2Proof.Machine

namespace Sys2Proof.Spec
set_option Elab.async false
open Sys2Proof Sys2Proof.Machine

/-- Settles O17: releasing each message posts its packet, the end of the activation clears what was its, and noting the
queues keeps all that. -/
theorem commitReleasesAll : Obligations.CommitReleasesAll := by
  unfold Obligations.CommitReleasesAll
  intro s n a hs ha hg hb g c t d
  have hsent : State.Posted g c.msgs s (s.allSent g a) := State.foldl_release_posted hs g a c.msgs
  have hown := State.replaced_committed hsent.sorted n
  have ht : t = (s.ownCommitted g n a).noteWaits g := State.commitAll_single ha hg n
  have hnote : Core.Noted true (((s.allSent g a).core g).commitOwn a) d := by
    rw [← hown.core]
    show Core.Noted true _ (t.core g)
    rw [ht]
    exact (State.Noted.noteWaits (keep := true) (P := fun _ => True) _ trivial fun _ _ => trivial).noted hown.sorted g
  have hmem : t.memories = s.memories := by
    rw [ht]; exact (State.memories_noteWaits _ g).trans (hown.memories.trans hsent.memories)
  exact Core.commitOwn_ended ha hb hsent.core hnote
    ⟨fun x => congrArg (Memory.get · x) (Prod.ext_iff.1 hmem).1, fun x => congrArg (KV.get 0 · x) (Prod.ext_iff.1 hmem).2⟩

end Sys2Proof.Spec
end

section
/-! PROOFS. A kill where the list of chiplets is not in rising order: the statement of O38 does not ask that it is. -/

namespace Sys2Proof.Machine
set_option Elab.async false

theorem Vector.getD_replicate_self {α : Type} (n i : Nat) (x : α) : (Vector.replicate n x).getD i x = x := by
  by_cases hi : i < n <;> simp [Vector.getD, hi]

/-- A reset engine holds nothing that a kill could take. -/
theorem Mxe.killed_reset (asid : W16) : Mxe.reset.killed asid = Mxe.reset := by
  have hofFn (p : Fin 16 → Bool) {n : Nat} : (Vector.ofFn fun i : Fin 16 => if p i then (0 : BitVec n)
      else (Vector.replicate 16 0).getD i.val 0) = Vector.replicate 16 0 := by
    ext i hi
    simp [Vector.getD_replicate_self]
  have hdead (b : Nat) : bindV (Mxe.reset.bind.getD b 0) = false := by
    rw [Mxe.reset, Vector.getD_replicate_self]; rfl
  have hheld : Mxe.reset.held &&& ~~~(BitVec.ofNat 16 (bitsNat ((List.range 16).map fun _ => false))) = Mxe.reset.held :=
    BitVec.zero_and
  simp only [Mxe.killed, hdead, Bool.false_and, Bool.and_false, Bool.false_eq_true, if_false]
  rw [hheld, show (Vector.ofFn fun i : Fin 16 => Mxe.reset.bind.getD i.val 0) = Mxe.reset.bind from hofFn fun _ => false,
    show (Vector.ofFn fun i : Fin 16 => Mxe.reset.rid.getD i.val 0) = Mxe.reset.rid from hofFn fun _ => false]
  rw [Vector.map_id']
  rfl

theorem Chip.killed_reset (asid : W16) : Chip.reset.killed asid [] = Chip.reset := by
  have hret : Chip.reset.rctl.map (fun w => if retV w && retAsid w == asid then w &&& 0x7FFFFFFFFFFFFFFF else w) = Chip.reset.rctl := by
    rw [Chip.reset, Vector.map_replicate, if_neg (by simp [retV])]
  have hmxe : Chip.reset.mxe.map (fun x => x.killed asid) = Chip.reset.mxe := by
    rw [Chip.reset, Vector.map_replicate, Mxe.killed_reset]
  have hce : Chip.reset.ceIn.map (fun l => l.filter fun c => c.asid != asid) = Chip.reset.ceIn := by
    rw [Chip.reset, Vector.map_replicate, List.filter_nil]
  rw [Chip.killed, Chip.mapTlbs]
  dsimp only
  rw [hret, hmxe, hce]
  rfl

/-- An address space whose kill chiplet 0 has still to carry out. -/
noncomputable def Space.dying : Space := ⟨0, 0, 0, true, [0], 1, 0, false⟩

/-- A chiplet with a packet of address space 1 to send. -/
noncomputable def Chip.sending : Chip := { Chip.reset with sendq := [{ Packet.zero with asid := 1 }] }

/-- Chiplet 0 stands twice in the list, the second time with a packet to send. -/
noncomputable def State.twice : State := { State.reset with spaces := [(1, Space.dying)], chips := [(0, Chip.reset), (0, Chip.sending)] }

theorem State.killAt_twice : (State.twice.killAt 0 1#16).chip 0 = Chip.sending := by
  have hchips : (State.twice.killAt 0 1#16).chips = KV.putD Chip.reset 0 (Chip.reset.killed 1 []) State.twice.chips := rfl
  rw [State.chip, hchips, Chip.killed_reset, KV.putD, if_pos rfl]
  rfl

end Sys2Proof.Machine

namespace Sys2Proof.Spec
set_option Elab.async false
open Sys2Proof Sys2Proof.Machine

/-- Refutes O38: where the list of chiplets holds chiplet 0 twice, the kill deletes the first entry, which has nothing in it
and is the reset chiplet; the second, with a packet of the address space, is what chiplet 0 then reads as. -/
theorem not_killCompletes : ¬ Obligations.KillCompletes := by
  unfold Obligations.KillCompletes
  intro h
  obtain ⟨-, -, -, -, -, -, -, hchip, -⟩ := h.1 0 1 Space.dying State.twice rfl rfl rfl rfl rfl (by decide) rfl
  obtain ⟨-, -, -, -, hsend, -⟩ := hchip _ rfl
  exact hsend { Packet.zero with asid := 1 } (State.killAt_twice ▸ List.mem_singleton.2 rfl) rfl

end Sys2Proof.Spec
end

section
/-! PROOFS. Branches, loops, calls and returns (R331 to R333, R341). -/

namespace Sys2Proof.Machine
set_option Elab.async false

/-- The body of a BR-format instruction: its signature, its condition, the gang's step, the transfer (R333). -/
noncomputable def brBody (i : Instr) (f : BR) (cond : State → Except Exn (State × Option W64)) (s : State) : Except Exn Res :=
  if !(s.core s.self).sigOk i f.sig then .error (.flt .sigm 0)
  else do
    let (t, target) ← cond s
    let t ← t.gangStep s.self (target.getD (nextSlot (s.core s.self).pc))
    match target with
    | some x => .ok (.gone (t.modCore s.self fun c => c.jump x))
    | none => .ok (.gone (t.modCore s.self fun c => c.retire i true false none))

theorem brRow2_eq (i : Instr) (f : BR) (legal : Bool) (cond : State → Except Exn (State × Option W64)) (s : State) :
    brRow2 i f legal cond s = coreRow i (fun _ => ⟨false, false, legal, usesOf [f.co, f.ax]⟩) (brBody i f cond) s := rfl

/-- A BR-format instruction whose signature is not its block's raises SIGM (R333). -/
theorem brRow2_sigm {i : Instr} {f : BR} {cond : State → Except Exn (State × Option W64)} {s : State}
    (hr : s.canIssue i false false [f.co, f.ax] = true) (hs : (s.core s.self).sigOk i f.sig = false) :
    brRow2 i f true cond s = .next (s.faultAt s.self .sigm 0) :=
  (brRow2_eq i f true cond s).trans (coreRow_fault rfl hr (if_pos (by simp [hs])))

/-- One with illegal fields raises IILL, whatever its signature (R53). -/
theorem brRow2_illegal {i : Instr} {f : BR} {cond : State → Except Exn (State × Option W64)} {s : State}
    (hr : s.canIssue i false false [f.co, f.ax] = true) :
    brRow2 i f false cond s = .next (s.faultAt s.self .iill 0) :=
  (brRow2_eq i f false cond s).trans (coreRow_illegal _ rfl hr)

/-- One whose condition faults is taken at its slot. -/
theorem brRow2_fault {i : Instr} {f : BR} {cond : State → Except Exn (State × Option W64)} {s : State} {x : FCode} {a : W64}
    (hr : s.canIssue i false false [f.co, f.ax] = true) (hs : (s.core s.self).sigOk i f.sig = true)
    (hc : cond s = .error (.flt x a)) : brRow2 i f true cond s = .next (s.faultAt s.self x a) := by
  refine (brRow2_eq i f true cond s).trans (coreRow_fault rfl hr ?_)
  rw [brBody, if_neg (by simp [hs]), hc]; rfl

/-- What the gang does at a branch (R341). -/
theorem State.gangStep_alone {t : State} {g : Nat} {a : Act} (ha : (t.core g).act = some a)
    (h : a.gang = false ∨ (t.core g).trapActive = true) (next : W64) : t.gangStep g next = .ok t := by
  rw [State.gangStep, ha]
  rcases h with h | h <;> simp [h]

section
variable {t : State} {g : Nat} {a : Act} (ha : (t.core g).act = some a)
  (h : ¬(a.gang = false ∨ (t.core g).trapActive = true)) (next : W64)
include ha h

theorem State.gangStep_leader (hl : a.leader = true) : t.gangStep g next =
    .ok ((t.followers g).foldl (fun u k => u.modCore k fun c => { c with gpath := c.gpath ++ [next] }) t) := by
  have hcond : (!a.gang || (t.core g).trapActive) = false := by simpa using h
  simp only [State.gangStep, ha, hcond, hl, Bool.false_eq_true, if_false, if_true]

theorem State.gangStep_detached (hl : a.leader = false) (hd : a.detached = true) : t.gangStep g next = .ok t := by
  have hcond : (!a.gang || (t.core g).trapActive) = false := by simpa using h
  simp only [State.gangStep, ha, hcond, hl, hd, Bool.false_eq_true, if_false, if_true]

/-- An attached member follows its leader's path, or detaches. -/
theorem State.gangStep_member (hl : a.leader = false) (hd : a.detached = false) :
    (∀ p l, (t.core g).gpath = p :: l → t.gangStep g next =
      if p = next then .ok (t.modCore g fun c => { c with gpath := l }) else .ok (t.modCore g Core.detach)) ∧
    ((t.core g).gpath = [] → t.leaderRuns g = false → t.gangStep g next = .ok (t.modCore g Core.detach)) := by
  have hcond : (!a.gang || (t.core g).trapActive) = false := by simpa using h
  refine ⟨fun p l hp => ?_, fun hp hr => ?_⟩
  · simp only [State.gangStep, ha, hcond, hl, hd, hp, Bool.false_eq_true, if_false]
  · simp only [State.gangStep, ha, hcond, hl, hd, hp, hr, Bool.false_eq_true, if_false]

end

end Sys2Proof.Machine

namespace Sys2Proof.Spec
set_option Elab.async false
open Sys2Proof Sys2Proof.Machine

/-- One whose condition gives a state and a target goes there once its gang allows it. -/
theorem brRow2_goes {i : Instr} {f : BR} {cond : State → Except Exn (State × Option W64)} {s t u : State} {target : Option W64}
    (hr : s.canIssue i false false [f.co, f.ax] = true) (hs : (s.core s.self).sigOk i f.sig = true)
    (hc : cond s = .ok (t, target)) (hg : t.gangStep s.self (target.getD (nextSlot (s.core s.self).pc)) = .ok u) :
    brRow2 i f true cond s = .next (goesTo u s.self i target) := by
  refine (brRow2_eq i f true cond s).trans (coreRow_gone rfl hr ?_)
  rw [brBody, if_neg (by simp [hs]), hc]
  show (do let t ← t.gangStep s.self (target.getD (nextSlot (s.core s.self).pc)); _) = _
  rw [hg]
  induction target <;> rfl

/-- A branch whose condition gives a state and a target transfers as its gang lets it. -/
theorem transfers_of {i : Instr} {f : BR} {legal : Bool} {cond : State → Except Exn (State × Option W64)} {s t : State}
    {target : Option W64} (hx : exec i s = brRow2 i f legal cond s) (hl : legal = true) (hr : brReady s i f) (hc : cond s = .ok (t, target)) : transfers s i t target := by
  subst hl
  unfold transfers
  intro g next a ha alone member
  have hgo {u : State} (hg : t.gangStep g next = .ok u) : exec i s = .next (goesTo u g i target) :=
    hx.trans (brRow2_goes hr.1 hr.2 hc hg)
  refine ⟨fun h => ?_, fun h hl => hgo (State.gangStep_leader ha h next hl), fun l h hp => ?_, fun p l h hp hne => ?_,
    fun h hp hrun => ?_⟩
  · by_cases hal : alone
    · exact hgo (State.gangStep_alone ha hal next)
    · obtain ⟨hl, hd⟩ := h.resolve_left hal
      exact hgo (State.gangStep_detached ha hal next hl hd)
  · obtain ⟨hal, hl, hd⟩ := h
    exact hgo (((State.gangStep_member ha hal next hl hd).1 next l hp).trans (if_pos rfl))
  · obtain ⟨hal, hl, hd⟩ := h
    exact hgo (((State.gangStep_member ha hal next hl hd).1 p l hp).trans (if_neg hne))
  · obtain ⟨hal, hl, hd⟩ := h
    exact hgo ((State.gangStep_member ha hal next hl hd).2 hp hrun)

/-- The word that a branch tests is the one it names. -/
theorem testWord_eq {c : Core} {f : BR} (hw : wordThere c f) {pn : Bool} (hl : testLegal f pn = true) :
    c.testWord f = .ok (branchWord c f) := by
  have hlocal (h : branchLocal f.co = true) : c.checkLocal (c.opAddr 4 f.co) 4 4 = .ok () ∧
      c.readable (c.opAddr 4 f.co).toNat 4 = .ok () := ⟨(hw h).1, by rw [Core.readable, if_pos (hw h).2]⟩
  unfold Core.testWord branchWord
  unfold testLegal at hl
  induction hco : f.co <;> rw [hco] at hlocal hl
  case mem => dsimp only; rw [(hlocal rfl).1, (hlocal rfl).2]
  case off => dsimp only; rw [(hlocal rfl).1, (hlocal rfl).2]
  all_goals simp [branchLocal] at hl

/-- A branch on a word has its bank woken and transfers where its test holds. -/
theorem testBranch_eq {s : State} {f : BR} (hw : wordThere (s.core s.self) f) {pn : Bool} (hl : testLegal f pn = true)
    (p : Nat → Bool → Bool) :
    testBranch f p s = .ok (tested s f, if p (branchWord (s.core s.self) f).1 (branchWord (s.core s.self) f).2 then
      some (slotPlus (s.core s.self).pc f.off) else none) := by
  rw [testBranch, testWord_eq hw hl]; rfl

/-- A conditional branch on a word transfers as its test says. -/
theorem transfers_test {i : Instr} {f : BR} {pn : Bool} {p : Nat → Bool → Bool} {s : State} {o : Option W64}
    (hx : exec i s = brRow2 i f (testLegal f pn) (testBranch f p) s) (hr : brReady s i f)
    (hw : wordThere (s.core s.self) f) (hl : testLegal f pn = true)
    (ho : (if p (branchWord (s.core s.self) f).1 (branchWord (s.core s.self) f).2 then
      some (slotPlus (s.core s.self).pc f.off) else none) = o) : transfers s i (tested s f) o := by
  refine transfers_of hx hl hr ?_
  rw [testBranch_eq hw hl, ho]

/-- Each BR-format row is one of `brRow2`'s, with the field rules of `brLegal`, or ends the activation. -/
theorem exec_brRow {f : BR} {i : Instr}
    (hi : i ∈ [Instr.br f, .bz f, .bnz f, .bv f, .bnv f, .bqe f, .bqne f, .loop f, .call f, .calli f, .ret f, .hend f, .migr f]) :
    (∃ cond, ∀ s, exec i s = brRow2 i f (brLegal i) cond s) ∨ ∃ pre, ∀ s, exec i s = endRow i f (brLegal i) pre s := by
  simp only [List.mem_cons, List.not_mem_nil, or_false] at hi
  rcases hi with rfl | rfl | rfl | rfl | rfl | rfl | rfl | rfl | rfl | rfl | rfl | rfl | rfl
  case inr.inr.inr.inr.inr.inr.inr.inr.inr.inr.inr.inl => exact .inr ⟨fun s => .ok s, fun _ => rfl⟩
  case inr.inr.inr.inr.inr.inr.inr.inr.inr.inr.inr.inr => exact .inr ⟨migrPre f, fun _ => rfl⟩
  all_goals exact .inl ⟨_, fun _ => rfl⟩

theorem exec_br (f : BR) (s : State) : exec (.br f) s = execBr f s := rfl
theorem exec_bz (f : BR) (s : State) : exec (.bz f) s = execBz f s := rfl
theorem exec_bnz (f : BR) (s : State) : exec (.bnz f) s = execBnz f s := rfl
theorem exec_bv (f : BR) (s : State) : exec (.bv f) s = execBv f s := rfl
theorem exec_bnv (f : BR) (s : State) : exec (.bnv f) s = execBnv f s := rfl
theorem exec_bqe (f : BR) (s : State) : exec (.bqe f) s = execBqe f s := rfl
theorem exec_bqne (f : BR) (s : State) : exec (.bqne f) s = execBqne f s := rfl
theorem exec_loop (f : BR) (s : State) : exec (.loop f) s = execLoop f s := rfl
theorem exec_call (f : BR) (s : State) : exec (.call f) s = execCall f s := rfl
theorem exec_calli (f : BR) (s : State) : exec (.calli f) s = execCalli f s := rfl
theorem exec_ret (f : BR) (s : State) : exec (.ret f) s = execRet f s := rfl

theorem queueLegal_queue {f : BR} {n : BitVec 3} (hco : f.co = .queue n) (hcnd : f.cnd = 0) (hax : f.ax = .zero) :
    queueLegal f = true := by
  simp [queueLegal, hco, hcnd, hax]

theorem endRow_sigm {i : Instr} {f : BR} {legal : Bool} {pre : State → Except Exn State} {s : State} (hl : legal = true)
    (hr : s.canIssue i false false [f.co, f.ax] = true) (hs : (s.core s.self).sigOk i f.sig = false) :
    endRow i f legal pre s = .next (s.faultAt s.self .sigm 0) := by
  subst hl
  exact coreRow_fault rfl hr (if_pos (by simp [hs]))

theorem endRow_illegal {i : Instr} {f : BR} {legal : Bool} {pre : State → Except Exn State} {s : State} (hl : legal = false)
    (hr : s.canIssue i false false [f.co, f.ax] = true) : endRow i f legal pre s = .next (s.faultAt s.self .iill 0) := by
  subst hl
  exact coreRow_illegal _ rfl hr

/-- A branch whose condition faults is taken at its slot. -/
theorem brFault_of {i : Instr} {f : BR} {legal : Bool} {cond : State → Except Exn (State × Option W64)} {s : State} {x : FCode}
    {a : W64} (hx : exec i s = brRow2 i f legal cond s) (hl : legal = true) (hr : brReady s i f)
    (hc : cond s = .error (.flt x a)) : exec i s = .next (s.faultAt s.self x a) := by
  subst hl
  exact hx.trans (brRow2_fault hr.1 hr.2 hc)

/-- Settles O15: every row's condition gives its state and target, and the gang's step decides how it goes there. -/
theorem branchesComplete : Obligations.BranchesComplete := by
  unfold Obligations.BranchesComplete
  refine ⟨fun f s => ?_, fun f s hcnd => ?_, fun f s i hi hr => ?_⟩
  · dsimp only
    refine ⟨fun hr hcnd hab => ?_, fun hw => ⟨fun hr hl => ?_, fun hr hl => ?_, fun hr hl => ?_, fun hr hl => ?_⟩,
      fun n hco hcnd hax => ⟨fun hr => ?_, fun hr => ?_⟩⟩
    · exact transfers_of (exec_br f s) (by simp [hcnd, hab]) hr rfl
    · exact transfers_test (exec_bz f s) hr hw hl (by simp)
    · exact transfers_test (exec_bnz f s) hr hw hl (by simp)
    · exact transfers_test (exec_bv f s) hr hw hl rfl
    · refine transfers_test (exec_bnv f s) hr hw hl ?_
      obtain ⟨⟩ := (branchWord (s.core s.self) f).2 <;> rfl
    · refine transfers_of (exec_bqe f s) (queueLegal_queue hco hcnd hax) hr ?_
      simp only [queueBranch, hco, beq_true, List.isEmpty_iff]; rfl
    · refine transfers_of (exec_bqne f s) (queueLegal_queue hco hcnd hax) hr ?_
      have hempty : ((s.core s.self).queue n).isEmpty = false ↔ ¬(s.core s.self).queue n = [] := by
        rw [← List.isEmpty_iff, Bool.not_eq_true]
      simp only [queueBranch, hco, beq_iff_eq, hempty, ite_not]; rfl
  · intro c dest linked
    refine ⟨fun n ds hco hax => ⟨fun hr => ?_, fun hr hoff => ⟨fun hok => ?_, fun hok => ?_⟩⟩,
      fun hab => ⟨fun hr => ?_, fun hr hoff => ⟨fun hok => ?_, fun hok => ?_⟩⟩⟩
    · refine transfers_of (exec_loop f s) (by simp [hcnd, hco, hax, isRegOp]) hr ?_
      rw [hco]; rfl
    · refine transfers_of (exec_calli f s) (by simp [hcnd, hco, hax, hoff, isRegOp]) hr ?_
      rw [hco]; exact if_pos hok
    · refine brFault_of (exec_calli f s) (by simp [hcnd, hco, hax, hoff, isRegOp]) hr ?_
      rw [hco]; exact if_neg (Bool.eq_false_iff.1 hok)
    · exact transfers_of (exec_call f s) (by simp [hcnd, hab]) hr rfl
    · exact transfers_of (exec_ret f s) (by simp [hcnd, hab, hoff]) hr (if_pos hok)
    · exact brFault_of (exec_ret f s) (by simp [hcnd, hab, hoff]) hr (if_neg (Bool.eq_false_iff.1 hok))
  · obtain ⟨cond, hx⟩ | ⟨pre, hx⟩ := exec_brRow hi
    · exact ⟨fun hl hs => (hx s).trans (hl ▸ brRow2_sigm hr hs), fun hl => (hx s).trans (hl ▸ brRow2_illegal hr)⟩
    · exact ⟨fun hl hs => (hx s).trans (endRow_sigm hl hr hs), fun hl => (hx s).trans (endRow_illegal hl hr)⟩

end Sys2Proof.Spec
end

section
/-! PROOFS. HEND and MIGR (R301, R307, R309, R325 to R327). -/

namespace Sys2Proof.Machine
set_option Elab.async false

/-- The instruction that ends an activation is gone once its end is made. -/
theorem endRow_gone {i : Instr} {f : BR} {legal : Bool} {pre : State → Except Exn State} {s t u : State} (hl : legal = true)
    (hr : s.canIssue i false false [f.co, f.ax] = true) (hs : (s.core s.self).sigOk i f.sig = true) (hp : pre s = .ok t)
    (hh : t.hend s.self = .ok (.gone u)) : endRow i f legal pre s = .next u := by
  subst hl
  refine coreRow_gone rfl hr ?_
  rw [if_neg (by simp [hs]), hp]
  exact hh

theorem endRow_fault {i : Instr} {f : BR} {legal : Bool} {pre : State → Except Exn State} {s t : State} {x : FCode} {v : W64}
    (hl : legal = true) (hr : s.canIssue i false false [f.co, f.ax] = true) (hs : (s.core s.self).sigOk i f.sig = true)
    (hp : pre s = .ok t) (hh : t.hend s.self = .error (.flt x v)) : endRow i f legal pre s = .next (s.faultAt s.self x v) := by
  subst hl
  refine coreRow_fault rfl hr ?_
  rw [if_neg (by simp [hs]), hp]
  exact hh

/-- The spawn limit of a region. -/
noncomputable def State.spawnLimit (s : State) (rid : W16) : Int :=
  match s.region rid with
  | some r => (r.spwn : Int)
  | none => 0

/-- The messages that the members of an activation spawn. -/
noncomputable def State.spawns (s : State) (g : Nat) : Nat := ((s.actCores g).map fun k => (s.core k).spawned).sum

/-- The end of the activation that core g runs. -/
noncomputable def State.hendOf (s : State) (g : Nat) : Option Act → Except Exn Res
  | none => .ok (.gone s)
  | some a =>
    if (!(s.core g).pend.isEmpty || s.queueOwed g none) = true then .error .stall
    else if (a.gang && s.othersRun g) = true then
      .ok (.gone (s.setCore g { s.core g with act := some { a with ended := true }, wait := .none, safe := none }))
    else if s.spawnLimit a.rid < (s.team (g / 64) a.rid).spc + s.spawns g - 1 then .error (.flt .spawn 0)
    else .ok (.gone (s.commitAll g (s.spawns g)))

theorem State.hend_eq_hendOf (s : State) (g : Nat) : s.hend g = s.hendOf g (s.core g).act := rfl

/-- The end of an activation to which nothing is owed. -/
theorem State.hend_eq {s : State} {g : Nat} {a : Act} (ha : (s.core g).act = some a) (hp : (s.core g).pend = [])
    (hq : s.queueOwed g none = false) :
    s.hend g = if (a.gang && s.othersRun g) = true then
        .ok (.gone (s.setCore g { s.core g with act := some { a with ended := true }, wait := .none, safe := none }))
      else if s.spawnLimit a.rid < (s.team (g / 64) a.rid).spc + s.spawns g - 1 then .error (.flt .spawn 0)
      else .ok (.gone (s.commitAll g (s.spawns g))) :=
  ((s.hend_eq_hendOf g).trans (congrArg (s.hendOf g) ha)).trans (if_neg (by rw [hp, hq]; exact Bool.false_ne_true))

/-- A message that fits joins those of its core. -/
theorem Core.bufferMsg_ok {c : Core} (m : OutMsg) (h : c.msgs.length < 64) (ho : c.msgs.length + c.outbox.length < 128) :
    c.bufferMsg m = .ok { c with msgs := c.msgs ++ [m] } := (if_neg (Nat.not_le.2 h)).trans (if_neg (Nat.not_le.2 ho))

end Sys2Proof.Machine

namespace Sys2Proof.Spec
set_option Elab.async false
open Sys2Proof Sys2Proof.Machine

theorem exec_hend (f : BR) (s : State) : exec (.hend f) s = execHend f s := rfl
theorem exec_migr (f : BR) (s : State) : exec (.migr f) s = execMigr f s := rfl

/-- MIGR's preparation once its target's owner is found: the continuation is checked and buffered. -/
noncomputable def migrFrom (f : BR) (s : State) (o : Nat) (rid : W16) : Except Exn State := do
  if 4095 < ((s.core s.self).pOrImm f.ax).toNat then throw (.flt .align ((s.core s.self).pOrImm f.ax))
  let t := mkTarget 0 (BitVec.ofNat 10 (o / 64)) (BitVec.ofNat 6 (o % 64)) (f.cnd.getLsbD 0) false
    (BitVec.ofNat 12 ((s.core s.self).pOrImm f.ax).toNat) 0 rid
  s.checkTarget s.self t
  let c1 ← (s.core s.self).bufferMsg ⟨t, 128, (s.core s.self).contWords, true⟩
  return s.setCore s.self c1

theorem migrPre_eq_migrFrom (f : BR) (s : State) : migrPre f s =
    (s.ownerCore s.self ((s.core s.self).preg (regOf f.co)) >>= fun o => migrFrom f s o (match (s.core s.self).act with
      | some a => a.rid
      | none => 0)) := rfl

/-- The core of the state after MIGR's preparation runs what it ran, and is owed what it was owed. -/
theorem migrPre_eq {f : BR} {s : State} {a : Act} {o : Nat} {v : W64} {h : Nat} {t : W64}
    (ha : (s.core s.self).act = some a) (hv : (s.core s.self).preg (regOf f.co) = v) (ho : s.ownerCore s.self v = .ok o)
    (hh : ((s.core s.self).pOrImm f.ax).toNat = h) (hle : h ≤ 4095)
    (ht : mkTarget 0 (BitVec.ofNat 10 (o / 64)) (BitVec.ofNat 6 (o % 64)) (f.cnd.getLsbD 0) false (BitVec.ofNat 12 h) 0 a.rid = t)
    (hcheck : s.checkTarget s.self t = .ok ()) (hm : (s.core s.self).msgs.length < 64)
    (ho' : (s.core s.self).msgs.length + (s.core s.self).outbox.length < 128) :
    migrPre f s = .ok (s.setCore s.self { s.core s.self with
      msgs := (s.core s.self).msgs ++ [(⟨t, 128, (s.core s.self).contWords, true⟩ : OutMsg)] }) := by
  subst hv hh ht
  refine (migrPre_eq_migrFrom f s).trans (bind_of_ok ho ?_)
  rw [ha]
  exact (if_neg (Nat.not_lt.2 hle)).trans (bind_of_ok hcheck (bind_of_ok (Core.bufferMsg_ok _ hm ho') rfl))

/-- Settles O16. -/
theorem activationEndCompletes : Obligations.ActivationEndCompletes := by
  unfold Obligations.ActivationEndCompletes
  refine ⟨fun f s a hr hcnd hab hoff ha hp hq => ?_, ?_⟩
  · intro n limit
    have hl : (f.cnd == 0 && absent [f.co, f.ax] && f.off == 0) = true := by
      rw [hcnd, hab, hoff]; rfl
    have hend := State.hend_eq ha hp hq
    refine ⟨fun ho hle => ?_, fun ho hlt => ?_, fun ho => ?_⟩
    · exact (exec_hend f s).trans (endRow_gone hl hr.1 hr.2 rfl (hend.trans ((if_neg (ne_true_of_eq_false ho)).trans
        (if_neg (Int.not_lt.2 hle)))))
    · exact (exec_hend f s).trans (endRow_fault hl hr.1 hr.2 rfl (hend.trans ((if_neg (ne_true_of_eq_false ho)).trans (if_pos hlt))))
    · exact (exec_hend f s).trans (endRow_gone hl hr.1 hr.2 rfl (hend.trans (if_pos ho)))
  · intro f s a k ds o hr hcnd hco hoff hax c h t ha hp ho hle hcheck hm hout hg hq u n hlim
    have hl : (f.cnd.extractLsb' 1 5 == 0 && isRegOp f.co && f.off == 0 && (match f.ax with
      | .reg _ _ => true
      | .imm v => !v.msb
      | _ => false)) = true :=
      Bool.and_eq_true_iff.2 ⟨by rw [hcnd, hco, hoff]; rfl, hax⟩
    have hpre : migrPre f s = .ok u := migrPre_eq ha (by rw [hco]; rfl) ho rfl hle rfl hcheck hm hout
    have hcore : u.core s.self = { c with msgs := c.msgs ++ [(⟨t, 128, c.contWords, true⟩ : OutMsg)] } :=
      State.core_setCore_of_act (ha ▸ Option.some_ne_none a)
    have hact : (u.core s.self).act = some a := by rw [hcore]; exact ha
    have hpend : (u.core s.self).pend = [] := by rw [hcore]; exact hp
    have howed : u.queueOwed s.self none = false := by
      rw [← hq, State.queueOwed, State.queueOwed, hact, ha]; rfl
    have hend := State.hend_eq hact hpend howed
    have hspawns : u.spawns s.self = n := by
      rw [State.spawns, State.actCores_single hact hg]; exact Nat.add_zero _
    rw [hspawns] at hend
    refine (exec_migr f s).trans (endRow_gone hl hr.1 hr.2 hpre (hend.trans ((if_neg ?_).trans (if_neg (Int.not_lt.2 ?_)))))
    · rw [hg]; exact Bool.false_ne_true
    · show (s.team (s.self / 64) a.rid).spc + n - 1 ≤ s.spawnLimit a.rid
      unfold State.spawnLimit
      rcases hreg : s.region a.rid with _ | r
      · rw [hreg] at hlim; exact hlim
      · rw [hreg] at hlim; exact hlim

end Sys2Proof.Spec
end

section
/-! PROOFS. Messages, queue waits and gangs (R323, R324, R328, R329, R337 to R342). -/

namespace Sys2Proof.Machine
set_option Elab.async false

/-- The shape of an M3 instruction whose field rules hold. -/
theorem shapeM3_legal {f : M3} {legal : Ty → Bool} {c : Core} (h : legal (c.ty f.ty) = true) :
    shapeM3 f legal c = ⟨f.sp, f.ty == .px, true, usesOf [f.od, f.oa, f.ob, f.oc]⟩ := by
  rw [shapeM3, h]

section
variable {i : Instr} {f : M3} {legal : Ty → Bool} {body : State → Except Exn Res} {s t : State}
  (hx : exec i s = coreRow i (shapeM3 f legal) body s)
  (hr : s.canIssue i f.sp (f.ty == .px) [f.od, f.oa, f.ob, f.oc] = true) (hl : legal ((s.core s.self).ty f.ty) = true)
include hx hr hl

theorem exec_m3_done (hb : body s = .ok (.done t)) : exec i s = .next (t.retired s i f.sp (f.ty == .px)) :=
  hx.trans (coreRow_done (shapeM3_legal hl) hr hb)

theorem exec_m3_gone (hb : body s = .ok (.gone t)) : exec i s = .next t :=
  hx.trans (coreRow_gone (shapeM3_legal hl) hr hb)

theorem exec_m3_hold (hb : body s = .ok (.hold t)) : exec i s = .next t :=
  hx.trans (coreRow_hold (shapeM3_legal hl) hr hb)

theorem exec_m3_fault {x : FCode} {a : W64} (hb : body s = .error (.flt x a)) : exec i s = .next (s.faultAt s.self x a) :=
  hx.trans (coreRow_fault (shapeM3_legal hl) hr hb)

end

/-! ### Messages -/

/-- The payload that SEND takes from the head entries of Q1. -/
noncomputable def Core.sendWords (c : Core) (n : Nat) : List Lane :=
  ((((c.queue 1).take ((n + 63) / 64)).flatMap fun (e : QEntry) => e.toList) ++ List.replicate 128 (⟨0, false⟩ : Lane)).take (n / 4)

theorem sendBody_ok {f : M3} {s : State} {n : Nat} (hn : (s.core s.self).plen f.ob = .ok n)
    (hc : s.checkTarget s.self ((s.core s.self).preg (regOf f.od)) = .ok ()) (h : (s.core s.self).msgs.length < 64)
    (ho : (s.core s.self).msgs.length + (s.core s.self).outbox.length < 128) :
    sendBody f s = .ok (.done (s.setCore s.self { (s.core s.self).setQ 1 (((s.core s.self).queue 1).drop ((n + 63) / 64)) with
      msgs := (s.core s.self).msgs ++ [(⟨(s.core s.self).preg (regOf f.od), n, (s.core s.self).sendWords n, false⟩ : OutMsg)] })) := by
  exact bind_of_ok hn (bind_of_ok hc (bind_of_ok (Core.bufferMsg_ok _ h ho) rfl))

theorem Core.plen_eq {c : Core} {o : Operand} {n : Nat} (h : c.plen o = .ok n) : (c.pOrImm o).toNat = n := by
  exact (ok_of_ite h).2

theorem sendrBody_ok {f : M3} {s : State} {n : Nat} (hn : (s.core s.self).plen f.ob = .ok n)
    (hlocal : (s.core s.self).checkLocals 4 [(f.oa, n, 4)] = .ok ())
    (hsound : (s.core s.self).sound ((s.core s.self).opAddr 4 f.oa).toNat n = true)
    (hc : s.checkTarget s.self ((s.core s.self).preg (regOf f.od)) = .ok ()) (h : (s.core s.self).msgs.length < 64)
    (ho : (s.core s.self).msgs.length + (s.core s.self).outbox.length < 128) :
    sendrBody f s = .ok (.done (s.setCore s.self
      (({ (s.core s.self).wakeBanks ((s.core s.self).opAddr 4 f.oa).toNat n with
        msgs := (s.core s.self).msgs ++ [(⟨(s.core s.self).preg (regOf f.od), n,
          (s.core s.self).spWords ((s.core s.self).opAddr 4 f.oa).toNat (n / 4), false⟩ : OutMsg)] }).opIncs 4 [f.oa]))) := by
  exact bind_of_ok ((Core.plen_eq hn).symm ▸ hlocal) (bind_of_ok hn (bind_of_ok hc (bind_of_ok (if_pos hsound)
    (bind_of_ok (Core.bufferMsg_ok _ h ho) rfl))))

/-! ### Counts and waits -/

/-- The count that QCNT's function names. -/
noncomputable def qcntCount (f : M3) (c : Core) : Nat :=
  if f.fn = 0 then (match f.oa with
    | .queue q => (c.queue q).length
    | _ => 0)
  else match c.act with
    | some a => (c.rq a.brec).msgs.length + (c.rq a.brec).spilled.length
    | none => 0

/-- QCNT with its count, after its check. -/
noncomputable def qcntEnd (f : M3) (c : Core) (n : Nat) : Except Exn (Core × Push) :=
  .ok ((c.writeElems 4 f.od .u32 [⟨n, true⟩]).1.opIncs 4 [f.od], none)

theorem qcntWork_eq (f : M3) (c : Core) (fill : BitVec 3 → Bool) : qcntWork f c fill = (do
    c.checkLocals 4 [(f.od, 4, 4)]
    qcntEnd f c (qcntCount f c)) := rfl

/-- QCNT writes the count its function names. -/
theorem qcntWork_ok {f : M3} {c : Core} {fill : BitVec 3 → Bool} (h : c.checkLocals 4 [(f.od, 4, 4)] = .ok ()) (n : Nat)
    (hqueue : f.fn = 0 → ∃ q, f.oa = .queue q ∧ (c.queue q).length = n)
    (hrecord : f.fn ≠ 0 → ∃ a, c.act = some a ∧ (c.rq a.brec).msgs.length + (c.rq a.brec).spilled.length = n) :
    qcntWork f c fill = .ok ((c.writeElems 4 f.od .u32 [⟨n, true⟩]).1.opIncs 4 [f.od], none) := by
  refine (qcntWork_eq f c fill).trans (bind_of_ok h (congrArg (qcntEnd f c) ?_))
  by_cases hfn : f.fn = 0
  · obtain ⟨q, hq, rfl⟩ := hqueue hfn
    refine (if_pos hfn).trans ?_
    rw [hq]
  · obtain ⟨a, ha, rfl⟩ := hrecord hfn
    refine (if_neg hfn).trans ?_
    rw [ha]

/-- The masks that WAITQ may name (R329). -/
noncomputable def maskLegal : Operand → Bool
  | .reg _ _ => true
  | .imm v => !v.getLsbD 1 && v.extractLsb' 8 5 == 0 && v.extractLsb' 0 8 != 0
  | _ => false

theorem maskLegal_ok {o : Operand}
    (h : isRegOp o = true ∨ ∃ v, o = .imm v ∧ v.getLsbD 1 = false ∧ v.extractLsb' 8 5 = 0 ∧ v.extractLsb' 0 8 ≠ 0) : maskLegal o = true := by
  rcases h with h | ⟨v, rfl, h1, h2, h3⟩
  · induction o with
    | reg => rfl
    | _ => exact nomatch h
  · show (!v.getLsbD 1 && v.extractLsb' 8 5 == 0 && v.extractLsb' 0 8 != 0) = true
    rw [h1, h2, bne_iff_ne.2 h3]; rfl

/-- The times that WAITQ may name (R329). -/
noncomputable def timeLegal : Operand → Bool
  | .reg _ _ => true
  | .imm v => !v.msb
  | _ => false

theorem timeLegal_ok {o : Operand} (h : isRegOp o = true ∨ ∃ v, o = .imm v ∧ v.msb = false) : timeLegal o = true := by
  rcases h with h | ⟨v, rfl, h1⟩
  · induction o with
    | reg => rfl
    | _ => exact nomatch h
  · exact congrArg not h1

theorem waitqLegal_eq (f : M3) (t : Ty) : waitqLegal f t = (fixedM3 f t .u32 0 && decide (f.fn.toNat ≤ 1) && f.oc == .zero &&
    (oneDst f.od || f.od == .zero) && !incClash f.od [f.oa, f.ob] && maskLegal f.oa && timeLegal f.ob) := rfl

theorem waitqLegal_ok {f : M3} {t : Ty} (hfix : fixedM3 f t .u32 0 = true) (hfn : f.fn.toNat ≤ 1) (hoc : f.oc = .zero)
    (hod : (oneDst f.od || f.od == .zero) = true) (hclash : incClash f.od [f.oa, f.ob] = false)
    (hoa : isRegOp f.oa = true ∨ ∃ v, f.oa = .imm v ∧ v.getLsbD 1 = false ∧ v.extractLsb' 8 5 = 0 ∧ v.extractLsb' 0 8 ≠ 0)
    (hob : isRegOp f.ob = true ∨ ∃ v, f.ob = .imm v ∧ v.msb = false) : waitqLegal f t = true := by
  rw [waitqLegal_eq, hfix, hoc, hod, hclash, maskLegal_ok hoa, timeLegal_ok hob, decide_eq_true hfn]
  rfl

/-- A check made where a condition holds, then the rest. -/
noncomputable def checkedIf (p : Bool) (x : Except Exn Unit) (r : Except Exn Res) : Except Exn Res :=
  if p then do
    x
    r
  else r

theorem checkedIf_ok {p : Bool} {x : Except Exn Unit} (r : Except Exn Res) (h : p = true → x = .ok ()) : checkedIf p x r = r := by
  rcases p with _ | _
  · rfl
  · exact bind_of_ok (h rfl) rfl

/-- A wait that had run out when it went on. -/
noncomputable def Core.waitOut (c : Core) : Bool :=
  match c.wait with
  | .waitq _ b => b
  | _ => false

/-- The time until which a WAITQ waits. -/
noncomputable def Core.waitTill (c : Core) (now : Nat) (o : Operand) : Option Nat :=
  match c.wait with
  | .waitq x _ => x
  | _ => if (c.pOrImm o) = 0 then none else some (now + (c.pOrImm o).toNat * 1500)

/-- The condition under which WAITQ ends; `late` says that its time is over. -/
noncomputable def waitqEnds (f : M3) (c : Core) (late : Bool) : Bool :=
  let m := waitMask c f.oa
  m = 0 || (if f.fn = 0 then c.held m != 0 else c.held m == m) || (c.waitOut || late)

theorem waitqBody_eq (f : M3) (s : State) : waitqBody f s =
    checkedIf (f.od != .zero) ((s.core s.self).checkLocals 4 [(f.od, 4, 4)])
      (if waitqEnds f (s.core s.self) (match (s.core s.self).waitTill s.now f.ob with
          | some t => decide (t ≤ s.now)
          | none => false) then
        .ok (.done (s.setCore s.self (if f.od != .zero then
          ((s.core s.self).writeU32 4 f.od ((s.core s.self).held (waitMask (s.core s.self) f.oa)).toNat).opIncs 4 [f.od] else s.core s.self)))
      else .ok (.hold (s.modCore s.self fun c => { c with wait := .waitq ((s.core s.self).waitTill s.now f.ob) false }))) := rfl

theorem waitqEnds_of {f : M3} {c : Core} (late : Bool) (h : waitMask c f.oa = 0 ∨ (f.fn = 0 ∧ c.held (waitMask c f.oa) ≠ 0) ∨
    (f.fn = 1 ∧ c.held (waitMask c f.oa) = waitMask c f.oa) ∨ ∃ x, c.wait = .waitq x true) : waitqEnds f c late = true := by
  unfold waitqEnds
  dsimp only
  rcases h with h | ⟨h1, h2⟩ | ⟨h1, h2⟩ | ⟨x, hx⟩
  · rw [decide_eq_true h]; rfl
  · rw [if_pos h1, bne_iff_ne.2 h2, Bool.or_true]; rfl
  · rw [if_neg (by rw [h1]; decide), beq_iff_eq.2 h2, Bool.or_true]; rfl
  · rw [Core.waitOut, hx]; exact Bool.or_true _

/-- The condition under which a WAITQ ends holds for one of the reasons R329 gives. -/
theorem waitqBody_ok {f : M3} {s : State} (hod : f.od = .zero ∨ (s.core s.self).checkLocals 4 [(f.od, 4, 4)] = .ok ())
    (h : waitMask (s.core s.self) f.oa = 0 ∨
      (f.fn = 0 ∧ (s.core s.self).held (waitMask (s.core s.self) f.oa) ≠ 0) ∨
      (f.fn = 1 ∧ (s.core s.self).held (waitMask (s.core s.self) f.oa) = waitMask (s.core s.self) f.oa) ∨
      ∃ x, (s.core s.self).wait = .waitq x true) :
    waitqBody f s = .ok (.done (s.setCore s.self (if f.od = .zero then s.core s.self else
      (((s.core s.self).writeU32 4 f.od ((s.core s.self).held (waitMask (s.core s.self) f.oa)).toNat).opIncs 4 [f.od])))) := by
  refine (waitqBody_eq f s).trans ((checkedIf_ok _ fun hp => hod.resolve_left (bne_iff_ne.1 hp)).trans ((if_pos (waitqEnds_of _ h)).trans ?_))
  by_cases hz : f.od = .zero
  · rw [if_neg (bne_eq_false_iff_eq.2 hz ▸ Bool.false_ne_true), if_pos hz]
  · rw [if_pos (bne_iff_ne.2 hz), if_neg hz]

end Sys2Proof.Machine

namespace Sys2Proof.Spec
set_option Elab.async false
open Sys2Proof Sys2Proof.Machine

theorem exec_send (f : M3) (s : State) : exec (.send f) s = execSend f s := rfl
theorem exec_sendr (f : M3) (s : State) : exec (.sendr f) s = execSendr f s := rfl
theorem exec_qcnt (f : M3) (s : State) : exec (.qcnt f) s = execQcnt f s := rfl
theorem exec_waitq (f : M3) (s : State) : exec (.waitq f) s = execWaitq f s := rfl

/-- Settles O18. -/
theorem messagesAndQueuesComplete : Obligations.MessagesAndQueuesComplete := by
  unfold Obligations.MessagesAndQueuesComplete
  refine ⟨?_, ?_, ?_, ?_, ?_⟩
  · intro f s n hr hl c k hn hc hm ho
    exact (exec_send f s).trans (coreRow_done (by rw [shapeM3, hl]) hr (sendBody_ok hn hc hm ho))
  · intro f s n hr c off hlocal hsound hn hc hm ho
    have hmem : isMem f.oa = true := by
      have hlegal := hr.2
      simp only [sendLegal, if_true, Bool.and_eq_true] at hlegal
      exact hlegal.1.2
    exact exec_m3_done (exec_sendr f s) hr.1 hr.2 (sendrBody_ok hn hlocal (hsound hmem) hc hm ho)
  · intro f s n hr hfn hod hab hoa hlocal
    refine exec_m3_done (exec_qcnt f s) hr.1 ?_ (onOwnCore_done (r := (_, none)) (qcntWork_ok hlocal _ (fun _ => ⟨n, hoa, rfl⟩)
      fun h => absurd hfn h) fun _ _ h => nomatch h)
    have hfix : fixedM3 f ((s.core s.self).ty f.ty) .u32 0 = true := hr.2
    simp only [hfn, hod, hab, hoa, Bool.and_true, hfix]
    rfl
  · intro f s a hr hfn hod hab hact hlocal
    have hzero : absent [f.ob, f.oc] = true ∧ f.oa = .zero := by
      obtain ⟨h1, h2⟩ := Bool.and_eq_true_iff.1 hab
      exact ⟨h2, beq_iff_eq.1 h1⟩
    refine exec_m3_done (exec_qcnt f s) hr.1 ?_ (onOwnCore_done (r := (_, none)) (qcntWork_ok hlocal _ (fun h => absurd (hfn.symm.trans h) (by decide))
      fun _ => ⟨a, hact, rfl⟩) fun _ _ h => nomatch h)
    have hfix : fixedM3 f ((s.core s.self).ty f.ty) .u32 0 = true := hr.2
    simp only [hfn, hod, hzero, Bool.and_true, hfix]
    rfl
  · intro f s hr hfix hfn hoc hod hclash hoa hob c m hlocal hwait
    refine (exec_waitq f s).trans (coreRow_done ?_ hr (waitqBody_ok hlocal hwait))
    rw [shapeM3_legal (legal := waitqLegal f) (waitqLegal_ok hfix hfn hoc hod hclash hoa hob)]

end Sys2Proof.Spec
end

section
/-! PROOFS. GANG, UNGANG, REJOIN and YIELD (R337 to R342). -/

namespace Sys2Proof.Machine
set_option Elab.async false

/-- A destination that may be absent is checked where it is present. -/
theorem checkPresent {c : Core} {o : Operand} (h : o = .zero ∨ c.checkLocals 4 [(o, 4, 4)] = .ok ()) {α : Type}
    (k : Except Exn α) : (if (o != .zero) = true then (c.checkLocals 4 [(o, 4, 4)] >>= fun _ => k) else k) = k := by
  by_cases hz : o = .zero
  · rw [if_neg (by simp [hz])]
  · rw [if_pos (bne_iff_ne.2 hz), h.resolve_left hz]; rfl

/-- The state that GANG forms the gang in, where its status is 0. -/
noncomputable def State.formGang (s : State) (g : Nat) (m : W64) (rid : W16) : State :=
  if s.gangStatus g m rid = 0 then (bitsOf (m.extractLsb' 0 16)).foldl (fun t j =>
    t.modCore (64 * (g / 64) + g % 64 / 16 * 16 + j) fun c =>
      c.joinGang (m.extractLsb' 0 16) (g % 64) (64 * (g / 64) + g % 64 / 16 * 16 + j == g) rid) s else s

theorem gangBody_ok {f : M3} {s : State} {a : Act} (ha : (s.core s.self).act = some a)
    (hod : f.od = .zero ∨ (s.core s.self).checkLocals 4 [(f.od, 4, 4)] = .ok ()) :
    gangBody f s = .ok (.done ((s.formGang s.self ((s.core s.self).pOrImm f.oa) a.rid).modCore s.self fun c =>
      ((c.writeU32 4 f.od (s.gangStatus s.self ((s.core s.self).pOrImm f.oa) a.rid)).opIncs 4 [f.od]).makeIrrev)) := by
  have hrid : (s.core s.self).actRid = a.rid := by rw [Core.actRid, ha]
  unfold gangBody State.formGang
  dsimp only
  rw [hrid]
  exact checkPresent hod _

theorem ungangBody_ok {f : M3} {s : State} {a : Act} (ha : (s.core s.self).act = some a)
    (hod : f.od = .zero ∨ (s.core s.self).checkLocals 4 [(f.od, 4, 4)] = .ok ()) (st : Nat)
    (hst : st = if (s.core s.self).st.getLsbD 18 = false then 1 else if (a.gang || s.gangSuspended s.self) = true then 2 else 0) :
    ungangBody f s = .ok (.done ((if st = 0 then s.dissolve s.self else s).modCore s.self fun c =>
      ((c.writeU32 4 f.od st).opIncs 4 [f.od]).makeIrrev)) := by
  subst hst
  unfold ungangBody
  simp only [ha, Bool.not_eq_true']
  exact checkPresent hod _

/-- The members of a gang activation that have detached and not ended. -/
noncomputable def State.strayed (s : State) (g : Nat) : List Nat :=
  (s.actCores g).filter fun k => match (s.core k).act with
    | some b => b.detached && !b.ended
    | none => false

/-- REJOIN passes outside a gang, on an attached member, and where the leader has ended. -/
theorem rejoinBody_pass {s : State} {a : Act} (ha : (s.core s.self).act = some a)
    (h : a.gang = false ∨ (a.leader = false ∧ (a.detached = false ∨ s.leaderRuns s.self = false))) :
    rejoinBody s = .ok (.done s) := by
  unfold rejoinBody
  simp only [ha]
  rcases h with h | ⟨hl, h⟩
  · rw [if_pos (by simp [h])]
  · by_cases hg : a.gang = false
    · rw [if_pos (by simp [hg])]
    · rw [if_neg (by simpa using hg), if_neg (by simp [hl])]
      rcases h with h | h
      · rw [if_pos (by simp [h])]
      · rw [h]; exact ite_self _

/-- A leader takes in the members that wait at its slot, once the others have followed its path. -/
theorem rejoinBody_leader {s : State} {a : Act} (ha : (s.core s.self).act = some a) (hg : a.gang = true) (hl : a.leader = true)
    (hout : ∀ k ∈ s.strayed s.self, (s.core k).atRejoin none = true)
    (hpath : ∀ k ∈ s.followers s.self, (s.core k).gpath = []) :
    rejoinBody s = .ok (.done (((s.strayed s.self).filter fun k => (s.core k).atRejoin (some (s.core s.self).pc)).foldl
      (fun t k => t.modCore k fun d => d.attach (s.core s.self).fetch) s)) := by
  have hall : ((s.strayed s.self).all fun k => (s.core k).atRejoin none) = true := List.all_eq_true.2 hout
  have hempty : ((s.followers s.self).all fun k => (s.core k).gpath.isEmpty) = true :=
    List.all_eq_true.2 fun k hk => by rw [hpath k hk]; rfl
  unfold rejoinBody
  simp only [ha, hg, hl, Bool.not_true, Bool.false_eq_true, if_false, if_true]
  exact if_pos (Bool.and_eq_true_iff.2 ⟨hall, hempty⟩)

/-- Outside a gang YIELD asks for a stop where another queue of its level or above waits, but not in a trap. -/
theorem yieldBody_single {s : State} {a : Act} (ha : (s.core s.self).act = some a) (hg : a.gang = false) :
    yieldBody s = .ok (.done (if (s.core s.self).trapActive = false ∧ s.othersWait s.self (fun l => decide (l ≤ a.lr)) = true then
      s.modCore s.self fun c => { c with stopReq := true } else s)) := by
  unfold yieldBody
  simp only [ha, hg, Bool.not_false, Bool.true_or, Bool.and_true, Bool.and_eq_true, Bool.not_eq_true']

end Sys2Proof.Machine

namespace Sys2Proof.Spec
set_option Elab.async false
open Sys2Proof Sys2Proof.Machine

theorem exec_gang (f : M3) (s : State) : exec (.gang f) s = execGang f s := rfl
theorem exec_ungang (f : M3) (s : State) : exec (.ungang f) s = execUngang f s := rfl
theorem exec_rejoin (f : M3) (s : State) : exec (.rejoin f) s = execRejoin f s := rfl
theorem exec_yield (f : M3) (s : State) : exec (.yield f) s = execYield f s := rfl

/-- Settles O19. -/
theorem gangsComplete : Obligations.GangsComplete := by
  unfold Obligations.GangsComplete
  refine ⟨?_, ?_, ?_, ?_⟩
  · intro f s a hr hod hoa ha hlocal g m st base s1
    exact exec_m3_done (exec_gang f s) hr.1 (by rw [hr.2, hod, hoa]; rfl) (gangBody_ok ha hlocal)
  · intro f s a hr hod hoa ha hlocal g st s1
    exact exec_m3_done (exec_ungang f s) hr.1 (by rw [hr.2, hod, hoa]; rfl) (ungangBody_ok ha hlocal st rfl)
  · intro f s a hr hab ha out
    have hlegal : (gangLegal f ((s.core s.self).ty f.ty) && absent [f.od, f.oa]) = true := by rw [hr.2, hab]; rfl
    refine ⟨fun h => ?_, fun hg hl hout hpath => ?_⟩
    · exact exec_m3_done (exec_rejoin f s) hr.1 hlegal (rejoinBody_pass ha h)
    · exact exec_m3_done (exec_rejoin f s) hr.1 hlegal (rejoinBody_leader ha hg hl hout hpath)
  · intro f s a hr hfn hab ha hg
    have hfix : (f.sp && fixedM3 f ((s.core s.self).ty f.ty) .i8 0) = true := hr.2
    exact exec_m3_done (exec_yield f s) hr.1 (by simp only [hfix, hfn, hab, Bool.and_true]; rfl) (yieldBody_single ha hg)

end Sys2Proof.Spec
end

section
/-! PROOFS. SRD and SWR, with the rows of its own that SWR has (R71, R142, R178, R183, R399 to R401). -/

namespace Sys2Proof.Machine
set_option Elab.async false

theorem exec_srd (f : SY) (s : State) : exec (.srd f) s = execSrd f s := rfl
theorem exec_swr (f : SY) (s : State) : exec (.swr f) s = execSwr f s := rfl
theorem exec_writeSrseed (f : SY) (s : State) : exec (.writeSrseed f) s = execWriteSrseed f s := rfl
theorem exec_writeMxrpHlt (f : SY) (s : State) : exec (.writeMxrpHlt f) s = execWriteMxrpHlt f s := rfl
theorem exec_writeSpcfg (f : SY) (s : State) : exec (.writeSpcfg f) s = execWriteSpcfg f s := rfl
theorem exec_writeSppwr (f : SY) (s : State) : exec (.writeSppwr f) s = execWriteSppwr f s := rfl

section
variable {i : Instr} {f : SY} {st : Bool} {body : State → Except Exn Res} {s t : State}
  (hx : exec i s = srRow i f st body s) (hr : s.canIssue i f.sp false [f.oa] = true) (hl : srLegal f st s = true)
include hx hr hl

theorem exec_sr_done (hb : body s = .ok (.done t)) : exec i s = .next (t.retired s i f.sp false) :=
  hx.trans (coreRow_done (by rw [hl]) hr hb)

theorem exec_sr_hold (hb : body s = .ok (.hold t)) : exec i s = .next t := hx.trans (coreRow_hold (by rw [hl]) hr hb)

theorem exec_sr_fault {x : FCode} {a : W64} (hb : body s = .error (.flt x a)) : exec i s = .next (s.faultAt s.self x a) :=
  hx.trans (coreRow_fault (by rw [hl]) hr hb)

end

/-! ### SRD -/

theorem srdBody_ok {f : SY} {s : State} {v : W64} (hlocal : (s.core s.self).checkLocals 8 [(f.oa, 8, 8)] = .ok ())
    (hv : s.readSr s.self f.srn.toNat = some v) (hp : (srdSup f.srn.toNat && (s.core s.self).user) = false) :
    srdBody f s = .ok (.done (s.setCore s.self (((s.core s.self).writeU64 8 f.oa v.toNat).opIncs 8 [f.oa]))) := by
  unfold srdBody
  simp only [hlocal, hv, hp, Bool.false_eq_true, if_false, Option.getD_some]
  rfl

theorem srdBody_priv {f : SY} {s : State} (hlocal : (s.core s.self).checkLocals 8 [(f.oa, 8, 8)] = .ok ())
    (hp : (srdSup f.srn.toNat && (s.core s.self).user) = true) : srdBody f s = .error (.flt .priv 0) := by
  unfold srdBody
  simp only [hlocal, hp, if_true]
  rfl

/-! ### SWR -/

section
variable {f : SY} {s t : State} {c1 : Core} {e : El} {fl : Num.Flags} {write : W64 → State → Except Exn Res}
  (hlocal : (s.core s.self).checkLocals 8 [(f.oa, 8, 8)] = .ok ())
  (hread : (s.core s.self).readElems (s.canFill s.self) 8 f.oa .u64 1 = .ok (c1, [e], fl))
include hlocal hread

/-- SWR reads its one source element, and its value where it is valid. -/
theorem swrSource_ok : swrSource f s = .ok (c1, if e.v = true then some (BitVec.ofNat 64 e.b) else none) := by
  unfold swrSource
  simp only [hlocal, hread]
  rfl

theorem swrWith_invalid (he : e.v = false) : swrWith f write s = .ok (.done (s.setCore s.self (c1.opIncs 8 [f.oa]))) := by
  unfold swrWith
  rw [swrSource_ok hlocal hread, he]
  rfl

/-- What a valid source leads to, after the check of the privilege. -/
theorem swrWith_valid (he : e.v = true) : swrWith f write s =
    if swrPriv f.srn.toNat c1 = true then .error (.flt .priv 0) else do
      match ← write (BitVec.ofNat 64 e.b) (s.setCore s.self c1) with
      | .done t => return .done (t.modCore s.self fun c => c.opIncs 8 [f.oa])
      | r => return r := by
  unfold swrWith
  rw [swrSource_ok hlocal hread, he]
  show (if swrPriv f.srn.toNat c1 = true then _ else _) = _
  split <;> rfl

theorem swrWith_priv (he : e.v = true) (hp : swrPriv f.srn.toNat c1 = true) : swrWith f write s = .error (.flt .priv 0) :=
  (swrWith_valid hlocal hread he).trans (if_pos hp)

theorem swrWith_done (he : e.v = true) (hp : swrPriv f.srn.toNat c1 = false)
    (hw : write (BitVec.ofNat 64 e.b) (s.setCore s.self c1) = .ok (.done t)) :
    swrWith f write s = .ok (.done (t.modCore s.self fun c => c.opIncs 8 [f.oa])) := by
  rw [swrWith_valid hlocal hread he, if_neg (by simp [hp]), hw]; rfl

theorem swrWith_hold (he : e.v = true) (hp : swrPriv f.srn.toNat c1 = false)
    (hw : write (BitVec.ofNat 64 e.b) (s.setCore s.self c1) = .ok (.hold t)) : swrWith f write s = .ok (.hold t) := by
  rw [swrWith_valid hlocal hread he, if_neg (by simp [hp]), hw]; rfl

theorem swrWith_fault (he : e.v = true) (hp : swrPriv f.srn.toNat c1 = false) {x : FCode} {a : W64}
    (hw : write (BitVec.ofNat 64 e.b) (s.setCore s.self c1) = .error (.flt x a)) : swrWith f write s = .error (.flt x a) := by
  rw [swrWith_valid hlocal hread he, if_neg (by simp [hp]), hw]; rfl

end

theorem sppwrBody_ask {f : SY} {s : State} (h : ∀ w, (s.core s.self).wait ≠ .sp w) : sppwrBody f s = swrWith f sppwrAsk s := by
  unfold sppwrBody
  split
  · rename_i w hw; exact absurd hw (h w)
  · rfl

/-! ### The mailbox (R345) -/

/-- A mailbox write whose block translated to `r` (R345). -/
noncomputable def mbxAsked (v : W64) (s : State) (r : Except FCode (List Seg)) : Except Exn Res :=
  match r with
  | .error e => .error (.flt e v)
  | .ok l =>
    if !l.all Seg.imm then .error (.flt .txperm v)
    else if 4 ≤ (s.core s.self).mbx.length then .error .stall
    else .ok (.done ((s.fillAll (.core s.self) (s.self / 64) l).modCore s.self fun c =>
      { c.makeIrrev with mbx := c.mbx ++ [⟨v, c.actRid, c.asid⟩] }))

theorem mbxWrite_eq (v : W64) (s : State) : mbxWrite v s = if v.extractLsb' 0 6 ≠ 0 then .error (.flt .align v)
    else if inWindow v then .error (.flt .txperm v)
    else mbxAsked v s (s.segs (.core s.self) (s.self / 64) (some s.self) (s.core s.self).asid (s.core s.self).user .rw .current 2 v 128) := rfl

theorem mbxWrite_align {v : W64} {s : State} (h : v.extractLsb' 0 6 ≠ 0) : mbxWrite v s = .error (.flt .align v) :=
  (mbxWrite_eq v s).trans (if_pos h)

theorem mbxWrite_window {v : W64} {s : State} (h : v.extractLsb' 0 6 = 0) (hw : inWindow v = true) :
    mbxWrite v s = .error (.flt .txperm v) := (mbxWrite_eq v s).trans ((if_neg fun hn => hn h).trans (if_pos hw))

/-- A block that translates with R and W joins the requests where its pages are IMMEDIATE. -/
theorem mbxWrite_segs {v : W64} {s : State} {l : List Seg} (h : v.extractLsb' 0 6 = 0) (hw : inWindow v = false)
    (hl : s.segs (.core s.self) (s.self / 64) (some s.self) (s.core s.self).asid (s.core s.self).user .rw .current 2 v 128 = .ok l) :
    (l.all Seg.imm = false → mbxWrite v s = .error (.flt .txperm v)) ∧
    (l.all Seg.imm = true → (s.core s.self).mbx.length < 4 →
      mbxWrite v s = .ok (.done ((s.fillAll (.core s.self) (s.self / 64) l).modCore s.self fun c =>
        { c.makeIrrev with mbx := c.mbx ++ [⟨v, c.actRid, c.asid⟩] }))) := by
  have hx : mbxWrite v s = mbxAsked v s (.ok l) :=
    (mbxWrite_eq v s).trans ((if_neg fun hn => hn h).trans ((if_neg (ne_true_of_eq_false hw)).trans (congrArg (mbxAsked v s) hl)))
  exact ⟨fun hi => hx.trans (if_pos (by rw [hi]; rfl)),
    fun hi hm => hx.trans ((if_neg (by rw [hi]; exact Bool.false_ne_true)).trans (if_neg (Nat.not_le.2 hm)))⟩

end Sys2Proof.Machine

namespace Sys2Proof.Spec
set_option Elab.async false
open Sys2Proof Sys2Proof.Machine Sys2Proof.Machine.Num

/-- Every row of SWR reads its source and then writes its register. -/
theorem exec_swrRow {f : SY} {s : State} {i : Instr}
    (hi : i ∈ [Instr.swr f, .writeSrseed f, .writeMxrpHlt f, .writeSpcfg f, .writeSppwr f])
    (hw : i = .writeSppwr f → ∀ w, (s.core s.self).wait ≠ .sp w) :
    ∃ body write, exec i s = srRow i f true body s ∧ body s = swrWith f write s := by
  simp only [List.mem_cons, List.not_mem_nil, or_false] at hi
  rcases hi with rfl | rfl | rfl | rfl | rfl
  · exact ⟨_, _, exec_swr f s, rfl⟩
  · exact ⟨_, _, exec_writeSrseed f s, rfl⟩
  · exact ⟨_, _, exec_writeMxrpHlt f s, rfl⟩
  · exact ⟨_, _, exec_writeSpcfg f s, rfl⟩
  · exact ⟨_, _, exec_writeSppwr f s, sppwrBody_ask (hw rfl)⟩

/-- Settles O20: SWR reads its source once, checks the privilege, and then makes the write of its row. -/
theorem systemRegistersComplete : Obligations.SystemRegistersComplete := by
  unfold Obligations.SystemRegistersComplete
  refine ⟨fun f s v hr hl => ?_, fun f s c1 e fl hl => ?_, fun f s w hl hr hwait hbank => ?_⟩
  · intro c hlocal hv
    exact ⟨fun hp => exec_sr_done (exec_srd f s) hr hl (srdBody_ok hlocal hv hp),
      fun hp => exec_sr_fault (exec_srd f s) hr hl (srdBody_priv hlocal hp)⟩
  · intro g c ready n x t fin hlocal hread
    refine ⟨fun i hi hr hw => ?_, fun he hp => ?_⟩
    · obtain ⟨body, write, hx, hbody⟩ := exec_swrRow hi hw
      exact ⟨fun he => exec_sr_done hx hr hl (hbody.trans (swrWith_invalid hlocal hread he)),
        fun he hp => exec_sr_fault hx hr hl (hbody.trans (swrWith_priv hlocal hread he hp))⟩
    · have done {write : W64 → State → Except Exn Res} {u : State} (hw : write x t = .ok (.done u)) :
          swrWith f write s = .ok (.done (u.modCore g fun c => c.opIncs 8 [f.oa])) := swrWith_done hlocal hread he hp hw
      have fault {write : W64 → State → Except Exn Res} {y : FCode} {a : W64} (hw : write x t = .error (.flt y a)) :
          swrWith f write s = .error (.flt y a) := swrWith_fault hlocal hread he hp hw
      refine ⟨fun hr h1 h2 => ?_, fun hr hn => ⟨fun h => ?_, fun h hwin => ?_, fun l h hwin hseg => ⟨fun hi => ?_, fun hi hm => ?_⟩⟩,
        fun hr hn => ?_, fun hr => ?_, fun hr b hb hh => ?_, fun hr => ?_, fun hr hw => ?_⟩
      · exact exec_sr_done (exec_swr f s) hr hl (done ((if_neg h1).trans (if_neg h2)))
      · exact exec_sr_fault (exec_swr f s) hr hl (fault ((if_pos hn).trans (mbxWrite_align h)))
      · exact exec_sr_fault (exec_swr f s) hr hl (fault ((if_pos hn).trans (mbxWrite_window h hwin)))
      · exact exec_sr_fault (exec_swr f s) hr hl (fault ((if_pos hn).trans ((mbxWrite_segs (s := t) h hwin hseg).1 hi)))
      · exact exec_sr_done (exec_swr f s) hr hl (done ((if_pos hn).trans ((mbxWrite_segs (s := t) h hwin hseg).2 hi hm)))
      · exact exec_sr_done (exec_swr f s) hr hl (done ((if_neg (by rw [show f.srn.toNat = n from rfl, hn]; decide)).trans (if_pos hn)))
      · exact exec_sr_done (exec_writeSrseed f s) hr hl (done rfl)
      · refine exec_sr_done (exec_writeMxrpHlt f s) hr hl (done ?_)
        have hb' : (t.mxe (clusterOfCore t.self)).bindOf (t.core t.self).actRid = some b := hb
        dsimp only
        rw [hb']
        exact congrArg (fun u => Except.ok (Res.done u)) (if_pos hh)
      · intro k hk hne hpend hbusy
        refine exec_sr_done (exec_writeSpcfg f s) hr hl (done ?_)
        have hidle : (!(t.core g).pend.isEmpty || t.spadBusy g) = false := by simp [hpend, hbusy]
        refine (if_neg ?_).trans (if_neg (ne_true_of_eq_false hidle))
        rintro (h | h)
        · exact absurd h (Nat.not_lt.2 hk)
        · exact hne h
      · intro v d
        refine ⟨fun hb => ?_, fun hb => ?_⟩
        · exact exec_sr_done (exec_writeSppwr f s) hr hl ((sppwrBody_ask hw).trans (done (if_pos hb)))
        · exact exec_sr_hold (exec_writeSppwr f s) hr hl ((sppwrBody_ask hw).trans (swrWith_hold hlocal hread he hp (if_neg hb)))
  · refine exec_sr_done (exec_writeSppwr f s) hr hl ?_
    simp only [sppwrBody, hwait, hbank, if_true]

end Sys2Proof.Spec
end

section
/-! PROOFS. Traps, invalidations and the other system instructions (R396, R402 to R406, R439, R442, R446). -/

namespace Sys2Proof.Machine
set_option Elab.async false

theorem exec_trap (f : M3) (s : State) : exec (.trap f) s = execTrap f s := rfl
theorem exec_eret (f : M3) (s : State) : exec (.eret f) s = execEret f s := rfl
theorem exec_tlbinvPage (f : M3) (s : State) : exec (.tlbinvPage f) s = execTlbinvPage f s := rfl
theorem exec_tlbinvRange (f : M3) (s : State) : exec (.tlbinvRange f) s = execTlbinvRange f s := rfl
theorem exec_tlbinvAsid (f : M3) (s : State) : exec (.tlbinvAsid f) s = execTlbinvAsid f s := rfl
theorem exec_xlat (f : M3) (s : State) : exec (.xlat f) s = execXlat f s := rfl
theorem exec_scrubPage (f : M3) (s : State) : exec (.scrubPage f) s = execScrubPage f s := rfl
theorem exec_scrubLine (f : M3) (s : State) : exec (.scrubLine f) s = execScrubLine f s := rfl
theorem exec_pwrbCap (f : M3) (s : State) : exec (.pwrbCap f) s = execPwrbCap f s := rfl
theorem exec_pwrbGate (f : M3) (s : State) : exec (.pwrbGate f) s = execPwrbGate f s := rfl
theorem exec_brk (f : M3) (s : State) : exec (.brk f) s = execBrk f s := rfl
theorem exec_sigchk (sp : Bool) (sig : BitVec 16) (s : State) : exec (.sigchk sp sig) s = execSigchk sp sig s := rfl

/-! ### TRAP and ERET -/

theorem trapBody_active {i : Instr} {f : M3} {s : State} (h : (s.core s.self).trapActive = true) :
    trapBody i f s = .error (.flt .priv 0) := if_pos h

/-- What TRAP does with the entry it finds at FHIX (R402). -/
noncomputable def trapTo (i : Instr) (f : M3) (s : State) (h : Option Entry) : Except Exn Res :=
  match h with
  | none => .ok (.gone (s.kill (s.core s.self).asid 2 FCode.hempty.code))
  | some e =>
    if !e.sup then .ok (.gone (s.kill (s.core s.self).asid 2 FCode.priv.code))
    else .ok (.gone (s.modCore s.self fun c => c.enterTrap e (nextSlot c.pc) c.pc 0 (foldInstr c.crc i)
      (((s.core s.self).pOrImm f.ob).extractLsb' 0 12) 0))

theorem trapBody_eq {i : Instr} {f : M3} {s : State} {a : Act} {r : Region} (ht : (s.core s.self).trapActive = false)
    (ha : (s.core s.self).act = some a) (hr : s.region a.rid = some r) :
    trapBody i f s = trapTo i f s (s.handler (s.self / 64) r r.fhix) := by
  have hb : (s.core s.self).act.bind (fun a => s.region a.rid) = some r := by rw [ha]; exact hr
  unfold trapBody
  dsimp only
  rw [if_neg (ne_true_of_eq_false ht), hb]
  rfl

/-- What TRAP writes. -/
noncomputable def Core.trapped (c : Core) (e : Entry) (i : Instr) (n : BitVec 12) : Core :=
  { c with
    tspc := nextSlot c.pc, tsst := c.st, tspx := c.px, tsadr := 0
    tsinf := foldInstr c.crc i ++ 0#8 ++ n ++ 0#11 ++ 1#1 ++ 0#8 ++ 0#8
    st := ((c.setPp false).setPl 1).st, pc := e.pc, entered := .checked c.pc, crc := 0xFFFF, wait := .none
    safe := none, trapWait := if c.wait.stands then some (c.pc, c.wait) else none }

theorem Core.enterTrap_trapped (c : Core) (e : Entry) (i : Instr) (n : BitVec 12) :
    c.enterTrap e (nextSlot c.pc) c.pc 0 (foldInstr c.crc i) n 0 = c.trapped e i n := rfl

/-- The core as ERET leaves it. -/
noncomputable def Core.returned (c : Core) : Core :=
  { c with
    st := (c.tsst &&& ~~~0xC0000) ||| (c.st &&& 0xC0000), px := c.tspx, crc := c.tsinf.extractLsb' 48 16
    tsinf := c.tsinf &&& ~~~0x10000, pc := c.tspc, entered := .resumed, safe := none, trapWait := none
    wait := match c.trapWait with
      | some (pc, w) => if pc = c.tspc then w else .none
      | none => .none }

/-- ERET returns where it may and TSPC names a slot. -/
theorem Core.eret_eq (c : Core) : c.eret =
    if c.pl ≠ 0 ∧ c.trapActive = true ∧ (c.tsst.extractLsb' 14 2).toNat ≠ 3 ∧ (c.tsst.extractLsb' 14 2).toNat ≤ c.pl then
      if slotOk c.tspc = true then .ok c.returned else .error (.flt .align c.tspc)
    else .error (.flt .priv 0) := by
  have huser : c.user = true ↔ c.pl = 0 := by simp [Core.user]
  have hthree : c.tsst.extractLsb' 14 2 = 3 ↔ (c.tsst.extractLsb' 14 2).toNat = 3 := by
    rw [← BitVec.toNat_inj]; rfl
  have heret : c.eret = if c.user || !c.trapActive then .error (.flt .priv 0)
      else if c.tsst.extractLsb' 14 2 = 3 ∨ c.pl < (c.tsst.extractLsb' 14 2).toNat then .error (.flt .priv 0)
      else if !slotOk c.tspc then .error (.flt .align c.tspc)
      else .ok c.returned := rfl
  rw [heret]
  by_cases h1 : c.pl = 0 ∨ c.trapActive = false
  · have hc : (c.user || !c.trapActive) = true := by simpa [huser] using h1
    have hmay : ¬(c.pl ≠ 0 ∧ c.trapActive = true ∧ (c.tsst.extractLsb' 14 2).toNat ≠ 3 ∧
        (c.tsst.extractLsb' 14 2).toNat ≤ c.pl) := by
      rintro ⟨h, h', -, -⟩
      rcases h1 with h1 | h1
      · exact h h1
      · rw [h1] at h'; cases h'
    rw [if_pos hc, if_neg hmay]
  · have hc : ¬(c.user || !c.trapActive) = true := by simpa [huser] using h1
    rw [not_or, Bool.not_eq_false] at h1
    rw [if_neg hc]
    by_cases h2 : c.tsst.extractLsb' 14 2 = 3 ∨ c.pl < (c.tsst.extractLsb' 14 2).toNat
    · have hmay : ¬(c.pl ≠ 0 ∧ c.trapActive = true ∧ (c.tsst.extractLsb' 14 2).toNat ≠ 3 ∧
          (c.tsst.extractLsb' 14 2).toNat ≤ c.pl) := by
        rw [hthree] at h2
        lia
      rw [if_pos h2, if_neg hmay]
    · have hmay : c.pl ≠ 0 ∧ c.trapActive = true ∧ (c.tsst.extractLsb' 14 2).toNat ≠ 3 ∧
          (c.tsst.extractLsb' 14 2).toNat ≤ c.pl := by
        rw [hthree, not_or, Nat.not_lt] at h2
        exact ⟨h1.1, h1.2, h2⟩
      rw [if_neg h2, if_pos hmay]
      by_cases h3 : slotOk c.tspc = true
      · rw [if_neg (by rw [h3]; decide), if_pos h3]
      · have h3' : (!slotOk c.tspc) = true := by rw [Bool.not_eq_true] at h3; rw [h3]; rfl
        rw [if_pos h3', if_neg h3]

end Sys2Proof.Machine

namespace Sys2Proof.Spec
set_option Elab.async false
open Sys2Proof Sys2Proof.Machine

/-- Settles O22: TRAP does what the entry of FHIX says, ERET what the trap registers say. -/
theorem trapsEnterAndReturn : Obligations.TrapsEnterAndReturn := by
  unfold Obligations.TrapsEnterAndReturn
  refine ⟨fun f s a r hr hsp hfn hob hab ha hreg => ?_, fun f s hr hsp hfn hab => ?_⟩
  · intro g c
    have hfix : fixedM3 f ((s.core s.self).ty f.ty) .i8 0 = true := hr.2
    have hl : (fixedM3 f ((s.core s.self).ty f.ty) .i8 0 && !f.sp && f.fn == 0 && numOperand f.ob && absent [f.od, f.oa, f.oc]) =
        true := by rw [hfix, hsp, hfn, hob, hab]; rfl
    refine ⟨fun h => ?_, fun h e he hs => ?_, fun h e he hs => ?_, fun h he => ?_⟩
    · exact exec_m3_fault (exec_trap f s) hr.1 hl (trapBody_active h)
    · refine exec_m3_gone (exec_trap f s) hr.1 hl ((trapBody_eq h ha hreg).trans ?_)
      rw [he]
      show (if (!e.sup) = true then _ else _) = _
      rw [hs]
      rfl
    · refine exec_m3_gone (exec_trap f s) hr.1 hl ((trapBody_eq h ha hreg).trans ?_)
      rw [he]
      exact if_pos (by simp [hs])
    · refine exec_m3_gone (exec_trap f s) hr.1 hl ((trapBody_eq h ha hreg).trans ?_)
      rw [he]; rfl
  · intro g c pl may
    have hfix : fixedM3 f ((s.core s.self).ty f.ty) .i8 0 = true := hr.2
    have hl : (fixedM3 f ((s.core s.self).ty f.ty) .i8 0 && !f.sp && f.fn == 0 && absent [f.od, f.oa, f.ob, f.oc]) = true := by
      rw [hfix, hsp, hfn, hab]; rfl
    have heret := Core.eret_eq (s.core s.self)
    refine ⟨fun h hs => ?_, fun h => ?_, fun h hs => ?_⟩
    · rw [if_pos h, if_pos hs] at heret
      refine exec_m3_gone (exec_eret f s) hr.1 hl ?_
      simp only [heret]
      rfl
    · rw [if_neg h] at heret
      refine exec_m3_fault (exec_eret f s) hr.1 hl ?_
      simp only [heret]
    · rw [if_pos h, if_neg (ne_true_of_eq_false hs)] at heret
      refine exec_m3_fault (exec_eret f s) hr.1 hl ?_
      simp only [heret]
      rfl

end Sys2Proof.Spec
end

section
/-! PROOFS. TLBINV, XLAT, SCRUB, PWRB, BRK and SIGCHK (R396, R404, R406, R439, R442, R446). -/

namespace Sys2Proof.Machine
set_option Elab.async false

/-! ### TLBINV -/

/-- The state after an invalidation was broadcast: each chiplet it concerns has it to carry out, and the core waits for it. -/
noncomputable def State.broadcast (s : State) (g lo hi : Nat) : State :=
  (s.invalChips.foldl (fun (t : State) n => t.modChip n fun k => { k with invals := k.invals ++ [⟨s.invalNext, (s.core g).asid, lo, hi⟩] })
    { s with invalNext := s.invalNext + 1 }).modCore g fun c => { c with wait := .tlbinv s.invalNext }

/-- A TLBINV that does not wait yet. -/
noncomputable def tlbinvNew (range : Core → Except Exn (Nat × Nat)) (s : State) : Except Exn Res :=
  if (s.core s.self).user then .error (.flt .priv 0)
  else match range (s.core s.self) with
    | .error e => .error e
    | .ok (lo, hi) => .ok (.hold (s.broadcast s.self lo hi))

theorem tlbinvBody_new {range : Core → Except Exn (Nat × Nat)} {s : State} (h : ∀ id, (s.core s.self).wait ≠ .tlbinv id) :
    tlbinvBody range s = tlbinvNew range s := by
  have hbody : tlbinvBody range s = match (s.core s.self).wait with
    | .tlbinv id => if s.chips.any fun x => x.2.invals.any fun v => v.id == id then .error .stall else .ok (.done s)
    | _ => tlbinvNew range s := rfl
  rw [hbody]
  split
  · rename_i id hid; exact absurd hid (h id)
  · rfl

theorem tlbinvBody_done {range : Core → Except Exn (Nat × Nat)} {s : State} {id : Nat} (h : (s.core s.self).wait = .tlbinv id)
    (hno : (s.chips.any fun x => x.2.invals.any fun v => v.id == id) = false) : tlbinvBody range s = .ok (.done s) := by
  rw [tlbinvBody, h]
  exact if_neg (ne_true_of_eq_false hno)

/-! ### XLAT, SCRUB, PWRB, BRK -/

theorem xlatBody_ok {f : M3} {s : State} (h : (s.core s.self).checkLocals 8 [(f.od, 8, 8)] = .ok ()) :
    xlatBody f s = .ok (.done ((match (s.xlat s.self ((s.core s.self).preg (regOf f.oa)) (xlatNeed f.fn)).2 with
      | some e => s.fillTlb (.core s.self) (s.self / 64) e
      | none => s).modCore s.self fun c => (c.writeU64 8 f.od
        (s.xlat s.self ((s.core s.self).preg (regOf f.oa)) (xlatNeed f.fn)).1.toNat).opIncs 8 [f.od])) := by
  exact bind_of_ok h rfl

/-- A scrub whose address translated to `r`. -/
noncomputable def scrubFrom (f : M3) (page : Bool) (s : State) (r : Except FCode (List Nat × Nat × TlbEntry)) : Except Exn Res :=
  match r with
  | .error e => .error (.flt e ((s.core s.self).preg (regOf f.oa)))
  | .ok (fr, pa, e) =>
    let t := (s.fillTlb (.core s.self) (s.self / 64) e).makeIrrev s.self
    let u := fr.foldl (fun t k => t.scrubBytes (4096 * k) 4096) t
    if (!page && fr.any s.marked) = true then .error (.flt .quar ((s.core s.self).preg (regOf f.oa)))
    else if homesClash (s.core s.self).pend [homeOf e.leaf pa] = true then .error .stall
    else if page = true then .ok (.done { u with marks := u.marks.filter fun k => !fr.contains k
                                                 writers := u.writers.filter fun x => !fr.contains x.1 })
    else .ok (.done ((t.scrubBytes (pa / 128 * 128) 128).noteWriter (s.core s.self).asid [.pa pa]))

theorem scrubBody_eq (f : M3) (page : Bool) (s : State) : scrubBody f page s =
    if (s.core s.self).user = true then .error (.flt .priv 0)
    else scrubFrom f page s (s.scrubPlace s.self ((s.core s.self).preg (regOf f.oa))) := rfl

section
variable {f : M3} {s : State} {fr : List Nat} {pa : Nat} {e : TlbEntry} (hu : (s.core s.self).user = false)
  (hp : s.scrubPlace s.self ((s.core s.self).preg (regOf f.oa)) = .ok (fr, pa, e))
include hu hp

theorem scrubBody_from (page : Bool) : scrubBody f page s = scrubFrom f page s (.ok (fr, pa, e)) :=
  (scrubBody_eq f page s).trans ((if_neg (ne_true_of_eq_false hu)).trans (congrArg (scrubFrom f page s) hp))

theorem scrubBody_page (hc : homesClash (s.core s.self).pend [homeOf e.leaf pa] = false) :
    let t := fr.foldl (fun t k => t.scrubBytes (4096 * k) 4096) ((s.fillTlb (.core s.self) (s.self / 64) e).makeIrrev s.self)
    scrubBody f true s = .ok (.done { t with marks := t.marks.filter fun k => !fr.contains k
                                             writers := t.writers.filter fun x => !fr.contains x.1 }) :=
  (scrubBody_from hu hp true).trans (if_neg (ne_true_of_eq_false hc))

theorem scrubBody_line (hm : ∀ k ∈ fr, s.marked k = false) (hc : homesClash (s.core s.self).pend [homeOf e.leaf pa] = false) :
    scrubBody f false s = .ok (.done ((((s.fillTlb (.core s.self) (s.self / 64) e).makeIrrev s.self).scrubBytes (pa / 128 * 128)
      128).noteWriter (s.core s.self).asid [.pa pa])) := by
  have hany : fr.any s.marked = false := List.any_eq_false.2 fun k hk => ne_true_of_eq_false (hm k hk)
  exact (scrubBody_from hu hp false).trans ((if_neg (ne_true_of_eq_false hany)).trans (if_neg (ne_true_of_eq_false hc)))

end

theorem pwrbWork_ok {f : M3} {new : Core → W32} {c : Core} {fill : BitVec 3 → Bool}
    (h : f.od = .zero ∨ c.checkLocals 4 [(f.od, 4, 4)] = .ok ()) :
    pwrbWork f new c fill = .ok ({ (c.writeU32 4 f.od c.pwrcap.toNat).opIncs 4 [f.od] with pwrcap := new c }, none) := by
  unfold pwrbWork
  exact checkPresent h _

/-- The cap of a signed value is the value, held between 1 and 16. -/
theorem capOf_eq (x : W64) : capOf x = (min (max x.toInt 1) 16).toNat := by
  unfold capOf
  by_cases h1 : x.toInt ≤ 1
  · rw [if_pos h1, Int.max_eq_right h1]; rfl
  · rw [if_neg h1, Int.max_eq_left (by lia)]
    by_cases h2 : 16 ≤ x.toInt
    · rw [if_pos h2, Int.min_eq_right h2]; rfl
    · rw [if_neg h2, Int.min_eq_left (by lia)]
      have := BitVec.toInt_eq_toNat_cond x
      have := x.isLt
      split at * <;> lia

/-- Debugging is on for the address space of the core in hand. -/
noncomputable def debugs (s : State) : Bool :=
  match s.space? (s.core s.self).asid with
  | some r => r.debug
  | none => false

/-- BRK in the activation that the core in hand runs. -/
noncomputable def brkOf (i : Instr) (f : M3) (s : State) : Option Act → Except Exn Res
  | some a =>
    if (!debugs s || (s.core s.self).trapActive) = true then .ok (.done s)
    else if (!(s.core s.self).pend.isEmpty || !s.othersStop s.self) = true then .error .stall
    else .ok (.gone (s.brkAt s.self a i (((s.core s.self).pOrImm f.ob).extractLsb' 0 12).toNat))
  | none => .ok (.done s)

theorem brkBody_eq (i : Instr) (f : M3) (s : State) : brkBody i f s = brkOf i f s (s.core s.self).act := rfl

/-- BRK does nothing where debugging is off or a trap is active. -/
theorem brkBody_pass {i : Instr} {f : M3} {s : State} {a : Act} (ha : (s.core s.self).act = some a) (on : Bool)
    (hon : debugs s = on) :
    (on = false ∨ (s.core s.self).trapActive = true → brkBody i f s = .ok (.done s)) ∧
    (on = true → (s.core s.self).trapActive = false → (s.core s.self).pend = [] → s.othersStop s.self = true →
      brkBody i f s = .ok (.gone (s.brkAt s.self a i (((s.core s.self).pOrImm f.ob).extractLsb' 0 12).toNat))) := by
  have hbody : brkBody i f s = brkOf i f s (some a) := (brkBody_eq i f s).trans (congrArg (brkOf i f s) ha)
  subst hon
  refine ⟨fun h => hbody.trans (if_pos ?_), fun h ht hp ho => hbody.trans ((if_neg ?_).trans (if_neg ?_))⟩
  · rcases h with h | h
    · rw [h]; rfl
    · rw [h]; exact Bool.or_true _
  · rw [h, ht]; exact Bool.false_ne_true
  · rw [hp, ho]; exact Bool.false_ne_true

end Sys2Proof.Machine

namespace Sys2Proof.Spec
set_option Elab.async false
open Sys2Proof Sys2Proof.Machine

/-- The three rows of TLBINV, each with its range. -/
theorem exec_tlbinv {f : M3} {s : State} {i : Instr} {fn : BitVec 10} {lo hi : Nat}
    (h : (i = .tlbinvPage f ∧ fn = 0 ∧ canonical ((s.core s.self).preg (regOf f.oa)) = true ∧
        lo = ((s.core s.self).preg (regOf f.oa)).toNat ∧ hi = ((s.core s.self).preg (regOf f.oa)).toNat + 1) ∨
      (i = .tlbinvRange f ∧ fn = 1 ∧ canonical ((s.core s.self).preg (regOf f.oa)) = true ∧
        ((s.core s.self).preg (regOf f.ob) = 0 ∨
          canonical ((s.core s.self).preg (regOf f.oa) + (s.core s.self).preg (regOf f.ob) - 1) = true) ∧
        lo = ((s.core s.self).preg (regOf f.oa)).toNat ∧
        hi = ((s.core s.self).preg (regOf f.oa)).toNat + ((s.core s.self).preg (regOf f.ob)).toNat) ∨
      (i = .tlbinvAsid f ∧ fn = 2 ∧ lo = 0 ∧ hi = 2 ^ 64)) :
    ∃ range : Core → Except Exn (Nat × Nat), range (s.core s.self) = .ok (lo, hi) ∧
      exec i s = coreRow i (shapeM3 f fun t => tlbinvLegal f t fn) (tlbinvBody range) s := by
  rcases h with ⟨rfl, rfl, hc, rfl, rfl⟩ | ⟨rfl, rfl, hc, hl, rfl, rfl⟩ | ⟨rfl, rfl, rfl, rfl⟩
  · exact ⟨_, if_pos hc, exec_tlbinvPage f s⟩
  · refine ⟨_, (if_neg (by rw [hc]; exact Bool.false_ne_true)).trans (if_neg ?_), exec_tlbinvRange f s⟩
    rintro ⟨h1, h2⟩
    rcases hl with h | h
    · exact h1 h
    · rw [h] at h2; exact absurd h2 (by decide)
  · exact ⟨_, rfl, exec_tlbinvAsid f s⟩

/-- Settles O23. -/
theorem tlbInvalidationCompletes : Obligations.TlbInvalidationCompletes := by
  unfold Obligations.TlbInvalidationCompletes
  intro f s i fn lo hi g c a l hi' hr
  obtain ⟨range, hrange, hx⟩ := exec_tlbinv hi'
  refine ⟨fun hw hu => ?_, fun hw hu => ?_, fun id hw hno => ?_⟩
  · exact exec_m3_fault hx hr.1 hr.2 ((tlbinvBody_new hw).trans (if_pos hu))
  · refine exec_m3_hold hx hr.1 hr.2 ((tlbinvBody_new hw).trans ((if_neg (ne_true_of_eq_false hu)).trans ?_))
    rw [hrange]
    rfl
  · exact exec_m3_done hx hr.1 hr.2 (tlbinvBody_done hw hno)

/-- Settles O24. -/
theorem otherSystemComplete : Obligations.OtherSystemComplete := by
  unfold Obligations.OtherSystemComplete
  refine ⟨fun f s hr hfn hoa hod hclash hab hlocal => ?_, fun f s fr pa e hr => ?_, fun f s fr pa e hr => ?_, fun f s hr hlocal => ?_,
    fun f s hr hlocal => ?_, fun f s a hr hsp hfn hob hab ha => ?_, fun sp sig s hr => ?_⟩
  · intro g x s1
    have hfix : fixedM3 f ((s.core s.self).ty f.ty) .u64 1 = true := hr.2
    exact exec_m3_done (exec_xlat f s) hr.1 (by rw [hfix, hoa, hod, hclash, hab, decide_eq_true hfn]; rfl) (xlatBody_ok hlocal)
  · intro g hu hp hc t
    exact exec_m3_done (exec_scrubPage f s) hr.1 hr.2 (scrubBody_page hu hp hc)
  · intro g hu hp hm hc
    exact exec_m3_done (exec_scrubLine f s) hr.1 hr.2 (scrubBody_line hu hp hm hc)
  · intro c d v
    have h := exec_m3_done (exec_pwrbCap f s) hr.1 hr.2 (onOwnCore_done (r := (_, none)) (pwrbWork_ok hlocal) fun _ _ h => nomatch h)
    rw [capOf_eq] at h
    exact h
  · intro c d
    exact exec_m3_done (exec_pwrbGate f s) hr.1 hr.2 (onOwnCore_done (r := (_, none)) (pwrbWork_ok hlocal) fun _ _ h => nomatch h)
  · intro c on
    have hfix : fixedM3 f ((s.core s.self).ty f.ty) .i8 0 = true := hr.2
    have hl : (fixedM3 f ((s.core s.self).ty f.ty) .i8 0 && !f.sp && f.fn == 0 && numOperand f.ob && absent [f.od, f.oa, f.oc]) =
        true := by rw [hfix, hsp, hfn, hob, hab]; rfl
    obtain ⟨hpass, hstop⟩ := brkBody_pass (i := .brk f) (f := f) ha on rfl
    exact ⟨fun h => exec_m3_done (exec_brk f s) hr.1 hl (hpass h),
      fun h ht hp ho => exec_m3_gone (exec_brk f s) hr.1 hl (hstop h ht hp ho)⟩
  · intro c
    refine ⟨fun h => ?_, fun h => ?_⟩
    · exact (exec_sigchk sp sig s).trans (coreRow_done (ops := []) rfl hr (if_pos (beq_iff_eq.2 h)))
    · exact (exec_sigchk sp sig s).trans (coreRow_fault (ops := []) rfl hr (if_neg fun he => h (beq_iff_eq.1 he)))

end Sys2Proof.Spec
end

section
/-! PROOFS. LD, LDEF and ST (R207, R213, R217, R219, R222, R223). -/

namespace Sys2Proof.Machine
open Sys2Proof.Spec
set_option Elab.async false

/-! ### What filling the caches leaves of the queues and gangs -/

/-- `t` is `s` but for what an access of core g may change before it completes: caches, banks, pointers. The core runs what it
ran, its queues and its gang are those it had; the other cores are as they were. -/
structure State.Cached (g : Nat) (s t : State) : Prop where
  others : ∀ k, k ≠ g → t.core k = s.core k
  act : (t.core g).act = (s.core g).act
  gmask : (t.core g).gmask = (s.core g).gmask
  queues : (t.core g).q = (s.core g).q

namespace State.Cached
variable {g : Nat} {s t u : State}

theorem refl (g : Nat) (s : State) : Cached g s s := ⟨fun _ _ => rfl, rfl, rfl, rfl⟩

theorem trans (h : Cached g s t) (k : Cached g t u) : Cached g s u :=
  ⟨fun j hj => (k.others j hj).trans (h.others j hj), k.act.trans h.act, k.gmask.trans h.gmask, k.queues.trans h.queues⟩

theorem of_cores (hc : t.cores = s.cores) : Cached g s t := by
  have hcore (k : Nat) : t.core k = s.core k := by rw [State.core, hc]; rfl
  exact ⟨fun k _ => hcore k, by rw [hcore], by rw [hcore], by rw [hcore]⟩

/-- A running core that changes, but for what it runs, its gang and its queues. -/
theorem setCore {c : Core} (ha : (s.core g).act ≠ none) (h1 : c.act = (s.core g).act) (h2 : c.gmask = (s.core g).gmask)
    (h3 : c.q = (s.core g).q) : Cached g s (s.setCore g c) := by
  have hc : (s.setCore g c).core g = c := State.core_setCore_of_act (h1 ▸ ha)
  exact ⟨fun k hk => State.core_setCore_ne hk c, by rw [hc, h1], by rw [hc, h2], by rw [hc, h3]⟩

theorem running (h : Cached g s t) (ha : (s.core g).act ≠ none) : (t.core g).act ≠ none := h.act ▸ ha

theorem foldl {α : Type} {f : State → α → State} (h : ∀ s x, (s.core g).act ≠ none → Cached g s (f s x)) (l : List α)
    (ha : (s.core g).act ≠ none) : Cached g s (l.foldl f s) := by
  induction l generalizing s with
  | nil => exact refl g s
  | cons x l ih =>
    have hx := h s x ha
    exact hx.trans (ih (hx.running ha))

/-- What a modification of core g keeps. -/
theorem modCore {f : Core → Core} (ha : (s.core g).act ≠ none) (h1 : ∀ c, (f c).act = c.act) (h2 : ∀ c, (f c).gmask = c.gmask)
    (h3 : ∀ c, (f c).q = c.q) : Cached g s (s.modCore g f) := setCore ha (h1 _) (h2 _) (h3 _)

theorem modChip (g : Nat) (s : State) (n : Nat) (f : Chip → Chip) : Cached g s (s.modChip n f) := of_cores rfl

theorem fillTlb_core (n : Nat) (e : TlbEntry) : s.fillTlb (.core g) n e =
    (s.modChip n fun c => { c with tlb := tlbFillShared c.tlb ((s.chip n).markStale e) }).modCore g fun c =>
      { c with tlb := tlbFill 32 c.tlb ((s.chip n).markStale e) } := rfl

theorem fillTlb (ha : (s.core g).act ≠ none) (n : Nat) (e : TlbEntry) : Cached g s (s.fillTlb (.core g) n e) := by
  rw [fillTlb_core]
  exact (modChip g s n _).trans (modCore ha (fun _ => rfl) (fun _ => rfl) fun _ => rfl)

theorem fillAll (ha : (s.core g).act ≠ none) (n : Nat) (l : List Seg) : Cached g s (s.fillAll (.core g) n l) := by
  unfold State.fillAll
  refine foldl (fun s x ha => ?_) l ha
  exact fillTlb ha n x.entry

theorem l2Request (s : State) (n : Nat) (asid : W16) (leaf va : W64) (pa : Nat) (ef : Bool) :
    Cached g s (s.l2Request n asid leaf va pa ef) := by
  unfold State.l2Request
  split
  · exact of_cores rfl
  · split
    · exact refl g s
    · exact of_cores rfl

theorem l2Segs (ha : (s.core g).act ≠ none) (n : Nat) (asid : W16) (l : List Seg) (ef : Bool) :
    Cached g s (s.l2Segs n asid l ef) := by
  unfold State.l2Segs
  refine foldl (fun s x ha => ?_) l ha
  exact foldl (fun s y _ => l2Request s _ _ _ _ _ _) x.lines ha

theorem l1Ensure (ha : (s.core g).act ≠ none) (x : Seg) (pa : Nat) (va : W64) (ef : Bool) : Cached g s (s.l1Ensure g x pa va ef) := by
  unfold State.l1Ensure
  dsimp only
  split
  · split
    · exact refl g s
    · exact setCore ha rfl rfl rfl
  · have h2 := l2Request (g := g) s (g / 64) (s.core g).asid x.leaf va pa ef
    split
    · exact h2
    · exact h2.trans (setCore (h2.running ha) rfl rfl rfl)

theorem l1Lines (ha : (s.core g).act ≠ none) (x : Seg) (ef : Bool) : Cached g s (s.l1Lines g x ef) := by
  unfold State.l1Lines
  exact foldl (fun s y ha => l1Ensure ha x _ _ _) x.lines ha

theorem takeLanes (ha : (s.core g).act ≠ none) (ef : Bool) (ps : List Piece) : Cached g s (s.takeLanes g ef ps).2 := by
  induction ps generalizing s with
  | nil => exact refl g s
  | cons p ps ih =>
    induction p with
    | win off n =>
      have hw : Cached g s (s.modCore g fun c => c.wakeBanks off n) := setCore ha rfl rfl rfl
      exact hw.trans (ih (hw.running ha))
    | glob x =>
      have hx : Cached g s (if x.imm then s.l2Segs (g / 64) (s.core g).asid [x] ef else s.l1Lines g x ef) := by
        split
        · exact l2Segs ha _ _ _ _
        · exact l1Lines ha x ef
      exact hx.trans (ih (hx.running ha))

theorem opIncs (c : Core) (fp : Nat) (l : List Operand) :
    (c.opIncs fp l).act = c.act ∧ (c.opIncs fp l).gmask = c.gmask ∧ (c.opIncs fp l).q = c.q := by
  induction l generalizing c with
  | nil => exact ⟨rfl, rfl, rfl⟩
  | cons o l ih =>
    obtain ⟨h1, h2, h3⟩ := ih (c.opInc fp o)
    have ho : (c.opInc fp o).act = c.act ∧ (c.opInc fp o).gmask = c.gmask ∧ (c.opInc fp o).q = c.q := by
      induction o <;> exact ⟨rfl, rfl, rfl⟩
    exact ⟨h1.trans ho.1, h2.trans ho.2.1, h3.trans ho.2.2⟩

/-- A push that has room has room all the same. -/
theorem isOk_pushQ (h : Cached g s t) {n : BitVec 3} {e e' : QEntry} (hp : isOk (s.pushQ g n e') = true) :
    isOk (t.pushQ g n e) = true := by
  have hact (k : Nat) : (t.core k).act = (s.core k).act := by
    by_cases hk : k = g
    · exact hk ▸ h.act
    · rw [h.others k hk]
  have hq (k : Nat) : (t.core k).queue n = (s.core k).queue n := by
    by_cases hk : k = g
    · subst hk; rw [Core.queue, h.queues]; rfl
    · rw [h.others k hk]
  have hruns (k : Nat) : t.runsGang k = s.runsGang k := by unfold State.runsGang; rw [hact]
  have hgang (b : Bool) : t.neighbour g b = s.neighbour g b := by
    unfold State.neighbour State.gangCores; simp only [h.gmask]
  have howner : queueCore t g n = queueCore s g n := by unfold queueCore; rw [hruns, hgang]
  rw [State.isOk_pushQ_iff] at hp ⊢
  rwa [howner, hruns, hq]

end State.Cached

/-! ### LD and LDEF -/

section
variable {f : M3} {s : State} {ef : Bool} {ps : List Piece}

/-- The banks that a load's destination in the scratchpad wakes; c is the core that issued it. -/
noncomputable def loadWoken (c : Core) (fp : Nat) (od : Operand) (x : Core) : Core :=
  match x.destOf fp od with
  | .spad _ => x.wakeBanks (c.opAddr fp od).toNat fp
  | _ => x

theorem loadWoken_keeps (c : Core) (fp : Nat) (od : Operand) (x : Core) : (loadWoken c fp od x).act = x.act ∧
    (loadWoken c fp od x).gmask = x.gmask ∧ (loadWoken c fp od x).q = x.q := by
  unfold loadWoken
  split <;> exact ⟨rfl, rfl, rfl⟩

/-- A load's caches, banks and pointers, before the words leave or are delivered. -/
noncomputable def loadTook (f : M3) (ef : Bool) (ps : List Piece) (s : State) : State :=
  (((s.fillAll (.core s.self) (s.self / 64) (segsOf ps)).takeLanes s.self ef ps).2).modCore s.self fun c =>
    (loadWoken (s.core s.self) (fpOf f.ln) f.od c).opIncs (fpOf f.ln) [f.od, f.oa]

/-- The words a load finds, or waits for. -/
noncomputable def loadLanes (ef : Bool) (ps : List Piece) (s : State) : List LaneSrc :=
  ((s.fillAll (.core s.self) (s.self / 64) (segsOf ps)).takeLanes s.self ef ps).1

theorem loadTook_cached (ha : (s.core s.self).act ≠ none) : State.Cached s.self s (loadTook f ef ps s) := by
  have h1 := State.Cached.fillAll ha (s.self / 64) (segsOf ps)
  have h2 := h1.trans (State.Cached.takeLanes (h1.running ha) ef ps)
  have hinc (x : Core) := State.Cached.opIncs (loadWoken (s.core s.self) (fpOf f.ln) f.od x) (fpOf f.ln) [f.od, f.oa]
  have hwake := loadWoken_keeps (s.core s.self) (fpOf f.ln) f.od
  exact h2.trans (State.Cached.modCore (h2.running ha) (fun x => (hinc x).1.trans (hwake x).1)
    (fun x => (hinc x).2.1.trans (hwake x).2.1) fun x => (hinc x).2.2.trans (hwake x).2.2)

theorem exists_of_isOk {ε α : Type} {x : Except ε α} (h : isOk x = true) : ∃ v, x = .ok v := by
  induction x with
  | ok v => exact ⟨v, rfl⟩
  | error e => cases h

/-- What a load's words find room in, where its queue does. -/
theorem deliver_ok {u : State} (hu : State.Cached s.self s u) (hroom : s.hasRoom s.self f.od = true) (t : Ty) (l : List Lane) :
    ∃ v, u.deliver s.self ((s.core s.self).destOf (fpOf f.ln) f.od) t l = .ok v := by
  induction hd : f.od with
  | queue n =>
    rw [hd] at hroom
    exact exists_of_isOk (State.Cached.isOk_pushQ hu hroom)
  | _ => exact ⟨_, rfl⟩

/-- A load after its checks: the words leave for their homes, or are delivered. -/
noncomputable def ldEnd (f : M3) (ef : Bool) (ps : List Piece) (s : State) : Except Exn Res :=
  if (segsOf ps).isEmpty then do
    return .done (← (loadTook f ef ps s).deliver s.self ((s.core s.self).destOf (fpOf f.ln) f.od) ((s.core s.self).ty f.ty)
      ((loadLanes ef ps s).map (loadTook f ef ps s).laneNow))
  else return .done ((loadTook f ef ps s).modCore s.self fun d => { d with pend := d.pend ++
    [⟨.load (loadLanes ef ps s) ((s.core s.self).destOf (fpOf f.ln) f.od) ((s.core s.self).ty f.ty) f.ln,
      ((segsOf ps).filter Seg.imm).map (·.home), (s.core s.self).pc, (s.core s.self).opAddr (fpOf f.ln) f.oa,
      (s.core s.self).asid⟩] })

theorem ldEnd_here {u : State} (he : segsOf ps = []) (hu : (loadTook f ef ps s).deliver s.self
    ((s.core s.self).destOf (fpOf f.ln) f.od) ((s.core s.self).ty f.ty) ((loadLanes ef ps s).map (loadTook f ef ps s).laneNow) = .ok u) :
    ldEnd f ef ps s = .ok (.done u) := by
  unfold ldEnd
  rw [he]
  exact bind_of_ok hu rfl

theorem ldEnd_out (he : segsOf ps ≠ []) : ldEnd f ef ps s = .ok (.done ((loadTook f ef ps s).modCore s.self fun d =>
    { d with pend := d.pend ++ [⟨.load (loadLanes ef ps s) ((s.core s.self).destOf (fpOf f.ln) f.od) ((s.core s.self).ty f.ty) f.ln,
      ((segsOf ps).filter Seg.imm).map (·.home), (s.core s.self).pc, (s.core s.self).opAddr (fpOf f.ln) f.oa,
      (s.core s.self).asid⟩] })) := by
  unfold ldEnd
  generalize hl : segsOf ps = l
  induction l with
  | nil => exact absurd hl he
  | cons x l => rfl

/-- The last checks of a load: its own loads out, and the scratchpad it reads. -/
noncomputable def ldRest (f : M3) (ef : Bool) (ps : List Piece) (s : State) : Except Exn Res := do
  if !(segsOf ps).isEmpty && decide (16 ≤ (s.core s.self).loadsOut) then throw .stall
  (s.core s.self).readablePieces ps
  ldEnd f ef ps s

theorem ldRest_ok (hrd : (s.core s.self).readablePieces ps = .ok ()) (hfree : segsOf ps = [] ∨ (s.core s.self).loadsOut < 16) :
    ldRest f ef ps s = ldEnd f ef ps s := by
  have hf : (!(segsOf ps).isEmpty && decide (16 ≤ (s.core s.self).loadsOut)) = false := by
    rcases hfree with h | h
    · simp [h]
    · simp [Nat.not_le.2 h]
  unfold ldRest
  rw [if_neg (by simp [hf])]
  exact bind_of_ok hrd rfl

/-- The room that a load's queue destination must have. -/
noncomputable def loadRoom (s : State) : Dest → Except Exn Unit
  | .queue n => discard (s.pushQ s.self n emptyEntry)
  | _ => pure ()

theorem loadRoom_ok (hroom : s.hasRoom s.self f.od = true) :
    loadRoom s ((s.core s.self).destOf (fpOf f.ln) f.od) = .ok () := by
  induction hd : f.od with
  | queue n =>
    rw [hd] at hroom
    obtain ⟨v, hv⟩ := exists_of_isOk hroom
    exact congrArg discard (show s.pushQ s.self n emptyEntry = .ok v from hv)
  | _ => rfl

/-- The checks of a load in their order, then the rest of it. -/
theorem ldBody_eq : ldBody f ef s = (do
    (s.core s.self).checkLocals (fpOf f.ln) [(f.od, fpOf f.ln, 4)]
    let ps ← s.globalAccess s.self ((s.core s.self).opAddr (fpOf f.ln) f.oa) (fpOf f.ln) (globalAlign ((s.core s.self).ty f.ty)) .r
    loadRoom s ((s.core s.self).destOf (fpOf f.ln) f.od)
    ldRest f ef ps s) := by
  obtain ⟨sp, ty, ln, vp, rm, fn, od, oa, ob, oc⟩ := f
  induction od <;> rfl

theorem ldBody_ok (hcl : (s.core s.self).checkLocals (fpOf f.ln) [(f.od, fpOf f.ln, 4)] = .ok ())
    (hga : s.globalAccess s.self ((s.core s.self).opAddr (fpOf f.ln) f.oa) (fpOf f.ln) (globalAlign ((s.core s.self).ty f.ty)) .r = .ok ps)
    (hrd : (s.core s.self).readablePieces ps = .ok ()) (hroom : s.hasRoom s.self f.od = true)
    (hfree : segsOf ps = [] ∨ (s.core s.self).loadsOut < 16) : ldBody f ef s = ldEnd f ef ps s :=
  ldBody_eq.trans (bind_of_ok hcl (bind_of_ok hga (bind_of_ok (loadRoom_ok hroom) (ldRest_ok hrd hfree))))

/-- The bytes that a store sends to their homes. -/
noncomputable def storeHere (f : M3) (ps : List Piece) (lanes : List Lane) : List (Loc × Byte) :=
  homeBytes ((lanePlaces ps).zip (lanes.map (storeWord f.vp)))

/-- What a store leaves where its entries found room in the log: c2 is the core with them. -/
noncomputable def stDone (f : M3) (ps : List Piece) (lanes : List Lane) (c2 : Core) (s : State) : State :=
  let c := s.core s.self
  let c3 := ((lanePlaces ps).zip lanes).foldl (fun c x => match x.1 with
    | .win off => c.spWrite off [windowWord f.vp x.2]
    | _ => c) c2
  let c4 := if storeHere f ps lanes = [] then c3 else
    { c3.makeIrrev with pend := c3.pend ++ [⟨.store (storeHere f ps lanes), ((segsOf ps).filter Seg.imm).map (·.home), c.pc,
      c.opAddr (fpOf f.ln) f.od, c.asid⟩] }
  ((s.setCore s.self (c4.opIncs (fpOf f.ln) [f.od, f.oa])).fillAll (.core s.self) (s.self / 64) (segsOf ps)).l2Segs (s.self / 64)
    c.asid ((segsOf ps).filter fun x => x.imm && (storeHere f ps lanes).any fun y => x.places.contains y.1) false

/-- A store after its reads: LOGFULL with no effect, or the bytes where they belong. -/
noncomputable def stRest (f : M3) (ps : List Piece) (c1 : Core) (lanes : List Lane) (s : State) : Except Exn Res := do
  if storeHere f ps lanes ≠ [] ∧ 16 ≤ (s.core s.self).othersOut then throw .stall
  match c1.addEntries (c1.storeEntries (phasedBytes ((lanePlaces ps).zip (lanes.map (storeWord f.vp))))) with
  | none => throw (.flt .logfull ((s.core s.self).opAddr (fpOf f.ln) f.od))
  | some c2 => return .done (stDone f ps lanes c2 s)

section
variable {c1 : Core} {lanes : List Lane} (hfree : storeHere f ps lanes = [] ∨ (s.core s.self).othersOut < 16)
include hfree

theorem stRest_done {c2 : Core}
    (h : c1.addEntries (c1.storeEntries (phasedBytes ((lanePlaces ps).zip (lanes.map (storeWord f.vp))))) = some c2) :
    stRest f ps c1 lanes s = .ok (.done (stDone f ps lanes c2 s)) := by
  unfold stRest
  rw [if_neg fun ⟨h1, h2⟩ => hfree.elim h1 (Nat.not_lt.2 h2), h]
  rfl

theorem stRest_full
    (h : c1.addEntries (c1.storeEntries (phasedBytes ((lanePlaces ps).zip (lanes.map (storeWord f.vp))))) = none) :
    stRest f ps c1 lanes s = .error (.flt .logfull ((s.core s.self).opAddr (fpOf f.ln) f.od)) := by
  unfold stRest
  rw [if_neg fun ⟨h1, h2⟩ => hfree.elim h1 (Nat.not_lt.2 h2), h]
  rfl

end

/-- The checks of a store in their order, then the rest of it. -/
theorem stBody_eq : stBody f s = (do
    let ps ← s.globalAccess s.self ((s.core s.self).opAddr (fpOf f.ln) f.od) (fpOf f.ln) (globalAlign ((s.core s.self).ty f.ty)) .w
    (s.core s.self).checkLocals (fpOf f.ln) [(f.oa, fpOf f.ln, 4)]
    let x ← (s.core s.self).storeLanes (s.canFill s.self) (fpOf f.ln) f.oa ((s.core s.self).ty f.ty) f.ln
    stRest f ps x.1 x.2 s) := rfl

theorem stBody_ok {c1 : Core} {lanes : List Lane} {r : Except Exn Res}
    (hga : s.globalAccess s.self ((s.core s.self).opAddr (fpOf f.ln) f.od) (fpOf f.ln) (globalAlign ((s.core s.self).ty f.ty)) .w = .ok ps)
    (hcl : (s.core s.self).checkLocals (fpOf f.ln) [(f.oa, fpOf f.ln, 4)] = .ok ())
    (hsl : (s.core s.self).storeLanes (s.canFill s.self) (fpOf f.ln) f.oa ((s.core s.self).ty f.ty) f.ln = .ok (c1, lanes))
    (hr : stRest f ps c1 lanes s = r) : stBody f s = r :=
  stBody_eq.trans (bind_of_ok hga (bind_of_ok hcl (bind_of_ok hsl hr)))

end

end Sys2Proof.Machine

namespace Sys2Proof.Spec
open Machine
set_option Elab.async false

/-- Settles O26: the caches and pointers that a load changes leave the room that its queue destination had. -/
theorem loadsAndStoresComplete : Obligations.LoadsAndStoresComplete := by
  refine ⟨?_, ?_⟩
  · intro f s i ef ps hi hr g c t fp va hcl hga hrd hroom hfree r s2
    have hx : exec i s = coreRow i (shapeM3 f (ldLegal f)) (ldBody f ef) s := by
      obtain ⟨rfl, rfl⟩ | ⟨rfl, rfl⟩ := hi <;> rfl
    have hact : (s.core s.self).act ≠ none := State.issues_act (canIssue_iff.1 hr.1).2.1
    have hb : ldBody f ef s = ldEnd f ef ps s := ldBody_ok hcl hga hrd hroom hfree
    refine ⟨fun he => ?_, fun he => ?_⟩
    · obtain ⟨u, hu⟩ := deliver_ok (loadTook_cached (f := f) (ef := ef) (ps := ps) hact) hroom t
        ((loadLanes ef ps s).map (loadTook f ef ps s).laneNow)
      exact ⟨u, hu, exec_m3_done hx hr.1 hr.2 (hb.trans (ldEnd_here he hu))⟩
    · exact exec_m3_done hx hr.1 hr.2 (hb.trans (ldEnd_out he))
  · intro f s ps c1 lanes hr g c t fp va hga hcl hsl places words here hfree
    refine ⟨fun c2 h2 => ?_, fun h2 => ?_⟩
    · exact exec_m3_done rfl hr.1 hr.2 (stBody_ok hga hcl hsl (stRest_done hfree h2))
    · exact exec_m3_fault rfl hr.1 hr.2 (stBody_ok hga hcl hsl (stRest_full hfree h2))

end Sys2Proof.Spec
end

section
/-! PROOFS. Page walks, invalidations and boundaries (R198 to R216, R394, R396); the accesses of the host (R407 to R414, R448). -/

namespace Sys2Proof.Machine
open Sys2Proof.Spec
set_option Elab.async false

/-! ### An agent's row at a unit that exists -/

theorem onSite_of {n : Nat} {s t : State} {f : State → State} (h : wfSite n = true) (hf : f s = t) : onSite n s f = .next t :=
  (if_pos h).trans (congrArg Host.Outcome.next hf)

theorem onCore_of {g : Nat} {s t : State} {f : State → State} (h : wfCore g = true) (hf : f s = t) : onCore g s f = .next t :=
  (if_pos h).trans (congrArg Host.Outcome.next hf)

theorem onEight_of {l : Nat} {s t : State} {f : State → State} (h : wfEight l = true) (hf : f s = t) : onEight l s f = .next t :=
  (if_pos h).trans (congrArg Host.Outcome.next hf)

/-! ### Walks and boundaries -/

theorem execPageWalk_fills {n asid : Nat} {va leaf : W64} {size : Nat} {s : State} (hn : wfSite n = true)
    (hm : s.mayMiss n (BitVec.ofNat 16 asid) = true) (hf : tlbFind (s.chip n).tlb (BitVec.ofNat 16 asid) va = none)
    (hw : s.walk (BitVec.ofNat 16 asid) va = .ok (leaf, size)) :
    execPageWalk n asid va s = .next (s.fillTlb .shared n ⟨BitVec.ofNat 16 asid, va.toNat / size, size, leaf, false⟩) := by
  refine onSite_of hn ?_
  dsimp only
  rw [if_neg (by simp [hm, hf]), hw]

theorem execTlbinvBroadcast_cons {n : Nat} {v : Inval} {l : List Inval} {s : State} (hn : wfSite n = true)
    (h : (s.chip n).invals = v :: l) :
    execTlbinvBroadcast n s = .next ((s.invalidateAt n v).modChip n fun k => { k with invals := l }) := by
  refine onSite_of hn ?_
  rw [h]

/-! ### The host's writes -/

/-- The bytes of a write to the management page, as they land. -/
noncomputable def pageWritten (s : State) (p off : Nat) (b : List Byte) : State :=
  s.setPort p (b.zipIdx.foldl (fun (h : HostPort) y => h.writeByte s.imagePage (decide (4 ≤ s.sec.boot)) (off + y.2) y.1) (s.port p))

theorem hits_start {off len reg n : Nat} (h : hits off len reg n = true) : off < reg + n :=
  of_decide_eq_true (Bool.and_eq_true_iff.1 h).1

/-- A write to the page whose bytes reach neither EVTAIL nor both IMGGO and DOOR. -/
theorem bar0Write_page {s : State} {p off : Nat} {b : List Byte} (hd : s.siteDown (Config.hostPortChip p) = false)
    (ho : off < 0x10000) (he : hits off b.length 0x404 4 = false) {go door : Bool} (hg : hits off b.length 0x1C 4 = go)
    (hr : hits off b.length 0x200 4 = door) : s.bar0Write p off b =
      (fun t : State => if door then t.door p else t) ((fun t : State => if go then t.offer p else t) (pageWritten s p off b)) := by
  unfold State.bar0Write
  rw [if_neg (by simp [hd]), if_neg (Nat.not_le.2 ho), he, hg, hr]
  rfl

theorem bar0Write_window {s : State} {p w off : Nat} {b : List Byte} (hd : s.siteDown (Config.hostPortChip p) = false)
    (hw : w < 1024) (ho : off < 4096) : s.bar0Write p (0x10000 + 4096 * w + off) b = s.windowWrite w off b := by
  have hq : (0x10000 + 4096 * w + off - 0x10000) / 4096 = w := by
    rw [Nat.add_assoc, Nat.add_sub_cancel_left, Nat.mul_add_div (by decide), Nat.div_eq_of_lt ho, Nat.add_zero]
  have hm : (0x10000 + 4096 * w + off) % 4096 = off := by
    rw [show 0x10000 + 4096 * w = 4096 * (16 + w) from (Nat.mul_add 4096 16 w).symm, Nat.mul_add_mod, Nat.mod_eq_of_lt ho]
  unfold State.bar0Write
  rw [if_neg (by simp [hd]), if_pos (Nat.le_trans (Nat.le_add_right _ _) (Nat.le_add_right _ _)), hq, hm, if_pos hw]

/-- The packet that a window stages, with the bytes of a write put in. -/
noncomputable def Window.staged (x : Window) (off : Nat) (b : List Byte) : Window :=
  { x with stage := b.zipIdx.foldl (fun t y => if off + y.2 < 256 then KV.putD 0 (off + y.2) y.1 t else t) x.stage }

section
variable {s : State} {w : Nat} {x : Window} (hx : KV.get ⟨0, 0, [], 0⟩ s.windows w = x)
include hx

/-- A write into the staged packet of a window, short of its RING word. -/
theorem windowWrite_stage {off : Nat} {b : List Byte} (hb : b ≠ []) (hl : off + b.length ≤ 256) :
    s.windowWrite w off b = { s with windows := KV.put w (x.staged off b) s.windows } := by
  subst hx
  have hoff : off < 256 := Nat.lt_of_lt_of_le (Nat.lt_add_of_pos_right (List.length_pos_iff.2 hb)) hl
  have hh : ¬hits off b.length 0x100 4 = true := fun h =>
    Nat.not_lt.2 hl (of_decide_eq_true (Bool.and_eq_true_iff.1 h).2)
  exact (if_neg hh).trans (if_pos hoff)

/-- A RING write of a full packet into a ring with room. -/
theorem ringWrite_put {d l : List Loc} {q : Ring} (ha : x.asid ≠ 0) (hk : s.isKilled x.asid = false) (hb : s.sec.boot ≠ 5)
    (hr : s.ring Config.bootChip x.asid x.lq = some (d, q)) (hu : q.used < 2 ^ q.log2n) (hd : d.any Loc.isHost = false)
    (hp : s.placesAs Config.bootChip x.asid false (q.base + BitVec.ofNat 64 (256 * (q.tail.toNat % 2 ^ q.log2n))) 256 .w true = .ok l) :
    s.ringWrite w = (s.storeHome x.asid (l.zip x.packet)).storeHome x.asid ((d.drop 20).zip (leBytes 4 (q.tail + 1).toNat)) := by
  unfold State.ringWrite
  rw [hx]
  dsimp only
  rw [decide_eq_false ha, hk, beq_eq_false_iff_ne.2 hb, if_neg (by decide), hr]
  dsimp only
  rw [if_neg (by simp [Nat.not_le.2 hu, hd]), hp]

end

end Sys2Proof.Machine

namespace Sys2Proof.Spec
open Machine
set_option Elab.async false

/-- Settles O37: each step does what its row says, its condition met. -/
theorem phaseAndWalkStepsComplete : Obligations.PhaseAndWalkStepsComplete := by
  refine ⟨fun n asid va leaf size s hn hm hf hw => execPageWalk_fills hn hm hf hw,
    fun n v l s hn h => execTlbinvBroadcast_cons hn h, fun g s hg => if_pos hg, ?_⟩
  intro k s phg x l hx hl
  have hc : (x.started && l.all (s.arrived phg)) = true := Bool.and_eq_true_iff.2 ⟨hx, List.all_eq_true.2 hl⟩
  exact congrArg Host.Outcome.next (if_pos hc)

/-- Settles O48: which of its registers a write reaches follows from where it starts and ends. -/
theorem hostAccessesComplete : Obligations.HostAccessesComplete := by
  refine ⟨?_, ?_, ?_, ?_, ?_,
    fun s p pasid lo hi hp h => onEight_of hp (if_neg (by simp [h])), ?_⟩
  · intro s p off b hp hlen t
    refine ⟨fun hd => onEight_of hp (if_pos hd), fun hd he hr hg => ?_, fun hd he hg => ⟨fun hr hb => ?_, fun hr => ?_⟩⟩
    · exact onEight_of hp (bar0Write_page hd (Nat.lt_trans (hits_start hg) (by decide)) he hg hr)
    · have ho : off < 0x10000 := Nat.lt_of_lt_of_le (Nat.lt_add_of_pos_right (List.length_pos_iff.2 hb)) hlen
      exact onEight_of hp (bar0Write_page hd ho he hg hr)
    · exact onEight_of hp (bar0Write_page hd (Nat.lt_trans (hits_start hr) (by decide)) he hg hr)
  · intro s p w off b hp hw hb hl hd x stage
    have ho : off < 4096 := Nat.lt_of_le_of_lt (Nat.le_trans (Nat.le_add_right _ _) hl) (by decide)
    exact onEight_of hp ((bar0Write_window hd hw ho).trans (windowWrite_stage rfl hb hl))
  · intro s w d l q hw x ha hk hb hr hu hd hp
    exact congrArg Host.Outcome.next ((if_pos hw).trans (ringWrite_put rfl ha hk hb hr hu hd hp))
  · intro s ap off len a l h
    refine congrArg Host.Outcome.next ?_
    rw [h]
  · refine fun s ap off b => ⟨fun a l h => congrArg Host.Outcome.next ?_, fun h => congrArg Host.Outcome.next ?_⟩
    · rw [h]
    · rw [h]; rfl
  · exact fun s p w hp hw hlt => onEight_of hp (if_pos ⟨hw, hlt⟩)

end Sys2Proof.Spec
end

section
/-! PROOFS. The steps of a launch (R311 to R314, R353, R371) and of a matrix engine (R122 to R146, R369). -/

namespace Sys2Proof.Machine
open Sys2Proof.Spec
set_option Elab.async false

/-! ### Launches -/

/-- A well-formed packet at the head of a consistent queue is taken. -/
theorem launchTake_packet {s : State} {rid : W16} {r : Region} {places : List Loc} {q : Ring} {p : LaunchPacket} {cs : List Nat}
    (h1 : s.region rid = some r) (h2 : s.isKilled r.asid = false) (h3 : r.lq ≠ 0) (h4 : s.sec.boot ≠ 5)
    (h5 : s.ring Config.bootChip r.asid r.lq = some (places, q)) (h6 : q.consistent = true) (h7 : q.used ≠ 0)
    {s0 : State} (h0 : { s with lqBad := KV.putD false rid.toNat false s.lqBad } = s0)
    (h8 : s0.packetAt Config.bootChip rid r.asid q = some (p, cs)) :
    s.launchTake rid = (s0.storeHome r.asid ((places.drop 16).zip (leBytes 4 (q.head + 1).toNat))).accept rid q.head p cs := by
  have hc : (s.isKilled r.asid || r.lq == 0 || s.sec.boot == 5) = false := by
    rw [h2, beq_eq_false_iff_ne.2 h3, beq_eq_false_iff_ne.2 h4]; rfl
  subst h0
  unfold State.launchTake
  rw [h1]
  dsimp only
  rw [hc, if_neg (by decide), h5]
  dsimp only
  rw [h6, if_neg (by decide), if_neg h7, h8]

/-- Index i of share h given to core g, whose bind record b holds the region. -/
noncomputable def State.dealt (s : State) (n g j i b : Nat) (h : Share) : State :=
  let c := s.core g
  let p := launchMessage g (recAsid (c.brec.getD b 0)) h i
  (((s.setCore g (c.setRec b { c.rq b with msgs := (c.rq b).msgs ++ [p] })).modChip n fun x =>
    { x with shares := if (h.give g).done then listDel x.shares j else listSet x.shares j (h.give g) }).wake g).noteWaits g

/-- A core gets the next index of the first share that has one for it. -/
theorem launchDeal_share {s : State} {n k j i b : Nat} {h : Share} (h1 : (s.chip n).shares.findIdx? (s.dealable (64 * n + k % 64)) = some j)
    (h2 : (s.chip n).shares[j]? = some h) (h3 : h.nextFor (64 * n + k % 64) = some i)
    (h4 : (s.core (64 * n + k % 64)).recOf h.rid = some b) : s.launchDeal n k = s.dealt n (64 * n + k % 64) j i b h := by
  unfold State.launchDeal
  dsimp only
  rw [h1]
  dsimp only
  rw [h2]
  dsimp only
  rw [h3, h4]
  rfl

/-! ### The matrix engine -/

theorem onEngine_of {m : Nat} {s t : State} {f : State → State} (h : engineRuns s m) (hf : f s = t) : onEngine m s f = .next t :=
  (if_pos h.1).trans (congrArg Host.Outcome.next ((if_neg (by rw [h.2]; decide)).trans hf))

section
variable {s : State} {m : Nat}

/-- What a start does once it has chosen bind b. -/
noncomputable def mxeChosen (s : State) (m b : Nat) : State :=
  match (s.mxe m).susp.find? fun r => r.bind == b with
  | some r => (s.setMxe m { s.mxe m with run := some r, susp := (s.mxe m).susp.filter fun q => q.bind != b }).noteLent m b
  | none => match (s.mxe m).queued b with
    | [] => s
    | c :: l => if isStreamOp c.op && !c.abort then s else (s.setMxe m (((s.mxe m).setQueued b l).take b c)).noteLent m b

theorem mxeStart_bind {b : Nat} (h1 : (s.mxe m).run = none) (h2 : s.nextBind m = some b) : s.mxeStart m = mxeChosen s m b := by
  refine (if_neg (by rw [h1]; decide)).trans ?_
  rw [h2]
  rfl

theorem mxeChosen_resume {b : Nat} {r : MxRun} (h : (s.mxe m).susp.find? (fun r => r.bind == b) = some r) : mxeChosen s m b =
    (s.setMxe m { s.mxe m with run := some r, susp := (s.mxe m).susp.filter fun q => q.bind != b }).noteLent m b := by
  unfold mxeChosen
  rw [h]

theorem mxeChosen_take {b : Nat} {c : MxCmd} {l : List MxCmd} (h1 : (s.mxe m).susp.find? (fun r => r.bind == b) = none)
    (h2 : (s.mxe m).queued b = c :: l) (h3 : (isStreamOp c.op && !c.abort) = false) :
    mxeChosen s m b = (s.setMxe m (((s.mxe m).setQueued b l).take b c)).noteLent m b := by
  unfold mxeChosen
  rw [h1]
  rw [h2]
  exact if_neg (by rw [h3]; decide)

/-- What a command that may run does in this step (`stopped` for one that a fault ends). -/
noncomputable def stopped (t : State) (m : Nat) (r : MxRun) (e : EngErr) : State :=
  t.setRun m { r with sts := some e.1.code, addr := e.2 }

/-- A whole ALOAD at its end. -/
noncomputable def aloadDone (m : Nat) (r : MxRun) : State × Option EngErr → State
  | (t, some e) => stopped t m r e
  | (t, none) => t.setRun m { r with sts := some 0 }

/-- A whole ASTORE at its end. -/
noncomputable def astoreDone (m : Nat) (r : MxRun) : State × Num.Flags × Option EngErr → State
  | (t, _, some e) => stopped t m r e
  | (t, f, none) => t.setRun m { r with sts := some 0, flags := r.flags ||| f }

/-- A chunk of a multiplication that is charged. -/
noncomputable def mxeMulDone (m : Nat) (r : MxRun) (u : State) : State :=
  match u.mmaChunk m r with
  | .error e => stopped u m r e
  | .ok (t, f, k, fin) => t.setRun m { r with k := k, flags := r.flags ||| f, sts := if fin then some 0 else none }

/-- What the command in hand does where it may run. -/
noncomputable def mxeRuns (s : State) (m : Nat) (r : MxRun) : State :=
  if r.cmd.op = 0xAB then aloadDone m r (s.aloadRun m r)
  else if r.cmd.op = 0xAC then astoreDone m r (s.astoreRun m r)
  else s.powered m (chunkClass r.cmd.ty) fun s => mxeMulDone m r s

section
variable {r : MxRun} (h1 : (s.mxe m).run = some r) (h2 : r.sts = none) (h3 : s.entitled m r.bind = true)
include h1 h2 h3

theorem mxeChunk_runs : s.mxeChunk m = mxeRuns s m r := by
  unfold State.mxeChunk
  rw [h1]
  dsimp only
  rw [h2, h3]
  exact if_neg (by decide)

end

/-- Where the ramp and the charge allow, a chunk of a multiplication is charged and applied. -/
theorem mxeRuns_mma {r : MxRun} (hl : r.cmd.op ≠ 0xAB) (hs : r.cmd.op ≠ 0xAC)
    (hr : (s.mxe m).rampOk = true) (hc : s.chargeOk m (chunkClass r.cmd.ty) = true) : mxeRuns s m r =
    mxeMulDone m r ((s.charge m (chunkClass r.cmd.ty)).setMxe m { s.mxe m with act := (s.mxe m).act + 32 }) :=
  (if_neg hl).trans ((if_neg hs).trans ((if_neg (by rw [hr]; decide)).trans (if_neg (by rw [hc]; decide))))

theorem mxeMulDone_ok {r : MxRun} {u t : State} {f : Num.Flags} {k : Nat} {fin : Bool} (h : u.mmaChunk m r = .ok (t, f, k, fin)) :
    mxeMulDone m r u = t.setRun m { r with k := k, flags := r.flags ||| f, sts := if fin then some 0 else none } := by
  unfold mxeMulDone
  rw [h]

theorem mxeMulDone_error {r : MxRun} {u : State} {e : EngErr} (h : u.mmaChunk m r = .error e) : mxeMulDone m r u = stopped u m r e := by
  unfold mxeMulDone
  rw [h]

/-- A command whose slot has ended, or that may run no longer, is suspended. -/
theorem mxeSlot_suspend {u : State} (hu : s.setMxe m { s.mxe m with curSlot := slotAt s.now } = u) {r : MxRun}
    (h1 : (u.mxe m).run = some r) (h2 : r.sts = none) (h3 : slotAt s.now ≠ (s.mxe m).curSlot ∨ u.entitled m r.bind = false) :
    s.mxeSlot m = u.setMxe m { u.mxe m with run := none, susp := (u.mxe m).susp ++ [r] } := by
  have hc : ¬(r.sts.isSome || (!(slotAt s.now != (s.mxe m).curSlot) && u.entitled m r.bind)) = true := by
    rw [h2]
    rcases h3 with h | h
    · rw [bne_iff_ne.2 h]; exact Bool.false_ne_true
    · rw [h, Bool.and_false]; decide
  unfold State.mxeSlot
  dsimp only
  rw [hu, h1]
  exact if_neg hc

theorem mxeSlot_idle {u : State} (hu : s.setMxe m { s.mxe m with curSlot := slotAt s.now } = u) (h : (u.mxe m).run = none) :
    s.mxeSlot m = u := by
  unfold State.mxeSlot
  dsimp only
  rw [hu, h]

section
variable {r : MxRun} {f : Byte} {t : State} (h1 : (s.mxe m).run = some r) (h2 : r.sts = some f) (h3 : s.mxDeliver m r f = some t)
include h1 h2 h3

theorem mxeFinish_ok (h : stsHalts f = false) : s.mxeFinish m = t.setMxe m { t.mxe m with run := none } := by
  unfold State.mxeFinish
  rw [h1]
  dsimp only
  rw [h2]
  dsimp only
  rw [h, if_neg (by decide), h3]

theorem mxeStop_halt (h : stsHalts f = true) {y : Mxe} (hy : ((t.mxe m).setHlt r.bind true).abortQueued r.bind = y) :
    s.mxeStop m = (t.setMxe m { y with run := none, halted := KV.put r.bind { r with sts := none } y.halted }).reportHalt r.cmd.outst
      r.addr (r.record ((s.mxe m).rows r.bind) f) := by
  subst hy
  unfold State.mxeStop
  rw [h1]
  dsimp only
  rw [h2]
  dsimp only
  rw [h, if_neg (by decide), h3]

end

end

end Sys2Proof.Machine

namespace Sys2Proof.Spec
open Machine
set_option Elab.async false

/-- Settles O39: the packet, the share and the sweeps that each step finds. -/
theorem launchStepsComplete : Obligations.LaunchStepsComplete := by
  intro s
  refine ⟨?_, ?_, fun n cl hn => if_pos hn, fun h => ?_, fun x hx hlt => ?_⟩
  · intro k r places q p cs rid h1 h2 h3 h4 h5 h6 h7 s0 h8 s1 sizes t
    exact congrArg Host.Outcome.next (launchTake_packet h1 h2 h3 h4 h5 h6 h7 rfl h8)
  · intro n k j h i b hn g h1 h2 h3 h4 c p
    exact (if_pos hn).trans (congrArg Host.Outcome.next (launchDeal_share h1 h2 h3 h4))
  · refine congrArg Host.Outcome.next (if_neg fun ha => ?_)
    obtain ⟨x, hx, hlt⟩ := List.any_eq_true.1 ha
    exact Nat.not_le.2 (of_decide_eq_true hlt) (h x hx)
  · exact congrArg Host.Outcome.next (if_pos (List.any_eq_true.2 ⟨x, hx, decide_eq_true hlt⟩))

/-- Settles O43: the running command, or the one chosen, decides what each step does. -/
theorem matrixStepsComplete : Obligations.MatrixStepsComplete := by
  intro s m hm x
  refine ⟨fun b r h1 h2 h3 => ?_, fun b c l h1 h2 h3 h4 h5 => ?_, ?_, ?_, ?_, ?_⟩
  · exact onEngine_of (f := fun s => s.mxeStart m) hm ((mxeStart_bind h1 h2).trans (mxeChosen_resume h3))
  · exact onEngine_of (f := fun s => s.mxeStart m) hm ((mxeStart_bind h1 h2).trans (mxeChosen_take h3 h4 h5))
  · intro r h1 h2 h3 stop
    have hx {t : State} (h : mxeRuns s m r = t) : exec (.mxeChunkApply m) s = .next t :=
      onEngine_of (f := fun s => if (s.mxe m).run.isSome then s.mxeChunk m else s.streamApply m) hm
        ((if_pos (congrArg Option.isSome h1)).trans ((mxeChunk_runs h1 h2 h3).trans h))
    refine ⟨fun ho t e h => hx ((if_pos ho).trans ?_), fun ho t f e h => hx ((if_neg (by rw [ho]; decide)).trans ((if_pos ho).trans ?_)), ?_⟩
    · rw [h]; induction e <;> rfl
    · rw [h]; induction e <;> rfl
    · intro hl hs hr hc u
      exact ⟨fun t f k fin h => hx ((mxeRuns_mma hl hs hr hc).trans (mxeMulDone_ok h)),
        fun e h => hx ((mxeRuns_mma hl hs hr hc).trans (mxeMulDone_error h))⟩
  · exact fun r f t h1 h2 h3 => ⟨fun h => onEngine_of (f := fun s => s.mxeFinish m) hm (mxeFinish_ok h1 h2 h3 h),
      fun h => onEngine_of (f := fun s => s.mxeStop m) hm (mxeStop_halt h1 h2 h3 h rfl)⟩
  · exact fun r h1 h2 h3 => onEngine_of (f := fun s => s.mxeSlot m) hm (mxeSlot_suspend rfl h1 h2 h3)
  · exact fun h => onEngine_of (f := fun s => s.mxeSlot m) hm (mxeSlot_idle rfl h)

end Sys2Proof.Spec
end

section
/-! PROOFS. Loads that return and immediate accesses at their home (R213, R220, R222, R230, R429). -/

namespace Sys2Proof.Machine
open Sys2Proof.Spec
set_option Elab.async false

/-! ### Lanes that find room -/

/-- An entry pushed where there is room reaches the queue of its owner, or nobody. -/
theorem pushQ_room {s : State} {g : Nat} {n : BitVec 3} (t : Ty) (l : List Lane) (h : roomFor s g (.queue n)) :
    s.pushQ g n (entryOf l) = .ok (arrives s g (.queue n) t l) := by
  have hr := h n rfl
  unfold arrives
  unfold State.pushQ
  dsimp only
  unfold queueCore at hr ⊢
  by_cases hn : n = 1 ∨ s.runsGang g = false
  · have hn' : (n = 1 || !s.runsGang g) = true := by simpa using hn
    rw [if_pos hn] at hr
    rw [if_pos hn, if_pos hn']
    exact (if_neg (Nat.not_le.2 (hr.resolve_left fun h => h.1 rfl))).trans (congrArg Except.ok (if_neg fun h => h.1 rfl).symm)
  · have hn' : ¬(n = 1 || !s.runsGang g) = true := by simpa using hn
    have hg : s.runsGang g ≠ false := fun h => hn (.inr h)
    rw [if_neg hn] at hr
    rw [if_neg hn, if_neg hn']
    induction hk : s.neighbour g (n == 2) with
    | none =>
      rw [hk] at hr
      exact (if_neg (Nat.not_le.2 (hr.resolve_left fun h => h.1 rfl))).trans (congrArg Except.ok (if_neg fun h => h.1 rfl).symm)
    | some k =>
      rw [hk] at hr
      by_cases hkr : s.runsGang k = false
      · have hne : k ≠ g := fun h => hg (h ▸ hkr)
        exact (if_pos (by rw [hkr]; rfl)).trans (congrArg Except.ok (if_pos ⟨hne, hkr⟩).symm)
      · have hlt := hr.resolve_left fun h => hkr h.2
        exact (if_neg (by simpa using hkr)).trans ((if_neg (Nat.not_le.2 hlt)).trans (congrArg Except.ok (if_neg fun h => hkr h.2).symm))

theorem deliver_room {s : State} {g : Nat} {d : Dest} (t : Ty) (l : List Lane) (h : roomFor s g d) :
    s.deliver g d t l = .ok (arrives s g d t l) := by
  induction d with
  | queue n => exact pushQ_room t l h
  | _ => rfl

/-- Room depends on the cores alone. -/
theorem roomFor_of_cores {s u : State} (hu : u.cores = s.cores) {g : Nat} {d : Dest} (h : roomFor s g d) : roomFor u g d := by
  have hc : u.core = s.core := by unfold State.core; rw [hu]
  have hr : u.runsGang = s.runsGang := by unfold State.runsGang; rw [hc]
  have hn : u.neighbour = s.neighbour := by delta State.neighbour State.gangCores; rw [hc]
  delta roomFor queueCore at h ⊢
  rw [hc, hr, hn]
  exact h

theorem hostFill_cores (s : State) (l : Loc) : (s.hostFill l).cores = s.cores := by
  induction l with
  | pa _ => rfl
  | host p d i =>
    unfold State.hostFill
    dsimp only
    split <;> rfl

theorem foldl_hostFill_cores (l : List Loc) (s : State) : (l.foldl State.hostFill s).cores = s.cores := by
  induction l generalizing s with
  | nil => rfl
  | cons x l ih => exact (ih _).trans (hostFill_cores s x)

/-- Drawing words changes only what is drawn next. -/
theorem drawWords_frame (n : Nat) (s : State) :
    (s.drawWords n).2.cores = s.cores ∧ (s.drawWords n).2.mem = s.mem ∧ (s.drawWords n).2.hostMem = s.hostMem := by
  induction n generalizing s with
  | zero => exact ⟨rfl, rfl, rfl⟩
  | succ n ih => exact ih s.draw.2

theorem arrives_memory (s : State) (g : Nat) (d : Dest) (t : Ty) (l : List Lane) :
    (arrives s g d t l).mem = s.mem ∧ (arrives s g d t l).hostMem = s.hostMem := by
  have hite {p : Prop} [Decidable p] {u v : State} (hu : u.mem = s.mem ∧ u.hostMem = s.hostMem)
      (hv : v.mem = s.mem ∧ v.hostMem = s.hostMem) : (if p then u else v).mem = s.mem ∧ (if p then u else v).hostMem = s.hostMem := by
    split
    · exact hu
    · exact hv
  induction d with
  | reg n => exact hite ⟨rfl, rfl⟩ ⟨rfl, rfl⟩
  | queue n => exact hite ⟨rfl, rfl⟩ ⟨rfl, rfl⟩
  | _ => exact ⟨rfl, rfl⟩

theorem sameMemory_of {s t : State} (h : t.mem = s.mem ∧ t.hostMem = s.hostMem) : sameMemory s t :=
  ⟨fun a => by rw [h.1], fun k => by rw [h.2]⟩

/-! ### Accesses in flight -/

theorem pendReady_of {c : Core} {k : Nat} {p : Pend} (h : c.pend[k]? = some p) (hh : homesClash (c.pend.take k) p.homes = false) :
    c.pendReady k = some p := by
  unfold Core.pendReady
  rw [h]
  exact if_neg (by rw [hh]; decide)

/-- The lanes of a destination whose home did not answer: invalid, their bits unconstrained; Pn keeps its value. -/
noncomputable def spoiltLanes (s : State) (g : Nat) (d : Dest) (n : Nat) : State :=
  match d with
  | .reg _ => s
  | .none => s
  | x => arrives (s.drawWords n).2 g x .u32 ((s.drawWords n).1.map fun w => ⟨w, false⟩)

theorem spoiltLanes_memory (s : State) (g : Nat) (d : Dest) (n : Nat) : sameMemory s (spoiltLanes s g d n) := by
  obtain ⟨-, hm, hh⟩ := drawWords_frame n s
  have ha := arrives_memory (s.drawWords n).2 g d .u32 ((s.drawWords n).1.map fun w => ⟨w, false⟩)
  refine sameMemory_of ?_
  induction d with
  | reg _ | none => exact ⟨rfl, rfl⟩
  | _ => exact ⟨ha.1.trans hm, ha.2.trans hh⟩

theorem lateFault_eq {s : State} {g : Nat} {p : Pend} (n : Nat) (f : FCode) (h : roomFor s g p.dest) :
    s.lateFault g p n f = (spoiltLanes s g p.dest n).modCore g fun c => { c with async := c.async ++ [(f, p.pc, p.va)] } := by
  have hd := fun d => deliver_room (g := g) (d := d) .u32 ((s.drawWords n).1.map fun w => ⟨w, false⟩)
    ∘ roomFor_of_cores (drawWords_frame n s).1
  delta State.lateFault spoiltLanes
  generalize p.dest = d at h
  have hd := hd d h
  induction d with
  | reg _ | none => rfl
  | _ =>
    dsimp only
    rw [hd]

section
variable {s : State} {g k : Nat}

/-- A load at the head of its homes is answered. -/
theorem returnLoad_ok {src : List LaneSrc} {dest : Dest} {t : Ty} {ln : BitVec 4} {homes : List Nat} {pc va : W64} {asid : W16}
    (hp : (s.core g).pendReady k = some ⟨.load src dest t ln, homes, pc, va, asid⟩) (hr : roomFor s g dest)
    (hf : s.homeFault (homePlaces src) true = none) : s.returnLoad g k =
      (arrives ((homePlaces src).foldl State.hostFill s) g dest t (src.map s.laneNow)).modCore g fun c => c.dropPend k := by
  unfold State.returnLoad
  rw [hp]
  dsimp only
  rw [hf]
  rw [deliver_room _ _ (roomFor_of_cores (foldl_hostFill_cores _ s) hr)]

theorem returnLoad_fault {src : List LaneSrc} {dest : Dest} {t : Ty} {ln : BitVec 4} {homes : List Nat} {pc va : W64} {asid : W16}
    (hp : (s.core g).pendReady k = some ⟨.load src dest t ln, homes, pc, va, asid⟩) {f : FCode}
    (hf : s.homeFault (homePlaces src) true = some f) : s.returnLoad g k =
      (s.lateFault g ⟨.load src dest t ln, homes, pc, va, asid⟩ src.length f).modCore g fun c => c.dropPend k := by
  unfold State.returnLoad
  rw [hp]
  dsimp only
  rw [hf]

theorem performAt_store {bytes : List (Loc × Byte)} {homes : List Nat} {pc va : W64} {asid : W16}
    (hp : (s.core g).pendReady k = some ⟨.store bytes, homes, pc, va, asid⟩) {o : Option FCode}
    (hf : s.homeFault (bytes.map Prod.fst) true = o) : s.performAt g k = (o.elim (s.storeHome asid bytes)
      fun f => s.lateFault g ⟨.store bytes, homes, pc, va, asid⟩ 0 f).modCore g fun c => c.dropPend k := by
  unfold State.performAt
  rw [hp]
  dsimp only
  rw [hf]
  induction o <;> rfl

section
variable {fn : BitVec 10} {t : Ty} {place : List Loc} {b m : W64} {dest : Dest} {homes : List Nat} {pc va : W64} {asid : W16}
  (hp : (s.core g).pendReady k = some ⟨.amo fn t place b m dest, homes, pc, va, asid⟩)
include hp

theorem performAt_amo_fault {f : FCode} (hf : s.homeFault place true = some f) : s.performAt g k =
    (s.lateFault g ⟨.amo fn t place b m dest, homes, pc, va, asid⟩ (lanesFor t 1) f).modCore g fun c => c.dropPend k := by
  unfold State.performAt
  rw [hp]
  dsimp only
  rw [hf]

/-- The old value arrives, and the new one, if there is one, is stored at its home. -/
theorem performAt_amo_ok (hr : roomFor s g dest) (hf : s.homeFault place true = none) {old : Nat} (ho : leNat (s.bytesAt place) = old) :
    s.performAt g k = ((amoNew fn t old b.toNat m.toNat).elim (arrives s g dest t (elemLanes t old true)) fun v =>
      (arrives s g dest t (elemLanes t old true)).storeHome asid (place.zip (leBytes place.length v))).modCore g fun c => c.dropPend k := by
  subst ho
  unfold State.performAt
  rw [hp]
  dsimp only
  rw [hf]
  dsimp only
  rw [deliver_room _ _ hr]
  obtain ⟨⟩ := amoNew fn t (leNat (s.bytesAt place)) b.toNat m.toNat <;> rfl

end

end

end Sys2Proof.Machine

namespace Sys2Proof.Spec
open Machine
set_option Elab.async false

/-- Settles O36: room for the lanes decides that they arrive; a late fault spoils them instead. -/
theorem accessesReturn : Obligations.AccessesReturn := by
  intro g k s hg c drop late spoilt
  refine ⟨?_, ?_, ?_⟩
  · intro src dest t ln homes pc va asid h1 h2 hr
    have hp := pendReady_of h1 h2
    refine ⟨fun hf => onCore_of (f := fun s => s.returnLoad g k) hg (returnLoad_ok hp hr hf),
      fun f hf => ⟨onCore_of (f := fun s => s.returnLoad g k) hg ((returnLoad_fault hp hf).trans ?_), spoiltLanes_memory s g dest _⟩⟩
    exact congrArg drop (lateFault_eq src.length f hr)
  · intro bytes homes pc va asid h1 h2
    have hp := pendReady_of h1 h2
    refine ⟨fun hf => onCore_of (f := fun s => s.performAt g k) hg (performAt_store hp hf),
      fun f hf => onCore_of (f := fun s => s.performAt g k) hg ((performAt_store hp hf).trans ?_)⟩
    exact congrArg drop (lateFault_eq 0 f (p := ⟨.store bytes, homes, pc, va, asid⟩) nofun)
  · intro fn t place b m dest homes pc va asid h1 h2 hr
    have hp := pendReady_of h1 h2
    refine ⟨fun hf => onCore_of (f := fun s => s.performAt g k) hg ((performAt_amo_ok hp hr hf rfl).trans ?_),
      fun f hf => ⟨onCore_of (f := fun s => s.performAt g k) hg ((performAt_amo_fault hp hf).trans ?_), spoiltLanes_memory s g dest _⟩⟩
    · refine congrArg drop ?_
      obtain ⟨⟩ := amoNew fn t (leNat (s.bytesAt place)) b.toNat m.toNat <;> rfl
    · exact congrArg drop (lateFault_eq (lanesFor t 1) f hr)

end Sys2Proof.Spec
end

section
/-! PROOFS. The calls of the management-core mailbox (R346, R347). -/

namespace Sys2Proof.Machine
open Sys2Proof.Spec
set_option Elab.async false

/-- The row that a request names carries it out and answers it. -/
theorem mailboxRow_runs {s t : State} {g code : Nat} {q : MbxReq} {l : List Loc} {b : List Byte} {a : Answer}
    {run : State → MbxReq → List Byte → Answer × State} (h : mbxHas s g code q l b) (hk : knownCall code = true)
    (hr : run s q b = (a, t)) : mailboxRow g code run s = .next (t.answer g q l (fieldOf b 4 4) a) := by
  obtain ⟨hg, hq, hb, rfl, hz⟩ := h
  refine (if_pos hg).trans (congrArg Host.Outcome.next ?_)
  obtain ⟨m, hm⟩ := List.head?_eq_some_iff.1 hq
  dsimp only
  rw [hm]
  dsimp only
  rw [hb]
  dsimp only
  rw [hk, hz, if_neg (by decide), if_neg fun h => h rfl, hr]

theorem withRegion_own {s : State} {q : MbxReq} {b : List Byte} {r : Region} {x : Answer × State}
    {f : Region → Answer × State} (h1 : s.region (reqRid b) = some r) (h2 : r.asid = q.asid) (hf : f r = x) : withRegion s q b f = x := by
  unfold withRegion State.reqRegion
  rw [h1]
  dsimp only
  rw [if_pos h2, ← hf]

theorem withTeamSite_own {s : State} {q : MbxReq} {b : List Byte} {r : Region} {x : Answer × State}
    {f : Region → Nat → Answer × State} (h1 : s.region (reqRid b) = some r) (h2 : r.asid = q.asid)
    (h3 : Config.isCompute (reqChip b) = true ∧ (s.chip (reqChip b)).peal = 6) (hf : f r (reqChip b) = x) :
    withTeamSite s q b f = x :=
  withRegion_own h1 h2 ((if_pos (by rw [h3.1, h3.2]; decide)).trans hf)

end Sys2Proof.Machine

namespace Sys2Proof.Spec
open Machine
set_option Elab.async false

/-- Settles O46: each call is the one its request names, on the requester's own region. -/
theorem mailboxCallsComplete : Obligations.MailboxCallsComplete := by
  intro s g code q l b hm rid n site
  have hrow {c : Nat} {run : State → MbxReq → List Byte → Answer × State} {a : Answer} {t : State} (hc : code = c)
      (hk : knownCall c = true) (hr : run s q b = (a, t)) :
      mailboxRow g c run s = .next (t.answer g q l (fieldOf b 4 4) a) := mailboxRow_runs (hc ▸ hm) hk hr
  refine ⟨fun hc k r h1 h2 h3 => ?_, fun r h1 h2 => ⟨fun hc x hx => ?_,
    fun hc => ⟨fun hy => ?_, fun hy => ?_⟩, fun hsite => ⟨fun hc hf grant binds => ?_, fun hc hm => ⟨fun hi => ?_, fun hi => ?_⟩,
      fun hc i m p hl hi hm hp => ?_, fun hc hm dest cores hx hy => ?_⟩⟩, fun hc => ?_, fun hc p hp h => ?_⟩
  · show execRegisterRcb g k s = _
    refine hrow hc rfl ?_
    rw [h1]
    exact (if_neg (by rw [h2]; decide)).trans (if_neg (by rw [h3]; decide))
  · show execUpdateRcb g s = _
    refine hrow hc rfl (withRegion_own h1 h2 ?_)
    rw [hx]
  · show execUnregisterRcb g s = _
    exact hrow hc rfl (withRegion_own h1 h2 (if_pos hy))
  · show execUnregisterRcb g s = _
    exact hrow hc rfl (withRegion_own h1 h2 (if_neg (by rw [hy]; decide)))
  · show execTeamCall g grant binds s = _
    exact hrow hc rfl (withTeamSite_own h1 h2 hsite (if_neg (Nat.not_le.2 hf)))
  · show execReleaseCall g s = _
    exact hrow hc rfl (withTeamSite_own h1 h2 hsite ((if_neg hm).trans (if_neg (by rw [hi]; decide))))
  · show execReleaseCall g s = _
    exact hrow hc rfl (withTeamSite_own h1 h2 hsite ((if_neg hm).trans (if_pos (by rw [hi]; rfl))))
  · show execCtxrd g s = _
    refine hrow hc rfl (withTeamSite_own h1 h2 hsite ?_)
    dsimp only
    rw [if_pos hl, hi, Option.bind_some, hm]
    dsimp only
    rw [hp]
  · show execMigrateCall g dest cores s = _
    exact hrow hc rfl (withTeamSite_own h1 h2 hsite ((if_neg hm).trans (if_pos (by rw [hx, hy]; rfl))))
  · show execWstopCall g s = _
    exact hrow hc rfl rfl
  · show execGlcnt g s = _
    refine hrow hc rfl ((if_neg (Nat.not_le.2 hp)).trans ?_)
    rw [h]

end Sys2Proof.Spec
end

section
/-! PROOFS. Bring-up, failure in service, the tamper alarm and RESET (R418, R420, R423, R447 to R456). -/

namespace Sys2Proof.Machine
open Sys2Proof.Spec
set_option Elab.async false

section
variable {s : State} {n : Nat} (hn : wfSite n = true)
include hn

theorem clockLock_pll (h : s.peal n = 1) (o : Option (List Nat)) :
    execClockLock n o s = .next (if o.isSome then s.setPeal n 2 else (s.fail n).endPass1) :=
  onSite_of hn (if_pos h)

theorem clockLock_held (h : s.peal n = 2) {o : Option (List Nat)} {k : Nat} (hk : s.clockOf n (o.getD []) = some k) :
    execClockLock n o s = .next ((s.setPeal n 3).powerNeighbours n) := by
  have hne : s.peal n ≠ 1 := by rw [h]; decide
  refine onSite_of hn ?_
  rw [if_neg hne, if_pos h, hk]

theorem clockLock_none (h : s.peal n = 2) {o : Option (List Nat)} (hk : s.clockOf n (o.getD []) = none) :
    execClockLock n o s = .next ((s.fail n).endPass1) := by
  have hne : s.peal n ≠ 1 := by rw [h]; decide
  refine onSite_of hn ?_
  rw [if_neg hne, if_pos h, hk]

theorem selftestDone_at (h : s.peal n = 3) (r : Nat) : execSelftestDone n r s =
    .next (if r = 0 then s.setPeal n 4 else (if r = 1 then s.fail n else s.isolate n).endPass1) :=
  onSite_of hn (if_neg fun hne => hne h)

theorem linksTrained_all (h : s.peal n = 4) : execLinksTrained n [] s = .next ((s.setPeal n 5).endPass1) := by
  refine onSite_of hn ((if_neg fun hne => hne h).trans ?_)
  have hb : (neighbours n).filter (fun m => ([] : List Nat).contains m && s.peal m == 4) = [] :=
    List.filter_eq_nil_iff.2 fun m _ => Bool.false_ne_true
  rw [hb]
  exact congrArg State.endPass1 (if_pos h)

theorem stateLimitExpiry_at {l : Nat} (h : pealLimit (s.peal n) = some l) (hl : (s.chip n).pealSince + (l : Nat) ≤ s.now) :
    execStateLimitExpiry n s = .next (if s.peal n = 5 then (s.isolate n).fillTables.bootDone else (s.fail n).endPass1) := by
  refine onSite_of hn ?_
  rw [h]
  exact if_neg (not_lt.2 hl)

theorem configTransfer_at (h1 : s.peal n = 5) (h2 : s.sec.boot = 3) (h3 : s.peal (s.feeder n) = 6 ∨ s.peal (s.feeder n) = 8)
    (got : Option (List Byte)) : execConfigTransfer n got s = .next (if s.transferOk n got then
      ((if s.sec.isolate.contains n then s.isolate n else s.setPeal n 6).fillTables).bootDone
    else if 2 ≤ (s.chip n).tries then ((s.isolate n).fillTables).bootDone
    else s.modChip n fun k => { k with tries := k.tries + 1 }) := by
  refine onSite_of hn (if_neg ?_)
  rw [h1, h2]
  rcases h3 with h | h <;> rw [h] <;> decide

end

/-- What came of an image is good where it is there, and of the firmware unless the site is memory. -/
theorem transferOk_eq (s : State) (n : Nat) (got : Option (List Byte)) :
    s.transferOk n got = got.elim false fun b => Config.isMemory n || imgDigest b == s.sec.firmware := by
  induction got <;> rfl

/-- The window with one bit more; it opens now where none is open. -/
noncomputable def tripped (b : BitVec 4) (s : State) : State :=
  { s with sec := { s.sec with window := some (match s.sec.window with
    | none => (s.now, b)
    | some (t, bits) => (t, bits ||| b)) } }

theorem sensorTrip_at {s : State} {k : Nat} (hk : k < 4) (h : s.alarmEvent = s) :
    execSensorTrip k s = .next (tripped (BitVec.ofNat 4 (2 ^ k)) s) :=
  (if_neg (Nat.not_le.2 hk)).trans (congrArg (fun t => Host.Outcome.next (tripped (BitVec.ofNat 4 (2 ^ k)) t)) h)

/-- The module after RESET, x the security block that the open event left and k the key store. -/
noncomputable def resetFrom (s : State) (x : Security) (k : Option (List Byte)) : State :=
  { State.reset with
    turns := s.turns, self := s.self, fresh := s.fresh, mem := s.mem, hostMem := s.hostMem, hostRefuse := s.hostRefuse
    sec := { Security.reset with keyStore := k, acnt := x.acnt, minsvn := x.minsvn } }

/-- An erase that has begun empties the key store. -/
theorem keyStore_erased (x : Security) :
    (if x.erasing then x.erased else x).keyStore = if x.erasing then some [] else x.keyStore := apply_ite Security.keyStore _ _ _

end Sys2Proof.Machine

namespace Sys2Proof.Spec
open Machine
set_option Elab.async false

/-- Settles O49: the state of a site, of the boot and of the alarm window picks the branch of each step. -/
theorem bringUpAndAlarmComplete : Obligations.BringUpAndAlarmComplete := by
  intro s n
  have hyes {p : Prop} [Decidable p] {a b : State} (h : p) : (Host.Outcome.next (if p then a else b) : Out) = .next a :=
    congrArg _ (if_pos h)
  have hno {p : Prop} [Decidable p] {a b : State} (h : ¬p) : (Host.Outcome.next (if p then a else b) : Out) = .next b :=
    congrArg _ (if_neg h)
  refine ⟨fun t ht => ht ▸ rfl, fun hn => ⟨fun h l => ⟨(clockLock_pll hn h (some l)).trans (hyes rfl), (clockLock_pll hn h none).trans (hno nofun)⟩,
      fun h o l hl => ⟨fun k hk => clockLock_held hn h (hl ▸ hk), fun hk => clockLock_none hn h (hl ▸ hk)⟩,
      fun h => ⟨(selftestDone_at hn h 0).trans (hyes rfl),
        (selftestDone_at hn h 1).trans ((hno (by decide)).trans (congrArg (fun t => Host.Outcome.next (State.endPass1 t)) (if_pos rfl))),
        (selftestDone_at hn h 2).trans ((hno (by decide)).trans (congrArg (fun t => Host.Outcome.next (State.endPass1 t)) (if_neg (by decide))))⟩, linksTrained_all hn,
      fun l hl ht => ⟨fun h => ?_, fun h => ?_⟩, fun h1 h2 h3 got good hg => ?_, fun h iso => if_pos hn⟩,
    fun h1 h2 h3 => ?_, fun k hk => ⟨fun h => ?_, fun t b h ht => ?_⟩,
    fun t b h ht => congrArg Host.Outcome.next ?_, fun h => congrArg Host.Outcome.next (if_pos h), fun x hx => ?_⟩
  · exact (stateLimitExpiry_at hn hl ht).trans (hyes h)
  · exact (stateLimitExpiry_at hn hl ht).trans (hno h)
  · have hok : s.transferOk n got = good := (transferOk_eq s n got).trans (by rw [hg]; induction got <;> rfl)
    have ht := configTransfer_at hn h1 h2 h3 got
    rw [hok] at ht
    refine ⟨fun hg => ?_, fun hg h => ?_, fun hg h => ?_⟩
    · refine ht.trans (congrArg Host.Outcome.next ((if_pos hg).trans ?_))
      simp only [List.contains_iff_mem]
    · exact ht.trans (congrArg Host.Outcome.next ((if_neg (by rw [hg]; decide)).trans (if_pos h)))
    · exact ht.trans (congrArg Host.Outcome.next ((if_neg (by rw [hg]; decide)).trans (if_neg (Nat.not_le.2 h))))
  · show execPealPass2 s = _
    unfold execPealPass2
    rw [if_pos ⟨h1, h2, h3⟩]
  · refine (sensorTrip_at hk (by unfold State.alarmEvent; rw [h])).trans ?_
    unfold tripped
    rw [h]
  · refine (sensorTrip_at hk (by unfold State.alarmEvent; rw [h]; exact if_neg (not_le.2 ht))).trans ?_
    unfold tripped
    rw [h]
  · unfold State.alarmEvent
    rw [h]
    exact if_pos ht
  · subst hx
    exact congrArg (fun k => Host.Outcome.next (resetFrom s _ k)) (keyStore_erased _)

end Sys2Proof.Spec
end

section
/-! PROOFS. The commands of the management page (R410, R412, R413, R415, R419, R423, R446). -/

namespace Sys2Proof.Machine
open Sys2Proof.Spec
set_option Elab.async false

/-- The row that a command names carries it out and reports its end. -/
theorem cmdRow_runs {s t : State} {p code : Nat} {sts : CallSts} {res : List Byte}
    {run : State → HostPort → Option (CallSts × List Byte × State)} (h : cmdHas s p code) (hr : run s (s.port p) = some (sts, res, t)) :
    cmdRow p code run s = .next (t.finishCmd p sts res) := by
  obtain ⟨hp, hb, hc, hd⟩ := h
  refine (if_pos hp).trans (congrArg Host.Outcome.next ?_)
  dsimp only
  rw [hb, hc, hd, if_neg (by simp), hr]

/-- A command that the row carries out whatever it finds. -/
theorem cmdRow_some {s t : State} {p code : Nat} {sts : CallSts} {res : List Byte}
    {run : State → HostPort → CallSts × List Byte × State} (h : cmdHas s p code) (hr : run s (s.port p) = (sts, res, t)) :
    cmdRow p code (fun s h => some (run s h)) s = .next (t.finishCmd p sts res) := cmdRow_runs h (congrArg some hr)

section
variable {s : State} {p : Nat}

theorem grant_free {a : W16} {l : List Nat} (h : ∀ k ∈ l, s.blockThere k = true ∧ (KV.get 0 s.owner k = 0 ∨ KV.get 0 s.owner k = a)) :
    ¬(l.any fun k => !s.blockThere k || (KV.get 0 s.owner k != 0 && KV.get 0 s.owner k != a)) = true := by
  intro ha
  obtain ⟨k, hk, hx⟩ := List.any_eq_true.1 ha
  obtain ⟨hb, ho⟩ := h k hk
  rw [hb] at hx
  rcases ho with ho | ho
  all_goals
    rw [ho] at hx
    simp at hx

theorem revoke_own {a : W16} {l : List Nat} (h : ∀ k ∈ l, KV.get 0 s.owner k = 0 ∨ KV.get 0 s.owner k = a) :
    (l.any fun k => KV.get 0 s.owner k != 0 && KV.get 0 s.owner k != a) = false := by
  refine List.any_eq_false.2 fun k hk => ?_
  rcases h k hk with ho | ho
  all_goals
    rw [ho]
    simp

/-- The security block once the offer of port p is taken. -/
noncomputable def offerTaken (s : State) : Security := { s.sec with offers := s.sec.offers.tail }

/-- What the ROM makes of an image whose refusal code is `code`. -/
noncomputable def imageTaken (s : State) (p : Nat) (sites : List Nat) (ask : W32) (code : Nat) : State :=
  if code ≠ 0 then { s with sec := { offerTaken s with refused := code } }
  else if (offerTaken s).boot = 0 then
    { s with sec := { offerTaken s with boot := 2, firmware := imgDigest (s.imageAt p), fwsvn := imgSvn (s.imageAt p) } }
  else { s with sec := { offerTaken s with
    boot := 3, config := imgDigest (s.imageAt p), isolate := isolatedSites sites
    minsvn := raiseMinsvn (offerTaken s).minsvn ask (offerTaken s).fwsvn } }

theorem imggo_taken {sites : List Nat} {readOk : Bool} {ask : W32} (hp : wfEight p = true) (h1 : s.romWaits = true)
    (h2 : s.sec.offers.head? = some p) {code : Nat}
    (hc : imgRefusal (s.imageAt p) readOk (if (offerTaken s).boot = 0 then 1 else 2) (offerTaken s).minsvn = code) :
    execImggo p sites readOk ask s = .next (imageTaken s p sites ask code) := by
  subst hc
  exact onEight_of (f := fun s => s.takeImage p sites readOk ask) hp (if_neg (by rw [h1, h2]; simp))

end

end Sys2Proof.Machine

namespace Sys2Proof.Spec
open Machine
set_option Elab.async false

/-- Settles O47: each command is the one the port holds, its checks passed in their order. -/
theorem hostCommandsComplete : Obligations.HostCommandsComplete := by
  intro s p h a fin
  refine ⟨fun hc k h1 h2 h3 h4 hf => ?_, fun hc r hr => ?_, fun l hl => ⟨fun hc hv ho => ?_, fun hc r hr hk hg ho => ?_⟩,
    fun hc k r hv hr hp ha hg => ?_, fun hc hw ha => ?_, fun hc h1 h2 => ⟨fun ha => ?_, fun ha hv => ?_⟩,
    fun hc hb hst => ⟨fun hk => ?_, fun hk => ?_⟩, fun hc => ⟨fun x hx => ?_, fun hx => ?_⟩,
    fun r hr => ⟨fun hc => ?_, fun hc => ?_⟩, fun hc hg hne => ?_,
    fun sites readOk ask hp h1 h2 => ⟨fun hc => ?_, fun hc hb => ?_, fun hc hb => ?_⟩⟩
  · show execAsnew p k s = _
    refine cmdRow_runs hc ((if_neg ?_).trans (if_pos hf))
    rintro (h | h | h | h)
    · exact h h1
    · exact h h2
    · rw [h3] at h; cases h
    · exact Nat.not_le.2 h4 h
  · show execAskill p s = _
    refine cmdRow_some hc ?_
    rw [hr]
  · show execGrantCmd p s = _
    refine cmdRow_some hc ((if_neg (by rw [hv]; decide)).trans ?_)
    rw [hl]
    exact if_neg (grant_free ho)
  · show execRevokeCmd p s = _
    refine cmdRow_some hc ?_
    rw [hr]
    dsimp only
    rw [hl]
    exact if_neg (by rw [hk, hg, revoke_own ho]; decide)
  · show execRootreg p k s = _
    refine cmdRow_runs hc ((if_neg (by rw [hv]; decide)).trans ?_)
    rw [hr]
    exact (if_neg fun h => h hp).trans ((if_neg (by rw [ha]; decide)).trans (if_neg (by rw [hg]; decide)))
  · show execWinbind p s = _
    refine cmdRow_some hc ((if_neg (Nat.not_le.2 hw)).trans (if_neg ?_))
    rcases ha with ha | ha
    · rw [decide_eq_false fun hn => hn ha]; exact Bool.false_ne_true
    · rw [show s.lives (BitVec.ofNat 16 (h.arg 10 2)) = true from ha]; simp
  · show execApbind p s = _
    exact cmdRow_some hc ((if_neg (by rintro (h | h); exacts [Nat.not_le.2 h1 h, h h2])).trans (if_pos ha))
  · show execApbind p s = _
    exact cmdRow_some hc ((if_neg (by rintro (h | h); exacts [Nat.not_le.2 h1 h, h h2])).trans ((if_neg ha).trans
      (if_neg (by rw [show s.lives (BitVec.ofNat 16 (h.arg 10 2)) = true from hv]; decide))))
  · show execAttestCmd p s = _
    exact cmdRow_some hc ((if_neg (by simp [hb, hst])).trans (if_pos (by rw [hk]; rfl)))
  · show execAttestCmd p s = _
    exact cmdRow_some hc ((if_neg (by simp [hb, hst])).trans (if_neg (by simpa using hk)))
  · show execAlmpolCmd p s = _
    refine cmdRow_some hc ?_
    rw [hx]
  · show execAlmpolCmd p s = _
    refine cmdRow_some hc ?_
    rw [hx]
  · show execDebugCmd p s = _
    refine cmdRow_some hc ?_
    rw [hr]
  · show execCauseOf p s = _
    refine cmdRow_some hc ?_
    rw [hr]
  · show execResumeBrk p s = _
    refine cmdRow_some hc (if_neg ?_)
    rw [decide_eq_false (Nat.not_le.2 hg), List.isEmpty_eq_false_iff.2 hne]
    decide
  · exact (imggo_taken hp h1 h2 rfl).trans (congrArg Host.Outcome.next (if_pos hc))
  · exact (imggo_taken hp h1 h2 rfl).trans (congrArg Host.Outcome.next ((if_neg fun h => h hc).trans (if_pos hb)))
  · exact (imggo_taken hp h1 h2 rfl).trans (congrArg Host.Outcome.next ((if_neg fun h => h hc).trans (if_neg hb)))

end Sys2Proof.Spec
end

section
/-! PROOFS. Matrix commands and stream instructions (R83, R128, R131 to R141, R165 to R170). -/

namespace Sys2Proof.Machine
open Sys2Proof.Spec
set_option Elab.async false

/-! ### EN rows -/

/-- An instruction that cannot go on yet waits and is issued again. -/
theorem coreRow_stall {i : Instr} {h : Core → Shape} {body : State → Except Exn Res} {s : State} {sp uses : Bool}
    {ops : List Operand} (hs : h (s.core s.self) = ⟨sp, uses, true, usesOf ops⟩) (hr : s.canIssue i sp uses ops = true)
    (hb : body s = .error .stall) : coreRow i h body s =
      .next (s.modCore s.self fun c => { c with wait := if c.wait = .none then .again else c.wait }) := by
  rw [coreRow_body hs hr, hb]

section
variable {i : Instr} {f : EN} {uses : Core → Bool} {legal : Core → Bool} {body : State → Except Exn Res} {s t : State}
  (hx : exec i s = coreRow i (shapeEn f uses legal) body s) (hr : enReady s i f (uses (s.core s.self)))
  (hl : legal (s.core s.self) = true)
include hx hr hl

theorem exec_en_done (hb : body s = .ok (.done t)) : exec i s = .next (t.retired s i f.sp (uses (s.core s.self))) :=
  hx.trans (coreRow_done (congrArg (Shape.mk _ _ · _) hl) hr hb)

theorem exec_en_fault {x : FCode} {a : W64} (hb : body s = .error (.flt x a)) : exec i s = .next (s.faultAt s.self x a) :=
  hx.trans (coreRow_fault (congrArg (Shape.mk _ _ · _) hl) hr hb)

theorem exec_en_stall (hb : body s = .error .stall) :
    exec i s = .next (s.modCore s.self fun c => { c with wait := if c.wait = .none then .again else c.wait }) :=
  hx.trans (coreRow_stall (congrArg (Shape.mk _ _ · _) hl) hr hb)

end

theorem exec_m3_stall {i : Instr} {f : M3} {legal : Ty → Bool} {body : State → Except Exn Res} {s : State}
    (hx : exec i s = coreRow i (shapeM3 f legal) body s)
    (hr : s.canIssue i f.sp (f.ty == .px) [f.od, f.oa, f.ob, f.oc] = true) (hl : legal ((s.core s.self).ty f.ty) = true)
    (hb : body s = .error .stall) :
    exec i s = .next (s.modCore s.self fun c => { c with wait := if c.wait = .none then .again else c.wait }) :=
  hx.trans (coreRow_stall (shapeM3_legal hl) hr hb)

/-! ### Binds -/

section
variable {s : State} {cmd : MxCmd} (hc : cmd.rid = (s.core s.self).actRid)
include hc

theorem enterBind_free {b : Nat} (h : inboxFree s b) : s.enterBind s.self cmd = .ok (queuedMx s b cmd) := by
  unfold State.enterBind
  dsimp only
  rw [hc, h.1]
  exact if_neg (Nat.not_le.2 h.2)

theorem enterBind_none (h : (s.mxe (clusterOfCore s.self)).bindOf (s.core s.self).actRid = none) :
    s.enterBind s.self cmd = .error (.flt .priv 0) := by
  unfold State.enterBind
  dsimp only
  rw [hc, h]

theorem enterBind_full {b : Nat} (h : (s.mxe (clusterOfCore s.self)).bindOf (s.core s.self).actRid = some b)
    (hf : 16 ≤ ((s.mxe (clusterOfCore s.self)).queued b).length) : s.enterBind s.self cmd = .error .stall := by
  unfold State.enterBind
  dsimp only
  rw [hc, h]
  exact if_pos hf

end

/-- A command that enters its bind, counted for its completion; d is the core that issued it. -/
noncomputable def enterAs (s : State) (cmd : MxCmd) (cp : Cp) (d : Core) : Except Exn Res := do
  let t ← s.enterBind s.self cmd
  return .done ((t.countCp s.self cp).modCore s.self fun _ => d)

/-! ### Matrix commands -/

/-- The command that a matrix instruction captures. -/
noncomputable def mxCommand (op : Nat) (f : EN) (s : State) (cp : Cp) (block : List Lane) (seed : W32) : MxCmd :=
  { (s.core s.self).mxCmd s.self op cp with
    ty := (s.core s.self).ty f.ty, tb := if op = 0xA9 ∨ op = 0xAA then (s.core s.self).fnTy f.fn else .i8, tile := f.opt.extractLsb' 0 2
    rs := f.opt.getLsbD 2, block := block, pn := if op = 0xAD then (s.core s.self).preg (regOf f.cb) else 0
    sat := (s.core s.self).effsat (mxUses op f), seed := seed }

theorem fnIsType_iff (op : Nat) : fnIsType op = true ↔ op = 0xA9 ∨ op = 0xAA := by simp [fnIsType]

/-- What a matrix instruction does: it reads its block and its completion, and enters its bind. -/
theorem mxBody_eq (op : Nat) (f : EN) (s : State) : mxBody op f s = (do
    let x ← if isMem f.cb then (s.core s.self).readBlock f.cb 128 else .ok (s.core s.self, [])
    let cp ← s.checkCp s.self f.cp
    enterAs s (mxCommand op f s cp x.2 (x.1.takeSeed (op == 0xAC)).1) cp ((x.1.takeSeed (op == 0xAC)).2.issued [f.cb, f.cp])) := by
  unfold mxCommand
  simp only [← fnIsType_iff]
  rfl

theorem mxBody_of {op : Nat} {f : EN} {s : State} {c1 : Core} {block : List Lane} {cp : Cp} {x : Except Exn Res}
    (hb : (if isMem f.cb then (s.core s.self).readBlock f.cb 128 else .ok (s.core s.self, [])) = .ok (c1, block))
    (hcp : s.checkCp s.self f.cp = .ok cp) (hx : enterAs s (mxCommand op f s cp block (c1.takeSeed (op == 0xAC)).1) cp
      ((c1.takeSeed (op == 0xAC)).2.issued [f.cb, f.cp]) = x) : mxBody op f s = x := by
  rw [mxBody_eq]
  dsimp only
  split
  · rename_i h
    rw [if_pos h] at hb
    exact bind_of_ok hb (bind_of_ok hcp hx)
  · rename_i h
    rw [if_neg h] at hb
    exact bind_of_ok hb (bind_of_ok hcp hx)

/-- The core that MXWAIT leaves: flags and the worst status given up, and cleared. -/
noncomputable def mxwaited (f : M3) (c : Core) : Core :=
  let sts := match c.mxBad with
    | some x => x.2.toNat
    | none => 0
  let d := c.orFlags c.mxFlags
  let d2 := if f.fn = 1 then (d.writeElems 4 f.od .u32 [⟨sts, true⟩]).1.opIncs 4 [f.od] else d
  { d2 with mxFlags := 0, mxBad := none }

/-- MXWAIT after its check. -/
noncomputable def mxwaitRest (f : M3) (s : State) : Except Exn Res := do
  if s.mxCount s.self ≠ 0 then throw .stall
  return .done (s.setCore s.self (mxwaited f (s.core s.self)))

theorem mxwaitBody_eq (f : M3) (s : State) : mxwaitBody f s = (do
    if f.fn = 1 then (s.core s.self).checkLocals 4 [(f.od, 4, 4)]
    mxwaitRest f s) := rfl

theorem mxwaitBody_checked {f : M3} {s : State} (h : f.fn = 1 → (s.core s.self).checkLocals 4 [(f.od, 4, 4)] = .ok ()) :
    mxwaitBody f s = mxwaitRest f s := by
  rw [mxwaitBody_eq]
  split
  · rename_i h1
    exact bind_of_ok (h h1) rfl
  · rfl

/-! ### Streams -/

theorem forIn_ok {ε α : Type} {l : List α} {f : α → PUnit → Except ε (ForInStep PUnit)}
    (h : ∀ a ∈ l, f a PUnit.unit = .ok (.yield PUnit.unit)) : forIn l PUnit.unit f = .ok PUnit.unit := by
  induction l with
  | nil => rfl
  | cons a l ih =>
    rw [List.forIn_cons, h a List.mem_cons_self]
    exact ih fun b hb => h b (List.mem_cons_of_mem a hb)

/-- The targets that a stream's command names are the activation's own (R165). -/
noncomputable def checkOuts (s : State) (cmd : MxCmd) : Except Exn PUnit :=
  forIn [0, 1, 2, 3] PUnit.unit fun n _ =>
    if cmd.out n ≠ 0 then do
      s.checkTarget s.self (cmd.out n)
      pure (ForInStep.yield PUnit.unit)
    else pure (ForInStep.yield PUnit.unit)

theorem checkOuts_ok {s : State} {cmd : MxCmd} (h : ∀ n, n < 4 → cmd.out n ≠ 0 → s.checkTarget s.self (cmd.out n) = .ok ()) :
    checkOuts s cmd = .ok PUnit.unit := by
  have hlt : ∀ n ∈ [0, 1, 2, 3], n < 4 := by decide
  refine forIn_ok fun n hn => ?_
  split
  · rename_i ho
    exact bind_of_ok (h n (hlt n hn) ho) rfl
  · rfl

/-- The command of WSTART. -/
noncomputable def wstartCommand (s : State) (cp : Cp) (block : List Lane) (seed : W32) : MxCmd :=
  { (s.core s.self).mxCmd s.self 0xB3 cp with block := block, seed := seed }

/-- WSTART after its reads. -/
noncomputable def wstartRest (f : EN) (s : State) (cp : Cp) (block : List Lane) (r : W32 × Core) : Except Exn Res := do
  if !s.teamHolds (clusterOfCore s.self) (s.core s.self).actRid then throw (.flt .priv 0)
  let _ ← checkOuts s (wstartCommand s cp block r.1)
  enterAs s (wstartCommand s cp block r.1) cp (r.2.issued [f.cb, f.cp])

theorem wstartBody_eq (f : EN) (s : State) : wstartBody f s = (do
    let x ← (s.core s.self).readBlock f.cb 128
    let cp ← s.checkCp s.self f.cp
    wstartRest f s cp x.2 (x.1.takeSeed true)) := rfl

theorem wresumeBody_eq (f : EN) (s : State) : wresumeBody f s = (do
    let cp ← s.checkCp s.self f.cp
    enterAs s { (s.core s.self).mxCmd s.self 0xB5 cp with pn := (s.core s.self).preg (regOf f.cb) } cp
      ((s.core s.self).issued [f.cp])) := rfl

theorem wstopAsk_running {s : State} {id : W64} {asid : W16} {t : Stream} (h : s.streamOf id asid = some t)
    (ht : t.state = 1 ∨ t.state = 2) : s.wstopAsk id asid = s.setStream id.toNat { t with stopReq := true } := by
  unfold State.wstopAsk
  rw [h]
  exact if_pos ht

theorem wstopAsk_other {s : State} {id : W64} {asid : W16}
    (h : ∀ t, s.streamOf id asid = some t → t.state ≠ 1 ∧ t.state ≠ 2) : s.wstopAsk id asid = s := by
  unfold State.wstopAsk
  split
  · rename_i t ht
    exact if_neg fun hs => hs.elim (h t ht).1 (h t ht).2
  · rfl

theorem Core.writeLanes_push {c : Core} {fp : Nat} {o : Operand} {l : List LaneOut} {n : BitVec 3} {e : QEntry}
    (h : (c.writeLanes fp o l).2 = some (n, e)) : o = .queue n := by
  induction o <;> obtain ⟨⟩ := h
  rfl

/-- WSTAT at a destination that is accessible, w what the core waits for. -/
noncomputable def wstatAt (f : M3) (s : State) : Wait → Except Exn Res
  | .wstat _ (some l) => do
    let (c1, p) := (s.core s.self).writeLanes 32 f.od (l.map fun w => ⟨w, BitVec.allOnes 32, true⟩)
    let s1 := s.setCore s.self (c1.opIncs 32 [f.od])
    match p with
    | none => return .done s1
    | some (n, e) => match s1.pushQ s.self n e with
      | .ok t => return .done t
      | .error .stall => return .hold (s.modCore s.self fun c => { c with wait := .again })
      | .error x => throw x
  | .wstat _ none => return .hold s
  | _ => return .hold (s.modCore s.self fun c => { c with wait := .wstat (c.preg (regOf f.oa)) none })

theorem wstatBody_eq (f : M3) (s : State) : wstatBody f s = (do
    (s.core s.self).checkLocals 32 [(f.od, 32, 4)]
    wstatAt f s (s.core s.self).wait) := rfl

/-- The lanes of a reply go to a destination that has room. -/
theorem wstatAt_reply {f : M3} {s : State} {l : List W32} (ha : (s.core s.self).act ≠ none)
    (hr : s.hasRoom s.self f.od = true) {w : Core × Push}
    (hx : (s.core s.self).writeLanes 32 f.od (l.map fun x => ⟨x, BitVec.allOnes 32, true⟩) = w) (id : W64) :
    wstatAt f s (.wstat id (some l)) = .ok (.done (s.written (w.1.opIncs 32 [f.od], w.2))) := by
  have hcomp : (s.core s.self).Computed (w.1.opIncs 32 [f.od]) :=
    hx ▸ (Core.Computed.writeLanes _ 32 f.od _).trans (Core.Computed.opIncs _ 32 _)
  have hpush (n : BitVec 3) (e : QEntry) (h : w.2 = some (n, e)) :
      isOk ((s.setCore s.self (w.1.opIncs 32 [f.od])).pushQ s.self n e) = true := by
    have ho : f.od = .queue n := Core.writeLanes_push (hx ▸ h)
    rw [ho] at hr
    exact State.pushQ_computed (e' := emptyEntry) hcomp ha hr
  unfold wstatAt
  dsimp only
  rw [hx]
  obtain ⟨d, p⟩ := w
  induction p with
  | none => rfl
  | some x =>
    obtain ⟨t, ht⟩ := exists_of_isOk (hpush x.1 x.2 rfl)
    dsimp only at ht
    unfold State.written
    dsimp only
    rw [ht]
    rfl

theorem wstatAt_asks {f : M3} {s : State} {w : Wait} (hw : ∀ id l, w ≠ .wstat id l) : wstatAt f s w =
    .ok (.hold (s.modCore s.self fun c => { c with wait := .wstat (c.preg (regOf f.oa)) none })) := by
  induction w with
  | wstat id l => exact absurd rfl (hw id l)
  | _ => rfl

end Sys2Proof.Machine

namespace Sys2Proof.Spec
open Machine
set_option Elab.async false

/-- Settles O31: the bind of the region takes the command, or is not there, or is full. -/
theorem matrixCommandsComplete : Obligations.MatrixCommandsComplete := by
  refine ⟨?_, ?_⟩
  · intro op f s i cp c1 block hi c uses hr hl hb hcp r
    have hx : exec i s = coreRow i (shapeEn f (fun _ => mxUses op f) (mxLegal op f)) (mxBody op f) s := by
      simp only [List.mem_cons, Prod.mk.injEq, List.not_mem_nil, or_false] at hi
      obtain ⟨rfl, rfl⟩ | ⟨rfl, rfl⟩ | ⟨rfl, rfl⟩ | ⟨rfl, rfl⟩ | ⟨rfl, rfl⟩ := hi <;> rfl
    have hbody {x : Except Exn Res} (h : enterAs s (mxCommand op f s cp block r.1) cp (r.2.issued [f.cb, f.cp]) = x) :
        mxBody op f s = x := mxBody_of hb hcp h
    refine ⟨fun b hf => ?_, fun hn => ?_, fun b hb hf => ?_⟩
    · exact exec_en_done hx hr hl (hbody (bind_of_ok (enterBind_free rfl hf) rfl))
    · exact exec_en_fault hx hr hl (hbody (by unfold enterAs; rw [enterBind_none rfl hn]; rfl))
    · exact exec_en_stall hx hr hl (hbody (by unfold enterAs; rw [enterBind_full rfl hb hf]; rfl))
  · intro f s hr hfn habs hod c hck
    have hl : (fixedM3 f ((s.core s.self).ty f.ty) .u32 0 && decide (f.fn.toNat ≤ 1) && absent [f.oa, f.ob, f.oc] &&
        (if f.fn = 1 then oneDst f.od else f.od == .zero)) = true := and_true_of (and_true_of (and_true_of hr.2 (decide_eq_true hfn)) habs) hod
    refine ⟨fun h0 => ?_, fun h0 => ?_⟩
    · exact exec_m3_done (i := .mxwait f) rfl hr.1 hl ((mxwaitBody_checked hck).trans (if_neg fun h => h h0))
    · exact exec_m3_stall (i := .mxwait f) rfl hr.1 hl ((mxwaitBody_checked hck).trans (if_pos h0))

/-- Settles O33: a stream command enters its bind, a request reaches the stream it names, a reply its destination. -/
theorem streamInstructionsComplete : Obligations.StreamInstructionsComplete := by
  refine ⟨?_, ?_, ?_, ?_⟩
  · intro f s c1 block cp g c hr hty hfn hopt hsel hm hcf hb hcp r cmd
    have hl : (f.ty == .i8 && f.fn == 0 && f.opt == 0 && f.sel == 0 && isMem f.cb && cpForm f.cp) = true := 
      and_true_of (and_true_of (and_true_of (and_true_of (and_true_of (beq_of_eq hty) (beq_of_eq hfn)) (beq_of_eq hopt)) (beq_of_eq hsel)) hm) hcf
    have hbody {x : Except Exn Res} (h : wstartRest f s cp block r = x) : wstartBody f s = x :=
      (wstartBody_eq f s).trans (bind_of_ok hb (bind_of_ok hcp h))
    refine ⟨fun hn => ?_, fun ht ho b hf => ?_⟩
    · exact exec_en_fault (i := .wstart f) rfl hr hl (hbody (if_pos (by rw [hn]; rfl)))
    · exact exec_en_done (i := .wstart f) rfl hr hl (hbody ((if_neg (by rw [ht]; decide)).trans (bind_of_ok (checkOuts_ok ho)
        (bind_of_ok (enterBind_free rfl hf) rfl))))
  · intro f s cp b hr hty hfn hopt hsel hm hcf c hid hcp hf
    have hl : (f.ty == .i8 && f.fn == 0 && f.opt == 0 && f.sel == 0 && isRegOp f.cb && cpForm f.cp &&
        (s.core s.self).preg (regOf f.cb) == BitVec.ofNat 64 (clusterOfCore s.self)) = true := 
      and_true_of (and_true_of (and_true_of (and_true_of (and_true_of (and_true_of (beq_of_eq hty) (beq_of_eq hfn)) (beq_of_eq hopt))
        (beq_of_eq hsel)) hm) hcf) (beq_of_eq hid)
    exact exec_en_done (i := .wresume f) rfl hr hl ((wresumeBody_eq f s).trans (bind_of_ok hcp
      (bind_of_ok (enterBind_free rfl hf) rfl)))
  · intro f s hr hfn hoa habs id
    have hl : (fixedM3 f ((s.core s.self).ty f.ty) .i8 0 && f.fn == 0 && isRegOp f.oa && absent [f.od, f.ob, f.oc]) = true := 
      and_true_of (and_true_of (and_true_of hr.2 (beq_of_eq hfn)) hoa) habs
    exact ⟨fun t h ht => exec_m3_done (i := .wstop f) rfl hr.1 hl (congrArg (fun t => Except.ok (Res.done t)) (wstopAsk_running h ht)),
      fun h => exec_m3_done (i := .wstop f) rfl hr.1 hl (congrArg (fun t => Except.ok (Res.done t)) (wstopAsk_other h))⟩
  · intro f s hr hfn hoa habs hod c hck
    have hl : (fixedM3 f ((s.core s.self).ty f.ty) .u32 7 && f.fn == 0 && isRegOp f.oa && absent [f.ob, f.oc] &&
        (isMem f.od || isAccOp f.od || f.od == .queue 2 || f.od == .queue 3)) = true := 
      and_true_of (and_true_of (and_true_of (and_true_of hr.2 (beq_of_eq hfn)) hoa) habs) hod
    have hact : (s.core s.self).act ≠ none := State.issues_act (canIssue_iff.1 hr.1).2.1
    exact ⟨fun id l hw hroom => exec_m3_done (i := .wstat f) rfl hr.1 hl ((wstatBody_eq f s).trans (bind_of_ok hck (by
        rw [show (s.core s.self).wait = _ from hw]; exact wstatAt_reply hact hroom rfl id))),
      fun hw => exec_m3_hold (i := .wstat f) rfl hr.1 hl ((wstatBody_eq f s).trans (bind_of_ok hck (wstatAt_asks hw)))⟩

end Sys2Proof.Spec
end

section
/-! PROOFS. The steps of a weight stream (R158 to R174, R370). -/

namespace Sys2Proof.Machine
open Sys2Proof.Spec
set_option Elab.async false

section
variable {s : State} {m : Nat}

/-- A stream's command once its bind has been noted: it starts, resumes, or is aborted. -/
noncomputable def headTaken (s : State) (m b : Nat) (c : MxCmd) (l : List MxCmd) (halted : Bool) : State :=
  if halted then s.setMxe m { (s.mxe m).setQueued b l with run := some ⟨c, b, 0, 0, some stsAbort, 0⟩ }
  else if c.op = 0xB3 then s.wstartHead m b c l
  else s.wresumeHead m b c l

theorem streamBegin_head {b : Nat} {c : MxCmd} {l : List MxCmd} (h1 : (s.mxe m).run = none) (h2 : s.nextBind m = some b)
    (h3 : (s.mxe m).queued b = c :: l) (hop : isStreamOp c.op = true) (h4 : c.abort = false)
    (h5 : (s.mxe m).susp.any (fun r => r.bind == b) = false) :
    s.streamBegin m = headTaken (s.noteLent m b) m b c l ((s.mxe m).hlt b && (KV.find (s.mxe m).halted b).isSome) := by
  refine (if_neg (by rw [h1]; decide)).trans ?_
  rw [h2]
  dsimp only
  rw [h3]
  exact if_neg (by rw [hop, h4, h5]; decide)

theorem headTaken_start {b : Nat} {c : MxCmd} {l : List MxCmd} (h1 : c.op = 0xB3) (h2 : c.startOk = true)
    (h3 : (s.mxe m).stream = none) : headTaken s m b c l false =
      s.setMxe m { ((s.mxe m).setQueued b l).setHlt b false with stream := some (Stream.start c b) } := by
  refine (if_neg (by decide)).trans ((if_pos h1).trans ?_)
  unfold State.wstartHead
  dsimp only
  rw [h2, h3]
  exact (if_neg (by decide)).trans (if_neg Bool.false_ne_true)

theorem headTaken_resume {b : Nat} {c : MxCmd} {l : List MxCmd} {t : Stream} (h1 : c.op = 0xB5) (h2 : (s.mxe m).stream = some t)
    (h3 : t.state = 4) (h4 : t.cmd.asid = c.asid) : headTaken s m b c l false =
      s.setMxe m { ((s.mxe m).setQueued b l).setHlt t.bind false with
        stream := some { t with state := 1, via := c, stopReq := false, faultChunk := 0 } } := by
  refine (if_neg (by decide)).trans ((if_neg (by rw [h1]; decide)).trans ?_)
  unfold State.wresumeHead
  dsimp only
  rw [h2]
  exact if_pos ⟨h3, h4⟩

/-- A stream at a boundary or within a block, its header h. -/
noncomputable def streamWithin (s : State) (m : Nat) (t : Stream) (h : WHead) : State :=
  if h.mma && s.streamHeld m t.bind then s.streamStop m t else if t.ahead.isNone then s.prefetch m t h else s

/-- A step of a stream that no fault has ended. -/
noncomputable def streamGoes (s : State) (m : Nat) (t : Stream) : State :=
  if t.state = 3 then if s.streamHeld m t.bind then s else s.setStream m { t with state := 1 }
  else if t.state ≠ 1 then s
  else if !t.busy then s.streamBoundary m t
  else match WHead.of t.header with
    | some h => streamWithin s m t h
    | none => s

section
variable {t : Stream} (ht : (s.mxe m).stream = some t)
include ht

theorem streamStep_goes (h : t.sts = none) : s.streamStep m = streamGoes s m t := by
  unfold State.streamStep
  rw [ht]
  exact if_neg (by rw [h]; decide)

theorem streamPoll_waits (h1 : t.sts = none) (h2 : t.state = 2) : s.streamPoll m = s.streamBoundary m t := by
  unfold State.streamPoll
  rw [ht]
  exact if_pos (by rw [h1, h2]; decide)

end

section
variable {t : Stream}

theorem streamGoes_boundary (h1 : t.state = 1) (h2 : t.busy = false) : streamGoes s m t = s.streamBoundary m t :=
  (if_neg (by rw [h1]; decide)).trans ((if_neg fun h => h h1).trans (if_pos (by rw [h2]; rfl)))

theorem streamGoes_within {h : WHead} (h1 : t.state = 1) (h2 : t.busy = true) (hh : WHead.of t.header = some h) :
    streamGoes s m t = streamWithin s m t h := by
  refine (if_neg (by rw [h1]; decide)).trans ((if_neg fun h => h h1).trans ((if_neg (by rw [h2]; decide)).trans ?_))
  rw [hh]

theorem streamBoundary_next (h1 : s.isKilled t.cmd.asid = false) (h2 : s.streamHeld m t.bind = false) (h3 : t.stopReq = false)
    (h4 : s.streamSlot m t.bind = true) : s.streamBoundary m t = s.nextBlock m t :=
  (if_neg (by rw [h1]; decide)).trans ((if_neg (by rw [h2]; decide)).trans ((if_neg (by rw [h3]; exact Bool.false_ne_true)).trans
    (if_neg (by rw [h4]; decide))))

theorem streamBoundary_stop (h1 : s.isKilled t.cmd.asid = false) (h2 : s.streamHeld m t.bind = true) :
    s.streamBoundary m t = s.streamStop m t := (if_neg (by rw [h1]; decide)).trans (if_pos h2)

end

/-- A block runs in its slot, and one that multiplies nothing also while the stream is held. -/
theorem blockRuns_of {b : Nat} {mma : Bool} (h : s.streamSlot m b = true ∨ (mma = false ∧ s.streamHeld m b = true)) :
    s.blockRuns m b mma = true := by
  unfold State.blockRuns
  rcases h with h | ⟨h1, h2⟩
  · rw [h]; rfl
  · rw [h1, h2]; exact Bool.or_true _

/-- The chunks due of a multiplication, carried out; a fault ends the stream. -/
noncomputable def streamMul (m : Nat) (t : Stream) (h : WHead) (n k : Nat) (u : State) : State :=
  match u.streamMma m t h n with
  | .error e => u.setStream m (t.fail (if e.1 = FCode.cksum.code then h.chunks - 1 else k) e)
  | .ok v => v

theorem streamMul_ok {t : Stream} {h : WHead} {n k : Nat} {u v : State} (hv : u.streamMma m t h n = .ok v) :
    streamMul m t h n k u = v := by
  unfold streamMul
  rw [hv]

section
variable {t : Stream} {h : WHead} (ht : (s.mxe m).stream = some t) (hh : WHead.of t.header = some h) (h1 : t.state = 1)
  (h2 : t.busy = true) (h3 : t.sts = none) (h4 : s.blockRuns m t.bind h.mma = true)
include ht hh h1 h2 h3 h4

theorem chunkDecode_ok (h5 : t.cfault = none) (h6 : t.staged.length < 8) (h7 : t.base + t.staged.length < h.chunks)
    (h8 : s.chargeOk m 7 = true) {n : Nat} {b : List Byte} {v : State}
    (hf : (s.charge m 7).fetchChunk m t h (t.base + t.staged.length) (t.boff + (t.staged.map (·.1)).sum) = .ok (n, b, v)) :
    s.chunkDecode m = v.setStream m { t with staged := t.staged ++ [(n, b)] } := by
  unfold State.chunkDecode
  rw [ht]
  dsimp only
  rw [hh]
  refine (if_neg ?_).trans ((if_neg (by rw [h8]; decide)).trans ?_)
  · rw [h1, h2, h3, h4, h5, decide_eq_false (Nat.not_le.2 h6), decide_eq_false (Nat.not_le.2 h7)]; decide
  · rw [hf]

theorem streamApply_epi (h5 : h.mma = false) (h6 : 1 ≤ t.staged.length) {v : State} (hv : s.streamEpi m t h = .ok v) :
    s.streamApply m = v := by
  have hd : s.chunksDue m t h = 1 := if_neg (by rw [h5]; decide)
  unfold State.streamApply
  rw [ht]
  dsimp only
  rw [hh]
  refine (if_neg ?_).trans ((if_neg (by rw [h5]; decide)).trans ?_)
  · rw [h1, h2, h3, h4, hd, decide_eq_false (Nat.not_lt.2 h6)]; decide
  · rw [hv]

theorem streamApply_mma (h5 : h.mma = true) (h6 : s.chunksDue m t h ≤ t.staged.length) (h7 : (s.mxe m).rampOk = true)
    (h8 : s.chargeOk m (chunkClass h.fmt) = true) {v : State}
    (hv : ((s.charge m (chunkClass h.fmt)).setMxe m { s.mxe m with act := (s.mxe m).act + 32 }).streamMma m t h (s.chunksDue m t h) = .ok v) :
    s.streamApply m = v := by
  unfold State.streamApply
  rw [ht]
  dsimp only
  rw [hh]
  refine (if_neg ?_).trans ((if_pos h5).trans ((if_neg (by rw [h7]; decide)).trans ((if_neg (by rw [h8]; decide)).trans ?_)))
  · rw [h1, h2, h3, h4, decide_eq_false (Nat.not_lt.2 h6)]; decide
  · exact streamMul_ok hv

end

/-- The engine with the rows, and the tile, that a stream has reached. -/
noncomputable def streamRowsSet (s : State) (m : Nat) (t : Stream) : State :=
  s.setMxe m (match WHead.of t.header with
    | some h => if h.tiled then ((s.mxe m).setRows t.bind (s.streamRows m t)).setAt t.bind (BitVec.ofNat 2 h.atl)
      else (s.mxe m).setRows t.bind (s.streamRows m t)
    | none => (s.mxe m).setRows t.bind (s.streamRows m t))

/-- A stream that a fault of code c halts. -/
noncomputable def streamHalted (m : Nat) (t : Stream) (c : Byte) (v : State) : State :=
  v.setMxe m { ((v.mxe m).setHlt t.bind true).abortQueued t.bind with stream := some { t with
    state := 4, busy := false, again := true, staged := [], ahead := none, cfault := none, sts := none, flags := 0, last := c } }

/-- Its exit record. -/
noncomputable def streamExit (s : State) (m : Nat) (t : Stream) (c : Byte) :=
  (streamRowsSet s m t).exitRecord m t c (t.b.extractLsb' 0 32) (t.b.extractLsb' 32 32)
    (BitVec.ofNat 32 (t.faultChunk % 2 ^ 16 * 2 ^ 16 + s.streamRows m t / 32))

theorem streamHalt_due {t : Stream} {c : Byte} {a : W64} (ht : (s.mxe m).stream = some t) (hd : s.haltDue m t = some (c, a)) {v : State}
    (hv : ((streamRowsSet s m t).dropLines (m / 4) (cmdId t.cmd.core t.cmd.seq)).exitDeliver m t.via (streamExit s m t c) = some v) :
    s.streamHalt m = if c = stsDesc ∨ c = stsShape ∨ c = stsOwner then streamHalted m t c v
      else (streamHalted m t c v).reportHalt t.via.outst a (streamExit s m t c) := by
  unfold State.streamHalt
  rw [ht]
  dsimp only
  rw [hd]
  show (match ((streamRowsSet s m t).dropLines (m / 4) (cmdId t.cmd.core t.cmd.seq)).exitDeliver m t.via (streamExit s m t c) with
    | none => s
    | some s2 => if c = stsDesc ∨ c = stsShape ∨ c = stsOwner then streamHalted m t c s2
      else (streamHalted m t c s2).reportHalt t.via.outst a (streamExit s m t c)) = _
  rw [hv]

end

end Sys2Proof.Machine

namespace Sys2Proof.Spec
open Machine
set_option Elab.async false

/-- Settles O44: the state of the stream, of its slot and of its staging buffer picks the branch of each step. -/
theorem streamStepsComplete : Obligations.StreamStepsComplete := by
  intro s m hm x
  have hstep {v : State} (h : s.streamStep m = v) : exec (.streamStep m) s = .next v :=
    onEngine_of (f := fun s => s.streamStep m) hm h
  have happly {v : State} (hr : x.run = none) (h : s.streamApply m = v) : exec (.mxeChunkApply m) s = .next v :=
    onEngine_of (f := fun s => if (s.mxe m).run.isSome then s.mxeChunk m else s.streamApply m) hm
      ((if_neg (by rw [show (s.mxe m).run = none from hr]; decide)).trans h)
  refine ⟨?_, ?_, ?_⟩
  · intro b c l h1 h2 h3 h4 h5 u h6
    have hhead {v : State} (hop : isStreamOp c.op = true) (h : headTaken u m b c l false = v) : exec (.streamStart m) s = .next v := by
      have := streamBegin_head h1 h2 h3 hop h4 h5
      rw [h6] at this
      exact onEngine_of (f := fun s => s.streamBegin m) hm (this.trans h)
    exact ⟨fun ho hs hn => hhead (by rw [ho]; rfl) (headTaken_start ho hs hn),
      fun t ho ht h3 h4 => hhead (by rw [ho]; rfl) (headTaken_resume ho ht h3 h4)⟩
  · intro t ht hst
    refine ⟨fun h hh => ?_, fun hk hh hr hs => ⟨fun h1 hb => ?_, fun h2 => ?_⟩, fun hk hh h1 hb => ?_, fun h hw h1 hb ha hm => ?_,
      fun h hw h1 hb hslot => ?_⟩
    · exact hstep ((streamStep_goes ht hst).trans ((if_pos h).trans (if_neg (by rw [hh]; decide))))
    · exact hstep ((streamStep_goes ht hst).trans ((streamGoes_boundary h1 hb).trans (streamBoundary_next hk hh hr hs)))
    · exact onEngine_of (f := fun s => s.streamPoll m) hm ((streamPoll_waits ht hst h2).trans (streamBoundary_next hk hh hr hs))
    · exact hstep ((streamStep_goes ht hst).trans ((streamGoes_boundary h1 hb).trans (streamBoundary_stop hk hh)))
    · refine hstep ((streamStep_goes ht hst).trans ((streamGoes_within h1 hb hw).trans ((if_neg ?_).trans (if_pos (by rw [ha]; rfl)))))
      rcases hm with hm | hm
      · rw [hm]; exact Bool.false_ne_true
      · rw [hm, Bool.and_false]; exact Bool.false_ne_true
    · have hruns := blockRuns_of hslot
      refine ⟨fun h5 h6 h7 h8 => ?_, fun hr h5 h6 v hv => happly hr (streamApply_epi ht hw h1 hb hst hruns h5 h6 hv),
        fun hr h5 h6 h7 h8 v hv => happly hr (streamApply_mma ht hw h1 hb hst hruns h5 h6 h7 h8 hv)⟩
      exact fun n b v hf => onEngine_of (f := fun s => s.chunkDecode m) hm (chunkDecode_ok ht hw h1 hb hst hruns h5 h6 h7 h8 hf)
  · intro t c a ht hd rows y u r v hv
    exact onEngine_of (f := fun s => s.streamHalt m) hm (streamHalt_due ht hd hv)

end Sys2Proof.Spec
end

section
/-! PROOFS. The steps of the GL links (R261 to R265, R457 to R459, R509). -/

namespace Sys2Proof.Machine
open Sys2Proof.Spec
set_option Elab.async false

section
variable {s : State} {l : Nat}

/-- A packing that closes: numbered, coded where it can be, and sent. -/
noncomputable def packingClosed (s : State) (l i : Nat) (x : Packing) : State :=
  let k := s.link l
  let q := { x.pkt with lseq := k.txNext }
  let t := KV.get Coder.reset k.txCode q.cls
  let q := if glCoded q then (match t.pack (glWords q) with
    | some b => { q with cmp := true, stored := b }
    | none => q) else q
  s.setLink l { k with
    packing := listDel k.packing i
    unacked := k.unacked ++ [q]
    txNext := k.txNext + 1
    gltx := k.gltx + 1
    txCode := if glCoded q then KV.put q.cls (t.after (glWords q)) k.txCode else k.txCode }

/-- A closing by what stands at place i of the packings. -/
noncomputable def glClosing (s : State) (l i : Nat) : Option Packing → State
  | none => s
  | some x =>
    if !(s.link l).up || decide (256 ≤ (s.link l).unacked.length) || !(s.link l).closable s.now i x then s
    else packingClosed s l i x

theorem glClose_eq (s : State) (l i : Nat) : s.glClose l i = glClosing s l i (s.link l).packing[i]? := rfl

theorem glClose_closable {i : Nat} {x : Packing} (h1 : (s.link l).packing[i]? = some x) (h2 : (s.link l).up = true)
    (h3 : (s.link l).unacked.length < 256) (h4 : (s.link l).closable s.now i x = true) : s.glClose l i = packingClosed s l i x := by
  rw [glClose_eq, h1]
  exact if_neg (by rw [h2, h4, decide_eq_false (Nat.not_le.2 h3)]; decide)

/-! ### Packets received -/

/-- A packet with a good CRC: it waits for its turn, is acknowledged again, or is one that is held. -/
noncomputable def glCounted (s : State) (l : Nat) (q : GlPacket) : State :=
  let k := s.link l
  if 256 ≤ (q.lseq - k.rxNext).toNat then (if seqGe q.lseq k.rxNext then s else s.setLink l (k.answer true q.lseq))
  else if k.rxHeld.any (fun x => x.lseq == q.lseq) then s
  else State.drainGl 257 (s.setLink l { k with rxHeld := k.rxHeld ++ [q] }) l

section
variable {q : GlPacket}

theorem glReceive_open {ok : Bool} (h1 : (s.link l).up = true) (h2 : (s.link l).heldFrames = []) : s.glReceive l q ok =
    if !ok then s.setLink l { (s.link l).answer false q.lseq with glrxbad := (s.link l).glrxbad + 1 } else glCounted s l q :=
  if_neg (by rw [h1, h2]; decide)

/-- A packet accepted before is behind the next one by half the numbers or less. -/
theorem glCounted_before (h : seqGe q.lseq (s.link l).rxNext = false) :
    glCounted s l q = s.setLink l ((s.link l).answer true q.lseq) := by
  have hd : 2 ^ 31 ≤ (q.lseq - (s.link l).rxNext).toNat := Nat.not_lt.1 (of_decide_eq_false h)
  exact (if_pos (Nat.le_trans (by decide) hd)).trans (if_neg (by rw [h]; decide))

theorem glCounted_window (h1 : (q.lseq - (s.link l).rxNext).toNat < 256) (h2 : ∀ x ∈ (s.link l).rxHeld, x.lseq ≠ q.lseq) :
    glCounted s l q = State.drainGl 257 (s.setLink l { s.link l with rxHeld := (s.link l).rxHeld ++ [q] }) l := by
  refine (if_neg (Nat.not_le.2 h1)).trans (if_neg fun h => ?_)
  obtain ⟨x, hx, he⟩ := List.any_eq_true.1 h
  exact h2 x hx (eq_of_beq he)

end

/-! ### Copies for another module, and acknowledgements -/

/-- A remote copy that is done: its answer goes back, and its entry ends with its last part. -/
noncomputable def remoteAnswered (s : State) (l i : Nat) (c : RCopy) : State :=
  let k := s.link l
  let q : GlPacket := { glAnswer s.modid (glOf c.smod { Packet.zero with sch := c.sch, sep := c.sep, asid := c.asid } ⟨0, 0, 0, 0⟩)
    c.key 0 [⟨c.crc ^^^ 0xFFFFFFFF, true⟩, ⟨BitVec.ofNat 32 c.count, true⟩, ⟨c.sts.zeroExtend 32, true⟩]
    (some ⟨c.cmd, 0, []⟩) with lseq := 0 }
  ((s.landWrites (farCmd l c.smod c.cmd)).setLink l
    { k with rcopies := if c.eom then listDel k.rcopies i else listSet k.rcopies i { c with answered := true } }).glReply l q

noncomputable def remoteAt (s : State) (l i : Nat) : Option RCopy → State
  | none => s
  | some c => if c.answered || (!c.eom && c.sts == 0) then s else remoteAnswered s l i c

theorem remoteDone_eq (s : State) (l i : Nat) : s.remoteDone l i = remoteAt s l i (s.link l).rcopies[i]? := rfl

theorem remoteDone_ends {i : Nat} {c : RCopy} (h1 : (s.link l).rcopies[i]? = some c) (h2 : c.answered = false)
    (h3 : c.eom = true ∨ c.sts ≠ 0) : s.remoteDone l i = remoteAnswered s l i c := by
  rw [remoteDone_eq, h1]
  refine if_neg ?_
  rcases h3 with h | h
  · rw [h2, h]; exact Bool.false_ne_true
  · rw [h2, beq_eq_false_iff_ne.2 h, Bool.and_false]; decide

/-- An acknowledgement by the packet that it names. -/
noncomputable def ackedAt (s : State) (l : Nat) (heard : GlHeard) : Option GlPacket → State
  | none => s
  | some q => (s.setLink l { s.link l with
      unacked := (s.link l).unacked.filter fun x => x.lseq != heard.lseq
      lack := if seqGe heard.lseq (s.link l).lack then heard.lseq else (s.link l).lack }).glDone q heard.written

theorem glAck_eq (s : State) (l : Nat) (heard : GlHeard) :
    s.glAck l heard = ackedAt s l heard ((s.link l).unacked.find? fun q => q.lseq == heard.lseq) := rfl

/-! ### Lanes and training -/

/-- The link with the failed lanes marked. -/
noncomputable def lanesFailed (k : GlLink) (lanes : W16) : GlLink := { k with flm := k.flm ||| lanes, limited := k.limited || lanes != 0 }

/-- A link one of whose lanes in use failed: it retrains on its other half, or goes down. -/
noncomputable def laneCut (s : State) (l : Nat) (lanes : W16) (cut : Bool) : State :=
  let k := lanesFailed (s.link l) lanes
  let b := { k with glrxbad := if cut then k.glrxbad + 1 else k.glrxbad }
  s.setLink l (if otherHalf k.wid lanes = 0 then b.goDown s.now else { b with state := 3, wid := 0, retrain := some (otherHalf k.wid lanes, s.now) })

theorem laneFailure_eq {near far : W16} {cut : Bool} {lanes : W16} (h : (s.link l).failed near far = lanes) : s.laneFailure l near far cut =
    if !(s.link l).up || (lanes &&& lanesOf (s.link l).wid) == 0 then s.setLink l (lanesFailed (s.link l) lanes)
    else laneCut s l lanes cut := by
  subst h
  rfl

/-- A retry of training by the retraining under way. -/
noncomputable def retryAt (s : State) (l : Nat) : Option (Nat × Int) → State
  | some (_, t) => if t + 60000 < s.now then s.setLink l ((s.link l).goDown s.now) else s
  | none => if (s.link l).state = 0 ∧ s.gateLive l ∧ (s.link l).tryAt ≤ s.now then
      s.setLink l { s.link l with state := 1, tryAt := s.now + 15000000 } else s

theorem execLinkTrainRetry_eq (hl : wfEight l = true) : execLinkTrainRetry l s = .next (retryAt s l (s.link l).retrain) := if_pos hl

theorem retryAt_closed (h1 : (s.link l).state = 0) (h2 : s.gateLive l = true) (h3 : (s.link l).tryAt ≤ s.now) :
    retryAt s l none = .setLink s l { s.link l with state := 1, tryAt := s.now + 15000000 } :=
  if_pos (And.intro h1 ⟨h2, h3⟩)

/-- The end of training, of width `wid`, by the retraining under way. -/
noncomputable def trainedAt (s : State) (l : Nat) (ended : GlTraining) (wid : Nat) : Option (Nat × Int) → State
  | some (h, t) => s.glRetrained l ended (lanesOf h) t h
  | none => if (s.link l).state ≠ 1 || !s.gateLive l then s
    else if wid = 0 then s.setLink l { s.link l with state := 0 } else s.setLink l ((s.link l).comeUp wid)

/-- The width that trained lanes give. -/
noncomputable def widthOf (lanes : W16) (limited : Bool) : Nat :=
  if lanes == 0xFFFF && !limited then 3 else if (lanes &&& 0xFF) == 0xFF then 1 else if (lanes &&& 0xFF00) == 0xFF00 then 2 else 0

theorem glTrained_eq (s : State) (l : Nat) (ended : GlTraining) :
    s.glTrained l ended = trainedAt s l ended (widthOf ended.lanes (s.link l).limited) (s.link l).retrain := rfl

theorem trainedAt_training {ended : GlTraining} {wid : Nat} (h1 : (s.link l).state = 1) (h2 : s.gateLive l = true) (h3 : wid ≠ 0) :
    trainedAt s l ended wid none = s.setLink l ((s.link l).comeUp wid) :=
  (if_neg (by rw [h2, decide_eq_false (not_not.2 h1)]; decide)).trans (if_neg h3)

theorem widthOf_all (limited : Bool) : widthOf 0xFFFF limited = if limited then 1 else 3 := by induction limited <;> rfl

end

end Sys2Proof.Machine

namespace Sys2Proof.Spec
open Machine
set_option Elab.async false

/-- Settles O42: the link's state, and the packet or copy in hand, pick the branch of each step. -/
theorem linkStepsComplete : Obligations.LinkStepsComplete := by
  intro s l i hl k
  refine ⟨?_, ?_, ?_, ?_, ?_, ?_, ?_, ?_, ?_, ?_, ?_⟩
  · intro x h1 h2 h3 h4 q0 c q
    exact onEight_of (f := fun s => s.glClose l i) hl (glClose_closable h1 h2 h3 h4)
  · exact fun q h1 h2 => ⟨onEight_of (f := fun s => s.glReceive l q false) hl ((glReceive_open h1 h2).trans (if_pos rfl)),
      fun h => onEight_of (f := fun s => s.glReceive l q true) hl ((glReceive_open h1 h2).trans ((if_neg (by decide)).trans (glCounted_before h)))⟩
  · exact fun q h1 h2 h3 h4 => onEight_of (f := fun s => s.glReceive l q true) hl
      ((glReceive_open h1 h2).trans ((if_neg (by decide)).trans (glCounted_window h3 h4)))
  · intro c h1 h2 h3 far q rest
    exact onEight_of (f := fun s => s.remoteDone l i) hl (remoteDone_ends h1 h2 h3)
  · intro lseq q h
    refine ⟨fun written => onEight_of (f := fun s => s.glAck l ⟨lseq, written⟩) hl ?_, ?_⟩
    · rw [glAck_eq, show (s.link l).unacked.find? (fun q => q.lseq == lseq) = some q from h]; rfl
    · have hany : (s.link l).unacked.any (fun q => q.lseq == lseq) = true :=
        List.any_eq_true.2 (Exists.intro q ⟨List.mem_of_find?_eq_some h, List.find?_some (p := fun q : GlPacket => q.lseq == lseq) h⟩)
      exact onEight_of hl (if_pos hany)
  · exact fun stream asid fseq cmp b h1 h2 => onEight_of hl (if_neg (by rw [show (s.link l).up = true from h1, show (s.link l).heldFrames = [] from h2]; decide))
  · intro near far cut lanes f b
    have hf := laneFailure_eq (s := s) (l := l) (near := near) (far := far) (cut := cut) (lanes := lanes) rfl
    have hx {t : State} (h : s.laneFailure l near far cut = t) : exec (.laneFailure l near far cut) s = .next t :=
      onEight_of (f := fun s => s.laneFailure l near far cut) hl h
    have hin (hu : k.up = true) (hn : lanes &&& lanesOf k.wid ≠ 0) : ¬(!(s.link l).up || (lanes &&& lanesOf (s.link l).wid) == 0) = true := by
      rw [show (s.link l).up = true from hu, beq_eq_false_iff_ne.2 (show lanes &&& lanesOf (s.link l).wid ≠ 0 from hn)]; decide
    refine ⟨fun h => hx (hf.trans (if_pos ?_)), fun hu hn ho => hx (hf.trans ((if_neg (hin hu hn)).trans ?_)),
      fun hu hn ho => hx (hf.trans ((if_neg (hin hu hn)).trans ?_))⟩
    · rcases h with h | h
      · rw [show (s.link l).up = false from h]; rfl
      · rw [show lanes &&& lanesOf (s.link l).wid = 0 from h]; exact Bool.or_true _
    · exact congrArg (s.setLink l) (if_pos ho)
    · exact congrArg (s.setLink l) (if_neg ho)
  · intro h1 h2 h3 h4
    exact (execLinkTrainRetry_eq hl).trans (congrArg Host.Outcome.next ((congrArg (retryAt s l) h1).trans (retryAt_closed h2 h3 h4)))
  · intro heard h1 h2 h3
    refine onEight_of (f := fun s => s.glTrained l ⟨0xFFFF, heard⟩) hl ?_
    rw [glTrained_eq, show (s.link l).retrain = none from h1, widthOf_all]
    exact trainedAt_training h2 h3 (by induction (s.link l).limited <;> decide)
  · intro h t hr
    have hr : (s.link l).retrain = some (h, t) := hr
    refine ⟨fun hn => ?_, fun lanes heard hn => onEight_of (f := fun s => s.glTrained l ⟨lanes, heard⟩) hl ?_, ?_⟩
    · refine (execLinkTrainRetry_eq hl).trans (congrArg Host.Outcome.next ?_)
      rw [hr]; exact if_pos hn
    · rw [glTrained_eq, hr]; exact if_pos hn
    · intro lanes la written h1 h2 done left
      refine onEight_of (f := fun s => s.glTrained l ⟨lanes, ⟨la, written⟩⟩) hl ?_
      rw [glTrained_eq, hr]
      exact if_neg (not_or.2 ⟨not_not.2 h1, Int.not_lt.2 h2⟩)
  · intro h1 h2 h3 u
    refine onEight_of (f := fun s => s.linkLost l) hl (if_neg ?_)
    rw [show (s.link l).up = false from h1, show (s.link l).lost = false from h2, decide_eq_false (Int.not_lt.2 h3)]; decide

end Sys2Proof.Spec
end

section
/-! PROOFS. Clocks, buckets, ramps, gating and the budget (R364 to R373), telemetry and shedding (R375 to R382). -/

namespace Sys2Proof.Machine
open Sys2Proof.Spec
set_option Elab.async false

theorem onCluster_of {m : Nat} {s t : State} {f : State → State} (h : wfCluster m = true) (hf : f s = t) : onCluster m s f = .next t :=
  (if_pos h).trans (congrArg Host.Outcome.next hf)

section
variable {s : State} {g m : Nat}

/-! ### Clocks and gating -/

/-- The end of a hop, by what stands among the hops. -/
noncomputable def hopEnded (s : State) (g : Nat) : Option (Nat × Nat) → State
  | none => s
  | some h => (s.modChip (g / 64) fun k => { k with hops := k.hops.filter fun h => h.1 != g }).modCore g fun c => c.setFclk h.2

theorem clockHop_eq (h : (s.chip (g / 64)).droop = false) :
    s.clockHop g = hopEnded s g ((s.chip (g / 64)).hops.find? fun h => h.1 == g) := if_neg (by rw [h]; decide)

/-- The end of a hold, by the core's gate. -/
noncomputable def holdEnded (s : State) (g : Nat) : Gate → State
  | .running => s.modCore g fun c => c.noteIdle s.now
  | .holding t => if (s.core g).idle && decide (t + (s.core g).gateHold.toNat * 1500 ≤ s.now) then
      s.setCore g { s.core g with gate := .gated } else s
  | _ => s

theorem execHoldExpiry_eq (h : wfCore g = true) : execHoldExpiry g s = .next (holdEnded s g (s.core g).gate) := if_pos h

/-- A request to wake, by the core's gate. -/
noncomputable def woken (s : State) (g : Nat) : Gate → State
  | .running => s
  | .holding _ => s.modCore g fun c => { c with gate := .running }
  | .gated => (s.modCore g fun c => { c with gate := .waking none }).setPwr (clusterOfCore g) { s.pwr (clusterOfCore g) with
      wakes := if (s.pwr (clusterOfCore g)).wakes.contains (g % 16) then (s.pwr (clusterOfCore g)).wakes
        else (s.pwr (clusterOfCore g)).wakes ++ [g % 16] }
  | .waking _ => s

theorem wake_eq (s : State) (g : Nat) : s.wake g = woken s g (s.core g).gate := rfl

/-- The end of waking, by the core's gate. -/
noncomputable def wakeEnded (s : State) (g : Nat) : Gate → State
  | .waking (some t) => if t + 375 ≤ s.now then (s.modCore g fun c => { c with gate := .running }).noteWaits g else s
  | _ => s

theorem execWakeComplete_eq (h : wfCore g = true) : execWakeComplete g s = .next (wakeEnded s g (s.core g).gate) := if_pos h

/-! ### Ramps -/

/-- A window of a ramp ends after `burn` burn cycles that took k times W4 units. -/
noncomputable def rampTo (s : State) (m k burn left : Nat) (thr : W32) : State :=
  let x := s.mxe m
  let p := s.pwr m
  (s.setPwr m { p with bucket := p.bucket - k * (p.cbwt.extractLsb' 32 8).toNat, thrrsn := thr }).setMxe m { x with
    actPrev := x.act + burn, act := 0, burn := left, rampAt := s.now / 1500 * 1500 + 1500 }

/-- How often n times w4 units can be taken from a bucket. -/
noncomputable def rampTimes (n w4 bucket : Nat) : Nat := if w4 = 0 then n else min n (bucket / w4)

theorem rampTimes_all {n w4 bucket : Nat} (h : n * w4 ≤ bucket) : rampTimes n w4 bucket = n := by
  unfold rampTimes
  split
  · rfl
  · exact Nat.min_eq_left ((Nat.le_div_iff_mul_le (Nat.pos_of_ne_zero ‹_›)).2 h)

theorem rampTimes_short {n w4 bucket : Nat} (h : bucket < n * w4) : rampTimes n w4 bucket = bucket / w4 ∧ bucket / w4 < n := by
  have h0 : w4 ≠ 0 := fun h0 => by rw [h0] at h; exact Nat.not_lt_zero _ h
  have hl := (Nat.div_lt_iff_lt_mul (Nat.pos_of_ne_zero h0)).2 h
  exact ⟨(if_neg h0).trans (Nat.min_eq_right (Nat.le_of_lt hl)), hl⟩

/-- A ramp's window that asks for `want` burn cycles, which take n times W4 units, of which the bucket pays k times. -/
noncomputable def rampBurnt (s : State) (m want n k : Nat) : State :=
  rampTo s m k (want - min want (32 * (n - k))) ((s.mxe m).burn + (want - min want (32 * (n - k))) - 32 * k)
    ((s.pwr m).thrrsn ||| (if want = 0 then 0 else 0x404) ||| (if k < n then 0x202 else 0))

theorem rampWindow_eq (h : (s.mxe m).rampAt ≤ s.now) (want : Nat) (hw : (s.mxe m).actPrev - s.fallOf (s.mxe m) - (s.mxe m).act = want) :
    s.rampWindow m = rampBurnt s m want (((s.mxe m).burn + want) / 32)
      (rampTimes (((s.mxe m).burn + want) / 32) ((s.pwr m).cbwt.extractLsb' 32 8).toNat (s.pwr m).bucket) := by
  subst hw
  exact if_neg (Nat.not_lt.2 h)

theorem rampBurnt_all {want : Nat} : rampBurnt s m want (((s.mxe m).burn + want) / 32) (((s.mxe m).burn + want) / 32) =
    rampTo s m (((s.mxe m).burn + want) / 32) want (((s.mxe m).burn + want) % 32)
      (if want = 0 then (s.pwr m).thrrsn else (s.pwr m).thrrsn ||| 0x404) := by
  have h0 (x : W32) : x ||| 0 = x := BitVec.or_zero
  unfold rampBurnt
  rw [Nat.sub_self, Nat.mul_zero, Nat.min_zero, Nat.sub_zero, if_neg (Nat.lt_irrefl _), ← Nat.mod_eq_sub_mul_div, h0]
  refine congrArg (rampTo s m _ _ _) ?_
  by_cases hw : want = 0
  · rw [if_pos hw, if_pos hw, h0]
  · rw [if_neg hw, if_neg hw]

theorem rampBurnt_short {want n k : Nat} (h : k < n) : rampBurnt s m want n k =
    rampTo s m k (want - min want (32 * (n - k))) ((s.mxe m).burn + (want - min want (32 * (n - k))) - 32 * k)
      ((s.pwr m).thrrsn ||| (if want = 0 then 0 else 0x404) ||| 0x202) :=
  congrArg (fun x => rampTo s m k (want - min want (32 * (n - k))) ((s.mxe m).burn + (want - min want (32 * (n - k))) - 32 * k)
    ((s.pwr m).thrrsn ||| (if want = 0 then 0 else 0x404) ||| x)) (if_pos h)

end

/-! ### Grants -/

theorem totalOf_cons (d : Demand) (l : List Demand) : totalOf (d :: l) = d.w + totalOf l := List.sum_cons

theorem totalOf_scale (cap t : Nat) (l : List Demand) :
    totalOf (l.map fun d => if true = true then { d with w := d.w * cap / t } else d) ≤ totalOf l * cap / t := by
  induction l with
  | nil => exact Nat.zero_le _
  | cons d l ih =>
    rw [List.map_cons, totalOf_cons, totalOf_cons, Nat.add_mul]
    exact (Nat.add_le_add_left ih _).trans Nat.div_add_div_le_add_div

theorem totalOf_scaleTo (cap : Nat) (l : List Demand) : totalOf (scaleTo cap (fun _ => true) l) ≤ cap := by
  have hf : l.filter (fun _ => true) = l := List.filter_true l
  unfold scaleTo
  rw [hf]
  by_cases h : totalOf l ≤ cap
  · exact (if_pos h).symm ▸ h
  · have ht := Nat.zero_lt_of_lt (Nat.not_le.1 h)
    refine (if_neg h).symm ▸ (totalOf_scale cap _ l).trans ?_
    rw [Nat.mul_div_cancel_left _ ht]

theorem totalOf_zip_le : ∀ a b : List Demand, totalOf ((a.zip b).map fun x => { x.1 with w := x.1.w + x.2.w }) ≤ totalOf a + totalOf b
  | [], _ => Nat.zero_le _
  | _ :: _, [] => Nat.zero_le _
  | x :: a, y :: b => by
    rw [List.zip_cons_cons, List.map_cons, totalOf_cons, totalOf_cons, totalOf_cons, Nat.add_add_add_comm]
    exact Nat.add_le_add_left (totalOf_zip_le a b) _

/-- The first grants keep within what there is, and the rest within what they leave. -/
theorem totalOf_grants (s : State) (avail : Nat) (l : List Demand) : totalOf (s.grants avail l) ≤ avail := by
  refine (totalOf_zip_le _ _).trans ((Nat.add_le_add_left (totalOf_scaleTo _ _) _).trans ?_)
  exact Nat.le_of_eq (Nat.add_sub_cancel' (totalOf_scaleTo avail _))

/-! ### Bellman and notices -/

section
variable {s : State}

/-- A class's restore, by since when its condition has held. -/
noncomputable def restoredAt (s : State) (c : Nat) : Option Nat → State
  | none => s
  | some t =>
    let b := s.bell
    if c < 8 ∧ b.shed.getLsbD c ∧ t + shcRhold (b.cls c) * 1500000 ≤ s.now then
      State.sendNotice { s with bell := { b with shed := b.shed &&& ~~~BitVec.ofNat 8 (2 ^ c), hold := b.hold.set! c none } } b
    else s

theorem restoreClass_eq (s : State) (c : Nat) : s.restoreClass c = restoredAt s c (s.bell.hold.getD c none) := rfl

/-- The notice x, the oldest of those on their way to router n. -/
noncomputable def noticeReached (s : State) (n : Nat) (x : Notice) (l : List Notice) : State :=
  let old := (s.chip n).notice
  let gs := (s.cores.filter fun (y : Nat × Core) => y.1 / 64 == n).map (·.1)
  let s := s.modChip n fun k => { k with
    notice := x, noticeIn := l
    shedAt := Vector.ofFn fun c => if x.shm.getLsbD c.val && !old.shm.getLsbD c.val then x.t0 else k.shedAt.getD c.val 0 }
  let s := gs.foldl (fun t g => t.modCore g fun c => c.noticed x.shm) s
  let s := s.regions.foldl (fun t (y : Nat × Region) => t.shedReport n old x (BitVec.ofNat 16 y.1) y.2) s
  let s := if n = Config.carillonRoot then { s with bell := s.bell.endFall x } else s
  let s := [0, 1, 2, 3].foldl (fun t c => t.engineClock (4 * n + c) (t.pwr (4 * n + c)).engClk) s
  gs.foldl (fun t g => (t.stopClock g).noteWaits g) s

noncomputable def noticedAt (s : State) (n : Nat) : List Notice → State
  | [] => s
  | x :: l => noticeReached s n x l

theorem shedNotice_eq (s : State) (n : Nat) : s.shedNotice n = noticedAt s n (s.chip n).noticeIn := rfl

end

end Sys2Proof.Machine

namespace Sys2Proof.Spec
open Machine
set_option Elab.async false

/-- Settles O51: what stands in the core, cluster or module controller in hand picks the branch of each step. -/
theorem powerStepsComplete : Obligations.PowerStepsComplete := by
  refine ⟨fun s n g m => ⟨fun hn => ⟨if_pos hn, if_pos hn⟩, ?_, ?_, totalOf_grants s, ?_⟩, fun s => ⟨?_, ?_, ?_, ?_, ?_, ?_⟩⟩
  · intro hg c
    refine ⟨?_, ?_, ?_, ?_⟩
    · intro f h1 h2
      refine onCore_of (f := fun s => s.clockHop g) hg ((clockHop_eq h1).trans ?_)
      rw [h2]; rfl
    · intro t h1 h2 h3
      rw [show exec (.holdExpiry g) s = .next (holdEnded s g (s.core g).gate) from execHoldExpiry_eq hg, show (s.core g).gate = _ from h1]
      exact congrArg Host.Outcome.next (if_pos (and_true_of h2 (decide_eq_true h3)))
    · intro h p
      refine onCore_of (f := fun s => s.wake g) hg ((wake_eq s g).trans ?_)
      exact congrArg (woken s g) h
    · intro t h1 h2
      refine (execWakeComplete_eq hg).trans (congrArg Host.Outcome.next ((congrArg (wakeEnded s g) h1).trans (if_pos h2)))
  · intro hm p x
    refine ⟨?_, ?_, ?_⟩
    · exact fun h => onCluster_of hm (if_neg (Nat.not_lt.2 h))
    · intro h want w4
      have he {t : State} (ht : s.rampWindow m = t) : exec (.rampWindow m) s = .next t := onCluster_of (f := fun s => s.rampWindow m) hm ht
      refine ⟨fun hb => he ?_, fun hb => he ?_⟩
      · rw [rampWindow_eq h want rfl, rampTimes_all hb]; exact rampBurnt_all
      · obtain ⟨ht, hl⟩ := rampTimes_short hb
        rw [rampWindow_eq h want rfl, ht]; exact rampBurnt_short hl
    · exact fun h => onCluster_of (f := fun s => s.inrush m) hm (if_neg (Nat.not_lt.2 h))
  · exact fun h seen clocks rates hot => congrArg Host.Outcome.next (if_neg (Nat.not_lt.2 h))
  · refine fun b h => ⟨fun hm => ?_, fun hm => ?_⟩
    · exact congrArg Host.Outcome.next ((if_neg (by rw [h]; decide)).trans (if_pos (by rw [hm]; decide)))
    · exact congrArg Host.Outcome.next ((if_neg (by rw [h]; decide)).trans (if_neg (by rw [hm]; decide)))
  · exact fun b h => congrArg Host.Outcome.next (if_pos (by rw [h]; decide))
  · exact fun h1 h2 => congrArg Host.Outcome.next (if_pos (and_true_of (by rw [h1]; decide) (decide_eq_true h2)))
  · exact fun h1 h2 h3 h4 => congrArg Host.Outcome.next (if_pos (and_true_of (and_true_of (and_true_of h1 h2) (by rw [h3]; decide)) (decide_eq_true h4)))
  · intro c t h1 h2 h3 h4
    exact congrArg Host.Outcome.next ((congrArg (restoredAt s c) h2).trans (if_pos ⟨h1, h3, h4⟩))
  · intro n x l hn h
    refine onSite_of (f := fun s => s.shedNotice n) hn ((shedNotice_eq s n).trans ?_)
    rw [h]; rfl

end Sys2Proof.Spec
end

section
/-! PROOFS. Network interfaces, routers and the side mesh (R246 to R259, R444). -/

namespace Sys2Proof.Machine
open Sys2Proof.Spec
set_option Elab.async false

section
variable {s : State} {n i : Nat}

/-! ### Sending -/

/-- A packet that was coded and sent, by what injects it. -/
noncomputable def sentAt (s : State) (n : Nat) (src : Option Nat) (p0 p q : Packet) : Option State → State
  | none => s
  | some t => ((t.unqueue n src p0).setOutFlow n q.dch q.cls { s.outFlow n p.dch p.cls with next := (s.outFlow n p.dch p.cls).next + 1 }).modChip n
      fun k => { k with retained := k.retained ++ [⟨q, s.now, none, false⟩], nitx := k.nitx + 1 }

/-- The next packet of a flow: it waits for the flow's window, or is coded and sent. -/
noncomputable def sendNext (s : State) (n : Nat) (src : Option Nat) (p0 p : Packet) : State :=
  let f := s.outFlow n p.dch p.cls
  if 1024 ≤ (s.chip n).retained.length || decide (64 ≤ (f.next - f.oldest).toNat) then s
  else
    match s.codePacket n (withRoute { p with seq := f.next, stamp := s.now % 2 ^ 48 } (s.nselOf n p.dch)) with
    | (q, t) => sentAt s n src p0 p q (t.inject n q)

theorem codePacket_flow (s : State) (n : Nat) (p : Packet) :
    (s.codePacket n p).1.dch = p.dch ∧ (s.codePacket n p).1.cls = p.cls := by
  unfold State.codePacket
  split
  · exact ⟨rfl, rfl⟩
  · dsimp only
    split <;> exact ⟨rfl, rfl⟩

/-- A waiting packet, by what its destination resolves to. -/
noncomputable def sendTo (s : State) (n i : Nat) (src : Option Nat) (p0 : Packet) : Option Packet → State
  | none => (s.unqueue n src p0).refusePacket .relay p0
  | some p =>
    if !s.firstOfFlow n i src p then s
    else if !nselV (s.nselOf n p.dch) || (s.outFlow n p.dch p.cls).refused then (s.unqueue n src p0).refusePacket .relay p
    else sendNext s n src p0 p

noncomputable def sendFrom (s : State) (n i : Nat) : Option (Option Nat × Packet) → State
  | none => s
  | some (src, p0) => sendTo s n i src p0 ((s.chip n).resolve p0)

theorem packetSend_eq (s : State) (n i : Nat) :
    s.packetSend n i = sendFrom s n i (if s.siteDown n then none else (s.waiting n)[i]?) := rfl

theorem packetSend_first {src : Option Nat} {p0 p : Packet} (h1 : s.siteDown n = false) (h2 : (s.waiting n)[i]? = some (src, p0))
    (h3 : (s.chip n).resolve p0 = some p) (h4 : s.firstOfFlow n i src p = true) : s.packetSend n i =
    if !nselV (s.nselOf n p.dch) || (s.outFlow n p.dch p.cls).refused then (s.unqueue n src p0).refusePacket .relay p
    else sendNext s n src p0 p := by
  rw [packetSend_eq, if_neg (by rw [h1]; decide), h2]
  refine (congrArg (sendTo s n i src p0) h3).trans (if_neg ?_)
  rw [h4]; decide

/-! ### Arrivals -/

/-- A header that the router x passes on, by the buffer that takes it. -/
noncomputable def portTaken (u rest : State) (l : List Flight) (i x port : Nat) (p q : Packet) : Option Bool → State
  | some b => { u with flights := listSet l i ⟨q, x, port, b⟩ }
  | none => rest.nack x 1 p

/-- The header of flight i moves to the router x. -/
noncomputable def headerTo (u : State) (l : List Flight) (i : Nat) (f : Flight) (x : Nat) : State :=
  let p := f.pkt
  let rest := { u with flights := listDel l i }
  if u.routerOff x then rest
  else
    let relay := p.rly && x == p.rch
    let q := if relay then { p with rly := false, ms := p.ms2 } else p
    let port := if relay then 5 else inPort f.site x
    portTaken u rest l i x port p q (rest.portTake x q.ms port (if relay then 2 else 4) q.aged)

noncomputable def headerAt (s : State) (i : Nat) : Option Flight → State
  | none => s
  | some f => if f.site = legEnd f.pkt || s.yields f then s
    else headerTo (s.served f) (s.served f).flights i f (nextSite f.pkt.ms f.site (legEnd f.pkt))

theorem served_flights (s : State) (f : Flight) : (s.served f).flights = s.flights := by
  unfold State.served
  split <;> rfl

theorem headerArrival_moves {f : Flight} (h1 : s.flights[i]? = some f) (h2 : f.site ≠ legEnd f.pkt) (h3 : s.yields f = false) :
    s.headerArrival i = headerTo (s.served f) s.flights i f (nextSite f.pkt.ms f.site (legEnd f.pkt)) := by
  rw [← served_flights s f]
  refine (show s.headerArrival i = headerAt s i s.flights[i]? from rfl).trans ((congrArg (headerAt s i) h1).trans (if_neg ?_))
  rw [h3, decide_eq_false h2]; decide

/-- A side-mesh flit, by what stands at its place. -/
noncomputable def flitAt (s : State) (i : Nat) : Option SideFlit → State
  | none => s
  | some f =>
    let gone := { s with flits := listDel s.flits i }
    if !f.rv && f.site == f.tch then gone.modChip f.tch fun k => { k with answers := k.answers ++ [f] }
    else if f.rv && f.site == f.rch then { s with flits := listSet s.flits i { f with rv := false, ms := f.ms2 } }
    else
      let x := nextSite f.ms f.site (if f.rv then f.rch else f.tch)
      if s.routerOff x then gone else { s with flits := listSet s.flits i { f with site := x } }

theorem flitStep_at {f : SideFlit} (h : s.flits[i]? = some f) : s.flitStep i = flitAt s i (some f) :=
  (show s.flitStep i = flitAt s i s.flits[i]? from rfl).trans (congrArg (flitAt s i) h)

/-- A flit not yet where its leg ends neither arrives nor turns. -/
theorem flit_at_leg_end {f : SideFlit} (h : f.site ≠ if f.rv then f.rch else f.tch) :
    ¬(!f.rv && f.site == f.tch) = true ∧ ¬(f.rv && f.site == f.rch) = true := by
  induction hr : f.rv
  · rw [hr, if_neg Bool.false_ne_true] at h
    rw [beq_eq_false_iff_ne.2 h]; exact ⟨Bool.false_ne_true, Bool.false_ne_true⟩
  · rw [hr, if_pos rfl] at h
    rw [beq_eq_false_iff_ne.2 h]; exact ⟨Bool.false_ne_true, Bool.false_ne_true⟩

/-! ### Acceptance -/

/-- A packet handed over, or held until its turn, at window w, d places past the next. -/
noncomputable def landed (s : State) (n r d : Nat) (w : InFlow) (p : Packet) : State :=
  let o := InFlow.advance 64 { w with
    seen := w.seen ||| BitVec.ofNat 64 (2 ^ d), held := if orderedFlow p then w.held ++ [(r, p)] else w.held }
  ((if orderedFlow p then [] else [(r, p)]) ++ o.1).foldl (fun t x => t.handOver n x) ((s.ack n p).setInFlow n p.sch p.cls o.2)

/-- A packet by what is reserved for it. -/
noncomputable def reservedAt (n d : Nat) (w : InFlow) (p : Packet) : Option Nat × State → State
  | (none, t) => t.nack n 4 p
  | (some r, t) => landed t n r d w p

/-- An undamaged packet d places past the next of its window. -/
noncomputable def acceptAt (s : State) (n d : Nat) (p : Packet) : State :=
  let w := s.inFlow n p.sch p.cls
  if 64 ≤ d || w.seen.getLsbD d then s.ack n p
  else if !s.landFree n p then s.nack n 2 p
  else reservedAt n d w p (s.reserve n (orderedFlow p && d != 0) p)

/-- A packet that came whole, by its checks. -/
theorem accept247_eq (s : State) (n : Nat) (hcrc pcrc : Bool) (p : Packet) : s.accept247 n hcrc pcrc p =
    if !hcrc || (s.chip n).peal != 6 then s else if !pcrc || !codeOk p then s.nack n 3 p
    else acceptAt s n (p.seq - (s.inFlow n p.sch p.cls).next).toNat p := rfl

section
variable {p : Packet} {hcrc pcrc : Bool}

theorem accept247_off (h : hcrc = false ∨ (s.chip n).peal ≠ 6) : s.accept247 n hcrc pcrc p = s := by
  refine (accept247_eq s n hcrc pcrc p).trans (if_pos ?_)
  rcases h with h | h
  · rw [h]; rfl
  · rw [bne_iff_ne.2 h]; exact Bool.or_true _

theorem accept247_on (h : hcrc = true) (hp : (s.chip n).peal = 6) : s.accept247 n hcrc pcrc p =
    if !pcrc || !codeOk p then s.nack n 3 p else acceptAt s n (p.seq - (s.inFlow n p.sch p.cls).next).toNat p :=
  (accept247_eq s n hcrc pcrc p).trans (if_neg (by rw [h, hp]; decide))

theorem accept247_damaged (h : hcrc = true) (hp : (s.chip n).peal = 6) (hd : pcrc = false ∨ codeOk p = false) :
    s.accept247 n hcrc pcrc p = s.nack n 3 p := by
  refine (accept247_on h hp).trans (if_pos ?_)
  rcases hd with hd | hd
  · rw [hd]; rfl
  · rw [hd]; exact Bool.or_true _

theorem accept247_whole (h : hcrc = true) (hp : (s.chip n).peal = 6) (h1 : pcrc = true) (h2 : codeOk p = true) :
    s.accept247 n hcrc pcrc p = acceptAt s n (p.seq - (s.inFlow n p.sch p.cls).next).toNat p :=
  (accept247_on h hp).trans (if_neg (by rw [h1, h2]; decide))

theorem acceptAt_again {d : Nat} (h : 64 ≤ d ∨ (s.inFlow n p.sch p.cls).seen.getLsbD d = true) : acceptAt s n d p = s.ack n p := by
  refine if_pos ?_
  rcases h with h | h
  · rw [decide_eq_true h]; rfl
  · rw [h]; exact Bool.or_true _

theorem acceptAt_new {d : Nat} (h1 : d < 64) (h2 : (s.inFlow n p.sch p.cls).seen.getLsbD d = false) : acceptAt s n d p =
    if !s.landFree n p then s.nack n 2 p else reservedAt n d (s.inFlow n p.sch p.cls) p (s.reserve n (orderedFlow p && d != 0) p) :=
  if_neg (by rw [h2, decide_eq_false (Nat.not_le.2 h1)]; decide)

theorem acceptAt_reserves {d : Nat} (h1 : d < 64) (h2 : (s.inFlow n p.sch p.cls).seen.getLsbD d = false) (h3 : s.landFree n p = true)
    {x : Option Nat × State} (h4 : s.reserve n (orderedFlow p && d != 0) p = x) :
    acceptAt s n d p = reservedAt n d (s.inFlow n p.sch p.cls) p x :=
  (acceptAt_new h1 h2).trans ((if_neg (by rw [h3]; decide)).trans (congrArg _ h4))

end

/-- The packet of a flight that its port serves, at its destination. -/
noncomputable def acceptFlight (s : State) (i : Nat) (hcrc pcrc : Bool) : Option Flight → Out
  | none => .next s
  | some f =>
    if f.pkt.rly || f.site != f.pkt.dch || (!f.direct && s.yields f) then .next s
    else .next (State.accept247 { (if f.direct then s else s.served f) with flights := listDel s.flights i } f.site hcrc pcrc f.pkt)

theorem execPacketAccept_serves {hcrc pcrc : Bool} {f : Flight} (h1 : s.flights[i]? = some f) (h2 : f.pkt.rly = false)
    (h3 : f.site = f.pkt.dch) (h4 : f.direct = true ∨ s.yields f = false) : execPacketAccept i hcrc pcrc s =
    .next (State.accept247 { (if f.direct then s else s.served f) with flights := listDel s.flights i } f.site hcrc pcrc f.pkt) := by
  refine (show execPacketAccept i hcrc pcrc s = acceptFlight s i hcrc pcrc s.flights[i]? from rfl).trans
    ((congrArg (acceptFlight s i hcrc pcrc) h1).trans (if_neg ?_))
  have hy : (!f.direct && s.yields f) = false := by
    rcases h4 with h | h
    · rw [h]; rfl
    · rw [h]; exact Bool.and_false _
  rw [h2, hy, bne_eq_false_iff_eq.2 h3]; decide

/-! ### Answers and resends -/

/-- An ACK, by the retained copy it speaks of. -/
noncomputable def ackedBy (t : State) (n : Nat) : Option Retained → State
  | none => t
  | some r => t.freeRetained n r

noncomputable def ackTaken (s : State) (n : Nat) : Option (SideFlit × State) → State
  | none => s
  | some (x, t) => ackedBy t n ((t.chip n).retained.find? fun r => r.isOf x)

theorem ackArrive_frees {x : SideFlit} {t : State} {r : Retained} (h1 : s.takeAnswer n 0 = some (x, t))
    (h2 : (t.chip n).retained.find? (fun r => r.isOf x) = some r) : s.ackArrive n = t.freeRetained n r :=
  (show s.ackArrive n = ackTaken s n (s.takeAnswer n 0) from rfl).trans ((congrArg (ackTaken s n) h1).trans (congrArg (ackedBy t n) h2))

/-- A NACK of the retained copy in place i. -/
noncomputable def nackedCopy (u : State) (n i : Nat) (x : SideFlit) : Option Retained → State
  | none => u
  | some r =>
    let q := r.nacked u.now x.cause
    (if x.cause = 4 then u.holdFrame n r.pkt true else u).modChip n fun k => { k with
      retained := listSet k.retained i q
      niaged := if q.pkt.aged && !r.pkt.aged then k.niaged + 1 else k.niaged }

noncomputable def nackedBy (u : State) (n : Nat) (x : SideFlit) : Option Nat → State
  | none => u
  | some i => nackedCopy u n i x (u.chip n).retained[i]?

noncomputable def nackTaken (s : State) (n : Nat) : Option (SideFlit × State) → State
  | none => s
  | some (x, t) =>
    let u := t.modChip n fun k => { k with ninack := k.ninack + 1 }
    nackedBy u n x ((u.chip n).retained.findIdx? fun r => r.isOf x)

theorem nackArrive_eq (s : State) (n : Nat) : s.nackArrive n = nackTaken s n (s.takeAnswer n 1) := rfl

/-- A gap notice, by the answer taken. -/
noncomputable def gapTaken (s : State) (n : Nat) : Option (SideFlit × State) → State
  | none => s
  | some (x, t) =>
    let w := t.inFlow n x.pch x.cls.toNat
    let d := (x.seq - w.next).toNat
    if 64 ≤ d || w.seen.getLsbD d then t
    else
      let o := InFlow.advance 64 { w with seen := w.seen ||| BitVec.ofNat 64 (2 ^ d) }
      o.1.foldl (fun t y => t.handOver n y) (t.setInFlow n x.pch x.cls.toNat o.2)

theorem gapNotice_eq (s : State) (n : Nat) : s.gapNotice n = gapTaken s n (s.takeAnswer n 2) := rfl

/-- A resend, by what injects the packet. -/
noncomputable def resentAt (s : State) (n i : Nat) (p : Packet) : Option State → State
  | none => s
  | some t => t.modChip n fun k => { k with retained := listSet k.retained i ⟨p, s.now, none, p.aged⟩, niretx := k.niretx + 1 }

theorem resend_sends {r : Retained} {t : State} (h1 : s.siteDown n = false) (h2 : nselV (s.nselOf n r.pkt.dch) = true)
    (h3 : (s.outFlow n r.pkt.dch r.pkt.cls).refused = false) (h4 : s.inject n (withRoute r.pkt (s.nselOf n r.pkt.dch)) = some t) :
    s.resend n i r = resentAt s n i (withRoute r.pkt (s.nselOf n r.pkt.dch)) (some t) := by
  refine (if_neg (by rw [h1]; decide)).trans ((if_neg (by rw [h2, h3]; decide)).trans ?_)
  exact congrArg (resentAt s n i (withRoute r.pkt (s.nselOf n r.pkt.dch))) h4

noncomputable def delayDue (s : State) (n i : Nat) (r : Retained) : Option Nat → State
  | some t => if t ≤ s.now && !(r.pkt.aged && !r.asAged && decide (4 ≤ (s.chip n).agedOut)) then s.resend n i r else s
  | none => s

noncomputable def delayAt (s : State) (n i : Nat) : Option Retained → State
  | some r => delayDue s n i r r.resendAt
  | none => s

theorem execResendDelayExpiry_due {r : Retained} {due : Nat} (hn : wfSite n = true) (h1 : (s.chip n).retained[i]? = some r)
    (h2 : r.resendAt = some due) (h3 : due ≤ s.now) (h4 : r.pkt.aged = false ∨ r.asAged = true ∨ (s.chip n).agedOut < 4) :
    execResendDelayExpiry n i s = .next (s.resend n i r) := by
  refine onSite_of (f := fun s => delayAt s n i (s.chip n).retained[i]?) hn ((congrArg (delayAt s n i) h1).trans
    ((congrArg (delayDue s n i r) h2).trans (if_pos (and_true_of (decide_eq_true h3) ?_))))
  rcases h4 with h | h | h
  · rw [h]; rfl
  · rw [h, Bool.not_true, Bool.and_false]; rfl
  · rw [decide_eq_false (Nat.not_le.2 h), Bool.and_false]; rfl

noncomputable def timeoutAt (s : State) (n i : Nat) : Option Retained → State
  | some r => if r.resendAt.isNone && decide (r.lastSend + 8192 ≤ s.now) then s.resend n i r else s
  | none => s

theorem execAckTimeout_due {r : Retained} (hn : wfSite n = true) (h1 : (s.chip n).retained[i]? = some r)
    (h2 : r.resendAt = none) (h3 : r.lastSend + 8192 ≤ s.now) : execAckTimeout n i s = .next (s.resend n i r) :=
  onSite_of (f := fun s => timeoutAt s n i (s.chip n).retained[i]?) hn ((congrArg (timeoutAt s n i) h1).trans
    (if_pos (and_true_of (by rw [h2]; rfl) (decide_eq_true h3))))

/-- What follows the loss of a retained copy, once its flow is told. -/
noncomputable def copyLost (t : State) (r : Retained) : State :=
  (t.engLost r.pkt .eccu).report r.pkt.score r.pkt.srid { Report.of 6 FCode.eccu.code with addr := r.pkt.tgt, key := r.pkt.key }

noncomputable def lostAt (s : State) (n : Nat) : Option Retained → State
  | none => s
  | some r =>
    let p := r.pkt
    let t := (s.freeRetained n r).modChip n fun k => { k with eccunc := k.eccunc + 1 }
    copyLost (if nselV (s.nselOf n p.dch) then
        t.sideSend n ⟨2, 0, BitVec.ofNat 3 p.cls, p.dch, 0, p.sch, 0, false, false, false, p.seq, 0⟩
      else t.setOutFlow n p.dch p.cls { t.outFlow n p.dch p.cls with refused := true }) r

theorem retentionError_eq (s : State) (n i : Nat) : s.retentionError n i = lostAt s n (s.chip n).retained[i]? := rfl

end

end Sys2Proof.Machine

namespace Sys2Proof.Spec
open Machine
set_option Elab.async false

/-- Settles O41: the packet, flit or copy in hand, and the unit it stands at, pick the branch of each step. -/
theorem meshStepsComplete : Obligations.MeshStepsComplete := by
  intro s n i hn
  have hsend {t : State} (h : s.packetSend n i = t) : exec (.packetSend n i) s = .next t := onSite_of (f := fun s => s.packetSend n i) hn h
  refine ⟨fun h => hsend ?_, fun src p0 p h1 h2 h3 h4 h5 => hsend ?_, ?_, ?_, ?_, ?_, ?_, ?_, ?_, ?_, ?_⟩
  · exact (packetSend_eq s n i).trans (congrArg (sendFrom s n i) (if_pos h))
  · refine (packetSend_first h1 h2 h3 h4).trans (if_pos ?_)
    rcases h5 with h | h
    · rw [h]; rfl
    · rw [h]; exact Bool.or_true _
  · intro src p0 p t h1 h2 h3 h4 h5 f h6 h7 h8 q h9
    refine hsend ((packetSend_first h1 h2 h3 h4).trans ((if_neg ?_).trans ((if_neg ?_).trans ?_)))
    · rw [h5, show (s.outFlow n p.dch p.cls).refused = false from h6]; decide
    · rw [decide_eq_false (Nat.not_le.2 h7), decide_eq_false (Nat.not_le.2 h8)]; decide
    · obtain ⟨hd, hc⟩ := codePacket_flow s n (withRoute { p with seq := f.next, stamp := s.now % 2 ^ 48 } (s.nselOf n p.dch))
      refine (congrArg (sentAt s n src p0 p q.1) h9).trans ?_
      exact congrArg₂ (fun d c => ((t.unqueue n src p0).setOutFlow n d c { f with next := f.next + 1 }).modChip n
        fun k => { k with retained := k.retained ++ [⟨q.1, s.now, none, false⟩], nitx := k.nitx + 1 }) hd hc
  · intro f h1 h2 h3 p x u rest relay q port
    have hm {t : State} (h : headerTo u s.flights i f x = t) : exec (.headerArrival i) s = .next t :=
      congrArg Host.Outcome.next ((headerArrival_moves h1 h2 h3).trans h)
    exact ⟨fun h => hm (if_pos h), fun h => ⟨fun b hb => hm ((if_neg (ne_true_of_eq_false h)).trans (congrArg (portTaken u rest s.flights i x port p q) hb)),
      fun hb => hm ((if_neg (ne_true_of_eq_false h)).trans (congrArg (portTaken u rest s.flights i x port p q) hb))⟩⟩
  · intro f hcrc pcrc h1 h2 h3 h4 p m u w d
    have ha {t : State} (h : u.accept247 m hcrc pcrc p = t) : exec (.packetAccept i hcrc pcrc) s = .next t :=
      (execPacketAccept_serves h1 h2 h3 h4).trans (congrArg Host.Outcome.next h)
    refine ⟨fun h => ha (accept247_off h), fun h1 h2 h3 => ha (accept247_damaged h1 h2 h3),
      fun h1 h2 h3 h4 h5 => ha ((accept247_whole h1 h2 h3 h4).trans (acceptAt_again h5)),
      fun h1 h2 h3 h4 h5 h6 h7 => ha ((accept247_whole h1 h2 h3 h4).trans ((acceptAt_new h5 h6).trans (if_pos ?_))),
      fun t h1 h2 h3 h4 h5 h6 h7 h8 => ha ((accept247_whole h1 h2 h3 h4).trans (acceptAt_reserves h5 h6 h7 h8)), ?_⟩
    · rw [h7]; rfl
    · intro r t h1 h2 h3 h4 h5 h6 h7 h8 o
      exact ha ((accept247_whole h1 h2 h3 h4).trans (acceptAt_reserves h5 h6 h7 h8))
  · intro f h gone
    have hf {t : State} (ht : flitAt s i (some f) = t) : exec (.sideFlitArrival i) s = .next t :=
      congrArg Host.Outcome.next ((flitStep_at h).trans ht)
    refine ⟨fun h1 h2 => hf (if_pos ?_), fun h1 h2 => hf ((if_neg ?_).trans (if_pos ?_)), ?_⟩
    · rw [h1, beq_iff_eq.2 h2]; rfl
    · rw [h1]; exact Bool.false_ne_true
    · rw [h1, beq_iff_eq.2 h2]; rfl
    · intro h1 x
      exact hf ((if_neg (flit_at_leg_end h1).1).trans (if_neg (flit_at_leg_end h1).2))
  · intro x t r h1 h2
    exact onSite_of (f := fun s => s.ackArrive n) hn (ackArrive_frees h1 h2)
  · intro x t j r h1 u h2 h3 q
    exact onSite_of (f := fun s => s.nackArrive n) hn ((nackArrive_eq s n).trans ((congrArg (nackTaken s n) h1).trans
      ((congrArg (nackedBy u n x) h2).trans (congrArg (nackedCopy u n j x) h3))))
  · intro r h1 h2 h3 h4 t h5 again
    have hr : s.resend n i r = again := resend_sends h1 h3 h4 h5
    exact ⟨fun due h6 h7 h8 => (execResendDelayExpiry_due hn h2 h6 h7 h8).trans (congrArg Host.Outcome.next hr),
      fun h6 h7 => (execAckTimeout_due hn h2 h6 h7).trans (congrArg Host.Outcome.next hr)⟩
  · intro r h1 p t h2
    exact onSite_of (f := fun s => s.retentionError n i) hn ((retentionError_eq s n i).trans ((congrArg (lostAt s n) h1).trans
      (congrArg (fun t => copyLost t r) (if_pos h2))))
  · intro x t h1 w d h2 h3 o
    refine onSite_of (f := fun s => s.gapNotice n) hn ((gapNotice_eq s n).trans ((congrArg (gapTaken s n) h1).trans (if_neg ?_)))
    rw [show (t.inFlow n x.pch x.cls.toNat).seen.getLsbD (x.seq - (t.inFlow n x.pch x.cls.toNat).next).toNat = false from h3,
      decide_eq_false (Nat.not_le.2 h2)]; decide

end Sys2Proof.Spec
end

section
/-! PROOFS. The copy and collective engines (R266 to R290). -/

namespace Sys2Proof.Machine
open Sys2Proof.Spec
set_option Elab.async false

section
variable {s : State} {n i : Nat}

/-! ### Copies -/

/-- A start by the commands that wait in the inbox. -/
noncomputable def copyStartAt (s : State) (n i : Nat) : List CopyCmd → State
  | [] => s
  | c :: l =>
    if s.copyHeld n c then s
    else s.modChip n fun k => { k with
      ceIn := k.ceIn.set! (i % 4) l, ceRun := k.ceRun ++ [CopyRun.start c (i % 4) (c.wellFormed (s.core c.core).spsize) (s.copyCheck n c)] }

theorem copyStart_eq (s : State) (n i : Nat) : s.copyStart n i = copyStartAt s n i ((s.chip n).ceIn.getD (i % 4) []) := rfl

/-- What a step of a copy does, by its transform. -/
noncomputable def copyDoes (u : State) (n : Nat) (r : CopyRun) : Except CopyErr (State × CopyRun) :=
  if r.cmd.head.rmt then u.remoteStep n r
  else if r.cmd.head.xop = 2 then u.packStep r r.stepEnd
  else if r.cmd.head.xop = 3 then u.unpackStep r r.stepEnd
  else if r.cmd.head.xop = 4 then u.convStep r r.stepEnd
  else if r.cmd.head.xop = 5 then .ok (u.dealAll r.stepEnd 65 r)
  else u.plainStep r r.stepEnd

/-- A step's outcome stands in the run. -/
noncomputable def copyPut (u : State) (n i : Nat) (r : CopyRun) : Except CopyErr (State × CopyRun) → State
  | .error e => u.putCopy n i (r.failed e)
  | .ok (t, q) => t.putCopy n i q

noncomputable def copyStepAt (s : State) (n i : Nat) : Option CopyRun → State
  | none => s
  | some r =>
    if r.cmd.op ≠ 0xA8 || r.sts.isSome || s.copyHeld n r.cmd || !r.mayStep ((s.chip n).flowBusy i r) then s
    else if !s.chargeOk (4 * n + r.inbox) 7 then s.chargeWait (4 * n + r.inbox)
    else copyPut (s.charge (4 * n + r.inbox) 7) n i r (copyDoes (s.charge (4 * n + r.inbox) 7) n r)

theorem copyStep_eq (s : State) (n i : Nat) : s.copyStep n i = copyStepAt s n i (s.chip n).ceRun[i]? := rfl

theorem copyPut_failed (u : State) (n i : Nat) (r : CopyRun) (f : Byte) (a : W64) : copyPut u n i r (.error (f, a)) = u.putCopy n i { r with
    sts := some f, addr := a, failing := if r.cmd.head.xop = 2 ∨ r.cmd.head.xop = 3 then r.chunks else 0xFFFF } := by
  have hc : (r.chunked = true) = (r.cmd.head.xop = 2 ∨ r.cmd.head.xop = 3) :=
    propext (Bool.or_eq_true_iff.trans (or_congr beq_iff_eq beq_iff_eq))
  exact congrArg (fun k => u.putCopy n i { r with sts := some f, addr := a, failing := k }) (if_congr hc.to_iff rfl rfl)

/-- What a step inside the module does, by its transform. -/
theorem copyDoes_inside {u : State} {r : CopyRun} (h : r.cmd.head.rmt = false) :
    (r.cmd.head.xop = 0 ∨ r.cmd.head.xop = 1 → copyDoes u n r = u.plainStep r r.stepEnd) ∧
    (r.cmd.head.xop = 2 → copyDoes u n r = u.packStep r r.stepEnd) ∧
    (r.cmd.head.xop = 3 → copyDoes u n r = u.unpackStep r r.stepEnd) ∧
    (r.cmd.head.xop = 4 → copyDoes u n r = u.convStep r r.stepEnd) ∧
    (r.cmd.head.xop = 5 → copyDoes u n r = .ok (u.dealAll r.stepEnd 65 r)) := by
  unfold copyDoes
  rw [if_neg (ne_true_of_eq_false h)]
  generalize r.cmd.head.xop = x
  exact ⟨by rintro (rfl | rfl) <;> rfl, by rintro rfl; rfl, by rintro rfl; rfl, by rintro rfl; rfl, by rintro rfl; rfl⟩

theorem copyStep_does {r : CopyRun} (h1 : (s.chip n).ceRun[i]? = some r) (h2 : r.cmd.op = 0xA8) (h3 : r.sts = none)
    (h4 : s.copyHeld n r.cmd = false) (h5 : r.mayStep ((s.chip n).flowBusy i r) = true) (h6 : s.chargeOk (4 * n + r.inbox) 7 = true)
    {w : Except CopyErr (State × CopyRun)} (hw : copyDoes (s.charge (4 * n + r.inbox) 7) n r = w) :
    s.copyStep n i = copyPut (s.charge (4 * n + r.inbox) 7) n i r w := by
  refine (copyStep_eq s n i).trans ((congrArg (copyStepAt s n i) h1).trans ((if_neg ?_).trans ((if_neg ?_).trans (congrArg _ hw))))
  · rw [h3, h4, h5, decide_eq_false (not_not.2 h2)]; decide
  · rw [h6]; decide

/-- A copy that ends, by whether its follow-on could be dealt with. -/
noncomputable def copyFolAt (s : State) (n i : Nat) (r : CopyRun) : Option (State × Bool) → State × CopyRun
  | none => (s, r)
  | some (s1, foi) => (s1.putCopy n i { r with foi := some foi, cmd := { r.cmd with fol := none } },
      { r with foi := some foi, cmd := { r.cmd with fol := none } })

theorem copyFol_open {r : CopyRun} {ok : Bool} (h : r.foi = none) : s.copyFol n i r ok = copyFolAt s n i r (s.folEnd r ok) :=
  if_neg (by rw [h]; decide)

/-- A copy's record is delivered, or waits. -/
noncomputable def copyRecorded (s1 : State) (n i : Nat) (r : CopyRun) (sts : Byte) (rcd : Record) : Option State → State
  | none => s1
  | some s2 => if quietSts sts then s2.dropCopy n i else (s2.dropCopy n i).reportHalt r.cmd.outst1 r.addr rcd

noncomputable def copyEndAt (n i : Nat) (r : CopyRun) (sts : Byte) (pub : Bool) (x : State × CopyRun) : Option Bool → State
  | none => x.1
  | some foi => copyRecorded x.1 n i r sts (r.record sts pub foi)
      (x.1.deliverRecord r.cmd.outst1 r.cmd.seq r.cmd.asid (0x50 + r.inbox) (r.record sts pub foi))

/-- The state in which a copy that ends has landed and published. -/
noncomputable def copyShown (s : State) (n i : Nat) (r : CopyRun) (pub : Bool) : State :=
  (if pub then r.pubs.foldl (fun t p => t.publish r.cmd.phg r.cmd.core p) (s.copyLanded n r.cmd) else s.copyLanded n r.cmd).putCopy n i
    { r with pubs := [] }

noncomputable def copyEnded (n i : Nat) (r : CopyRun) (sts : Byte) (pub : Bool) (x : State × CopyRun) : State :=
  copyEndAt n i r sts pub x x.2.foi

theorem copyEnd_eq (s : State) (n i : Nat) (r : CopyRun) (sts : Byte) : s.copyEnd n i r sts =
    copyEnded n i r sts (sts == 0 && (r.cmd.op == 0xB2 || r.cmd.head.pub))
      ((copyShown s n i r (sts == 0 && (r.cmd.op == 0xB2 || r.cmd.head.pub))).copyFol n i { r with pubs := [] } (sts == 0)) := rfl

theorem copyEnd_open {r : CopyRun} {sts : Byte} (h : r.foi = none) {x : Option (State × Bool)}
    (hx : (copyShown s n i r (sts == 0 && (r.cmd.op == 0xB2 || r.cmd.head.pub))).folEnd { r with pubs := [] } (sts == 0) = x) :
    s.copyEnd n i r sts = copyEnded n i r sts (sts == 0 && (r.cmd.op == 0xB2 || r.cmd.head.pub))
      (copyFolAt (copyShown s n i r (sts == 0 && (r.cmd.op == 0xB2 || r.cmd.head.pub))) n i { r with pubs := [] } x) := by
  subst hx
  exact (copyEnd_eq s n i r sts).trans (congrArg _ (copyFol_open h))

/-- A run by its status: it ends where its status is as quiet as is asked. -/
noncomputable def runEnds (s : State) (n i : Nat) (r : CopyRun) : Option Byte → State
  | some f => if quietSts f then s.copyEnd n i r f else s
  | none => s

noncomputable def runFaults (s : State) (n i : Nat) (r : CopyRun) : Option Byte → State
  | some f => if quietSts f then s else s.copyEnd n i r f
  | none => s

noncomputable def completeAt (s : State) (n i : Nat) : Option CopyRun → State
  | some r => runEnds s n i r r.ends
  | none => s

noncomputable def faultAt (s : State) (n i : Nat) : Option CopyRun → State
  | some r => runFaults s n i r r.ends
  | none => s

section
variable {r : CopyRun} {f : Byte} (hn : wfSite n = true) (h1 : (s.chip n).ceRun[i]? = some r) (h2 : r.ends = some f)
include hn h1 h2

theorem execCopyComplete_ends (hq : quietSts f = true) : execCopyComplete n i s = .next (s.copyEnd n i r f) :=
  onSite_of (f := fun s => completeAt s n i (s.chip n).ceRun[i]?) hn ((congrArg (completeAt s n i) h1).trans
    ((congrArg (runEnds s n i r) h2).trans (if_pos hq)))

theorem execCopyFault_ends (hq : quietSts f = false) : execCopyFault n i s = .next (s.copyEnd n i r f) :=
  onSite_of (f := fun s => faultAt s n i (s.chip n).ceRun[i]?) hn ((congrArg (faultAt s n i) h1).trans
    ((congrArg (runFaults s n i r) h2).trans (if_neg (ne_true_of_eq_false hq))))

end

/-! ### Collectives -/

/-- The parts of a router's children. -/
noncomputable def childParts (s : State) (id n : Nat) : List (Nat × Option (List Byte)) :=
  (s.treeChildren (s.cgroup id).members n).foldl (fun l k => KV.put k ((KV.find (s.cgroup id).parts k).getD (some [])) l) []

/-- The inputs of a router: its children's parts, and its own contribution. -/
noncomputable def combineInputs (parts own : List (Nat × Option (List Byte))) : List (Nat × Option (List Byte)) :=
  own.foldl (fun l p => KV.put p.1 p.2 l) parts

/-- The operation's command, as any member gave it. -/
noncomputable def combineCmd (s : State) (id : Nat) : Option CollCmd :=
  (s.cgroup id).members.findSome? fun m => (s.chip m).clIn.find? fun c => c.id == id && c.gen == (s.cgroup id).gen && c.opn == (s.cgroup id).cur

noncomputable def combineFn : Option CollCmd → Nat
  | some c => c.opf
  | none => 0

noncomputable def combineTy : Option CollCmd → Ty
  | some c => c.ty
  | none => .i32

/-- What the inputs of a router fold to. -/
noncomputable def foldedInputs (s : State) (id : Nat) (inputs : List (Nat × Option (List Byte))) : Option (List Byte) :=
  foldParts (combineFn (combineCmd s id)) (combineTy (combineCmd s id)) (inputs.map (·.2))

/-- A router that has every input passes what they fold to up, or gives the result. -/
noncomputable def combined (s : State) (id n : Nat) (r : Option (List Byte)) (t : State) : State :=
  if n = s.treeRoot (s.cgroup id).members then t.collFinish id r
  else t.setCgroup id { s.cgroup id with parts := KV.put n r (s.cgroup id).parts }

/-- What a router's own member gives. -/
noncomputable def ownPart (s : State) (id n : Nat) : Option CollCmd → List (Nat × Option (List Byte)) × State
  | some c => ([(n, (s.contribute id (s.cgroup id).cur n c).1)], (s.contribute id (s.cgroup id).cur n c).2)
  | none => ([], s)

/-- A router that lacks an input, or is not of the group's tree. -/
noncomputable def combineWaits (s : State) (id n : Nat) : Bool :=
  (s.cgroup id).state = 0 || !(s.treeSites (s.cgroup id).members).contains n || (KV.find (s.cgroup id).parts n).isSome ||
    s.collHeld id (s.cgroup id).cur || (s.treeChildren (s.cgroup id).members n).any (fun k => (KV.find (s.cgroup id).parts k).isNone) ||
    ((s.cgroup id).members.contains n && (s.collOf id (s.cgroup id).cur n).isNone)

/-- The parts with a member's own. -/
noncomputable def joinOwn (n : Nat) (parts : List (Nat × Option (List Byte))) : Option (Option (List Byte) × State) →
    List (Nat × Option (List Byte))
  | some o => KV.put n o.1 parts
  | none => parts

theorem ownPart_eq (s : State) (id n : Nat) (c : Option CollCmd) (parts : List (Nat × Option (List Byte))) :
    combineInputs parts (ownPart s id n c).1 = joinOwn n parts (c.map fun c => s.contribute id (s.cgroup id).cur n c) ∧
    (ownPart s id n c).2 = ((c.map fun c => s.contribute id (s.cgroup id).cur n c).map (·.2)).getD s := by
  induction c with
  | none => exact ⟨rfl, rfl⟩
  | some c => exact ⟨rfl, rfl⟩

theorem collCombine_eq (s : State) (id n : Nat) : s.collCombine id n = if combineWaits s id n then s else
    combined s id n (foldedInputs s id (combineInputs (childParts s id n) (ownPart s id n (s.collOf id (s.cgroup id).cur n)).1))
      (ownPart s id n (s.collOf id (s.cgroup id).cur n)).2 := rfl

theorem collCombine_joins {id : Nat} (h1 : (s.cgroup id).state ≠ 0) (h2 : n ∈ s.treeSites (s.cgroup id).members)
    (h3 : KV.find (s.cgroup id).parts n = none) (h4 : s.collHeld id (s.cgroup id).cur = false)
    (h5 : ∀ q ∈ s.treeChildren (s.cgroup id).members n, KV.find (s.cgroup id).parts q ≠ none)
    (h6 : n ∈ (s.cgroup id).members → s.collOf id (s.cgroup id).cur n ≠ none) :
    s.collCombine id n =
    combined s id n (foldedInputs s id (joinOwn n (childParts s id n)
      ((s.collOf id (s.cgroup id).cur n).map fun c => s.contribute id (s.cgroup id).cur n c)))
      ((((s.collOf id (s.cgroup id).cur n).map fun c => s.contribute id (s.cgroup id).cur n c).map (·.2)).getD s) := by
  have hkids : (s.treeChildren (s.cgroup id).members n).any (fun k => (KV.find (s.cgroup id).parts k).isNone) = false :=
    List.any_eq_false.2 fun q hq h => h5 q hq (Option.isNone_iff_eq_none.1 h)
  have hown : ((s.cgroup id).members.contains n && (s.collOf id (s.cgroup id).cur n).isNone) = false :=
    Bool.eq_false_of_not_eq_true fun h => by
      obtain ⟨hm, hc⟩ := (Bool.and_eq_true _ _).mp h
      exact h6 (List.contains_iff_mem.1 hm) (Option.isNone_iff_eq_none.1 hc)
  have hwait : combineWaits s id n = false := by
    unfold combineWaits
    rw [decide_eq_false h1, List.contains_iff_mem.2 h2, h3, h4, hkids, hown]; decide
  obtain ⟨hi, hs⟩ := ownPart_eq s id n (s.collOf id (s.cgroup id).cur n) (childParts s id n)
  rw [collCombine_eq, if_neg (ne_true_of_eq_false hwait), hi, hs]

/-- A member's command that ends, by whether its record could be delivered. -/
noncomputable def collEndedAt (t : State) (n i : Nat) (c : CollCmd) (sts : Byte) (r : Record) (a : W64) : Option State → State
  | none => t
  | some s1 => if quietSts sts then s1.modChip n fun h => { h with clIn := listDel h.clIn i }
    else (s1.modChip n fun h => { h with clIn := listDel h.clIn i }).reportHalt c.outst a r

theorem collEnd_eq (s : State) (n i : Nat) (c : CollCmd) (sts : Byte) (pubs : Bool) (out : List Byte) (a : W64) :
    s.collEnd n i c sts pubs out a = collEndedAt (s.endCmd n c.core c.seq) n i c sts (c.record sts pubs out) a
      ((s.endCmd n c.core c.seq).deliverRecord c.outst c.seq c.asid 0x58 (c.record sts pubs out)) := rfl

/-- A member that writes its result, or cannot. -/
noncomputable def collSentAt (s : State) (n i : Nat) (c : CollCmd) : Except CopyErr (State × List Nat) → State
  | .error (f, a) => s.modChip n fun h => { h with clIn := listSet h.clIn i { c with sts := some f, addr := a } }
  | .ok (t, u) => t.modChip n fun h => { h with clIn := listSet h.clIn i { c with sts := some 0, pubs := u.eraseDups } }

/-- COLLECTIVE_COMPLETE by the command's status and result. -/
noncomputable def collAt (s : State) (n i : Nat) (c : CollCmd) : Option Byte → Option (List Byte) → State
  | some f, none => s.collEnd n i c f false [] c.addr
  | some f, some b => if f = 0 then s.collDone n i c b else s.collEnd n i c f false [] c.addr
  | none, none => s
  | none, some b => if s.shedOn n c.rid || s.collHeld c.id c.opn then s else collSentAt s n i c (s.collWrite c b)

noncomputable def collCompleteAt (s : State) (n i : Nat) : Option CollCmd → State
  | none => s
  | some c => collAt s n i c c.sts c.result

theorem collComplete_eq (s : State) (n i : Nat) : s.collComplete n i = collCompleteAt s n i (s.chip n).clIn[i]? := rfl

theorem collAt_stopped {c : CollCmd} {f : Byte} (h : f ≠ 0 ∨ c.result = none) :
    collAt s n i c (some f) c.result = s.collEnd n i c f false [] c.addr := by
  rcases hr : c.result with _ | b
  · rfl
  · exact if_neg (h.resolve_right fun hn => by rw [hr] at hn; cases hn)

end
end Sys2Proof.Machine

namespace Sys2Proof.Spec
open Machine
set_option Elab.async false

/-- Settles O45: the command or run in hand picks the branch of each step. -/
theorem copyStepsComplete : Obligations.CopyStepsComplete := by
  intro s n i hn k
  refine ⟨?_, ?_, ?_, ?_, ?_, ?_⟩
  · intro c l h1 h2
    exact onSite_of (f := fun s => s.copyStart n i) hn ((copyStart_eq s n i).trans ((congrArg (copyStartAt s n i) h1).trans
      (if_neg (ne_true_of_eq_false h2))))
  · intro r h1 h2 h3 h4 h5 h6 u h put takes
    have hput {w : Except CopyErr (State × CopyRun)} (hw : copyDoes u n r = w) {t : State} (ht : copyPut u n i r w = t) :
        exec (.copyChunkDecode n i) s = .next t :=
      onSite_of (f := fun s => s.copyStep n i) hn ((copyStep_does h1 h2 h3 h4 h5 h6 hw).trans ht)
    have htakes {w : Except CopyErr (State × CopyRun)} (hw : copyDoes u n r = w) : takes w :=
      ⟨fun t q h => hput (hw.trans h) rfl, fun f a h => hput (hw.trans h) (copyPut_failed u n i r f a)⟩
    refine ⟨fun hr => htakes (if_pos hr), fun hr => ?_⟩
    obtain ⟨hplain, hpack, hunpack, hconv, hdeal⟩ := copyDoes_inside (u := u) (n := n) hr
    exact ⟨fun h => htakes (hplain h), fun h => htakes (hpack h), fun h => htakes (hunpack h), fun h => htakes (hconv h),
      fun t q h hd => hput ((hdeal h).trans (congrArg Except.ok hd)) rfl⟩
  · intro r f h1 h2 h3 pub l r1 s0 ends
    have hends {t : State} (h : s.copyEnd n i r f = t) : ends t := ⟨fun hq => (execCopyComplete_ends hn h1 h2 hq).trans (congrArg _ h),
      fun hq => (execCopyFault_ends hn h1 h2 hq).trans (congrArg _ h)⟩
    refine ⟨fun h => hends ((copyEnd_open h3 h).trans (congrArg (copyEndAt n i r f pub (s0, r1)) h3)), ?_⟩
    intro s1 foi h4 s2
    have h5 := copyEnd_open (s := s) h3 h4
    exact ⟨fun h => hends (h5.trans (congrArg (copyRecorded s2 n i r f (r.record f pub foi)) h)),
      fun s3 h => hends (h5.trans (congrArg (copyRecorded s2 n i r f (r.record f pub foi)) h))⟩
  · intro id x h1 h2 h3 h4 h5 h6 own u parts inputs any fn ty r
    have hj := collCombine_joins h1 h2 h3 h4 h5 h6
    exact ⟨fun h => onSite_of (f := fun s => s.collCombine id n) hn (hj.trans (if_neg h)),
      fun h => onSite_of (f := fun s => s.collCombine id n) hn (hj.trans (if_pos h))⟩
  · intro c h1 drop put
    have hc {t : State} (h : collAt s n i c c.sts c.result = t) : exec (.collectiveComplete n i) s = .next t :=
      onSite_of (f := fun s => s.collComplete n i) hn ((collComplete_eq s n i).trans ((congrArg (collCompleteAt s n i) h1).trans h))
    refine ⟨?_, ?_, ?_⟩
    · intro f h2 h3 u o h4
      exact hc ((congrArg (fun x => collAt s n i c x c.result) h2).trans ((collAt_stopped h3).trans
        ((collEnd_eq ..).trans (congrArg (collEndedAt u n i c f (c.record f false []) c.addr) h4))))
    · intro b h2 h3 h4 h5
      have hs : exec (.collectiveComplete n i) s = .next (collSentAt s n i c (s.collWrite c b)) := by
        refine hc ((congrArg₂ (collAt s n i c) h2 h3).trans (if_neg ?_))
        rw [h4, h5]; decide
      exact ⟨fun t u h => hs.trans (congrArg (fun w => Host.Outcome.next (collSentAt s n i c w)) h),
        fun f a h => hs.trans (congrArg (fun w => Host.Outcome.next (collSentAt s n i c w)) h)⟩
    · intro b h2 h3 c1 t u o h4
      refine hc ((congrArg₂ (collAt s n i c) h2 h3).trans ((show collAt s n i c (some 0) (some b) = s.collDone n i c b from rfl).trans ((collEnd_eq (put t c1) n i c1 ..).trans
        ((congrArg (collEndedAt u n i c1 0 (c.record 0 (c.pub && c.shd && c.takes) (if c.takes then b else [])) 0) h4).trans ?_))))
      induction o with
      | none => rfl
      | some t => rfl
  · intro h1 h2
    refine congrArg Host.Outcome.next (if_pos ⟨h1, List.all_eq_true.2 fun h hh => List.all_eq_true.2 fun c hc => ?_⟩)
    by_cases hm : c.id = i % 64 ∧ c.gen = (s.cgroup (i % 64)).gen
    · rw [h2 h hh c hc hm.1 hm.2]; exact Bool.or_true _
    · have hf : (c.id == i % 64 && c.gen == (s.cgroup (i % 64)).gen) = false :=
        Bool.eq_false_of_not_eq_true fun h => hm (((Bool.and_eq_true _ _).mp h).imp eq_of_beq eq_of_beq)
      rw [hf]; rfl

end Sys2Proof.Spec
end

section
/-! PROOFS. Copies, publications and collectives as instructions (R266, R267, R281 to R290). -/

namespace Sys2Proof.Machine
open Sys2Proof.Spec
set_option Elab.async false

theorem ite_bind_of_ok {ε α β : Type} {p : Prop} [Decidable p] {x y : Except ε α} {k : α → Except ε β} {a : α} {r : Except ε β}
    (h : (if p then x else y) = .ok a) (hk : k a = r) : (if p then x >>= k else y >>= k) = r := by
  rw [← apply_ite (· >>= k), h]
  exact hk

/-! ### ECOPY and PUBL -/

/-- Whether a follow-on takes a seed. -/
noncomputable def folSeeds : Option (MxCmd × Cp) → Bool
  | some x => x.1.op == 0xAC
  | none => false

/-- The command of ECOPY, with the follow-on fol, of which `bad` says that it was asked for and is none. -/
noncomputable def ecopyCommand (s : State) (cp : Cp) (block : List Lane) (lay : Option (List Lane)) (seed : W32) (fol : Option MxCmd)
    (bad : Bool) : CopyCmd :=
  { (s.core s.self).copyCmd s.self 0xA8 cp block with layout := lay.getD [], seed := seed, fol := fol, folBad := bad }

/-- The command in its cluster's inbox. -/
noncomputable def ecopyEntered (s : State) (cmd : CopyCmd) : State :=
  let k := clusterOfCore s.self % 4
  s.modChip (s.self / 64) fun n => { n with ceIn := n.ceIn.set! k (n.ceIn.getD k [] ++ [cmd]) }

/-- What counts the completions of a copy and of its follow-on. -/
noncomputable def ecopyCounted (t : State) (g : Nat) (cp : Cp) : Option (MxCmd × Cp) → State
  | some x => (t.countCp g cp).countCp g x.2
  | none => t.countCp g cp

/-- ECOPY after its reads: r the seed and the core that took it, fol the follow-on. -/
noncomputable def ecopyRest (f : EN) (s : State) (cp : Cp) (block : List Lane) (lay : Option (List Lane)) (wants : Bool) (r : W32 × Core)
    (fol : Option (MxCmd × Cp)) : Except Exn Res := do
  let q := r.2.takeSeed (folSeeds fol)
  if 64 ≤ (s.chip (s.self / 64)).ceCount (clusterOfCore s.self % 4) then throw .stall
  let cmd := ecopyCommand s cp block lay r.1 (fol.map fun x => { x.1 with seed := q.1 }) (wants && fol.isNone)
  return .done ((ecopyCounted (ecopyEntered s cmd) s.self cp fol).modCore s.self fun _ =>
    let c := q.2.issued [f.cb, f.cp]
    if fol.isSome then c.takeSeq else c)

theorem ecopyBody_eq (f : EN) (s : State) : ecopyBody f s = (do
    let (c1, block) ← (s.core s.self).readBlock f.cb 64
    let cp ← s.checkCp s.self f.cp
    let h := CopyHead.of (payloadBytes block)
    let lay ← if h.lrh = 0 then Except.ok none else (s.core s.self).readArea ((h.lrh - 1) * 32) 32
    let area ← if h.wantsFol then (s.core s.self).readArea (64 * h.foff) 144 else Except.ok none
    ecopyRest f s cp block lay h.wantsFol
      (((c1.wokenArea ((h.lrh - 1) * 32) 32 lay).wokenArea (64 * h.foff) 144 area).takeSeed (h.xop == 4))
      (area.bind (s.folOf s.self))) := rfl

section
variable {f : EN} {s : State} {cp : Cp} {block : List Lane} {lay : Option (List Lane)} {wants : Bool} {r : W32 × Core}
  (h : (s.chip (s.self / 64)).ceCount (clusterOfCore s.self % 4) < 64)
include h

theorem ecopyRest_alone : ecopyRest f s cp block lay wants r none = .ok (.done (((ecopyEntered s
    (ecopyCommand s cp block lay r.1 none wants)).countCp s.self cp).modCore s.self fun _ => r.2.issued [f.cb, f.cp])) := by
  have hw : (wants && (none : Option (MxCmd × Cp)).isNone) = wants := Bool.and_true wants
  refine (if_neg (Nat.not_le.2 h)).trans ?_
  rw [hw]
  rfl

theorem ecopyRest_follows (x : MxCmd × Cp) : ecopyRest f s cp block lay wants r (some x) = .ok (.done
    ((((ecopyEntered s (ecopyCommand s cp block lay r.1 (some { x.1 with seed := (r.2.takeSeed (x.1.op == 0xAC)).1 }) false)).countCp s.self cp).countCp
      s.self x.2).modCore s.self fun _ => ((r.2.takeSeed (x.1.op == 0xAC)).2.issued [f.cb, f.cp]).takeSeq)) := by
  have hw : (wants && (some x).isNone) = false := Bool.and_false wants
  refine (if_neg (Nat.not_le.2 h)).trans ?_
  rw [hw]
  rfl

end

/-- The run that a publication of p enters. -/
noncomputable def publRun (s : State) (cp : Cp) (p : Nat) : CopyRun :=
  { CopyRun.start ((s.core s.self).copyCmd s.self 0xB2 cp []) (clusterOfCore s.self % 4) true (.ok ()) with
    bdone := 0, sent := 0, sts := some 0, pubs := [p] }

/-- PUBL of the select word p of the page y. -/
noncomputable def publAt (f : EN) (s : State) (va : W64) (y : Seg) : Except FCode Nat → Except Exn Res
  | .error e => throw (.flt e va)
  | .ok p => do
    let cp ← s.checkCp s.self f.cp
    return .done ((((s.fillTlb (.core s.self) (s.self / 64) y.entry).modChip (s.self / 64) fun k =>
      { k with ceRun := k.ceRun ++ [publRun s cp p] }).countCp s.self cp).modCore s.self fun c => c.issued [f.cp])

noncomputable def publSeg (f : EN) (s : State) (va : W64) : Except FCode Seg → Except Exn Res
  | .error e => throw (.flt e va)
  | .ok y => do
    if !y.leaf.getLsbD 6 then throw (.flt .txperm va)
    publAt f s va y (s.selectPa (.core s.self) (s.self / 64) (s.core s.self).asid y.leaf)

theorem publBody_eq (f : EN) (s : State) : publBody f s = (do
    let c := s.core s.self
    let va := c.preg (regOf f.cb)
    if inWindow va then throw (.flt .txperm va)
    publSeg f s va (s.seg (.core s.self) (s.self / 64) (some s.self) c.asid c.user va 1 .w .current)) := rfl

/-! ### Collectives -/

/-- The command of ECOLL, before its operation is known. -/
noncomputable def ecollCommand (f : EN) (s : State) (cp : Cp) (block : List Lane) : CollCmd :=
  let c := s.core s.self
  { fn := f.fn.toNat, core := s.self, rid := c.actRid, asid := c.asid, user := c.user, block := block
    cp := cp, seq := c.cseq, key := c.actKey.1, lcn := c.actKey.2, phg := recPhg c.curRec, opn := 0
    result := none, scrc := 0xFFFFFFFF, sts := none, addr := 0, pubs := [] }

/-- A command with status st in its chiplet's engine; one without status takes the member's next operation. -/
noncomputable def ecollEntered (s : State) (cmd : CollCmd) (st : Option Byte) : State :=
  let n := s.self / 64
  let x := s.cgroup cmd.id
  let k := KV.get 0 x.issued n
  let s1 := s.modChip n fun h => { h with clIn := h.clIn ++ [{ cmd with opn := k, sts := st }] }
  if st.isNone then s1.setCgroup cmd.id { x with issued := KV.put n (k + 1) x.issued } else s1

theorem ecollBody_eq (f : EN) (s : State) : ecollBody f s = (do
    let (c1, block) ← (s.core s.self).readBlock f.cb 64
    let cp ← s.checkCp s.self f.cp
    if 16 ≤ (s.chip (s.self / 64)).clIn.length then throw .stall
    let cmd := ecollCommand f s cp block
    return .done (((ecollEntered s cmd (s.collStatus cmd)).countCp s.self cp).modCore s.self fun _ => c1.issued [f.cb, f.cp])) := rfl

theorem ecollBody_enters {f : EN} {s : State} {c1 : Core} {block : List Lane} {cp : Cp} (h1 : (s.core s.self).readBlock f.cb 64 = .ok (c1, block))
    (h2 : s.checkCp s.self f.cp = .ok cp) (h3 : (s.chip (s.self / 64)).clIn.length < 16) {st : Option Byte}
    (h4 : s.collStatus (ecollCommand f s cp block) = st) : ecollBody f s =
    .ok (.done (((ecollEntered s (ecollCommand f s cp block) st).countCp s.self cp).modCore s.self fun _ => c1.issued [f.cb, f.cp])) := by
  subst h4
  exact (ecollBody_eq f s).trans (bind_of_ok h1 (bind_of_ok h2 (if_neg (Nat.not_le.2 h3))))

/-- The core that has asked for a group, with its mask at an offset. -/
noncomputable def clgrpAsked (f : M3) (off : Nat) (c : Core) : Core :=
  { (c.wakeBanks off 72).makeIrrev with wait := .clgrp (c.pOrImm f.ob).toNat (maskMembers (c.spWords off 18)) none }

/-- CLGRP by what the core waits for. -/
noncomputable def clgrpAt (f : M3) (s : State) : Wait → Except Exn Res
  | .clgrp _ _ (some x) =>
    return .done (s.setCore s.self (((s.core s.self).writeElems 4 f.od .u32 [⟨x.w.toNat, x.v⟩]).1.opIncs 4 [f.od, f.oa]))
  | .clgrp _ _ none => return .hold s
  | _ => do
    let off := ((s.core s.self).opAddr 4 f.oa).toNat
    (s.core s.self).readable off 72
    return .hold (s.modCore s.self (clgrpAsked f off))

theorem clgrpBody_eq (f : M3) (s : State) : clgrpBody f s = (do
    (s.core s.self).checkLocals 4 [(f.od, 4, 4), (f.oa, 72, 4)]
    clgrpAt f s (s.core s.self).wait) := rfl

theorem clgrpAt_asks {f : M3} {s : State} {w : Wait} (hw : ∀ id m x, w ≠ .clgrp id m x)
    (h : (s.core s.self).sound ((s.core s.self).opAddr 4 f.oa).toNat 72 = true) : clgrpAt f s w =
    .ok (.hold (s.modCore s.self (clgrpAsked f ((s.core s.self).opAddr 4 f.oa).toNat))) := by
  have hread : (s.core s.self).readable ((s.core s.self).opAddr 4 f.oa).toNat 72 = .ok () := if_pos h
  induction w with
  | clgrp id m x => exact absurd rfl (hw id m x)
  | _ => exact bind_of_ok hread rfl

/-- CLFREE after its check: `ok` says that the group is the activation's to free. -/
noncomputable def clfreeRest (f : M3) (s : State) (h : Nat) (ok : Bool) : Except Exn Res :=
  return .done ((if ok then s.setCgroup (h % 64) { s.cgroup (h % 64) with state := 2 } else s).modCore s.self
    fun c => (c.writeU32 4 f.od (if ok then 0 else 1)).opIncs 4 [f.od])

/-- The group a handle names is one of the activation's. -/
noncomputable def holdsGroup (s : State) (h : Nat) : Bool :=
  let x := s.cgroup (h % 64)
  decide (h < 1024) && x.state == 1 && x.asid == (s.core s.self).asid && x.gen == BitVec.ofNat 4 (h / 64)

theorem holdsGroup_iff {s : State} {h : Nat} : holdsGroup s h = true ↔ h < 1024 ∧ (s.cgroup (h % 64)).state = 1 ∧
    (s.cgroup (h % 64)).asid = (s.core s.self).asid ∧ (s.cgroup (h % 64)).gen = BitVec.ofNat 4 (h / 64) := by
  unfold holdsGroup
  rw [Bool.and_eq_true, Bool.and_eq_true, Bool.and_eq_true, decide_eq_true_iff, beq_iff_eq, beq_iff_eq, beq_iff_eq, and_assoc, and_assoc]

theorem clfreeBody_eq (f : M3) (s : State) : clfreeBody f s = (do
    if f.od != .zero then (s.core s.self).checkLocals 4 [(f.od, 4, 4)]
    clfreeRest f s ((s.core s.self).pOrImm f.oa).toNat (holdsGroup s ((s.core s.self).pOrImm f.oa).toNat)) := rfl

theorem clfreeBody_checked {f : M3} {s : State} (h : f.od = .zero ∨ (s.core s.self).checkLocals 4 [(f.od, 4, 4)] = .ok ()) {ok : Bool}
    (hok : holdsGroup s ((s.core s.self).pOrImm f.oa).toNat = ok) : clfreeBody f s = clfreeRest f s ((s.core s.self).pOrImm f.oa).toNat ok := by
  subst hok
  rw [clfreeBody_eq]
  by_cases hz : f.od = .zero
  · exact if_neg (by rw [hz]; decide)
  · exact (if_pos (bne_iff_ne.2 hz)).trans (bind_of_ok (h.resolve_left hz) rfl)

end Sys2Proof.Machine

namespace Sys2Proof.Spec
open Machine
set_option Elab.async false

/-- Settles O32: what the reads and checks of an instruction give picks its command and where that enters. -/
theorem copiesAndCollectivesComplete : Obligations.CopiesAndCollectivesComplete := by
  refine ⟨?_, ?_, ?_, ?_, ?_⟩
  · intro f s c1 block cp lay area g c hr hty hopt hsel hfn hm hcf hb hcp h hlay harea k hk r put base
    have hl : (copyLegal f && f.fn == 0 && isMem f.cb) = true :=
      and_true_of (and_true_of (and_true_of (and_true_of (and_true_of (beq_of_eq hty) (beq_of_eq hopt)) (beq_of_eq hsel)) hcf) (beq_of_eq hfn)) hm
    have hbody {fol : Option (MxCmd × Cp)} (hfol : area.bind (s.folOf g) = fol) :
        ecopyBody f s = ecopyRest f s cp block lay h.wantsFol r fol :=
      (ecopyBody_eq f s).trans (bind_of_ok hb (bind_of_ok hcp (ite_bind_of_ok hlay (ite_bind_of_ok harea (congrArg _ hfol)))))
    exact ⟨fun hfol => exec_en_done (i := .ecopy f) rfl hr hl ((hbody hfol).trans (ecopyRest_alone hk)),
      fun x hfol => exec_en_done (i := .ecopy f) rfl hr hl ((hbody hfol).trans (ecopyRest_follows hk x))⟩
  · intro f s cp y p hr hty hopt hsel hfn hm hcf hcp g c va hw hs hleaf hp
    have hl : (copyLegal f && f.fn == 0 && isRegOp f.cb) = true :=
      and_true_of (and_true_of (and_true_of (and_true_of (and_true_of (beq_of_eq hty) (beq_of_eq hopt)) (beq_of_eq hsel)) hcf) (beq_of_eq hfn)) hm
    refine exec_en_done (i := .publ f) rfl hr hl ((publBody_eq f s).trans ((if_neg (ne_true_of_eq_false hw)).trans
      ((congrArg (publSeg f s va) hs).trans ((if_neg ?_).trans ((congrArg (publAt f s va y) hp).trans (bind_of_ok hcp rfl))))))
    rw [hleaf]; decide
  · intro f s c1 block cp g n c hr hty hopt hsel hfn hm hcf hb hcp hroom cmd x k put
    have hl : (copyLegal f && decide (f.fn.toNat ≤ 2) && isMem f.cb) = true :=
      and_true_of (and_true_of (and_true_of (and_true_of (and_true_of (beq_of_eq hty) (beq_of_eq hopt)) (beq_of_eq hsel)) hcf) (decide_eq_true hfn)) hm
    exact ⟨fun h => exec_en_done (i := .ecoll f) rfl hr hl (ecollBody_enters hb hcp hroom h),
      fun e h => exec_en_done (i := .ecoll f) rfl hr hl (ecollBody_enters hb hcp hroom h)⟩
  · intro f s hr hfn hod hoa hoc hcl hob c hck
    have hl : (fixedM3 f ((s.core s.self).ty f.ty) .u32 0 && f.fn == 0 && oneDst f.od && isMem f.oa && f.oc == .zero &&
        !incClash f.od [f.oa] && (match f.ob with
          | .reg _ _ => true
          | .imm v => decide (v.toNat ≤ 63)
          | _ => false)) = true := by
      refine and_true_of (and_true_of (and_true_of (and_true_of (and_true_of (and_true_of hr.2 (beq_of_eq hfn)) hod) hoa) (beq_of_eq hoc))
        (by rw [hcl]; rfl)) ?_
      rcases hob with hob | ⟨v, hv, hle⟩
      · generalize f.ob = o at hob
        induction o with
        | reg => rfl
        | _ => exact nomatch hob
      · rw [hv]; exact decide_eq_true hle
    have hbody {x : Except Exn Res} (h : clgrpAt f s c.wait = x) : clgrpBody f s = x := (clgrpBody_eq f s).trans (bind_of_ok hck h)
    refine ⟨fun id m x hw => exec_m3_done (i := .clgrp f) rfl hr.1 hl (hbody (congrArg (clgrpAt f s) hw)), ?_⟩
    intro hw hs off
    exact exec_m3_hold (i := .clgrp f) rfl hr.1 hl (hbody (clgrpAt_asks hw (hs hoa)))
  · intro f s hr hfn hoa habs hod hck c h x mine fin
    have hl : (fixedM3 f ((s.core s.self).ty f.ty) .u32 0 && f.fn == 0 && regOrImm f.oa && absent [f.ob, f.oc] &&
        (oneDst f.od || f.od == .zero)) = true := and_true_of (and_true_of (and_true_of (and_true_of hr.2 (beq_of_eq hfn)) hoa) habs) hod
    exact ⟨fun hm => exec_m3_done (i := .clfree f) rfl hr.1 hl (clfreeBody_checked hck (holdsGroup_iff.2 hm)),
      fun hm => exec_m3_done (i := .clfree f) rfl hr.1 hl (clfreeBody_checked hck (Bool.eq_false_of_not_eq_true fun h => hm (holdsGroup_iff.1 h)))⟩

end Sys2Proof.Spec
end

section
/-! PROOFS. Barriers, counters and the L1 (R232 to R239). -/

namespace Sys2Proof.Machine
open Sys2Proof.Spec
set_option Elab.async false

/-! ### Barriers -/

theorem barrInitBody_of {f : M3} {s : State} {va : W64} {l : List Loc} {sg : List Seg} (h : s.barrOperand f.oa true = .ok (va, l, sg)) :
    barrInitBody f s = .ok (.done (((s.putBarr (s.core s.self).asid l { s.barrAt l with
      exp := ((s.core s.self).pOrImm f.ob).extractLsb' 0 32, arr := 0, brk := false }).useSegs s.self sg).modCore s.self
        fun c => (c.opIncs 4 [f.oa]).makeIrrev)) := bind_of_ok h rfl

theorem barrExitBody_of {f : M3} {s : State} {va : W64} {l : List Loc} {sg : List Seg} (h : s.barrOperand f.oa false = .ok (va, l, sg)) :
    barrExitBody f s = .ok (.done (((s.putBarr (s.core s.self).asid l (s.barrAt l).exit).useSegs s.self sg).modCore s.self
      fun c => (c.opIncs 4 [f.oa]).makeIrrev.quitBarr va)) := bind_of_ok h rfl

/-- A core that has arrived at a barrier: its table holds the barrier, whose object is x. -/
noncomputable def barrArrived (s : State) (va : W64) (l : List Loc) (sg : List Seg) (x : BarrObj) : State :=
  ((s.putBarr (s.core s.self).asid l x).useSegs s.self sg).modCore s.self fun c => c.makeIrrev.joinBarr va l

/-- An arrival at a barrier that the core's table has room for. -/
noncomputable def barrArrive (f : M3) (s : State) (va : W64) (l : List Loc) (sg : List Seg) : Except Exn Res := do
  let b := s.barrAt l
  let opens := b.exp ≤ b.arr + 1
  let t := barrArrived s va l sg (if opens then { b with arr := 0, gen := b.gen + 1 } else { b with arr := b.arr + 1 })
  if opens then return .done (t.modCore s.self fun c => c.opIncs 4 [f.oa])
  else return .hold (t.modCore s.self fun c => { c with wait := .barrier va l b.gen })

/-- BARR by what the core waits for. -/
noncomputable def barrWaitAt (f : M3) (s : State) : Wait → Except Exn Res
  | .barrier va l gen =>
    if (s.barrAt l).gen ≠ gen then .ok (.done (s.modCore s.self fun c => c.opIncs 4 [f.oa]))
    else if (s.barrAt l).brk then .error (.flt .broken va)
    else .error .stall
  | .broken va => .error (.flt .broken va)
  | _ => do
    let (va, l, sg) ← s.barrOperand f.oa false
    if !((s.core s.self).barrTable.any fun x => x.1 == va) && decide (8 ≤ (s.core s.self).barrTable.length) then throw (.flt .priv va)
    barrArrive f s va l sg

theorem barrWaitBody_eq (f : M3) (s : State) : barrWaitBody f s = barrWaitAt f s (s.core s.self).wait := rfl

section
variable {f : M3} {s : State} {va : W64} {l : List Loc} {sg : List Seg}

theorem barrWaitAt_joins {w : Wait} (h1 : ∀ v p n, w ≠ .barrier v p n) (h2 : ∀ v, w ≠ .broken v)
    (h3 : s.barrOperand f.oa false = .ok (va, l, sg))
    (h4 : ((s.core s.self).barrTable.any fun x => x.1 == va) = true ∨ (s.core s.self).barrTable.length < 8) :
    barrWaitAt f s w = barrArrive f s va l sg := by
  have hroom : ¬ (!((s.core s.self).barrTable.any fun x => x.1 == va) && decide (8 ≤ (s.core s.self).barrTable.length)) = true := by
    rcases h4 with h | h
    · rw [h]; exact Bool.false_ne_true
    · rw [decide_eq_false (Nat.not_le.2 h), Bool.and_false]; exact Bool.false_ne_true
  induction w with
  | barrier v p n => exact absurd rfl (h1 v p n)
  | broken v => exact absurd rfl (h2 v)
  | _ => exact bind_of_ok h3 (if_neg hroom)

theorem barrArrive_opens (h : (s.barrAt l).exp ≤ (s.barrAt l).arr + 1) : barrArrive f s va l sg =
    .ok (.done ((barrArrived s va l sg { s.barrAt l with arr := 0, gen := (s.barrAt l).gen + 1 }).modCore s.self
      fun c => c.opIncs 4 [f.oa])) := by
  unfold barrArrive
  rw [if_pos h, if_pos h]
  rfl

theorem barrArrive_waits (h : ¬ (s.barrAt l).exp ≤ (s.barrAt l).arr + 1) : barrArrive f s va l sg =
    .ok (.hold ((barrArrived s va l sg { s.barrAt l with arr := (s.barrAt l).arr + 1 }).modCore s.self
      fun c => { c with wait := .barrier va l (s.barrAt l).gen })) := by
  unfold barrArrive
  rw [if_neg h, if_neg h]
  rfl

end

/-! ### Counters -/

theorem bit1_getLsbD_zero (w : W32) : bit1 (w.getLsbD 0) = w.extractLsb' 0 1 := by
  ext i hi
  obtain rfl : i = 0 := by lia
  simp [bit1]

/-- A word by its upper half, the bits above bit 0, and bit 0. -/
theorem word_split (w : W32) : w.extractLsb' 16 16 ++ w.extractLsb' 1 15 ++ w.extractLsb' 0 1 = w := by
  rw [extract_join w 1 16 15, extract_join w 0 31 1, BitVec.extractLsb'_eq_self]

/-- The control word of a counter with clean flags added: its upper half and its underflow bit. -/
theorem ctrl_word (w : W32) (b : Bool) :
    w.extractLsb' 24 8 ++ (w.extractLsb' 16 8 ||| 0) ++ (0 : BitVec 15) ++ bit1 (b || w.getLsbD 0) =
      if b then (w &&& 0xFFFF0000) ||| 1 else w &&& 0xFFFF0001 := by
  have h0 : w.extractLsb' 24 8 ++ (w.extractLsb' 16 8 ||| 0) = w.extractLsb' 16 16 := by
    rw [show w.extractLsb' 16 8 ||| 0 = w.extractLsb' 16 8 from BitVec.or_zero]; exact extract_join w 16 8 8
  have hmask (m : BitVec 1) : w &&& (BitVec.allOnes 16 ++ 0#15 ++ m) = w.extractLsb' 16 16 ++ 0#15 ++ (w.extractLsb' 0 1 &&& m) := by
    calc w &&& (BitVec.allOnes 16 ++ 0#15 ++ m) = _ := congrArg (· &&& _) (word_split w).symm
      _ = _ := by rw [BitVec.and_append, BitVec.and_append, BitVec.and_allOnes, BitVec.and_zero]
  rw [h0]
  induction b with
  | false =>
    rw [if_neg Bool.false_ne_true, show (0xFFFF0001 : W32) = BitVec.allOnes 16 ++ 0#15 ++ BitVec.allOnes 1 from rfl, hmask, BitVec.and_allOnes]
    exact congrArg (_ ++ ·) (bit1_getLsbD_zero w)
  | true =>
    rw [if_pos rfl, show (0xFFFF0000 : W32) = BitVec.allOnes 16 ++ 0#15 ++ 0#1 from rfl, hmask, BitVec.and_zero]
    rw [show (1 : W32) = 0#31 ++ 1#1 from rfl, BitVec.or_append, BitVec.or_zero]
    rfl

/-- What CTRDEC leaves in a counter's words. -/
theorem ctrDecWords_clean (lo hi v : W32) : ctrDecWords lo hi v.toNat 0 0 = (if lo.toNat < v.toNat then 0 else lo - v,
    if lo.toNat < v.toNat then (hi &&& 0xFFFF0000) ||| 1 else hi &&& 0xFFFF0001) := by
  unfold ctrDecWords
  rw [BitVec.ofNat_toNat, BitVec.setWidth_eq]
  refine Prod.ext (by simp) ((ctrl_word hi (decide (lo.toNat < v.toNat))).trans (by simp))

section
variable {f : M3} {c : Core} {fill : BitVec 3 → Bool} (h : c.checkLocals 4 [(f.oa, 8, 8)] = .ok ())
include h

theorem ctrsetWork_ok : ctrsetWork f c fill = .ok ((c.spWrite (c.opAddr 4 f.oa).toNat
    [⟨(c.pOrImm f.ob).extractLsb' 0 32, true⟩, ⟨0, true⟩]).opIncs 4 [f.oa], none) :=
  bind_of_ok (show c.counterOff f.oa = .ok (c.opAddr 4 f.oa).toNat from bind_of_ok h rfl) rfl

theorem ctrdecWork_ok (hs : c.sound (c.opAddr 4 f.oa).toNat 8 = true) {x : W32 × W32}
    (hx : ctrDecWords (c.spGet (c.opAddr 4 f.oa).toNat).w (c.spGet ((c.opAddr 4 f.oa).toNat + 4)).w
      ((c.pOrImm f.ob).extractLsb' 0 32).toNat 0 0 = x) :
    ctrdecWork f c fill = .ok ((c.spWrite (c.opAddr 4 f.oa).toNat [⟨x.1, true⟩, ⟨x.2, true⟩]).opIncs 4 [f.oa], none) := by
  subst hx
  have hread : c.readable (c.opAddr 4 f.oa).toNat 8 = .ok () := if_pos hs
  exact bind_of_ok (show c.counterOff f.oa = .ok (c.opAddr 4 f.oa).toNat from bind_of_ok h rfl) (bind_of_ok hread rfl)

end

/-- CTRWAIT at a counter that is accessible. -/
noncomputable def ctrwaitRest (f : M3) (s : State) (off : Nat) : Except Exn Res := do
  let c := s.core s.self
  c.readable off 8
  let lo := (c.spGet off).w
  let hi := (c.spGet (off + 4)).w
  if (c.pOrImm f.ob).extractLsb' 0 32 < lo then
    return .hold (s.setCore s.self { c.wakeBanks off 8 with wait := .again })
  let c1 := (c.spWrite off [⟨lo, true⟩, ⟨0, true⟩]).orFlags (hi.extractLsb' 16 8)
  let v := (hi.extractLsb' 24 8).toNat + (if hi.getLsbD 0 then 256 else 0)
  let c2 := if f.fn = 1 then (c1.writeElems 4 f.od .u32 [⟨v, true⟩]).1 else c1
  return .done (s.setCore s.self (c2.opIncs 4 [f.od, f.oa]))

theorem ctrwaitBody_eq (f : M3) (s : State) : ctrwaitBody f s = (do
    if f.fn = 1 then (s.core s.self).checkLocals 4 [(f.od, 4, 4)]
    let off ← (s.core s.self).counterOff f.oa
    ctrwaitRest f s off) := rfl

theorem ctrwaitBody_checked {f : M3} {s : State} (h1 : f.fn = 1 → (s.core s.self).checkLocals 4 [(f.od, 4, 4)] = .ok ())
    (h2 : (s.core s.self).checkLocals 4 [(f.oa, 8, 8)] = .ok ()) :
    ctrwaitBody f s = ctrwaitRest f s ((s.core s.self).opAddr 4 f.oa).toNat := by
  have hoff : (do let off ← (s.core s.self).counterOff f.oa; ctrwaitRest f s off) = ctrwaitRest f s ((s.core s.self).opAddr 4 f.oa).toNat :=
    bind_of_ok (show (s.core s.self).counterOff f.oa = .ok ((s.core s.self).opAddr 4 f.oa).toNat from bind_of_ok h2 rfl) rfl
  rw [ctrwaitBody_eq]
  by_cases hfn : f.fn = 1
  · exact (if_pos hfn).trans (bind_of_ok (h1 hfn) hoff)
  · exact (if_neg hfn).trans hoff

end Sys2Proof.Machine

namespace Sys2Proof.Spec
open Machine
set_option Elab.async false

/-- Settles O29: what the core waits for and the object in hand pick the branch of each row. -/
theorem barriersAndCountersComplete : Obligations.BarriersAndCountersComplete := by
  refine ⟨?_, ?_⟩
  · intro f s va l sg g c b put fin
    refine ⟨fun hr h => exec_m3_done (i := .barrInit f) rfl hr.1 hr.2 (barrInitBody_of h),
      fun hr h => exec_m3_done (i := .barrExit f) rfl hr.1 hr.2 (barrExitBody_of h), fun hr => ⟨fun gen hw hg => ?_, fun hw => ?_, ?_⟩⟩
    · exact exec_m3_done (i := .barrWait f) rfl hr.1 hr.2 ((barrWaitBody_eq f s).trans ((congrArg (barrWaitAt f s) hw).trans (if_pos hg)))
    · exact exec_m3_fault (i := .barrWait f) rfl hr.1 hr.2 ((barrWaitBody_eq f s).trans (congrArg (barrWaitAt f s) hw))
    · intro h1 h2 h3 h4 tab
      have hb : barrWaitBody f s = barrArrive f s va l sg := (barrWaitBody_eq f s).trans (barrWaitAt_joins h1 h2 h3 h4)
      exact ⟨fun h => exec_m3_done (i := .barrWait f) rfl hr.1 hr.2 (hb.trans (barrArrive_opens h)),
        fun h => exec_m3_hold (i := .barrWait f) rfl hr.1 hr.2 (hb.trans (barrArrive_waits h))⟩
  · intro f s g c off v lo hi
    refine ⟨fun hck => ⟨fun hr => ends_work (i := .ctrset f) rfl (shapeM3_legal hr.2) hr.1 (ctrsetWork_ok hck), fun hr hs => ?_, ?_⟩, ?_, ?_, ?_⟩
    · have hw := ctrdecWork_ok (f := f) (fill := s.canFill s.self) hck hs (ctrDecWords_clean lo hi v)
      exact ends_work (i := .ctrdec f) rfl (shapeM3_legal hr.2) hr.1 hw
    · intro hr hfn hoa hob hoc hod hcl hck1 hs hle c1 st
      have hl : (fixedM3 f ((s.core s.self).ty f.ty) .u32 0 && decide (f.fn.toNat ≤ 1) && isMem f.oa && regOrImm f.ob &&
          f.oc == .zero && (if f.fn = 1 then oneDst f.od else f.od == .zero) && !incClash f.od [f.oa]) = true :=
        and_true_of (and_true_of (and_true_of (and_true_of (and_true_of (and_true_of hr.2 (decide_eq_true hfn)) hoa) hob) (beq_of_eq hoc)) hod)
          (by rw [hcl]; rfl)
      have hread : c.readable off 8 = .ok () := if_pos hs
      exact exec_m3_done (i := .ctrwait f) rfl hr.1 hl ((ctrwaitBody_checked hck1 hck).trans (bind_of_ok hread (if_neg (BitVec.not_lt.2 hle))))
    · exact fun hr hfn habs => ends_work (i := .l1cln f) rfl (shapeM3_legal (and_true_of (and_true_of hr.2 (beq_of_eq hfn)) habs)) hr.1 rfl
    · exact fun hr hfn habs => ends_work (i := .l1invAll f) rfl (shapeM3_legal (and_true_of (and_true_of hr.2 (beq_of_eq hfn)) habs)) hr.1 rfl
    · intro hr hfn hoa hob habs b n hle
      exact ends_work (i := .l1inv f) rfl (shapeM3_legal (and_true_of (and_true_of (and_true_of (and_true_of (and_true_of hr.2 (beq_of_eq hfn))
        hoa) hob) habs) (decide_eq_true hle))) hr.1 rfl

end Sys2Proof.Spec
end

section
/-! PROOFS. Prefetches, retention, PHASE, FENCE and HTSET (R224 to R229, R330). -/

namespace Sys2Proof.Machine
open Sys2Proof.Spec
set_option Elab.async false

section
variable {f : M3} {s : State}

/-! ### PF -/

/-- A prefetch by what its address translates to. -/
noncomputable def pfAt (f : M3) (s : State) : Except FCode Seg → Except Exn Res
  | .error _ => .ok (.done (s.modCore s.self fun c => c.opIncs 4 [f.oa]))
  | .ok x =>
    let after (t : State) := Except.ok (Res.done (t.modCore s.self fun c => c.opIncs 4 [f.oa]))
    if x.imm then after s
    else
      let t := s.fillTlb (.core s.self) (s.self / 64) x.entry
      if f.fn = 2 then after (if hkOf x.leaf = 0 then t.l2Segs (s.self / 64) (s.core s.self).asid [x] (f.fn == 1) else t)
      else after (t.l1Lines s.self x (f.fn == 1))

/-- What the address of a prefetch translates to. -/
noncomputable def pfSeg (f : M3) (s : State) : Except FCode Seg :=
  s.seg (.core s.self) (s.self / 64) (some s.self) (s.core s.self).asid (s.core s.self).user ((s.core s.self).opAddr 4 f.oa) 1 .r .current

theorem pfBody_eq (f : M3) (s : State) : pfBody f s = if inWindow ((s.core s.self).opAddr 4 f.oa) then
    .ok (.done (s.modCore s.self fun c => c.opIncs 4 [f.oa])) else pfAt f s (pfSeg f s) := rfl

theorem pfBody_nothing (h : inWindow ((s.core s.self).opAddr 4 f.oa) = true ∨ ∃ e, pfSeg f s = .error e) :
    pfBody f s = .ok (.done (s.modCore s.self fun c => c.opIncs 4 [f.oa])) := by
  rw [pfBody_eq]
  by_cases hw : inWindow ((s.core s.self).opAddr 4 f.oa) = true
  · exact if_pos hw
  · obtain ⟨e, he⟩ := h.resolve_left hw
    exact (if_neg hw).trans (congrArg (pfAt f s) he)

theorem pfBody_page {x : Seg} (hw : inWindow ((s.core s.self).opAddr 4 f.oa) = false) (hx : pfSeg f s = .ok x) :
    pfBody f s = pfAt f s (.ok x) :=
  (pfBody_eq f s).trans ((if_neg (ne_true_of_eq_false hw)).trans (congrArg (pfAt f s) hx))

/-! ### UNPIN -/

/-- The retention register given up, and the status. -/
noncomputable def unpinned (f : M3) (s : State) (st : Nat) : State :=
  (if st = 0 then s.modChip (s.self / 64) fun k => { k with
    rctl := k.rctl.set! f.fn.toNat ((s.chip (s.self / 64)).rctl.getD f.fn.toNat 0 &&& 0x7FFFFFFFFFFFFFFF) } else s).modCore s.self
      fun c => c.setP (regOf f.od) (BitVec.ofNat 64 st)

theorem unpinBody_eq (f : M3) (s : State) : unpinBody f s =
    .ok (.done (unpinned f s (if !retV ((s.chip (s.self / 64)).rctl.getD f.fn.toNat 0) then 2
      else if retAsid ((s.chip (s.self / 64)).rctl.getD f.fn.toNat 0) != (s.core s.self).asid && (s.core s.self).user then 1 else 0))) := rfl

theorem unpin_status (v user : Bool) (a b : W16) : (if !v then 2 else if a != b && user then 1 else 0) =
    if v = false then 2 else if a ≠ b ∧ user = true then 1 else 0 := by
  have hb : ((a != b && user) = true) = (a ≠ b ∧ user = true) := propext ((Bool.and_eq_true_iff).trans (and_congr bne_iff_ne Iff.rfl))
  induction v with
  | false => rfl
  | true => exact (if_neg Bool.false_ne_true).trans ((if_congr hb.to_iff rfl rfl).trans (if_neg (by decide)).symm)

/-! ### PHASE -/

/-- A core whose release waits are over arrives at the boundary of its group. -/
noncomputable def phaseArrives (s : State) (phg : W16) : State :=
  let g := s.self
  let x := s.pgroup phg
  ((s.setGroup phg { x with started := true, heard := if x.heard.contains g then x.heard else g :: x.heard }).modCore g fun c =>
    { c.makeIrrev with wait := .phase, act := c.makeIrrev.act.map fun a => { a with phased := true } }).noteWaits g

/-- PHASE of a core that waits for nothing of it, by its group. -/
noncomputable def phaseOf (s : State) : Option W16 → Except Exn Res
  | none => .ok (.done (s.makeIrrev s.self))
  | some phg =>
    if !(s.core s.self).pend.isEmpty || s.publOpen s.self || (s.mxOpen s.self).any (fun m => decide (0xA9 ≤ m.op) && decide (m.op ≤ 0xAD)) then
      .error .stall
    else .ok (.hold (phaseArrives s phg))

noncomputable def phaseAt (s : State) : Wait → Except Exn Res
  | .acquired => .ok (.done s)
  | .phase => .error .stall
  | _ => phaseOf s (s.core s.self).group

theorem phaseBody_eq (s : State) : phaseBody s = phaseAt s (s.core s.self).wait := rfl

theorem phaseBody_issues (h : (s.core s.self).wait = .none ∨ (s.core s.self).wait = .again) {x : Option W16}
    (hx : (s.core s.self).group = x) : phaseBody s = phaseOf s x := by
  subst hx
  refine (phaseBody_eq s).trans ?_
  rcases h with h | h
  · rw [h]; rfl
  · rw [h]; rfl

theorem phaseOf_arrives {phg : W16} (h1 : (s.core s.self).pend = []) (h2 : s.publOpen s.self = false)
    (h3 : ∀ m ∈ s.mxOpen s.self, m.op < 0xA9 ∨ 0xAD < m.op) : phaseOf s (some phg) = .ok (.hold (phaseArrives s phg)) := by
  have hmx : (s.mxOpen s.self).any (fun m => decide (0xA9 ≤ m.op) && decide (m.op ≤ 0xAD)) = false :=
    List.any_eq_false.2 fun m hm h => (h3 m hm).elim (Nat.not_lt.2 (of_decide_eq_true ((Bool.and_eq_true _ _).mp h).1))
      (Nat.not_lt.2 (of_decide_eq_true ((Bool.and_eq_true _ _).mp h).2))
  exact if_neg (by rw [h1, h2, hmx]; decide)

/-! ### HTSET -/

/-- The entry's words have been read. -/
noncomputable def htRead (f : M3) (off : Nat) (c : Core) : Core := (c.wakeBanks off 16).opIncs 16 [f.ob]

/-- The entry stored at the place that its segment x gives. -/
noncomputable def htStore (f : M3) (s : State) (off : Nat) (va : W64) : Except FCode Seg → Except Exn Res
  | .error e => throw (.flt e va)
  | .ok x => do
    if !x.imm then throw (.flt .txperm va)
    if !x.places.all s.hostOk then throw (.flt .txnp va)
    if homesClash (s.core s.self).pend [x.home] then throw .stall
    return .done (((s.storeHome (s.core s.self).asid (x.places.zip (bytesOf (((s.core s.self).spWords off 4).map (·.w))))).useSegs s.self
      [x]).modCore s.self fun c => (htRead f off c).makeIrrev)

/-- Entry i of a region's handler table. -/
noncomputable def htEntry (f : M3) (s : State) (off i : Nat) : Option Region → Except Exn Res
  | none => throw (.flt .priv 0)
  | some r => do
    let c := s.core s.self
    if r.htlen ≤ i then throw (.flt .priv 0)
    if i = r.fhix ∧ c.user then throw (.flt .priv 0)
    if (((c.spWords off 4).getD 1 ⟨0, false⟩).w.getLsbD 30) && c.user then throw (.flt .priv 0)
    let va := r.htab + BitVec.ofNat 64 (16 * i)
    htStore f s off va (s.seg (.core s.self) (s.self / 64) (some s.self) c.asid c.user va 16 .w .current)

theorem htsetBody_eq (f : M3) (s : State) : htsetBody f s = (do
    let c := s.core s.self
    c.checkLocals 16 [(f.ob, 16, 16)]
    let off := (c.opAddr 16 f.ob).toNat
    c.readable off 16
    if (c.spWords off 4).any (fun x => !x.v) then return .done (s.modCore s.self (htRead f off))
    htEntry f s off (c.pOrImm f.oa).toNat (c.act.bind fun a => s.region a.rid)) := rfl

section
variable {off : Nat} {x : Except Exn Res} (h1 : (s.core s.self).checkLocals 16 [(f.ob, 16, 16)] = .ok ())
  (h2 : (s.core s.self).sound ((s.core s.self).opAddr 16 f.ob).toNat 16 = true)
include h1 h2

theorem htsetBody_checked (h3 : (if ((s.core s.self).spWords ((s.core s.self).opAddr 16 f.ob).toNat 4).any (fun x => !x.v) then
      return .done (s.modCore s.self (htRead f ((s.core s.self).opAddr 16 f.ob).toNat))
    else htEntry f s ((s.core s.self).opAddr 16 f.ob).toNat ((s.core s.self).pOrImm f.oa).toNat
      ((s.core s.self).act.bind fun a => s.region a.rid)) = x) : htsetBody f s = x := by
  have hread : (s.core s.self).readable ((s.core s.self).opAddr 16 f.ob).toNat 16 = .ok () := if_pos h2
  exact (htsetBody_eq f s).trans (bind_of_ok h1 (bind_of_ok hread h3))

theorem htsetBody_invalid (h3 : ∃ x ∈ (s.core s.self).spWords ((s.core s.self).opAddr 16 f.ob).toNat 4, x.v = false) :
    htsetBody f s = .ok (.done (s.modCore s.self (htRead f ((s.core s.self).opAddr 16 f.ob).toNat))) := by
  obtain ⟨x, hx, hv⟩ := h3
  exact htsetBody_checked h1 h2 (if_pos (List.any_eq_true.2 ⟨x, hx, by rw [hv]; rfl⟩))

theorem htsetBody_valid {a : Act} {r : Region} (h3 : ∀ x ∈ (s.core s.self).spWords ((s.core s.self).opAddr 16 f.ob).toNat 4, x.v = true)
    (h4 : (s.core s.self).act = some a) (h5 : s.region a.rid = some r) : htsetBody f s =
    htEntry f s ((s.core s.self).opAddr 16 f.ob).toNat ((s.core s.self).pOrImm f.oa).toNat (some r) := by
  have hr : ((s.core s.self).act.bind fun a => s.region a.rid) = some r := by rw [h4]; exact h5
  exact htsetBody_checked h1 h2 ((if_neg fun h => by
    obtain ⟨x, hx, hv⟩ := List.any_eq_true.1 h
    rw [h3 x hx] at hv; exact Bool.false_ne_true hv).trans (congrArg _ hr))

end

theorem htEntry_allowed {off i : Nat} {r : Region} (h1 : i < r.htlen) (h2 : (s.core s.self).user = true → i ≠ r.fhix ∧
    ((((s.core s.self).spWords off 4).getD 1 ⟨0, false⟩).w.getLsbD 30) = false) : htEntry f s off i (some r) =
    htStore f s off (r.htab + BitVec.ofNat 64 (16 * i)) (s.seg (.core s.self) (s.self / 64) (some s.self) (s.core s.self).asid
      (s.core s.self).user (r.htab + BitVec.ofNat 64 (16 * i)) 16 .w .current) :=
  (if_neg (Nat.not_le.2 h1)).trans ((if_neg fun h => (h2 h.2).1 h.1).trans (if_neg fun h =>
    Bool.false_ne_true ((h2 ((Bool.and_eq_true _ _).mp h).2).2.symm.trans ((Bool.and_eq_true _ _).mp h).1)))

section
variable {off : Nat} {va : W64} {x : Seg} (hi : x.imm = true)
include hi

theorem htStore_refused (h : x.places.all s.hostOk = false) : htStore f s off va (.ok x) = .error (.flt .txnp va) :=
  (if_neg (by rw [hi]; decide)).trans (if_pos (by rw [h]; rfl))

theorem htStore_stores (h1 : x.places.all s.hostOk = true) (h2 : homesClash (s.core s.self).pend [x.home] = false) :
    htStore f s off va (.ok x) = .ok (.done (((s.storeHome (s.core s.self).asid (x.places.zip (bytesOf
      (((s.core s.self).spWords off 4).map (·.w))))).useSegs s.self [x]).modCore s.self fun c => (htRead f off c).makeIrrev)) :=
  (if_neg (by rw [hi]; decide)).trans ((if_neg (by rw [h1]; decide)).trans (if_neg (ne_true_of_eq_false h2)))

end

end

end Sys2Proof.Machine

namespace Sys2Proof.Spec
open Machine
set_option Elab.async false

/-- Settles O28: what the address translates to, and what the core has out, pick the branch of each row. -/
theorem memoryControlComplete : Obligations.MemoryControlComplete := by
  refine ⟨?_, ?_, ?_, ?_, ?_, ?_⟩
  · intro f s hr hfn hoa habs g c va fin
    have hl : (fixedM3 f ((s.core s.self).ty f.ty) .i8 0 && decide (f.fn.toNat ≤ 2) && isMem f.oa && absent [f.od, f.ob, f.oc]) = true :=
      and_true_of (and_true_of (and_true_of hr.2 (decide_eq_true hfn)) hoa) habs
    have hfin {t : State} (h : pfBody f s = .ok (.done (t.modCore g fun c => c.opIncs 4 [f.oa]))) : fin t :=
      exec_m3_done (i := .pf f) rfl hr.1 hl h
    refine ⟨fun h => hfin (pfBody_nothing h), fun x hw hx => ⟨fun hi => hfin ((pfBody_page hw hx).trans (if_pos hi)), ?_, ?_⟩⟩
    · intro hi h1
      have h2 : ¬f.fn = 2 := fun h => by rw [h] at h1; exact absurd h1 (by decide)
      exact hfin ((pfBody_page hw hx).trans ((if_neg (ne_true_of_eq_false hi)).trans (if_neg h2)))
    · intro hi h2 hk
      have hef : (f.fn == 1) = false := by rw [h2]; rfl
      refine hfin ((pfBody_page hw hx).trans ((if_neg (ne_true_of_eq_false hi)).trans ((if_pos h2).trans ?_)))
      rw [hef, if_pos hk]
  · intro f s hr hfn hreg g c b l w st u
    exact exec_m3_done (i := .pin f) rfl hr.1 (and_true_of (and_true_of hr.2 (decide_eq_true hfn)) hreg) rfl
  · intro f s hr hfn hod habs g c r st u
    exact exec_m3_done (i := .unpin f) rfl hr.1 (and_true_of (and_true_of (and_true_of hr.2 (decide_eq_true hfn)) hod) habs)
      ((unpinBody_eq f s).trans (congrArg (fun n => Except.ok (Res.done (unpinned f s n))) (unpin_status ..)))
  · intro f s hr hfn habs g c
    have hl : (fixedM3 f ((s.core s.self).ty f.ty) .i8 0 && f.fn == 0 && absent [f.od, f.oa, f.ob, f.oc]) = true :=
      and_true_of (and_true_of hr.2 (beq_of_eq hfn)) habs
    refine ⟨fun h => exec_m3_done (i := .phase f) rfl hr.1 hl ((phaseBody_eq s).trans (congrArg (phaseAt s) h)),
      fun h hg => exec_m3_done (i := .phase f) rfl hr.1 hl (phaseBody_issues h hg), ?_⟩
    intro phg h hg hp hpub hmx x
    exact exec_m3_hold (i := .phase f) rfl hr.1 hl ((phaseBody_issues h hg).trans (phaseOf_arrives hp hpub hmx))
  · intro f s hr hfn habs h1 h2
    refine exec_m3_done (i := .fence f) rfl hr.1 (and_true_of (and_true_of hr.2 (decide_eq_true hfn)) habs) (if_neg fun h => ?_)
    rcases (Bool.or_eq_true _ _).mp h with h | h
    · obtain ⟨p, hp, hh⟩ := List.any_eq_true.1 h
      obtain ⟨k, hk, hs⟩ := List.any_eq_true.1 hh
      exact Bool.false_ne_true ((h1 p hp k hk).symm.trans hs)
    · obtain ⟨m, hm, hh⟩ := List.any_eq_true.1 h
      obtain ⟨k, hk, hs⟩ := List.any_eq_true.1 hh
      exact Bool.false_ne_true ((h2 m hm k hk).symm.trans hs)
  · intro f s a r hr hfn hoa hob habs g c off words i va after hck hs
    have hl : (fixedM3 f ((s.core s.self).ty f.ty) .u32 3 && f.fn == 0 && regOrImm f.oa && isMem f.ob && absent [f.od, f.oc]) = true :=
      and_true_of (and_true_of (and_true_of (and_true_of hr.2 (beq_of_eq hfn)) hoa) hob) habs
    refine ⟨fun h => exec_m3_done (i := .htset f) rfl hr.1 hl (htsetBody_invalid hck (hs hob) h), fun hv ha hreg hi hu x hx himm => ?_⟩
    have hb {y : Except Exn Res} (h : htStore f s off va (.ok x) = y) : htsetBody f s = y :=
      (htsetBody_valid hck (hs hob) hv ha hreg).trans ((htEntry_allowed hi hu).trans ((congrArg (htStore f s off va) hx).trans h))
    refine ⟨fun h => exec_m3_fault (i := .htset f) rfl hr.1 hl (hb (htStore_refused himm h)), ?_⟩
    intro h h1 u
    exact exec_m3_done (i := .htset f) rfl hr.1 hl (hb (htStore_stores himm h h1))

end Sys2Proof.Spec
end

section
/-! PROOFS. FSUM, FDOT and FCVT (R111, R112). -/

namespace Sys2Proof.Machine
open Sys2Proof.Spec Sys2Proof.Machine.Num
set_option Elab.async false

/-- Work on the own core that computes its result, whose entry goes to a queue with room, completes. -/
theorem ends_room {i : Instr} {h : Core → Shape} {w : Work} {s : State} {r : Core × Push} {sp uses : Bool} {ops : List Operand} {od : Operand}
    (he : exec i s = coreRow i h (onOwnCore w) s) (hs : h (s.core s.self) = ⟨sp, uses, true, usesOf ops⟩)
    (hr : s.canIssue i sp uses ops = true) (hw : w (s.core s.self) (s.canFill s.self) = .ok r) (hc : (s.core s.self).Computed r.1)
    (hp : ∀ n e, r.2 = some (n, e) → od = .queue n) (hroom : s.hasRoom s.self od = true) : ends s i sp uses r :=
  he.trans (coreRow_done hs hr (onOwnCore_room hw hc (State.issues_act (canIssue_iff.1 hr).2.1) hp hroom))

/-- What FSUM gives after its operand is read. -/
theorem fsumWork_ok {f : M3} {c c1 : Core} {fill : BitVec 3 → Bool} {a : List El} {ifl : Flags} {t : Ty} (ht : c.ty f.ty = t)
    (h1 : c.checkLocals (fpOf f.ln) [(f.od, 4, 4), (f.oa, fpOf f.ln, 4)] = .ok ())
    (h2 : c.readElems fill (fpOf f.ln) f.oa t (elemCount t f.ln) = .ok (c1, a, ifl)) :
    let r := c1.randoms (c.stochastic f.rm) (elemCount t f.ln - 1)
    fsumWork f c fill = .ok (r.2.finishFold f (fpOf f.ln) t [f.oa] ((readValid f.vp a).map fun l =>
      foldAdd t (c.effrm f.rm) (foldStart t (arg l 0)) ((l.drop 1).zip r.1)) ifl) := by
  subst ht
  exact bind_of_ok h1 (bind_of_ok h2 rfl)

/-- The product sum of FDOT's operands, none where one is invalid. -/
noncomputable def dotOf (t : Ty) (m : RMode) (rs : List W32) : Option (List Nat) → Option (List Nat) → Option (Nat × Flags)
  | some la, some lb => some (foldDot t m (fmul t m (rs.getD 0 0) (arg la 0) (arg lb 0)) ((la.drop 1).zip ((lb.drop 1).zip (rs.drop 1))))
  | _, _ => none

theorem fdotWork_ok {f : M3} {c c1 : Core} {fill : BitVec 3 → Bool} {a b : List El} {ifl : Flags} {t : Ty} (ht : c.ty f.ty = t)
    (h1 : c.checkLocals (fpOf f.ln) [(f.od, 4, 4), (f.oa, fpOf f.ln, 4), (f.ob, fpOf f.ln, 4)] = .ok ())
    (h2 : c.readAll fill (fpOf f.ln) t (elemCount t f.ln) [f.oa, f.ob] = .ok (c1, [a, b], ifl)) :
    let r := c1.randoms (c.stochastic f.rm) (elemCount t f.ln)
    fdotWork f c fill = .ok (r.2.finishFold f (fpOf f.ln) t [f.oa, f.ob]
      (dotOf t (c.effrm f.rm) r.1 (readValid f.vp a) (readValid f.vp b)) ifl) := by
  subst ht
  exact bind_of_ok h1 (bind_of_ok h2 rfl)

/-- A fold's result is computed, and only a queue destination pushes it. -/
theorem Core.Computed.finishFold (c : Core) (f : M3) (fp : Nat) (t : Ty) (srcs : List Operand) (x : Option (Nat × Flags)) (ifl : Flags) :
    Computed c (c.finishFold f fp t srcs x ifl).1 :=
  ((writeElems c fp f.od t _).trans (opIncs _ fp _)).trans (orFlags _ _)

theorem Core.Computed.cvtRead {c c1 : Core} {fill : BitVec 3 → Bool} {f : M3} {fp n : Nat} {src : Ty} {up : Bool} {xs : List (El × Val)}
    {fl : Flags} (h : c.cvtRead fill f fp src up n = .ok (c1, xs, fl)) : Computed c c1 := by
  unfold Core.cvtRead at h
  split at h
  · exact of_ok h (refl c)
  · split at h
    · split at h
      · cases h
      · exact of_ok h (readLanes ‹_›)
    · split at h
      · cases h
      · exact of_ok h (readElems ‹_›)

/-- FCVT to another type than a block, r the generator's values and the core that drew them. -/
noncomputable def cvtPlain (f : M3) (c : Core) (t src : Ty) (fp n : Nat) (xs : List (El × Val)) (ifl : Flags) (r : List W32 × Core) : Core × Push :=
  let res := (List.range n).map fun e =>
    combine f.vp [(xs.getD e (⟨0, false⟩, .nan)).1] fun l =>
      cvtElem src t (c.effrm f.rm) (c.effsat (cvtUses f)) (r.1.getD e 0) (arg l 0) (xs.getD e (⟨0, false⟩, .nan)).2
  r.2.finishWith fp f.od t (res.map (·.1)) [f.oa] (flagsOf res ||| (if res.any (·.1.v) then ifl else fNone))

/-- FCVT to a block of E2M1. -/
noncomputable def cvtBlock (f : M3) (c : Core) (src : Ty) (fp : Nat) (xs : List (El × Val)) (ifl : Flags) (r : List W32 × Core) : Core × Push :=
  let ok := xs.all fun x => (El.read f.vp x.1).v
  let o := toBlock (c.effrm f.rm) (xs.map (·.2)) r.1
  let sn := if isFloat src then (xs.map fun x => snanFlags src [(El.read f.vp x.1).b]).foldl (· ||| ·) fNone else fNone
  let w := r.2.writeLanes fp f.od ((blockLanes o.1 o.2.1).map fun x => ⟨x, if ok then BitVec.allOnes 32 else 0, ok⟩)
  ((w.1.opIncs fp [f.od, f.oa]).orFlags (if ok then o.2.2 ||| sn ||| ifl else fNone), w.2)

/-- FCVT from the source type that x names. -/
noncomputable def cvtFrom (f : M3) (c : Core) (fill : BitVec 3 → Bool) (x : Ty × Bool) : Except Exn (Core × Push) := do
  let t := c.ty f.ty
  let (s, up) := x
  c.checkLocals (fpOf f.ln) [(f.od, 4 * cvtLanes (cvtBytes t (cvtCount f t)), 4), (f.oa, 4 * cvtLanes (cvtBytes s (cvtCount f t)), 4)]
  let (c1, xs, ifl) ← c.cvtRead fill f (fpOf f.ln) s up (cvtCount f t)
  let r := c1.randoms (c.stochastic f.rm) (cvtCount f t)
  if t = .e2m1 then return cvtBlock f c s (fpOf f.ln) xs ifl r
  else return cvtPlain f c t s (fpOf f.ln) (cvtCount f t) xs ifl r

theorem fcvtWork_eq (f : M3) (c : Core) (fill : BitVec 3 → Bool) :
    fcvtWork f c fill = cvtFrom f c fill ((c.cvtSource f.fn).getD (.px, false)) := rfl

section
variable {f : M3} {c c1 : Core} {fill : BitVec 3 → Bool} {t src : Ty} {up : Bool} {xs : List (El × Val)} {ifl : Flags} (ht : c.ty f.ty = t)
  (hsrc : c.cvtSource f.fn = some (src, up))
  (h1 : c.checkLocals (fpOf f.ln) [(f.od, 4 * cvtLanes (cvtBytes t (cvtCount f t)), 4), (f.oa, 4 * cvtLanes (cvtBytes src (cvtCount f t)), 4)] = .ok ())
  (h2 : c.cvtRead fill f (fpOf f.ln) src up (cvtCount f t) = .ok (c1, xs, ifl))
include ht hsrc h1 h2

theorem fcvtWork_ok : fcvtWork f c fill = if t = .e2m1 then
      return cvtBlock f c src (fpOf f.ln) xs ifl (c1.randoms (c.stochastic f.rm) (cvtCount f t))
    else return cvtPlain f c t src (fpOf f.ln) (cvtCount f t) xs ifl (c1.randoms (c.stochastic f.rm) (cvtCount f t)) := by
  subst ht
  have hx : (c.cvtSource f.fn).getD (.px, false) = (src, up) := by rw [hsrc]; rfl
  exact (fcvtWork_eq f c fill).trans ((congrArg (cvtFrom f c fill) hx).trans (bind_of_ok h1 (bind_of_ok h2 rfl)))

end

end Sys2Proof.Machine

namespace Sys2Proof.Spec
open Machine Machine.Num
set_option Elab.async false

/-- Settles O4: the work, run through its reads, is the fold or the conversion of what was read. -/
theorem foldsAndConversionsComplete : Obligations.FoldsAndConversionsComplete := by
  refine ⟨?_, ?_, ?_⟩
  · intro f s c1 a ifl hr c t fp n hck hread hroom r x
    exact ends_room (i := .fsum f) rfl (shapeM3_legal hr.2) hr.1 (fsumWork_ok rfl hck hread)
      (((Core.Computed.readElems hread).trans (Core.Computed.randoms ..)).trans (Core.Computed.finishFold ..)) (fun _ _ h => Core.writeElems_push h) hroom
  · intro f s c1 a b ifl hr c t fp n m hck hread hroom r x
    exact ends_room (i := .fdot f) rfl (shapeM3_legal hr.2) hr.1 (fdotWork_ok rfl hck hread)
      (((Core.Computed.readAll hread).trans (Core.Computed.randoms ..)).trans (Core.Computed.finishFold ..)) (fun _ _ h => Core.writeElems_push h) hroom
  · intro f s c1 src up xs ifl hr hl c t fp n m hsrc hck hread hroom r
    have hw := fcvtWork_ok (f := f) rfl hsrc hck hread
    have hc : c.Computed r.2 := (Core.Computed.cvtRead hread).trans (Core.Computed.randoms ..)
    refine ⟨?_, ?_⟩
    · intro ht res
      exact ends_room (i := .fcvt f) rfl (congrArg (Shape.mk _ _ · _) hl) hr (hw.trans (if_neg ht))
        (hc.trans (Core.Computed.finishWith ..)) (fun _ _ h => Core.writeElems_push h) hroom
    · intro ht ok o sn w
      exact ends_room (i := .fcvt f) rfl (congrArg (Shape.mk _ _ · _) hl) hr (hw.trans (if_pos ht))
        (((hc.trans (Core.Computed.writeLanes ..)).trans (Core.Computed.opIncs ..)).trans (Core.Computed.orFlags ..))
        (fun _ _ h => Core.writeLanes_push h) hroom

end Sys2Proof.Spec
end

section
/-! PROOFS. The lane, validity and lane-moving instructions (R96, R98, R114 to R119). -/

namespace Sys2Proof.Machine
open Sys2Proof.Spec Sys2Proof.Machine.Num
set_option Elab.async false

theorem Core.orFlags_none (c : Core) : c.orFlags fNone = c := congrArg (fun x => { c with st := x }) BitVec.or_zero

/-- Results given by values and flags of which only the values are used: the elements go to `od` and no flag is set. -/
theorem Core.finishWith_map {α : Type} (c : Core) (fp : Nat) (od : Operand) (t : Ty) (l : List α) (g : α → El × Flags) (srcs : List Operand) :
    (let w := c.writeElems fp od t ((l.map g).map (·.1)); (w.1.opIncs fp (od :: srcs), w.2)) =
      c.finishWith fp od t (l.map fun e => (g e).1) srcs fNone := by
  rw [List.map_map, Core.finishWith, Core.orFlags_none]
  rfl

theorem Core.finishWith_none (c : Core) (fp : Nat) (od : Operand) (t : Ty) (els : List El) (srcs : List Operand) :
    (let w := c.writeElems fp od t els; (w.1.opIncs fp (od :: srcs), w.2)) = c.finishWith fp od t els srcs fNone := by
  rw [Core.finishWith, Core.orFlags_none]

section
variable {i : Instr} {f : M3} {legal : Ty → Bool} {w : Work} {s : State} {r : Core × Push}
  (he : exec i s = coreRow i (shapeM3 f legal) (onOwnCore w) s)
  (hr : s.canIssue i f.sp (f.ty == .px) [f.od, f.oa, f.ob, f.oc] = true ∧ legal ((s.core s.self).ty f.ty) = true)
include he hr

/-- An M3 instruction whose results go to OD with `finishWith` completes where OD has room. -/
theorem ends_finish {c1 : Core} {fp : Nat} {t : Ty} {els : List El} {srcs : List Operand} {fl : Flags}
    (hw : w (s.core s.self) (s.canFill s.self) = .ok (c1.finishWith fp f.od t els srcs fl)) (hc : (s.core s.self).Computed c1)
    (hroom : s.hasRoom s.self f.od = true) : ends s i f.sp (f.ty == .px) (c1.finishWith fp f.od t els srcs fl) :=
  ends_room he (shapeM3_legal hr.2) hr.1 hw (hc.trans (Core.Computed.finishWith ..)) (fun _ _ h => Core.writeElems_push h) hroom

/-- An M3 instruction whose results stay on the core completes. -/
theorem ends_quiet {c1 : Core} (hw : w (s.core s.self) (s.canFill s.self) = .ok (c1, none)) : ends s i f.sp (f.ty == .px) (c1, none) :=
  ends_work he (shapeM3_legal hr.2) hr.1 hw

end

/-! ### DOT4 -/

theorem dot4Op_eq (fn : BitVec 10) (m : RMode) (r : W32) : dot4Op fn m r = fun l =>
    (wrap 32 (toInt true 32 (arg l 2) + ((List.range 4).map fun j =>
      toInt (fn != 1) 8 (arg l 0 / 2 ^ (8 * j)) * toInt (fn == 0) 8 (arg l 1 / 2 ^ (8 * j))).sum), fNone) := by
  funext l
  rw [List.sum_eq_foldl, List.foldl_map]
  rfl

theorem Core.Computed.dot4Lanes {c c1 : Core} {fill : BitVec 3 → Bool} {fp n : Nat} {o : Operand} {l : List El}
    (h : c.dot4Lanes fill fp o n = .ok (c1, l)) : Computed c c1 := by
  unfold Core.dot4Lanes at h
  split at h
  · exact of_ok h (refl c)
  · exact of_ok h (refl c)
  · split at h
    · cases h
    · exact of_ok h (readLanes ‹_›)

section
variable {f : M3} {c c1 c2 c3 : Core} {fill : BitVec 3 → Bool} {fp n : Nat} {a b d : List El} {fl g : Flags} {t : Ty}

theorem dot4Work_ok (ht : c.ty f.ty = t) (hn : elemsFor f.od t f.ln = n)
    (hck : c.checkLocals (fpOf f.ln) [(f.od, 4 * n, 4), (f.oa, 4 * n, 4), (f.ob, 4 * n, 4), (f.oc, 4 * n, 4)] = .ok ())
    (ha : c.dot4Lanes fill (fpOf f.ln) f.oa n = .ok (c1, a)) (hb : c1.dot4Lanes fill (fpOf f.ln) f.ob n = .ok (c2, b))
    (hd : c2.readElems fill (fpOf f.ln) f.oc t n = .ok (c3, d, fl)) :
    dot4Work f c fill = .ok (c3.finishWith (fpOf f.ln) f.od t ((List.range n).map fun e =>
      (combine f.vp [a.getD e ⟨0, false⟩, b.getD e ⟨0, false⟩, d.getD e ⟨0, false⟩] (dot4Op f.fn .rne 0)).1)
      [f.oa, f.ob, f.oc] fNone) := by
  subst ht hn
  exact bind_of_ok hck (bind_of_ok ha (bind_of_ok hb (bind_of_ok hd (congrArg Except.ok (Core.finishWith_map ..)))))

/-! ### VCMP -/

/-- What VCMP writes: OD takes the elements that hold, the operands their increments, ST the flags. -/
noncomputable def vcmpOut (f : M3) (c : Core) (fp n : Nat) (t : Ty) (els : List El) (holds : List Bool) (fl : Flags) : Core × Push :=
  let w := match f.od with
    | .reg _ _ => c.writeElems fp f.od t ((els.zip holds).map fun (q : El × Bool) => ⟨q.1.b, q.1.v && q.2⟩)
    | _ => c.writeLanes fp f.od ((List.range (lanesFor t n)).map (vcmpLane t els holds))
  ((w.1.opIncs fp [f.od, f.oa, f.ob]).orFlags fl, w.2)

theorem vcmpOut_map {α : Type} (f : M3) (c : Core) (fp n : Nat) (t : Ty) (ifl : Flags) (l : List α) (g : α → El × Bool × Flags) :
    vcmpOut f c fp n t ((l.map g).map (·.1)) ((l.map g).map (·.2.1))
        (flagsOf ((l.map g).map fun x => (x.1, x.2.2)) ||| (if (l.map g).any (·.1.v) then ifl else fNone)) =
      vcmpOut f c fp n t (l.map fun e => (g e).1) (l.map fun e => (g e).2.1)
        (flagsOf (l.map fun e => ((g e).1, (g e).2.2)) ||| (if (l.map fun e => (g e).1).any (·.v) then ifl else fNone)) := by
  simp only [List.map_map, List.any_map]
  rfl

/-- One element of VCMP: the element where it holds, whether it holds, and its flags. -/
noncomputable def vcmpElem (f : M3) (t : Ty) (a b : List El) (e : Nat) : El × Bool × Flags :=
  let x := El.read f.vp (a.getD e ⟨0, false⟩)
  let y := El.read f.vp (b.getD e ⟨0, false⟩)
  (⟨x.b, x.v && y.v⟩, vcmpOp f.fn.toNat t x.b y.b)

theorem vcmpWork_ok (ht : c.ty f.ty = t) (hn : elemsFor f.od t f.ln = n)
    (hck : c.checkLocals (fpOf f.ln) [(f.od, 4 * lanesFor t n, 4), (f.oa, 4 * lanesFor t n, 4), (f.ob, 4 * lanesFor t n, 4)] = .ok ())
    (hread : c.readAll fill (fpOf f.ln) t n [f.oa, f.ob] = .ok (c1, [a, b], fl)) :
    vcmpWork f c fill = .ok (vcmpOut f c1 (fpOf f.ln) n t ((List.range n).map fun e => (vcmpElem f t a b e).1)
      ((List.range n).map fun e => (vcmpElem f t a b e).2.1) (flagsOf ((List.range n).map fun e => ((vcmpElem f t a b e).1, (vcmpElem f t a b e).2.2)) |||
        (if ((List.range n).map fun e => (vcmpElem f t a b e).1).any (·.v) then fl else fNone))) := by
  subst ht hn
  exact bind_of_ok hck (bind_of_ok hread (congrArg Except.ok (vcmpOut_map f c1 (fpOf f.ln) _ _ fl _ (vcmpElem f _ a b))))

theorem Core.Computed.vcmpOut (f : M3) (c : Core) (fp n : Nat) (t : Ty) (els : List El) (holds : List Bool) (fl : Flags) :
    Computed c (vcmpOut f c fp n t els holds fl).1 := by
  refine Computed.trans (Computed.trans ?_ (opIncs _ fp _)) (orFlags _ fl)
  split
  · exact writeElems c fp _ t _
  · exact writeLanes c fp _ _

theorem vcmpOut_push {els : List El} {holds : List Bool} {k : BitVec 3} {e : QEntry}
    (h : (vcmpOut f c fp n t els holds fl).2 = some (k, e)) : f.od = .queue k := by
  unfold vcmpOut at h
  dsimp only at h
  split at h
  · exact Core.writeElems_push h
  · exact Core.writeLanes_push h

/-! ### VSET and VCLR -/

/-- VSET and VCLR at the destination `o`, after the check of its address. -/
noncomputable def vsetBody (f : M3) (v : Bool) (c : Core) (fp : Nat) (o : Operand) : Except Exn (Core × Push) :=
  match o with
  | .acc => return ({ c with a := Vector.ofFn fun i =>
      let x := c.alane i.val; if i.val < f.ln.toNat + 1 then { x with v := v } else x }, none)
  | _ => do
    c.readable (c.opAddr fp o).toNat fp
    return ((c.spWrite (c.opAddr fp o).toNat ((c.spWords (c.opAddr fp o).toNat (f.ln.toNat + 1)).map fun x => { x with v := v })).opIncs fp [o], none)

/-- The core with the validity of the lanes of `o` replaced. -/
noncomputable def revalidAt (c : Core) (f : M3) (v : Bool) (o : Operand) : Core :=
  match o with
  | .acc => { c with a := Vector.ofFn fun k => if k.val < f.ln.toNat + 1 then { c.alane k.val with v := v } else c.alane k.val }
  | _ => (c.spWrite (c.opAddr (fpOf f.ln) o).toNat
      ((c.spWords (c.opAddr (fpOf f.ln) o).toNat (f.ln.toNat + 1)).map fun x => { x with v := v })).opIncs (fpOf f.ln) [o]

theorem vsetBody_ok {v : Bool} {o : Operand} (hs : isMem o = true → c.readable (c.opAddr (fpOf f.ln) o).toNat (fpOf f.ln) = .ok ())
    (ho : (isMem o || isAccOp o) = true) : vsetBody f v c (fpOf f.ln) o = .ok (revalidAt c f v o, none) := by
  induction o with
  | acc => rfl
  | mem | inc | off | incReg => exact bind_of_ok (hs rfl) rfl
  | queue | imm | reg => exact nomatch ho

theorem vsetWork_ok {v : Bool} (hl : vsetLegal f t = true) (hck : c.checkLocals (fpOf f.ln) [(f.od, fpOf f.ln, 4)] = .ok ())
    (hs : soundAt c (fpOf f.ln) f.od (fpOf f.ln)) : vsetWork f v c fill = .ok (revalid c f v, none) :=
  bind_of_ok hck (vsetBody_ok (fun h => if_pos (hs h)) (Bool.and_eq_true_iff.1 hl).2)

/-! ### The lane-moving instructions -/

theorem vcntWork_ok {l : List Lane} (hck : c.checkLocals (fpOf f.ln) [(f.od, 4, 4), (f.oa, fpOf f.ln, 4)] = .ok ())
    (hread : c.readLanes fill (fpOf f.ln) f.oa (f.ln.toNat + 1) = .ok (c1, l)) :
    vcntWork f c fill = .ok (c1.finishWith (fpOf f.ln) f.od .u32 [⟨(l.filter (·.v)).length, true⟩] [f.oa] fNone) := by
  refine bind_of_ok hck (bind_of_ok hread ?_)
  rw [← Core.finishWith_none]
  rfl

theorem shufWork_ok (ht : c.ty f.ty = t) (hn : elemsFor f.od t f.ln = n)
    (hck : c.checkLocals (fpOf f.ln) [(f.od, 4 * lanesFor t n, 4), (f.oa, 4 * lanesFor t n, 4), (f.ob, 4 * lanesFor t n, 4)] = .ok ())
    (hread : c.readAll fill (fpOf f.ln) t n [f.oa, f.ob] = .ok (c1, [a, b], fl)) :
    shufWork f c fill = .ok (c1.finishWith (fpOf f.ln) f.od t ((List.range n).map fun j =>
      (combine f.vp [a.getD ((El.read f.vp (b.getD j ⟨0, false⟩)).b % n) ⟨0, false⟩, b.getD j ⟨0, false⟩] fun l => (arg l 0, fNone)).1)
      [f.oa, f.ob] fNone) := by
  subst ht hn
  exact bind_of_ok hck (bind_of_ok hread (congrArg Except.ok (Core.finishWith_map ..)))

theorem bcastWork_ok (ht : c.ty f.ty = t) (hn : elemsFor f.od t f.ln = n)
    (hck : c.checkLocals (fpOf f.ln) [(f.od, 4 * lanesFor t n, 4), (f.oa, 4 * lanesFor t n, 4)] = .ok ())
    (hread : c.readElems fill (fpOf f.ln) f.oa t n = .ok (c1, a, fl)) :
    bcastWork f c fill = .ok (c1.finishWith (fpOf f.ln) f.od t (List.replicate n
      (combine f.vp [a.getD (c.bcastIndex f.ob n) ⟨0, false⟩] fun l => (arg l 0, fNone)).1) [f.oa] fNone) := by
  subst ht hn
  exact bind_of_ok hck (bind_of_ok hread (congrArg Except.ok (Core.finishWith_none ..)))

/-- One element of PACK with its flags. -/
noncomputable def packElem (f : M3) (t : Ty) (n : Nat) (a b : List El) (e : Nat) : El × Flags :=
  combine f.vp [if 2 * e < n then a.getD e ⟨0, false⟩ else b.getD (e - n / 2) ⟨0, false⟩] fun l =>
    if f.fn = 0 then (arg l 0 % 2 ^ width t, fNone) else satInt (isSigned t) (width t) (iv (twice t) (arg l 0))

theorem packWork_ok (ht : c.ty f.ty = t) (hn : elemsFor f.od t f.ln = n)
    (hck : c.checkLocals (fpOf f.ln) [(f.od, 4 * lanesFor t n, 4), (f.oa, 4 * lanesFor (twice t) ((n + 1) / 2), 4),
      (f.ob, 4 * lanesFor (twice t) ((n + 1) / 2), 4)] = .ok ())
    (ha : c.readElems fill (fpOf f.ln) f.oa (twice t) ((n + 1) / 2) = .ok (c1, a, fl))
    (hb : c1.readElems fill (fpOf f.ln) f.ob (twice t) ((n + 1) / 2) = .ok (c2, b, g)) :
    packWork f c fill = .ok (c2.finishWith (fpOf f.ln) f.od t (((List.range n).map (packElem f t n a b)).map (·.1)) [f.oa, f.ob]
      (flagsOf ((List.range n).map (packElem f t n a b)))) := by
  subst ht hn
  exact bind_of_ok hck (bind_of_ok ha (bind_of_ok hb rfl))

theorem unpkWork_ok (ht : c.ty f.ty = t) (hn : elemsFor f.od t f.ln = n)
    (hck : c.checkLocals (fpOf f.ln) [(f.od, 4 * lanesFor t n, 4), (f.oa, 4 * lanesFor (half t) (2 * n), 4)] = .ok ())
    (hread : c.readElems fill (fpOf f.ln) f.oa (half t) (2 * n) = .ok (c1, a, fl)) :
    unpkWork f c fill = .ok (c1.finishWith (fpOf f.ln) f.od t ((List.range n).map fun e =>
      (combine f.vp [a.getD (if f.fn = 0 then e else n + e) ⟨0, false⟩] fun l => (wrap (width t) (iv (half t) (arg l 0)), fNone)).1)
      [f.oa] fNone) := by
  subst ht hn
  exact bind_of_ok hck (bind_of_ok hread (congrArg Except.ok (Core.finishWith_map ..)))

/-! ### LGATH and LSCAT -/

theorem Core.Computed.wakeGath (c : Core) (l : List (Option W64)) : Computed c (c.wakeGath l) :=
  foldl (fun c x => by induction x <;> [exact refl c; exact wakeBanks c _ 4]) l c

/-- One element of LGATH: the word that its index names, none where it names none. -/
noncomputable def gathElem (vp : Vp) (c : Core) (x : Option W64) : El × Flags :=
  match x with
  | some a => combine vp [⟨(c.spGet a.toNat).w.toNat, (c.spGet a.toNat).v⟩] fun l => (arg l 0, fNone)
  | none => (⟨0, false⟩, fNone)

theorem gathElem_fst (vp : Vp) (c : Core) (x : Option W64) : (gathElem vp c x).1 = match x with
    | some a => (combine vp [⟨(c.spGet a.toNat).w.toNat, (c.spGet a.toNat).v⟩] fun l => (arg l 0, fNone)).1
    | none => ⟨0, false⟩ := by
  induction x <;> rfl

variable {addrs : List (Option W64)}

theorem lgathWork_ok (ht : c.ty f.ty = t) (hn : elemsFor f.od t f.ln = n) (hck : c.checkLocals (fpOf f.ln) [(f.od, 4 * n, 4)] = .ok ())
    (hal : (c.opAddr (fpOf f.ln) f.oa).toNat % 4 = 0) (hck2 : c.checkLocals (fpOf f.ln) [(f.ob, 4 * n, 4)] = .ok ())
    (hread : c.readElems fill (fpOf f.ln) f.ob .u32 n = .ok (c1, b, g))
    (hx : (List.range n).map (fun j => gathAddr (c.opAddr (fpOf f.ln) f.oa) f.vp (b.getD j ⟨0, false⟩)) = addrs)
    (hg : c.checkGath addrs = .ok ()) (hs : c.readableGath addrs = .ok ()) :
    lgathWork f c fill = .ok ((c1.wakeGath addrs).finishWith (fpOf f.ln) f.od t ((List.range n).map fun j =>
      (gathElem f.vp (c1.wakeGath addrs) (addrs.getD j none)).1) [f.oa, f.ob] fNone) := by
  subst ht hn hx
  exact bind_of_ok hck ((if_neg (not_not_intro hal)).trans (bind_of_ok hck2 (bind_of_ok hread (bind_of_ok hg (bind_of_ok hs
    (congrArg Except.ok (Core.finishWith_map ..)))))))

theorem lscatWork_ok (ht : c.ty f.ty = t) (hal : (c.opAddr (fpOf f.ln) f.od).toNat % 4 = 0)
    (hck : c.checkLocals (fpOf f.ln) [(f.oa, 4 * (f.ln.toNat + 1), 4), (f.ob, 4 * (f.ln.toNat + 1), 4)] = .ok ())
    (ha : c.readElems fill (fpOf f.ln) f.oa t (f.ln.toNat + 1) = .ok (c1, a, fl))
    (hb : c1.readElems fill (fpOf f.ln) f.ob .u32 (f.ln.toNat + 1) = .ok (c2, b, g))
    (hx : (List.range (f.ln.toNat + 1)).map (fun j => gathAddr (c.opAddr (fpOf f.ln) f.od) f.vp (b.getD j ⟨0, false⟩)) = addrs)
    (hg : c.checkGath addrs = .ok ()) :
    lscatWork f c fill = .ok (((List.range (f.ln.toNat + 1)).foldl (fun c j => match addrs.getD j none with
      | some x => c.spWrite x.toNat [⟨if ((a.map (El.read f.vp)).getD j ⟨0, false⟩).v then
          BitVec.ofNat 32 ((a.map (El.read f.vp)).getD j ⟨0, false⟩).b else (c.spGet x.toNat).w, ((a.map (El.read f.vp)).getD j ⟨0, false⟩).v⟩]
      | none => c) c2).opIncs (fpOf f.ln) [f.od, f.oa, f.ob], none) := by
  subst ht hx
  exact (if_neg (not_not_intro hal)).trans (bind_of_ok hck (bind_of_ok ha (bind_of_ok hb (bind_of_ok hg rfl))))

end

end Sys2Proof.Machine

namespace Sys2Proof.Spec
open Machine Machine.Num
set_option Elab.async false

/-- Settles O3: each row's work, run through its reads, gives the elements named. -/
theorem laneInstructionsComplete : Obligations.LaneInstructionsComplete := by
  refine ⟨?_, ?_, ?_, ?_, ?_, ?_, ?_, ?_, ?_, ?_, ?_, ?_⟩
  · intro f s c1 c2 c3 a b d fl hr c fp n hck ha hb hd hroom
    have hw := dot4Work_ok rfl rfl hck ha hb hd
    rw [dot4Op_eq] at hw
    exact ends_finish (i := .dot4 f) rfl hr hw (((Core.Computed.dot4Lanes ha).trans (.dot4Lanes hb)).trans (.readElems hd)) hroom
  · intro f s hr c n hck hroom
    exact ends_finish (i := .tags f) rfl hr (bind_of_ok hck (congrArg Except.ok (Core.finishWith_none ..))) (.refl c) hroom
  · intro f s c1 a b ifl hr c t fp n by4 hck hread hroom x y els holds fl w
    exact ends_room (i := .vcmp f) rfl (shapeM3_legal hr.2) hr.1 (vcmpWork_ok rfl rfl hck hread)
      ((Core.Computed.readAll hread).trans (.vcmpOut ..)) (fun _ _ h => vcmpOut_push h) hroom
  · intro f s hr hck hs
    exact ends_quiet (i := .vset f) rfl hr (vsetWork_ok hr.2 hck hs)
  · intro f s hr hck hs
    exact ends_quiet (i := .vclr f) rfl hr (vsetWork_ok hr.2 hck hs)
  · intro f s c1 l hr c fp hck hread hroom
    exact ends_finish (i := .vcnt f) rfl hr (vcntWork_ok hck hread) (.readLanes hread) hroom
  · intro f s c1 a b ifl hr c t fp n by4 hck hread hroom els
    exact ends_finish (i := .shuf f) rfl hr (shufWork_ok rfl rfl hck hread) (.readAll hread) hroom
  · intro f s c1 a ifl hr c t fp n by4 hck hread hroom r
    exact ends_finish (i := .bcast f) rfl hr (bcastWork_ok rfl rfl hck hread) (.readElems hread) hroom
  · intro f s c1 c2 a b g1 g2 hr c t fp n h hck ha hb hroom res
    exact ends_finish (i := .pack f) rfl hr (packWork_ok rfl rfl hck ha hb) ((Core.Computed.readElems ha).trans (.readElems hb)) hroom
  · intro f s c1 a g1 hr c t fp n hck hread hroom
    exact ends_finish (i := .unpk f) rfl hr (unpkWork_ok rfl rfl hck hread) (.readElems hread) hroom
  · intro f s c1 b g1 hr c fp n base hck hal hck2 hread addrs hg hs hroom c2
    have hw := lgathWork_ok rfl rfl hck hal hck2 hread rfl hg hs
    simp only [gathElem_fst] at hw
    exact ends_finish (i := .lgath f) rfl hr hw ((Core.Computed.readElems hread).trans (.wakeGath ..)) hroom
  · intro f s c1 c2 a b ifl g2 hr c t fp n base hal hck ha hb addrs hg d c3
    exact ends_quiet (i := .lscat f) rfl hr (lscatWork_ok rfl hal hck ha hb rfl hg)

end Sys2Proof.Spec
end

section
/-! PROOFS. What a compute instruction that retires leaves alone (R84 to R120). -/

namespace Sys2Proof.Machine
open Sys2Proof.Spec Sys2Proof.Machine.Num
set_option Elab.async false

/-! ### A fault does not retire its instruction -/

/-- Every core stands at the slot where it stood. -/
structure State.KeepsPc (s t : State) : Prop where
  sorted : KV.sorted s.cores = true → KV.sorted t.cores = true
  pc : KV.sorted s.cores = true → ∀ k, (t.core k).pc = (s.core k).pc

namespace State.KeepsPc
variable {s t u : State}

theorem refl (s : State) : KeepsPc s s := ⟨id, fun _ _ => rfl⟩

theorem trans (h : KeepsPc s t) (k : KeepsPc t u) : KeepsPc s u :=
  ⟨fun hs => k.sorted (h.sorted hs), fun hs j => (k.pc (h.sorted hs) j).trans (h.pc hs j)⟩

theorem noted {keep : Bool} {P : Nat → Prop} (h : State.Noted keep P s t) : KeepsPc s t :=
  ⟨h.sorted, fun hs k => by obtain ⟨⟨_, _, _, _, _, _, he⟩, -⟩ := h.noted hs k; rw [he]; rfl⟩

theorem of_cores (h : t.cores = s.cores) : KeepsPc s t := noted (keep := true) (P := fun _ => True) (.of_eq h)

theorem kill (s : State) (asid : W16) (cause : Nat) (code : Byte) : KeepsPc s (s.kill asid cause code) :=
  of_cores (State.kill_rest s asid cause code).2.2.2

theorem setCore {g : Nat} {c : Core} (hc : c.pc = (s.core g).pc) : KeepsPc s (s.setCore g c) := by
  refine ⟨fun hs => State.sorted_setCore hs g c, fun hs k => ?_⟩
  by_cases hk : k = g
  · rw [hk, State.core_setCore_self hs]; exact hc
  · rw [State.core_setCore_ne hk]

theorem modCore {f : Core → Core} (hf : ∀ c, (f c).pc = c.pc) (s : State) (g : Nat) : KeepsPc s (s.modCore g f) := setCore (hf _)

theorem foldl {α : Type} {f : State → α → State} (h : ∀ s x, KeepsPc s (f s x)) (l : List α) (s : State) : KeepsPc s (l.foldl f s) := by
  induction l generalizing s with
  | nil => exact refl s
  | cons x l ih => exact (h s x).trans (ih _)

theorem strayStore (s : State) (n : Nat) (r : Region) (p : Packet) : KeepsPc s (s.strayStore n r p).2 :=
  noted (keep := true) (P := fun _ => True) (.strayStore ..)

end State.KeepsPc

theorem Core.discard_pc (c : Core) : c.discard.1.pc = c.pc := by
  unfold Core.discard
  split <;> rfl

theorem Core.undo_pc (c : Core) : c.undo.pc = c.pc := by
  obtain ⟨sp, bad, h⟩ := Core.putBack_withSpad c.discard.1 c.discard.1.journal
  exact (congrArg Core.pc h).trans c.discard_pc

/-- A rollback without its activation's trigger in its queue again: the report, or the kill that a report's own trigger brings (R433, R435). -/
noncomputable def State.lastTry (s s2 : State) (g home : Nat) (a : Act) (code : FCode) (pcf addr : W64) (nm ne tries : Nat) : State :=
  if a.report then s2.kill (recAsid ((s.core g).curRec)) 3 code.code
  else
    match s.region a.rid with
    | none => s2
    | some r =>
      let st := s2.strayStore (g / 64) r a.trig
      let rep := { Report.of 1 code.code with
                   pc := pcf, addr := addr, key := a.key, lcn := a.lcn, ent := ne, msg := nm, tries := tries
                   sidx := match st.1 with
                     | some k => BitVec.ofNat 32 k
                     | none => 0xFFFFFFFF }
      ((st.2.addSpc (home / 64) a.rid (-1)).countRecv (home / 64) a.rid 1).report g a.rid rep

/-- The activations of cores `l` undone, with what they had fetched where `p` holds (R301, R427). -/
noncomputable def State.undoneAll (s : State) (p : Prop) [Decidable p] (l : List Nat) : State :=
  let s1 := l.foldl (fun t k => t.modCore k Core.undone) s
  if p then l.foldl (fun t k => t.modCore k Core.dropLines) s1 else s1

/-- The rollback of the activation `a`, whose trigger `b` came to core `home`. -/
noncomputable def State.rollbackOf (s : State) (g home : Nat) (l : List Nat) (a b : Act) (code : FCode) (pcf addr : W64) (fetched : Bool)
    (nm ne : Nat) : State :=
  if code = .logfull ∨ code = .spawn ∨ 4 ≤ a.tries + 1 then
    s.lastTry (l.foldl (fun u k => u.noteWaits k) ((s.undoneAll False l).modCore home fun c => c.leave b)) g home a code pcf addr nm ne (a.tries + 1)
  else l.foldl (fun u k => u.noteWaits k) ((s.undoneAll (refetches code fetched = true) l).modCore home fun c => c.redeliver b)

theorem State.rollback_eq (s : State) (g : Nat) (code : FCode) (pcf addr : W64) (fetched : Bool) :
    s.rollback g code pcf addr fetched = match (s.core g).act with
      | none => s
      | some a => s.rollbackOf g (s.trigCore g) (s.actCores g) a ((s.core (s.trigCore g)).act.getD a) code pcf addr fetched
          ((s.actCores g).map fun k => (s.core k).discard.2.1).sum ((s.actCores g).map fun k => (s.core k).discard.2.2).sum := rfl

namespace State.KeepsPc
variable {s t : State}

theorem ite {p : Prop} [Decidable p] {u : State} (h : KeepsPc s t) (k : KeepsPc s u) : KeepsPc s (if p then t else u) := by
  by_cases hp : p
  · rw [if_pos hp]; exact h
  · rw [if_neg hp]; exact k

theorem noteAll (l : List Nat) (s : State) : KeepsPc s (l.foldl (fun t k => t.noteWaits k) s) :=
  .foldl (fun s _ => .noted (keep := true) (P := fun _ => True) (.noteWaits s trivial fun _ _ => trivial)) l s

theorem undoneAll (s : State) (p : Prop) [Decidable p] (l : List Nat) : KeepsPc s (s.undoneAll p l) := by
  have h := foldl (fun s k => modCore (f := Core.undone) Core.undo_pc s k) l s
  exact ite (h.trans (foldl (fun s k => modCore (f := Core.dropLines) (fun _ => rfl) s k) l _)) h

theorem lastTry (h : KeepsPc s t) (g home : Nat) (a : Act) (code : FCode) (pcf addr : W64) (nm ne tries : Nat) :
    KeepsPc s (s.lastTry t g home a code pcf addr nm ne tries) := by
  refine ite (h.trans (kill ..)) ?_
  split
  · exact h
  · exact (h.trans (strayStore ..)).trans ((of_cores (State.cores_counted ..)).trans
      (noted (keep := false) (P := fun _ => True) (.report ..)))

end State.KeepsPc

theorem State.rollback_keepsPc (s : State) (g : Nat) (code : FCode) (pcf addr : W64) (fetched : Bool) :
    State.KeepsPc s (s.rollback g code pcf addr fetched) := by
  rw [State.rollback_eq]
  generalize s.trigCore g = home, s.actCores g = l
  rcases (s.core g).act with _ | a
  · exact .refl s
  · refine .ite (.lastTry (((State.KeepsPc.undoneAll ..).trans (.modCore (fun c => ?_) _ _)).trans (.noteAll ..)) ..)
      (((State.KeepsPc.undoneAll ..).trans (.modCore (fun c => ?_) _ _)).trans (.noteAll ..))
    · obtain ⟨r, h⟩ := Core.leave_eq c _
      rw [h]; rfl
    · obtain ⟨r, h⟩ := Core.redeliver_eq c _
      rw [h]; rfl

/-- Core g stands where it stood, or entered a slot by a transfer. -/
noncomputable def State.Unretired (g : Nat) (s t : State) : Prop := (t.core g).pc = (s.core g).pc ∨ (t.core g).entered ≠ .seq

theorem State.Unretired.not_retires {s t : State} (h : State.Unretired s.self s t) : ¬ retires s t :=
  fun hr => h.elim hr.2 (· hr.1)

section
variable {s t u : State} {g : Nat} (hs : KV.sorted s.cores = true)
include hs

theorem State.KeepsPc.unretired (h : State.KeepsPc s t) : State.Unretired g s t := .inl (h.pc hs g)

theorem State.KeepsPc.unretired_of (h : State.KeepsPc s t) (hu : State.Unretired g t u) : State.Unretired g s u :=
  hu.imp_left fun hpc => hpc.trans (h.pc hs g)

theorem State.escalate_unretired (code : FCode) (resume pcf addr : W64) (crc : W16) :
    State.Unretired g s (s.escalate g code resume pcf addr crc) := by
  have hescalate : s.escalate g code resume pcf addr crc = match (s.core g).act with
      | none => s
      | some a => match s.region a.rid with
        | none => s.setCore g ((s.core g).struckBy pcf)
        | some r => s.escalateTo g (s.handler (g / 64) r r.fhix) code resume pcf addr crc := rfl
  have hstruck : State.KeepsPc s (s.setCore g ((s.core g).struckBy pcf)) := .setCore (s.core g).discard_pc
  have hsaved : State.KeepsPc s (s.trapSaved g resume pcf addr crc code.code) := 
    hstruck.trans (.modCore (f := fun c => c.saveTrap resume addr crc 0 code.code) (fun _ => rfl) _ g)
  rw [hescalate]
  rcases (s.core g).act with _ | a
  · exact .inl rfl
  · dsimp only
    rcases s.region a.rid with _ | r
    · exact hstruck.unretired hs
    · dsimp only
      rcases s.handler (g / 64) r r.fhix with _ | e
      · exact (hsaved.trans (.kill ..)).unretired hs
      · by_cases he : (!e.sup) = true
        · rw [State.escalateTo, if_pos he]
          exact (hsaved.trans (.kill ..)).unretired hs
        · refine .inr ?_
          rw [State.escalateTo, if_neg he, State.core_modCore_self (State.sorted_setCore hs g _)]
          exact nofun

theorem State.fault_unretired (code : FCode) (resume pcf addr : W64) (crc : W16) (fetched : Bool) :
    State.Unretired g s (s.fault g code resume pcf addr crc fetched) := by
  unfold State.fault
  dsimp only
  split
  · exact .inl rfl
  · split
    · exact (State.rollback_keepsPc ..).unretired hs
    · split
      · exact State.escalate_unretired hs ..
      · exact (State.KeepsPc.kill ..).unretired hs

theorem State.faultAt_unretired (code : FCode) (addr : W64) (fetched : Bool) : State.Unretired g s (s.faultAt g code addr fetched) := by
  have hwait : State.KeepsPc s (s.modCore g fun c => { c with wait := .none }) :=
    .modCore (f := fun c => { c with wait := .none }) (fun _ => rfl) s g
  have hfault (code : FCode) (resume pcf addr : W64) (crc : W16) := hwait.unretired_of hs
    (State.fault_unretired (g := g) (hwait.sorted hs) code resume pcf addr crc fetched)
  unfold State.faultAt
  dsimp only
  generalize (s.core g).entered = e
  induction code with
  | cfv => induction e <;> exact hfault ..
  | _ => exact hfault ..

end

/-! ### The issue of an instruction that retires -/

section
variable {i : Instr} {h : Core → Shape} {body : State → Except Exn Res} {s t : State}

/-- The core in hand stands where it stood or entered a slot by a transfer, or the instruction's body is done and it retires. -/
noncomputable def State.Issued (i : Instr) (body : State → Except Exn Res) (s t : State) : Prop :=
  State.Unretired s.self s t ∨ ∃ u uses live, body s = .ok (.done u) ∧
    t = (u.chargeFor s.self i).modCore s.self fun c => c.retire i false uses live

theorem State.Issued.ite {p : Prop} [Decidable p] {u : State} (ht : State.Issued i body s t) (hu : State.Issued i body s u) :
    State.Issued i body s (if p then t else u) := by
  by_cases hp : p
  · rw [if_pos hp]; exact ht
  · rw [if_neg hp]; exact hu

theorem issue_issued (hs : KV.sorted s.cores = true) (hb : ∀ r, body s = .ok r → ∃ u, r = .done u) : State.Issued i body s (issue i h body s) := by
  have hfault (f : FCode) (a : W64) : State.Issued i body s (s.faultAt s.self f a) := .inl (State.faultAt_unretired hs f a false)
  have hwait (f : Core → Core) (hf : ∀ c, (f c).pc = c.pc) : State.Issued i body s (s.modCore s.self f) :=
    .inl ((State.KeepsPc.modCore hf s s.self).unretired hs)
  have hpp : State.KeepsPc s (s.modCore s.self fun c => c.setPp false) := .modCore (f := fun c => c.setPp false) (fun _ => rfl) s _
  unfold issue
  refine .ite (.inl (.inl rfl)) (.ite (hwait (fun c => { c with wait := .again }) fun _ => rfl) ?_)
  rcases (s.core s.self).entryFault with _ | f
  · dsimp only
    rcases (if (h (s.core s.self)).sp = true then ((s.core s.self).liveAfter (s.core s.self).pc).map some else .ok none) with (⟨f, a⟩ | _) | live
    · exact hfault f a
    · exact .inl (.inl rfl)
    · refine .ite (hfault _ _) (.ite (.inl (hpp.unretired_of hs (State.faultAt_unretired (hpp.sorted hs) ..)))
        (.ite (hfault _ _) (.ite (.inl (.inl rfl)) ?_)))
      rcases hr : body s with (⟨f, a⟩ | _) | r
      · exact hfault f a
      · exact hwait (fun c => { c with wait := if c.wait = .none then .again else c.wait }) fun _ => rfl
      · obtain ⟨u, rfl⟩ := hb r hr
        exact .inr ⟨u, _, _, hr, rfl⟩
  · exact hfault f 0

end

/-! ### What the work of a compute instruction leaves of its core -/

/-- What a compute instruction leaves of its core: the rest of ST, the log, the messages and the accesses in flight, the special
registers where `p` holds; flags are only added. -/
structure Core.Kept (p : Prop) (c d : Core) : Prop where
  specials : p → d.specials = c.specials
  rest : d.statusRest = c.statusRest
  added : ∀ k, k < 8 → c.st.getLsbD k = true → d.st.getLsbD k = true
  log : d.log = c.log
  msgs : d.msgs = c.msgs
  pend : d.pend = c.pend
  gmask : d.gmask = c.gmask

theorem Core.Computed.kept {c d : Core} (h : Core.Computed c d) (p : Prop) : Core.Kept p c d :=
  ⟨fun _ => h.specials, h.rest, h.added, h.log, h.msgs, h.pend, h.gmask⟩

theorem Core.Kept.trans {p : Prop} {c d e : Core} (h : Core.Kept p c d) (k : Core.Kept p d e) : Core.Kept p c e :=
  ⟨fun hp => (k.specials hp).trans (h.specials hp), k.rest.trans h.rest, fun j hj hb => k.added j hj (h.added j hj hb), k.log.trans h.log,
    k.msgs.trans h.msgs, k.pend.trans h.pend, k.gmask.trans h.gmask⟩

theorem Core.Kept.of_ok {p : Prop} {c d : Core} {q : Push} {r : Core × Push} (h : (Except.ok (d, q) : Except Exn (Core × Push)) = .ok r)
    (hd : Core.Kept p c d) : Core.Kept p c r.1 := Except.ok.inj h ▸ hd

/-- The bit PP is no flag, and not of the rest of ST. -/
theorem Core.setPp_kept (p : Prop) (c : Core) (b : Bool) : Core.Kept p c (c.setPp b) := by
  have hbit {k : Nat} (hk : k < 32) (hne : k ≠ 13) : (c.setPp b).st.getLsbD k = c.st.getLsbD k :=
    (getLsbD_putField c.st 13 1 b.toNat hk).trans (if_neg fun h => hne (Nat.le_antisymm (Nat.lt_succ_iff.1 h.2) h.1))
  refine ⟨fun _ => rfl, BitVec.eq_of_getLsbD_eq fun k hk => ?_, fun k hk h => (hbit (hk.trans (by decide)) ?_).trans h, rfl, rfl, rfl, rfl⟩
  · rw [Core.statusRest, Core.statusRest, BitVec.getLsbD_and, BitVec.getLsbD_and]
    by_cases hne : k = 13
    · rw [hne, show (0xFFFFDF20 : W32).getLsbD 13 = false from rfl, Bool.and_false, Bool.and_false]
    · rw [hbit hk hne]
  · rintro rfl
    exact absurd hk (by decide)

theorem Core.retire_kept (p : Prop) (c : Core) (i : Instr) (uses : Bool) (live : Option (BitVec 18)) :
    Core.Kept p c (c.retire i false uses live) := by
  induction uses with
  | false => exact ⟨fun _ => rfl, rfl, fun _ _ h => h, rfl, rfl, rfl, rfl⟩
  | true => exact (Core.setPp_kept p c false).trans ⟨fun _ => rfl, rfl, fun _ _ h => h, rfl, rfl, rfl, rfl⟩

/-- Flags that were set are still set. -/
theorem Core.Kept.flags {p : Prop} {c d : Core} (h : Core.Kept p c d) : c.st &&& 0xFF &&& ~~~d.st = 0 := by
  refine BitVec.eq_of_getLsbD_eq fun k hk => Eq.trans ?_ BitVec.getLsbD_zero.symm
  have hmask : ∀ k, k < 32 → (0xFF : W32).getLsbD k = decide (k < 8) := by decide
  rw [BitVec.getLsbD_and, BitVec.getLsbD_and, BitVec.getLsbD_not, hmask k hk]
  by_cases hk8 : k < 8
  · rcases hc : c.st.getLsbD k with _ | _
    · rfl
    · rw [h.added k hk8 hc, Bool.not_true, Bool.and_false, Bool.and_false]
  · rw [decide_eq_false hk8, Bool.and_false, Bool.false_and]

/-! ### The work of the compute instructions -/

/-- Whatever the step gives comes from `c` by reads, results, post-increments and flags. -/
def Core.Keeps (c : Core) (x : Except Exn (Core × Push)) : Prop := ∀ r, x = .ok r → Core.Computed c r.1

namespace Core.Keeps
variable {c d : Core} {fill : BitVec 3 → Bool} {fp n : Nat} {o : Operand} {t : Ty}

theorem ok {r : Core × Push} (h : Computed c r.1) : Keeps c (.ok r) := fun _ hr => Except.ok.inj hr ▸ h

theorem bind {β : Type} {x : Except Exn β} {k : β → Except Exn (Core × Push)} (h : ∀ b, x = .ok b → Keeps c (k b)) : Keeps c (x >>= k) := by
  intro r hr
  obtain ⟨b, hb, hk⟩ := except_bind_eq_ok.1 hr
  exact h b hb r hk

/-- A check leaves the core as it is. -/
theorem check {x : Except Exn Unit} {k : Unit → Except Exn (Core × Push)} (h : Keeps c (k ())) : Keeps c (x >>= k) := bind fun _ _ => h

theorem readElems (hd : Computed c d) {k : Core × List El × Flags → Except Exn (Core × Push)}
    (h : ∀ c1 l fl, Computed c c1 → Keeps c (k (c1, l, fl))) : Keeps c (d.readElems fill fp o t n >>= k) :=
  bind fun b hb => h b.1 b.2.1 b.2.2 (hd.trans (.readElems hb))

theorem readAll {os : List Operand} {k : Core × List (List El) × Flags → Except Exn (Core × Push)}
    (h : ∀ c1 l fl, Computed c c1 → Keeps c (k (c1, l, fl))) : Keeps c (c.readAll fill fp t n os >>= k) :=
  bind fun b hb => h b.1 b.2.1 b.2.2 (.readAll hb)

theorem readLanes {k : Core × List Lane → Except Exn (Core × Push)}
    (h : ∀ c1 l, Computed c c1 → Keeps c (k (c1, l))) : Keeps c (c.readLanes fill fp o n >>= k) :=
  bind fun b hb => h b.1 b.2 (.readLanes hb)

theorem cvtRead {f : M3} {src : Ty} {up : Bool} {k : Core × List (El × Val) × Flags → Except Exn (Core × Push)}
    (h : ∀ c1 l fl, Computed c c1 → Keeps c (k (c1, l, fl))) : Keeps c (c.cvtRead fill f fp src up n >>= k) :=
  bind fun b hb => h b.1 b.2.1 b.2.2 (.cvtRead hb)

theorem ite {p : Prop} [Decidable p] {x y : Except Exn (Core × Push)} (hx : Keeps c x) (hy : Keeps c y) : Keeps c (if p then x else y) := by
  by_cases hp : p
  · rw [if_pos hp]; exact hx
  · rw [if_neg hp]; exact hy

theorem error (e : Exn) : Keeps c (.error e) := fun _ h => nomatch h

theorem dot4Lanes (hd : Computed c d) {k : Core × List El → Except Exn (Core × Push)}
    (h : ∀ c1 l, Computed c c1 → Keeps c (k (c1, l))) : Keeps c (d.dot4Lanes fill fp o n >>= k) :=
  bind fun b hb => h b.1 b.2 (hd.trans (.dot4Lanes hb))

/-- The results go to the destination, then the pointers move on. -/
theorem write (hd : Computed c d) {els : List El} {ops : List Operand} :
    Keeps c (do let (e, p) := d.writeElems fp o t els; return (e.opIncs fp ops, p)) :=
  ok ((hd.trans (.writeElems ..)).trans (.opIncs ..))

theorem writeFlags (hd : Computed c d) {els : List El} {ops : List Operand} {fl : Flags} :
    Keeps c (do let (e, p) := d.writeElems fp o t els; return ((e.opIncs fp ops).orFlags fl, p)) :=
  ok (((hd.trans (.writeElems ..)).trans (.opIncs ..)).trans (.orFlags ..))

end Core.Keeps

section
variable {f : M3} {c : Core} {fill : BitVec 3 → Bool}

theorem dot4Work_keeps : c.Keeps (dot4Work f c fill) :=
  .check (.dot4Lanes (.refl c) fun _ _ h1 => .dot4Lanes h1 fun _ _ h2 => .readElems h2 fun _ _ _ h3 => .write h3)

theorem tagsWork_keeps : c.Keeps (tagsWork f c fill) := .check (.write (.refl c))

theorem shufWork_keeps : c.Keeps (shufWork f c fill) := .check (.readAll fun _ _ _ h1 => .write h1)

theorem bcastWork_keeps : c.Keeps (bcastWork f c fill) := .check (.readElems (.refl c) fun _ _ _ h1 => .write h1)

theorem packWork_keeps : c.Keeps (packWork f c fill) :=
  .check (.readElems (.refl c) fun _ _ _ h1 => .readElems h1 fun _ _ _ h2 => .writeFlags h2)

theorem unpkWork_keeps : c.Keeps (unpkWork f c fill) := .check (.readElems (.refl c) fun _ _ _ h1 => .write h1)

theorem vcmpWork_keeps : c.Keeps (vcmpWork f c fill) :=
  .check (.readAll fun _ _ _ h1 => .ok (h1.trans (.vcmpOut f _ _ _ _ _ _ _)))

theorem vsetBody_keeps (v : Bool) (fp : Nat) (o : Operand) : c.Keeps (vsetBody f v c fp o) := by
  induction o with
  | acc => exact .ok ⟨rfl, rfl, fun _ _ h => h, rfl, rfl, rfl, rfl, rfl, rfl, rfl, fun _ => Nat.le_refl _⟩
  | _ => exact .check (.ok ((Core.Computed.spWrite ..).trans (.opIncs ..)))

theorem vsetWork_keeps (v : Bool) : c.Keeps (vsetWork f v c fill) := .check (vsetBody_keeps v _ f.od)

theorem vcntWork_keeps : c.Keeps (vcntWork f c fill) := by
  refine .check (.readLanes fun c1 l h1 => ?_)
  show c.Keeps (do let (e, p) := c1.writeElems (fpOf f.ln) f.od .u32 [⟨(l.filter (·.v)).length, true⟩]; return (e.opIncs _ _, p))
  generalize [El.mk (l.filter (·.v)).length true] = els
  exact .write h1

theorem lgathWork_keeps : c.Keeps (lgathWork f c fill) :=
  .check (.ite (.error _) (.check (.readElems (.refl c) fun _ _ _ h1 => .check (.check (.write (h1.trans (.wakeGath ..)))))))

theorem lscatWork_keeps : c.Keeps (lscatWork f c fill) := by
  refine .ite (.error _) (.check (.readElems (.refl c) fun _ _ _ h1 => .readElems h1 fun _ _ _ h2 => .check
    (.ok ((h2.trans (.foldl (fun c x => ?_) _ _)).trans (.opIncs ..)))))
  split
  · exact .spWrite ..
  · exact .refl c

theorem fsumWork_keeps : c.Keeps (fsumWork f c fill) :=
  .check (.readElems (.refl c) fun _ _ _ h1 => .ok ((h1.trans (.randoms ..)).trans (.finishFold ..)))

theorem fdotWork_keeps : c.Keeps (fdotWork f c fill) :=
  .check (.readAll fun _ _ _ h1 => .ok ((h1.trans (.randoms ..)).trans (.finishFold ..)))

theorem fcvtWork_keeps : c.Keeps (fcvtWork f c fill) := by
  rw [fcvtWork_eq]
  refine .check (.cvtRead fun _ _ _ h1 => .ite (.ok ?_) (.ok ((h1.trans (.randoms ..)).trans (.finishWith ..))))
  exact (((h1.trans (.randoms ..)).trans (.writeLanes ..)).trans (.opIncs ..)).trans (.orFlags ..)

theorem lanewiseFlags_keeps (quiet : Bool) (srcs : List Operand) (rounds : Bool) (op : Ty → ElemOp) :
    c.Keeps (lanewiseFlags quiet f srcs rounds op c fill) :=
  .check (.readAll fun _ _ _ h1 => .ok ((h1.trans (.randoms ..)).trans (.finishWith ..)))

end

/-! ### What the step leaves of the module -/

/-- A core with other queues. -/
noncomputable def Core.withQ (c : Core) (q : Vector (List QEntry) 8) : Core := { c with q := q }

/-- `u` is `s` after work on its core in hand that keeps what `Core.Kept` says, and perhaps an entry for a queue, of that core or
of a neighbour. -/
structure State.Wrote (p : Prop) (s u : State) : Prop where
  sorted : KV.sorted u.cores = true
  memory : u.mem = s.mem ∧ u.hostMem = s.hostMem
  own : (s.core s.self).Kept p (u.core s.self)
  far : ∀ k, k ≠ s.self → s.neighbour s.self true ≠ some k → s.neighbour s.self false ≠ some k → u.core k = s.core k
  near : ∀ k, k ≠ s.self → (u.core k).withQ (s.core k).q = s.core k

section
variable {p : Prop} {s v u : State} {n : BitVec 3} {e : QEntry}

/-- A push puts its entry behind a queue of the core or of a neighbour, or nowhere where the neighbour's part has ended. -/
theorem State.pushQ_some {g : Nat} (h : v.pushQ g n e = .ok u) : u = v ∨ ∃ k, (k = g ∨ ∃ b, v.neighbour g b = some k) ∧
    u = v.modCore k fun c => c.setQ n (c.queue n ++ [e]) := by
  unfold State.pushQ at h
  dsimp only at h
  by_cases hown : (n = 1 || !v.runsGang g) = true
  · rw [if_pos hown] at h
    exact .inr ⟨g, .inl rfl, (Except.ok.inj (ite_error_of_ok h).2).symm⟩
  · rw [if_neg hown] at h
    rcases hn : v.neighbour g (n == 2) with _ | k
    · rw [hn] at h
      exact .inr ⟨g, .inl rfl, (Except.ok.inj (ite_error_of_ok h).2).symm⟩
    · rw [hn] at h
      dsimp only at h
      by_cases hr : (!v.runsGang k) = true
      · rw [if_pos hr] at h
        exact .inl (Except.ok.inj h).symm
      · rw [if_neg hr] at h
        exact .inr ⟨k, .inr ⟨_, hn⟩, (Except.ok.inj (ite_error_of_ok h).2).symm⟩

theorem State.Wrote.refl (hs : KV.sorted s.cores = true) : State.Wrote p s s :=
  ⟨hs, ⟨rfl, rfl⟩, (Core.Computed.refl _).kept p, fun _ _ _ _ => rfl, fun _ _ => rfl⟩

theorem State.Wrote.setCore (hs : KV.sorted s.cores = true) {d : Core} (hd : (s.core s.self).Kept p d) :
    State.Wrote p s (s.setCore s.self d) := by
  refine ⟨State.sorted_setCore hs _ _, ⟨rfl, rfl⟩, ?_, fun k hk _ _ => State.core_setCore_ne hk d, fun k hk => ?_⟩
  · rw [State.core_setCore_self hs]
    exact hd
  · rw [State.core_setCore_ne hk]
    rfl

theorem State.Wrote.push (h : State.Wrote p s v) (hself : v.self = s.self) (hpush : v.pushQ s.self n e = .ok u) : State.Wrote p s u := by
  rcases State.pushQ_some hpush with rfl | ⟨k, hk, rfl⟩
  · exact h
  have hgang : v.gangCores s.self = s.gangCores s.self := State.gangCores_congr h.own.gmask
  have hnear (b : Bool) : v.neighbour s.self b = s.neighbour s.self b := by rw [State.neighbour, hgang]; rfl
  refine ⟨State.sorted_setCore h.sorted _ _, h.memory, ?_, fun j hj ht hf => ?_, fun j hj => ?_⟩
  · by_cases hkg : s.self = k
    · rw [← hkg, State.core_modCore_self h.sorted]
      exact h.own.trans ⟨fun _ => rfl, rfl, fun _ _ h => h, rfl, rfl, rfl, rfl⟩
    · rw [State.core_modCore_ne hkg]
      exact h.own
  · have hjk : j ≠ k := by
      rintro rfl
      rcases hk with rfl | ⟨b, hb⟩
      · exact hj rfl
      · rw [hnear] at hb
        induction b
        · exact hf hb
        · exact ht hb
    rw [State.core_modCore_ne hjk]
    exact h.far j hj ht hf
  · by_cases hjk : j = k
    · rw [hjk, State.core_modCore_self h.sorted]
      exact hjk ▸ h.near j hj
    · rw [State.core_modCore_ne hjk]
      exact h.near j hj

/-- Work that keeps its core leaves the module with its core, and perhaps a queue entry, written. -/
theorem onOwnCore_wrote {w : Work} (hs : KV.sorted s.cores = true)
    (hw : ∀ r, w (s.core s.self) (s.canFill s.self) = .ok r → (s.core s.self).Kept p r.1) :
    ∀ r, onOwnCore w s = .ok r → ∃ u, r = .done u ∧ State.Wrote p s u := by
  intro r hr
  unfold onOwnCore at hr
  rcases hx : w (s.core s.self) (s.canFill s.self) with _ | ⟨d, _ | ⟨n, e⟩⟩
  · rw [hx] at hr; exact nomatch hr
  · rw [hx] at hr
    exact ⟨_, (Except.ok.inj hr).symm, .setCore hs (hw _ hx)⟩
  · rw [hx] at hr
    dsimp only at hr
    rcases hp : (s.setCore s.self d).pushQ s.self n e with _ | u
    · rw [hp] at hr; exact nomatch hr
    · rw [hp] at hr
      exact ⟨u, (Except.ok.inj hr).symm, (State.Wrote.setCore hs (hw _ hx)).push rfl hp⟩

/-- An instruction that retires leaves what its work left, retired. -/
theorem wrote_of_retires {i : Instr} {h : Core → Shape} {body : State → Except Exn Res} {t : State} (hs : KV.sorted s.cores = true)
    (hb : ∀ r, body s = .ok r → ∃ u, r = .done u ∧ State.Wrote p s u) (hx : coreRow i h body s = .next t) (hr : retires s t) :
    State.Wrote p s t := by
  have hout : (.next (issue i h body s) : Out) = .next t := by
    unfold coreRow onCore at hx
    by_cases hwf : wfCore s.self = true
    · rwa [if_pos hwf] at hx
    · rw [if_neg hwf] at hx; exact nomatch hx
  obtain rfl := Host.Outcome.next.inj hout
  rcases issue_issued (i := i) (h := h) hs fun r h => (hb r h).imp fun _ h => h.1 with hun | ⟨u, uses, live, hbody, ht⟩
  · exact absurd hr hun.not_retires
  obtain ⟨_, hu, hwrote⟩ := hb _ hbody
  obtain rfl := Res.done.inj hu
  have hsort : KV.sorted (u.chargeFor s.self i).cores = true := by rw [State.chargeFor_cores]; exact hwrote.sorted
  have hcore (k : Nat) : (u.chargeFor s.self i).core k = u.core k := by rw [State.core, State.chargeFor_cores]; rfl
  have hmem := retired_memory u s i false uses
  rw [ht]
  refine ⟨State.sorted_setCore hsort _ _, ⟨hmem.1.trans hwrote.memory.1, hmem.2.trans hwrote.memory.2⟩, ?_, fun k hk h1 h2 => ?_, fun k hk => ?_⟩
  · rw [State.core_modCore_self hsort, hcore]
    exact hwrote.own.trans (Core.retire_kept ..)
  · rw [State.core_modCore_ne hk, hcore]
    exact hwrote.far k hk h1 h2
  · rw [State.core_modCore_ne hk, hcore]
    exact hwrote.near k hk

end

end Sys2Proof.Machine

namespace Sys2Proof.Spec
open Machine Machine.Num
set_option Elab.async false

theorem paddOut_keeps (c : Core) (f : M3) (x : Option W64) : c.Keeps (paddOut c f x) := by
  induction x with
  | none => exact .ok (.refl c)
  | some x => exact .ok (.setP c _ _)

/-- FMTX writes PX and the bit PP (R120). -/
noncomputable def fmtxCore (f : M3) (c : Core) : Core :=
  { c with px := (0#20 ++ f.fn.extractLsb' 0 4 ++ 0#3 ++ f.fn.extractLsb' 4 1 ++ f.ty.code : W32) }.setPp true

theorem fmtx_kept (f : M3) (c : Core) : Core.Kept (∀ g, Instr.fmtx f ≠ .fmtx g) c (fmtxCore f c) :=
  have h := Core.setPp_kept False _ true
  ⟨fun hp => absurd rfl (hp f), h.rest, h.added, rfl, rfl, rfl, rfl⟩

/-- What an instruction keeps each time it retires, FMTX but for PX. -/
def Keeping (i : Instr) : Prop := ∀ s t, KV.sorted s.cores = true → exec i s = .next t → retires s t → State.Wrote (∀ f, i ≠ .fmtx f) s t

theorem keeping_of_work {i : Instr} {h : Core → Shape} {w : Work} (he : ∀ s, exec i s = coreRow i h (onOwnCore w) s)
    (hw : ∀ (c : Core) fill, c.Keeps (w c fill)) : Keeping i := fun s _ hs hx hr =>
  wrote_of_retires hs (onOwnCore_wrote hs fun r h => (hw _ _ r h).kept _) ((he s).symm.trans hx) hr

theorem nop_keeping : Keeping .nop := fun s _ hs hx hr =>
  wrote_of_retires hs (fun _ h => ⟨s, (Except.ok.inj h).symm, .refl hs⟩) hx hr

theorem fmtx_keeping (f : M3) : Keeping (.fmtx f) := fun _ _ hs hx hr =>
  wrote_of_retires hs (onOwnCore_wrote hs fun _ h => .of_ok h (fmtx_kept f _)) hx hr

/-- An instruction that computes keeps the rest. -/
def ComputesKeeping (i : Instr) : Prop := computes i = true → Keeping i

theorem ComputesKeeping.of_not {i : Instr} (h : computes i = false) : ComputesKeeping i := fun hi => nomatch h.symm.trans hi

theorem ComputesKeeping.of_work {i : Instr} {h : Core → Shape} {w : Work} (he : ∀ s, exec i s = coreRow i h (onOwnCore w) s)
    (hw : ∀ (c : Core) fill, c.Keeps (w c fill)) : ComputesKeeping i := fun _ => keeping_of_work he hw

theorem ComputesKeeping.of_row {i : Instr} (h : (laneRow i).isSome = true) : ComputesKeeping i := by
  obtain ⟨L, hL⟩ := Option.isSome_iff_exists.1 h
  exact .of_work (exec_laneRow hL) fun _ _ => lanewiseFlags_keeps L.quiet L.srcs L.rounds L.op

theorem computesKeeping (i : Instr) : ComputesKeeping i := by
  induction i with
  | nop => exact fun _ => nop_keeping
  | pset | psetHi | paddImm | pmod => exact .of_work (fun _ => rfl) fun c _ => .ok (.setP c _ _)
  | padd f => exact .of_work (fun _ => rfl) fun c _ => paddOut_keeps c f _
  | fmtx f => exact fun _ => fmtx_keeping f
  | dot4 => exact .of_work (fun _ => rfl) fun _ _ => dot4Work_keeps
  | tags => exact .of_work (fun _ => rfl) fun _ _ => tagsWork_keeps
  | vcmp => exact .of_work (fun _ => rfl) fun _ _ => vcmpWork_keeps
  | vset => exact .of_work (fun _ => rfl) fun _ _ => vsetWork_keeps true
  | vclr => exact .of_work (fun _ => rfl) fun _ _ => vsetWork_keeps false
  | vcnt => exact .of_work (fun _ => rfl) fun _ _ => vcntWork_keeps
  | shuf => exact .of_work (fun _ => rfl) fun _ _ => shufWork_keeps
  | bcast => exact .of_work (fun _ => rfl) fun _ _ => bcastWork_keeps
  | pack => exact .of_work (fun _ => rfl) fun _ _ => packWork_keeps
  | unpk => exact .of_work (fun _ => rfl) fun _ _ => unpkWork_keeps
  | lgath => exact .of_work (fun _ => rfl) fun _ _ => lgathWork_keeps
  | lscat => exact .of_work (fun _ => rfl) fun _ _ => lscatWork_keeps
  | fsum => exact .of_work (fun _ => rfl) fun _ _ => fsumWork_keeps
  | fdot => exact .of_work (fun _ => rfl) fun _ _ => fdotWork_keeps
  | fcvt => exact .of_work (fun _ => rfl) fun _ _ => fcvtWork_keeps
  | add | sub | mul | mulh | div | rem | mac | adds | subs | neg | absI | minI | maxI | andI | orI | xorI | notI | shl
  | shr | sra | rot | clz | popc | mov | cmpeq | cmpne | cmplt | cmple | sel | fadd | fsub | fmul | fma | fnma | fdiv
  | fsqrt | frcp | frsq | fmin | fmax | fabs | fneg | fcmp | fclass | frndi | fexp2f | flog2f | fscale | fgetexp
  | addImm | subImm | mulImm | andImm | orImm | xorImm | minImm | maxImm | cmpeqImm | cmpneImm | cmpltImm | cmpleImm
  | faddImm | fmulImm | fsubImm | ldi => exact .of_row rfl
  | _ => exact .of_not rfl

/-- Settles O9: what every compute instruction's work leaves of its core, through its queue entry and its retirement. -/
theorem computeFrame : Obligations.ComputeFrame := by
  intro i s t hi hs hx hr g
  have h := computesKeeping i hi s t hs hx hr
  exact ⟨⟨fun a => congrArg (Memory.get · a) h.memory.1, fun k => congrArg (KV.get 0 · k) h.memory.2⟩, h.far, h.near, h.own.specials, h.own.rest,
    h.own.flags, h.own.log, h.own.msgs, h.own.pend⟩

end Sys2Proof.Spec
end

section
/-! PROOFS. AMO and LLOG, and what atomics and merges do at their home (R202, R204, R205, R230, R231). -/

namespace Sys2Proof.Machine
open Sys2Proof.Machine.Num Sys2Proof.Spec
set_option Elab.async false

/-! ### At the home -/

/-- A number stored byte by byte from an address: its bytes are there, no other byte changes. -/
theorem Memory.get_putBytes (n : Nat) {m : Memory} (h : Memory.wf m = true) (a v k : Nat) :
    let t := ((leBytes n v).zipIdx k).foldl (fun m x => Memory.put m (a + x.2) x.1) m
    (∀ j, j < n → Memory.get t (a + k + j) = BitVec.ofNat 8 (v / 256 ^ j)) ∧
      ∀ b, b < a + k ∨ a + k + n ≤ b → Memory.get t b = Memory.get m b := by
  induction n generalizing m v k with
  | zero => exact ⟨nofun, fun _ _ => rfl⟩
  | succ n ih =>
    obtain ⟨hin, hout⟩ := ih (Memory.wf_put h (a + k) (BitVec.ofNat 8 v)) (v / 256) (k + 1)
    refine ⟨fun j hj => ?_, fun b hb => ?_⟩
    · induction j with
      | zero =>
        rw [Nat.pow_zero, Nat.div_one]
        exact (hout _ (.inl (Nat.lt_succ_self _))).trans (Memory.get_put_self h _ _)
      | succ j _ =>
        have hj' := hin j (Nat.lt_of_succ_lt_succ hj)
        rwa [Nat.div_div_eq_div_mul, ← Nat.pow_succ', show a + (k + 1) + j = a + k + (j + 1) from Nat.succ_add_eq_add_succ (a + k) j] at hj'
    · have hne : b ≠ a + k :=
        hb.elim Nat.ne_of_lt fun h => Nat.ne_of_gt (Nat.lt_of_lt_of_le (Nat.lt_add_of_pos_right n.succ_pos) h)
      have hb' := hb.imp Nat.lt_succ_of_lt (Nat.le_trans (Nat.le_of_eq (Nat.succ_add_eq_add_succ (a + k) n)))
      exact (hout b hb').trans (Memory.get_put_ne hne m _)

/-- A byte stored where a condition holds. -/
noncomputable def Memory.putIf (m : Memory) (p : Bool) (a : Nat) (b : Byte) : Memory := if p then m.put a b else m

theorem Memory.putIf_spec {m : Memory} (h : Memory.wf m = true) (p : Bool) (a : Nat) (b : Byte) :
    Memory.wf (m.putIf p a b) = true ∧ (p = true → Memory.get (m.putIf p a b) a = b) ∧
      ∀ c, (p = true → c ≠ a) → Memory.get (m.putIf p a b) c = Memory.get m c := by
  rcases p with _ | _
  · exact ⟨h, nofun, fun _ _ => rfl⟩
  · exact ⟨Memory.wf_put h a b, fun _ => Memory.get_put_self h a b, fun c hc => Memory.get_put_ne (hc rfl) m b⟩

/-- Bytes stored where a mask lets them: those change, no others do. -/
theorem Memory.get_putMask {m : Memory} (h : Memory.wf m = true) (a : Nat) (p : Nat → Bool) (b : Nat → Byte) {l : List Nat} (hn : l.Nodup) :
    let t := l.foldl (fun m j => m.putIf (p j) (a + j) (b j)) m
    (∀ j ∈ l, p j = true → Memory.get t (a + j) = b j) ∧
      ∀ c, (∀ j ∈ l, p j = true → c ≠ a + j) → Memory.get t c = Memory.get m c := by
  induction l generalizing m with
  | nil => exact ⟨nofun, fun _ _ => rfl⟩
  | cons i l ih =>
    obtain ⟨hi, hn'⟩ := List.nodup_cons.1 hn
    obtain ⟨hwf, hself, hother⟩ := Memory.putIf_spec h (p i) (a + i) (b i)
    obtain ⟨hin, hout⟩ := ih hwf hn'
    refine ⟨fun j hj hpj => ?_, fun c hc => (hout c fun j hj => hc j (.tail i hj)).trans (hother c (hc i (.head l)))⟩
    rcases List.mem_cons.1 hj with rfl | hj
    · exact (hout _ fun k hk _ e => hi ((Nat.add_left_cancel e : j = k) ▸ hk)).trans (hself hpj)
    · exact hin j hj hpj

/-- The order of a type's patterns is that of two's complement, or of unsigned numbers. -/
theorem lt_pattern {t : Ty} {a b : Nat} (ha : a < 2 ^ width t) (hb : b < 2 ^ width t) :
    (if isSigned t then decide (toInt true (width t) a < toInt true (width t) b) else decide (a < b)) =
      if isSigned t then (BitVec.ofNat (width t) a).slt (BitVec.ofNat (width t) b) else (BitVec.ofNat (width t) a).ult (BitVec.ofNat (width t) b) := by
  rw [toInt_true_eq_toInt_ofNat (width_pos t) ha, toInt_true_eq_toInt_ofNat (width_pos t) hb, BitVec.ult, BitVec.toNat_ofNat,
    BitVec.toNat_ofNat, Nat.mod_eq_of_lt ha, Nat.mod_eq_of_lt hb]
  rfl

/-! ### AMO -/

section
variable {f : M3} {s : State} {ps : List Piece} {sg : List Seg} {c1 : Core} {xs : List (List El)} {fl : Flags}

/-- Where the old value of an atomic goes. -/
noncomputable def amoDest (f : M3) (c : Core) : Dest := if f.od != .zero then c.destOf (fpOf f.ln) f.od else .none

/-- The room that a queue destination must have, then the rest. -/
noncomputable def roomThen (s : State) (d : Dest) (r : Except Exn Res) : Except Exn Res :=
  match d with
  | .queue n => do
    discard (s.pushQ s.self n emptyEntry)
    r
  | _ => r

theorem roomThen_ok {s : State} {d : Dest} (r : Except Exn Res) (h : loadRoom s d = .ok ()) : roomThen s d r = r := by
  induction d with
  | queue n => exact bind_of_ok h rfl
  | _ => rfl

/-- The value operands of an atomic. -/
noncomputable def amoSrcs (f : M3) : List Operand := if f.fn = 7 then [f.ob, f.oc] else [f.ob]

/-- An atomic after its reads: its destination made invalid, or the access on its way. -/
noncomputable def amoEnd (f : M3) (sg : List Seg) (c1 : Core) (b m : El) (dest : Dest) (s : State) : Except Exn Res :=
  let c := s.core s.self
  let incs := fun c : Core => c.opIncs (fpOf f.ln) [f.od, f.oa, f.ob, f.oc]
  if !b.v || !m.v then do
    return .done ((← (s.setCore s.self c1).invalidate s.self dest (lanesFor (c.ty f.ty) 1)).modCore s.self incs)
  else if 16 ≤ c.othersOut then throw .stall
  else
    return .done ((((s.setCore s.self c1).fillAll (.core s.self) (s.self / 64) sg).l2Segs (s.self / 64) c.asid sg false).modCore
      s.self fun d => { (incs d).makeIrrev with pend := d.pend ++ [⟨.amo f.fn (c.ty f.ty) (sg.flatMap Seg.places) (BitVec.ofNat 64 b.b)
        (BitVec.ofNat 64 m.b) dest, sg.map (·.home), c.pc, c.opAddr (fpOf f.ln) f.oa, c.asid⟩] })

/-- The checks of an atomic in their order, then the rest of it. -/
theorem amoBody_eq (f : M3) (s : State) : amoBody f s =
    checkedIf (f.od != .zero) ((s.core s.self).checkLocals (fpOf f.ln) [(f.od, fpOf f.ln, 4)]) (do
      let ps ← s.globalAccess s.self ((s.core s.self).opAddr (fpOf f.ln) f.oa) (fpOf f.ln) (fpOf f.ln) .rw
      let sg ← immediateObject ps ((s.core s.self).opAddr (fpOf f.ln) f.oa)
      (s.core s.self).checkLocals (fpOf f.ln) ((amoSrcs f).map fun o => (o, fpOf f.ln, 4))
      let x ← (s.core s.self).readAll (s.canFill s.self) (fpOf f.ln) ((s.core s.self).ty f.ty) 1 (amoSrcs f)
      roomThen s (amoDest f (s.core s.self))
        (amoEnd f sg x.1 ((x.2.1.getD 0 []).getD 0 ⟨0, false⟩) ((x.2.1.getD 1 []).getD 0 ⟨0, true⟩)
          (amoDest f (s.core s.self)) s)) := rfl

theorem amoDest_eq (f : M3) (c : Core) : amoDest f c = if f.od = .zero then Dest.none else c.destOf (fpOf f.ln) f.od := by
  unfold amoDest
  by_cases hz : f.od = .zero
  · rw [hz]; rfl
  · rw [if_pos (bne_iff_ne.2 hz), if_neg hz]

theorem amoRoom_ok (h : s.hasRoom s.self f.od = true) : loadRoom s (amoDest f (s.core s.self)) = .ok () := by
  unfold amoDest
  rcases f.od != .zero with _ | _
  · rfl
  · exact loadRoom_ok h

/-- The destination's queue takes the entry that says it is invalid, after the reads as before. -/
theorem amoInvalidate_ok (hc : (s.core s.self).Computed c1) (ha : (s.core s.self).act ≠ none) (h : s.hasRoom s.self f.od = true) (n : Nat) :
    ∃ u, (s.setCore s.self c1).invalidate s.self (amoDest f (s.core s.self)) n = .ok u := by
  unfold amoDest
  rcases f.od != .zero with _ | _
  · exact ⟨_, rfl⟩
  · induction hd : f.od with
    | queue q =>
      rw [hd] at h
      exact exists_of_isOk (State.pushQ_computed hc ha h)
    | _ => exact ⟨_, rfl⟩

theorem amoBody_ok {d : Dest} {r : Except Exn Res}
    (hck : f.od = .zero ∨ (s.core s.self).checkLocals (fpOf f.ln) [(f.od, fpOf f.ln, 4)] = .ok ())
    (hga : s.globalAccess s.self ((s.core s.self).opAddr (fpOf f.ln) f.oa) (fpOf f.ln) (fpOf f.ln) .rw = .ok ps)
    (him : immediateObject ps ((s.core s.self).opAddr (fpOf f.ln) f.oa) = .ok sg)
    (hcl : (s.core s.self).checkLocals (fpOf f.ln) ((amoSrcs f).map fun o => (o, fpOf f.ln, 4)) = .ok ())
    (hrd : (s.core s.self).readAll (s.canFill s.self) (fpOf f.ln) ((s.core s.self).ty f.ty) 1 (amoSrcs f) = .ok (c1, xs, fl))
    (hroom : s.hasRoom s.self f.od = true) (hd : amoDest f (s.core s.self) = d)
    (hr : amoEnd f sg c1 ((xs.getD 0 []).getD 0 ⟨0, false⟩) ((xs.getD 1 []).getD 0 ⟨0, true⟩) d s = r) : amoBody f s = r :=
  (amoBody_eq f s).trans ((checkedIf_ok _ fun hp => hck.resolve_left (bne_iff_ne.1 hp)).trans (bind_of_ok hga (bind_of_ok him
    (bind_of_ok hcl (bind_of_ok hrd ((roomThen_ok _ (amoRoom_ok hroom)).trans (hd ▸ hr)))))))

theorem amoEnd_out {b m : El} {d : Dest} (hv : (b.v && m.v) = true) (hfree : (s.core s.self).othersOut < 16) :
    amoEnd f sg c1 b m d s =
    .ok (.done ((((s.setCore s.self c1).fillAll (.core s.self) (s.self / 64) sg).l2Segs (s.self / 64) (s.core s.self).asid sg false).modCore
      s.self fun x => { (x.opIncs (fpOf f.ln) [f.od, f.oa, f.ob, f.oc]).makeIrrev with pend := x.pend ++ [⟨.amo f.fn ((s.core s.self).ty f.ty)
        (sg.flatMap Seg.places) (BitVec.ofNat 64 b.b) (BitVec.ofNat 64 m.b) d, sg.map (·.home), (s.core s.self).pc,
        (s.core s.self).opAddr (fpOf f.ln) f.oa, (s.core s.self).asid⟩] })) := by
  have hn : ¬ (!b.v || !m.v) = true := by rw [← Bool.not_and, hv]; decide
  exact (if_neg hn).trans (if_neg (Nat.not_le.2 hfree))

theorem amoEnd_invalid {b m : El} {d : Dest} {u : State} (hv : (b.v && m.v) = false)
    (hu : (s.setCore s.self c1).invalidate s.self d (lanesFor ((s.core s.self).ty f.ty) 1) = .ok u) :
    amoEnd f sg c1 b m d s = .ok (.done (u.modCore s.self fun c => c.opIncs (fpOf f.ln) [f.od, f.oa, f.ob, f.oc])) := by
  have hn : (!b.v || !m.v) = true := by rw [← Bool.not_and, hv]; rfl
  exact (if_pos hn).trans (bind_of_ok hu rfl)

/-! ### LLOG -/

/-- A merge after its reads: LOGFULL with no effect, or its entries in the log. -/
noncomputable def llogEnd (f : M3) (ps : List Piece) (c1 : Core) (els : List El) (s : State) : Except Exn Res :=
  let t := (s.core s.self).ty f.ty
  let va := (s.core s.self).opAddr (fpOf f.ln) f.od
  match c1.addEntries (c1.mergeEntries f.fn.toNat t ps va els) with
  | none => throw (.flt .logfull va)
  | some c2 => return .done ((s.setCore s.self ((c2.opIncs (fpOf f.ln) [f.od, f.oa]).orFlags
      (if f.fn == 1 && els.any fun e => e.v && isSnan t e.b then fNV else fNone))).fillAll (.core s.self) (s.self / 64) (segsOf ps))

theorem llogEnd_some {c2 : Core} {els : List El}
    (h2 : c1.addEntries (c1.mergeEntries f.fn.toNat ((s.core s.self).ty f.ty) ps ((s.core s.self).opAddr (fpOf f.ln) f.od) els) = some c2) :
    llogEnd f ps c1 els s = .ok (.done ((s.setCore s.self ((c2.opIncs (fpOf f.ln) [f.od, f.oa]).orFlags
      (if f.fn == 1 && els.any fun e => e.v && isSnan ((s.core s.self).ty f.ty) e.b then fNV else fNone))).fillAll (.core s.self)
        (s.self / 64) (segsOf ps))) := by
  rw [llogEnd, h2]
  rfl

/-- A piece that no merge may go to: a window's, or an IMMEDIATE page's. -/
noncomputable def noMerge : Piece → Bool
  | .glob x => x.imm
  | .win _ _ => true

/-- The checks of a merge in their order, then the rest of it. -/
theorem llogBody_eq : llogBody f s = (do
    let ps ← s.globalAccess s.self ((s.core s.self).opAddr (fpOf f.ln) f.od) (fpOf f.ln) (globalAlign ((s.core s.self).ty f.ty)) .w
    if ps.any noMerge then throw (.flt .txperm ((s.core s.self).opAddr (fpOf f.ln) f.od))
    (s.core s.self).checkLocals (fpOf f.ln) [(f.oa, fpOf f.ln, 4)]
    let x ← (s.core s.self).readElems (s.canFill s.self) (fpOf f.ln) f.oa ((s.core s.self).ty f.ty) (elemCount ((s.core s.self).ty f.ty) f.ln)
    llogEnd f ps x.1 x.2.1 s) := rfl

theorem llogBody_ok {c2 : Core} {els : List El} (hps : ∀ p ∈ ps, ∃ x, p = .glob x ∧ x.imm = false)
    (hga : s.globalAccess s.self ((s.core s.self).opAddr (fpOf f.ln) f.od) (fpOf f.ln) (globalAlign ((s.core s.self).ty f.ty)) .w = .ok ps)
    (hcl : (s.core s.self).checkLocals (fpOf f.ln) [(f.oa, fpOf f.ln, 4)] = .ok ())
    (hrd : (s.core s.self).readElems (s.canFill s.self) (fpOf f.ln) f.oa ((s.core s.self).ty f.ty)
      (elemCount ((s.core s.self).ty f.ty) f.ln) = .ok (c1, els, fl))
    (h2 : c1.addEntries (c1.mergeEntries f.fn.toNat ((s.core s.self).ty f.ty) ps ((s.core s.self).opAddr (fpOf f.ln) f.od) els) = some c2) :
    llogBody f s = .ok (.done ((s.setCore s.self ((c2.opIncs (fpOf f.ln) [f.od, f.oa]).orFlags
      (if f.fn == 1 && els.any fun e => e.v && isSnan ((s.core s.self).ty f.ty) e.b then fNV else fNone))).fillAll (.core s.self)
        (s.self / 64) (segsOf ps))) := by
  have hany : ¬ ps.any noMerge = true := fun h => by
    obtain ⟨p, hp, hm⟩ := List.any_eq_true.1 h
    obtain ⟨x, rfl, hx⟩ := hps p hp
    exact nomatch hm.symm.trans hx
  exact llogBody_eq.trans (bind_of_ok hga ((if_neg hany).trans (bind_of_ok hcl (bind_of_ok hrd (llogEnd_some h2)))))

end

end Sys2Proof.Machine

namespace Sys2Proof.Spec
open Machine Machine.Num
set_option Elab.async false

/-- Settles O27: an atomic's reads leave the room that its queue destination had; what atomics and merges do at home is byte
arithmetic. -/
theorem atomicsAndMergesComplete : Obligations.AtomicsAndMergesComplete := by
  refine ⟨?_, ?_, ?_, ?_, ?_⟩
  · intro f s ps sg c1 xs fl hr g c t fp va srcs hck hga him hcl hrd hroom b m dest
    have hact : (s.core s.self).act ≠ none := State.issues_act (canIssue_iff.1 hr.1).2.1
    have hdest : amoDest f c = dest := amoDest_eq f c
    refine ⟨fun hv hfree => ?_, fun hv => ?_⟩
    · exact exec_m3_done rfl hr.1 hr.2 (amoBody_ok hck hga him hcl hrd hroom hdest (amoEnd_out hv hfree))
    · obtain ⟨u, hu⟩ := amoInvalidate_ok (f := f) (Core.Computed.readAll hrd) hact hroom (lanesFor t 1)
      rw [hdest] at hu
      exact ⟨u, hu, exec_m3_done rfl hr.1 hr.2 (amoBody_ok hck hga him hcl hrd hroom hdest (amoEnd_invalid hv hu))⟩
  · intro f s ps c1 c2 els fl hr g c t fp va hga hps hcl hrd h2
    exact exec_m3_done rfl hr.1 hr.2 (llogBody_ok hps hga hcl hrd h2)
  · intro t m b c _ hm hb _ w x y lt
    have hx : x.toNat = m := ofNat_toNat hm
    have hy : y.toNat = b := ofNat_toNat hb
    refine ⟨?_, ?_, ?_, ?_, ?_, ?_, rfl, rfl⟩
    · rw [BitVec.toNat_add, hx, hy]; rfl
    · rw [BitVec.toNat_and, hx, hy]; rfl
    · rw [BitVec.toNat_or, hx, hy]; rfl
    · rw [BitVec.toNat_xor, hx, hy]; rfl
    · rw [apply_ite BitVec.toNat, hx, hy]
      exact congrArg (fun z : Bool => some (if z then b else m)) (lt_pattern hb hm)
    · rw [apply_ite BitVec.toNat, hx, hy]
      exact congrArg (fun z : Bool => some (if z then b else m)) (lt_pattern hm hb)
  · intro mem e fn t k x xs hwf hbody n at0 v
    have hv : v = comb fn t (leNat ((List.range n).map fun j => Memory.get mem (at0 + j)))
        ((xs.map BitVec.toNat ++ []).foldl (comb fn t) x.toNat) := by
      rw [List.append_nil]
    have hrun : applyRun mem [e] = (leBytes n v).zipIdx.foldl (fun m x => Memory.put m (at0 + x.2) x.1) mem := by
      rw [hv]
      obtain ⟨_, body⟩ := e
      obtain rfl : body = _ := hbody
      rfl
    rw [hrun]
    exact Memory.get_putBytes n hwf at0 v 0
  · intro mem e k v hwf hbody
    have hrun : applyRun mem [e] = (List.range 8).foldl (fun m j =>
        if k.getLsbD j then Memory.put m (e.addr + j) (v.extractLsb' (8 * j) 8) else m) mem := by
      obtain ⟨_, body⟩ := e
      obtain rfl : body = _ := hbody
      rfl
    rw [hrun]
    obtain ⟨hin, hout⟩ := Memory.get_putMask hwf e.addr k.getLsbD (fun j => v.extractLsb' (8 * j) 8) (List.nodup_range (n := 8))
    exact ⟨fun j hj => hin j (List.mem_range.2 hj), fun a ha => hout a fun j hj => ha j (List.mem_range.1 hj)⟩

end Sys2Proof.Spec
end

section
/-! PROOFS. The steps of a core's fetch unit (R34, R427): what the statement says of a line that fails its parity twice. -/

namespace Sys2Proof.Machine
set_option Elab.async false

/-- A core that fetches the line at 2 MiB once more; its page is IMMEDIATE and executable. -/
def Core.refetching : Core :=
  { Core.reset with act := some placedAct, tlb := [⟨0, 1, 0x200000, 0x4020022F, false⟩], refetch := some 0x200000 }

/-- One byte of the line is set, which its parity does not say. -/
def State.refetching : State :=
  { State.reset with cores := [(3200, Core.refetching)], mem := [(0x40200000, 1)], chips := [(50, { Chip.reset with peal := 6 })] }

/-- The line where it stands in memory. -/
def Seg.refetched : Seg := ⟨0x200000, 64, 0x4020022F, .pa 0x40200000, 0, ⟨0, 1, 0x200000, 0x4020022F, false⟩⟩

/-- The line that core 3200 still waits for after a step. -/
def refetchAfter : Out → Option W64
  | .next t => (t.core 3200).refetch
  | _ => none

/-- The second fetch rolls the activation back, which drops what the core had fetched or asked for (R427). -/
theorem refetchAfter_lineRefetch : refetchAfter (exec (.lineRefetch 3200) State.refetching) = none := by decide +kernel

end Sys2Proof.Machine

namespace Sys2Proof.Spec
set_option Elab.async false
open Sys2Proof Sys2Proof.Machine

/-- Refutes O34: where the parity of a line fails a second time the statement takes the ECCU as one that was not met in fetch, and
keeps the core's lines and its request; the model, as R427 says, drops both with the rollback. -/
theorem not_coreStepsComplete : ¬ Obligations.CoreStepsComplete := by
  unfold Obligations.CoreStepsComplete
  intro h
  obtain ⟨hline, -⟩ := h.1 3200 State.refetching (by decide)
  have hstep := (hline (.lineRefetch 3200) true 0x200000 [Seg.refetched] (by decide +kernel) (.inr ⟨rfl, rfl, rfl⟩)
    (by decide +kernel) (by decide +kernel)).2 (by decide +kernel)
  exact absurd (refetchAfter_lineRefetch.symm.trans (congrArg refetchAfter hstep)) (by decide +kernel)

end Sys2Proof.Spec
end
